-- ==== Sys2Proof/Word.lean ====
section
/-! DEFINITION. The word types of the device and their plainest arithmetic. -/
namespace Sys2Proof

/-- Every register is 32 bits wide (R54). -/
abbrev Word := BitVec 32

/-- The smallest unit of DDR-5 memory, of the flash and of a record. -/
abbrev Byte := BitVec 8

/-- TS, the 64-bit count of master-clock cycles (mc). -/
abbrev Ts := BitVec 64

/-- A word of value `n` modulo 2^32. -/
def w32 (n : Nat) : Word := BitVec.ofNat 32 n

/-- A TS of value `n` modulo 2^64. -/
def ts64 (n : Nat) : Ts := BitVec.ofNat 64 n

end Sys2Proof
end

