-- ==== Sys2Proof/Syntax.lean ====
section
/-! DEFINITION. The commands of the device: one constructor of `Instr` for each row of the table of
operations and events. Every command carries `dt`, the whole master-clock cycles since the command
before it; the other operands are the row's own: an access path, an address, a value, a unit, or the
external quantity that the event brings (a level, a frame, a measurement). -/
namespace Sys2Proof

/-- The access paths of R56: the host, the four service cores, the SMBus target and Headland remote access. -/
inductive Path where
  | host | svc0 | svc1 | svc2 | svc3 | smbus | headland
  deriving DecidableEq, Repr

/-- A lane bank (R12). -/
abbrev Bank := Fin 8
/-- A physical furrow engine (R12). -/
abbrev Eng := Fin 66
/-- A lane of the device (R12). -/
abbrev LaneId := Fin 512
/-- A register page that Table 02-1 may assign: a page index. -/
abbrev Page := Fin 1024
/-- A BAR0 byte offset. -/
abbrev Off := BitVec 22

/-- What the sense lane reports (R82). -/
inductive SState where
  | l | m | h
  deriving DecidableEq, Repr

/-- The register that a calibration-offset write names (R125). -/
inductive CalReg where
  | dsk (l : LaneId) | rpo (l : LaneId) | plane
  deriving DecidableEq, Repr

/-- The register of a reflex rule that R160 protects. -/
inductive RfxReg where
  | hold | maskLo | maskHi
  deriving DecidableEq, Repr

/-- What a channel's SPD and training show (R514): capacity in GiB, x8 DRAMs, two ranks, the rest of Table 17-1 within
scope, and whether training passes. -/
structure Dimm where
  cap : BitVec 8
  x8 : Bool
  ranks2 : Bool
  scope : Bool
  trained : Bool
  deriving DecidableEq, Repr

/-- What the outside brings to the completion of a boot stage (Table 19-4): the references present at CLOCKS; at IMAGE,
once for each slot that is tried, whether the flash answers SFDP, runs octal, its size as a power of 2, its clock, and
whether the read of the slot returns an error; the DIMMs at MEMORY. -/
inductive BootIn where
  | scan
  | clocks (ext ocxo : Bool)
  | image (sfdp octal : Bool) (size : Fin 29) (mhz : BitVec 8) (err : Bool)
  | memory (dimms : List (Option Dimm))
  | blocks
  deriving DecidableEq, Repr

/-- A command of the device. -/
inductive Instr where
  /-- REGISTER_WRITE (R54): A write to a register that has no row of its own is checked for alignment, domain, lock and reset state, and then applied or refused. -/
  | registerWrite (dt : Nat) (p : Path) (off : Off) (be : BitVec 4) (v : Word)
  /-- MSIX_PENDING_SEND (R533): A pending MSI-X message is sent once its blocking conditions clear. -/
  | msixPendingSend (dt : Nat) (vec : BitVec 11)
  /-- LATCHED_READ (R56): A read of a latched group's LO register loads the path's read latch with the other registers of the group. -/
  | latchedRead (dt : Nat) (p : Path) (off : Off)
  /-- RC_READ (R16): A read of an RC field returns its value and then clears it. -/
  | rcRead (dt : Nat) (p : Path) (off : Off)
  /-- PAIR_LO_WRITE (R57): A write to the LO register of an RW pair is held in the path's write staging register. -/
  | pairLoWrite (dt : Nat) (p : Path) (off : Off) (v : Word)
  /-- PAIR_HI_WRITE (R57): A write to the HI register writes HI, together with LO when a staged LO value exists for the same pair. -/
  | pairHiWrite (dt : Nat) (p : Path) (off : Off) (v : Word)
  /-- BLOCK_ENABLE (R66): A write of BLK_CTL.EN = 1 enables a block, which starts once READY is 1. -/
  | blockEnable (dt : Nat) (p : Path) (pg : Page) (freeze : Bool)
  /-- DRAIN (R67): A write of BLK_CTL.EN from 1 to 0 starts a drain, and the block accepts no new work. -/
  | drain (dt : Nat) (p : Path) (pg : Page) (freeze : Bool)
  /-- DRAIN_DONE (R67): The work in flight is finished: DRAINING and ACTIVE clear and IRQ_STAT.DRAINED sets. -/
  | drainDone (dt : Nat) (pg : Page)
  /-- BLOCK_RESET (R70): A write of SRST starts a block reset, which discards the work in flight as Table 02-13 states. -/
  | blockReset (dt : Nat) (p : Path) (pg : Page)
  /-- BLOCK_RESET_DONE (R70): A block reset completes, within 4,096 mc except on the MEM and PCI pages. -/
  | blockResetDone (dt : Nat) (pg : Page)
  /-- FREEZE (R60): A write that sets FREEZE copies the page's RO and RC fields into a snapshot. -/
  | freeze (dt : Nat) (p : Path) (pg : Page) (en : Bool)
  /-- LOCK_KEY (R63): A write to LOCK clears LOCKED when KEY is 0x5EED and sets it for any other value. -/
  | lockKey (dt : Nat) (p : Path) (pg : Page) (v : Word)
  /-- IRQ_FORCE (R51): A write of 1 to an IRQ_FORCE bit sets the same bit of IRQ_STAT. -/
  | irqForce (dt : Nat) (p : Path) (pg : Page) (v : Word)
  /-- FIELD_CFG_WRITE (R36): A write to CHIP.FIELD_CFG requests a new field period, or sets CFG_ERR when the value is invalid. -/
  | fieldCfgWrite (dt : Nat) (p : Path) (v : Word)
  /-- FIELD_TICK (R35): A field tick falls on a whole multiple of the field period and paces the service layer. -/
  | fieldTick (dt : Nat)
  /-- MAIN_PLL_UNLOCK (R30): The main PLL loses lock, which is a Quench-class fault. -/
  | mainPllUnlock (dt : Nat)
  /-- ROW_ISSUE (R22): A furrow issues a row 22 mc before its start, and the row passes fetch, decode, crossbar, select, format and vernier. -/
  | rowIssue (dt : Nat) (e : Eng)
  /-- ROW_TICK (R117): A row generator raises the row tick in the mc that contains a row's start. -/
  | rowTick (dt : Nat) (e : Eng)
  /-- COMPARE_RESULT (R26): A strobe's compare result becomes available to the furrow and its Gleaner slice at s + 16 mc. -/
  | compareResult (dt : Nat) (e : Eng)
  /-- SENSE_TRANSITION (R83): A sense lane changes state, and the decoder reports it after M qualification. -/
  | senseTransition (dt : Nat) (l : LaneId) (vs : BitVec 10) (st : SState)
  /-- SENSE_OPEN_DETECT (R84): A sense-lane common mode below 0.30 V for 1 µs sets the lane's HEALTH to OPEN. -/
  | senseOpenDetect (dt : Nat) (l : LaneId)
  /-- SENSE_OPEN_RECOVER (R84): A common mode of 0.30 V or above for 1 µs takes the lane out of OPEN. -/
  | senseOpenRecover (dt : Nat) (l : LaneId)
  /-- LANE_CFG_WRITE (R75): A write to BANK.LANE_CFG changes OWNER or MAPOUT, or is refused and recorded in OWN_ERR. -/
  | laneCfgWrite (dt : Nat) (p : Path) (l : LaneId) (v : Word)
  /-- LANE_IO_FAIL (R108): A lane's transmitter or receiver fails, and its HEALTH becomes FAILED_IO at once. -/
  | laneIoFail (dt : Nat) (l : LaneId) (rx : Bool)
  /-- SPARE_MAP (R109): A write of SPARE_CFG.MAP maps a spare slice to a lane, or is refused. -/
  | spareMap (dt : Nat) (p : Path) (b : Bank) (v : Word)
  /-- SPARE_UNMAP (R109): A write of SPARE_CFG.UNMAP returns the lane to its own slice and frees the spare. -/
  | spareUnmap (dt : Nat) (p : Path) (b : Bank) (v : Word)
  /-- WRITE_NOW (R96): An FEC command that writes a front-end register at once. -/
  | writeNow (dt : Nat) (p : Path) (b : Bank) (chip : BitVec 3) (addr : BitVec 10) (data : BitVec 16)
  /-- WRITE_ARMED (R95): An FEC command that adds an armed write to the open group. -/
  | writeArmed (dt : Nat) (p : Path) (b : Bank) (chip : BitVec 3) (addr : BitVec 10) (data : BitVec 16)
  /-- READ (R91): An FEC command that reads a front-end register. -/
  | read (dt : Nat) (p : Path) (b : Bank) (chip : BitVec 3) (addr : BitVec 10)
  /-- POLL (R91): An FEC command sent as an immediate command that returns the chip's FE_ALARM. -/
  | poll (dt : Nat) (p : Path) (b : Bank) (chip : BitVec 3)
  /-- BCAST_NOW (R91): An FEC command that writes a register at once in every chip of the bank. -/
  | bcastNow (dt : Nat) (p : Path) (b : Bank) (addr : BitVec 10) (data : BitVec 16)
  /-- BCAST_ARMED (R95): An FEC command that adds an armed write for every chip of the bank to the open group. -/
  | bcastArmed (dt : Nat) (p : Path) (b : Bank) (addr : BitVec 10) (data : BitVec 16)
  /-- FEC_FRAME_SEND (R97): The bank sends its next command frame on FCMD, in priority order, once a frame slot is free. -/
  | fecFrameSend (dt : Nat) (b : Bank)
  /-- FEC_RESPONSE (R92): A response frame from a front end is received and checked. -/
  | fecResponse (dt : Nat) (b : Bank) (frame : BitVec 39) (edge : BitVec 5)
  /-- FEC_RESPONSE_TIMEOUT (R100): No response starts within the window of R94, which counts as a miss. -/
  | fecResponseTimeout (dt : Nat) (b : Bank)
  /-- APPLY (R98): At a complete group's target, the device issues the APPLY on the chosen FCK edge. -/
  | apply (dt : Nat) (b : Bank)
  /-- CLOSE (R97): FEC.GRP_CTL.CLOSE closes the open group with its target and queues it. -/
  | close (dt : Nat) (p : Path) (b : Bank) (v : Word)
  /-- FLUSH (R105): FEC.GRP_CTL.FLUSH discards every queued group and the open group, and issues a bus reset. -/
  | flush (dt : Nat) (p : Path) (b : Bank) (v : Word)
  /-- STATUS_POLL (R102): The poll interval expires and the device polls each present chip for FE_ALARM. -/
  | statusPoll (dt : Nat) (b : Bank)
  /-- FEC_RSP_READ (R114): A read of FEC.RSP pops the oldest response from the 16-entry FIFO. -/
  | fecRspRead (dt : Nat) (p : Path) (b : Bank)
  /-- PER_N_WRITE (R118): A write to FUR.PER_N commits it, together with a PER_F staged for the same entry, or is refused when it is 0. -/
  | perNWrite (dt : Nat) (p : Path) (e : Eng) (i : Fin 128) (v : Word)
  /-- PER_F_WRITE (R119): A write to FUR.PER_F is held in the path's period staging latch. -/
  | perFWrite (dt : Nat) (p : Path) (e : Eng) (i : Fin 128) (v : Word)
  /-- TS_EDGE_WRITE (R120): A write to BANK.TS_EDGE is staged in the path's staging entry. -/
  | tsEdgeWrite (dt : Nat) (p : Path) (b : Bank) (j : Fin 128) (edge : Fin 6) (v : Word)
  /-- TS_FMT_COMMIT (R122): A write to BANK.TS_FMT checks and commits a timing-set entry, to one lane or to the masked lanes. -/
  | tsFmtCommit (dt : Nat) (p : Path) (b : Bank) (j : Fin 128) (v : Word)
  /-- CAL_OFFSET_WRITE (R125): A write to BANK.DSK, BANK.RPO or TIME.PLANE_DLY is refused when it would put an adjustment out of range. -/
  | calOffsetWrite (dt : Nat) (p : Path) (r : CalReg) (v : Word)
  /-- DESKEW_START (R135): A write of DSK_CTL.START starts the deskew engine on the masked lanes, or is refused. -/
  | deskewStart (dt : Nat) (p : Path) (b : Bank) (v : Word)
  /-- DESKEW_DONE (R133): The deskew engine ends: it writes the DSK values or sets the FAIL bits, clears DSK_BUSY and releases the TIM channel. -/
  | deskewDone (dt : Nat) (b : Bank) (rt : List (Option (BitVec 32)))
  /-- BACKGROUND_RECALIBRATION (R137): Every 64 µs the bank measures its replica slices and computes new coefficients into the idle buffer. -/
  | backgroundRecalibration (dt : Nat) (b : Bank) (temp : BitVec 16) (pend : BitVec 16) (bad : List (Fin 66))
  /-- SWAP (R137): A slice's idle coefficient buffer becomes the active one at the owner's next row boundary. -/
  | swap (dt : Nat) (b : Bank) (slice : Fin 66) (pend : BitVec 16) (drift : BitVec 16)
  /-- REFLEX_DRIVE (R156): At mc m + 14, the fired rule's targets cross into its drive state and the hold begins. -/
  | reflexDrive (dt : Nat) (b : Bank) (r : Fin 16)
  /-- REFLEX_HOLD_END (R157): A rule's hold ends under its mode, and the lanes return to the formatted state. -/
  | reflexHoldEnd (dt : Nat) (b : Bank) (r : Fin 16)
  /-- RFX_CLR (R157): A write of 1 to an RFX_CLR bit ends that rule's hold. -/
  | rfxClr (dt : Nat) (p : Path) (b : Bank) (v : Word)
  /-- RFX_CFG_WRITE (R161): A write to RFX_CFG is taken, or is refused and recorded in RFX_ERR. -/
  | rfxCfgWrite (dt : Nat) (p : Path) (b : Bank) (r : Fin 16) (v : Word)
  /-- RFX_HOLD_WRITE (R160): A write to RFX_HOLD or RFX_MASK is refused while the rule's EN is 1. -/
  | rfxHoldWrite (dt : Nat) (p : Path) (b : Bank) (r : Fin 16) (reg : RfxReg) (v : Word)
  /-- MAP_WRITE (R165): A write to FUR.MAP.LOGICAL moves a logical furrow to this engine, or is refused. -/
  | mapWrite (dt : Nat) (p : Path) (e : Eng) (v : Word)
  /-- FURROW_START (R167): A write of FUR.CTL.START is checked, admitted and initialises the furrow into PRIMING, or is refused. -/
  | furrowStart (dt : Nat) (p : Path) (e : Eng) (v : Word)
  /-- FURROW_STOP (R170): A write of FUR.CTL.STOP halts a priming or armed furrow, or stops a running furrow from issuing new rows. -/
  | furrowStop (dt : Nat) (p : Path) (e : Eng) (v : Word)
  /-- PRIME_COMPLETE (R220): The hopper reaches its priming level and the furrow moves from PRIMING to ARMED. -/
  | primeComplete (dt : Nat) (e : Eng)
  /-- RUN_START (R168): The start mc of the mode comes, and the furrow issues row 0. -/
  | runStart (dt : Nat) (e : Eng)
  /-- FURROW_STOPPED (R170): The issued rows complete and the furrow enters HALTED or FAULTED. -/
  | furrowStopped (dt : Nat) (e : Eng)
  /-- EMIT (R179): Instruction that emits CNT + 1 stored rows from a tile. -/
  | emit (dt : Nat) (e : Eng) (w : BitVec 64)
  /-- RPT (R180): Instruction that repeats the previous row COUNT times. -/
  | rpt (dt : Nat) (e : Eng) (w : BitVec 64)
  /-- AGEN (R181): Instruction that emits algorithmic rows and steps the generator once per row. -/
  | agen (dt : Nat) (e : Eng) (w : BitVec 64)
  /-- GSET (R181): Instruction that loads a generator register with one carried row. -/
  | gset (dt : Nat) (e : Eng) (w : BitVec 64)
  /-- JMP (R185): Instruction that emits a carried row and continues at TARGET. -/
  | jmp (dt : Nat) (e : Eng) (w : BitVec 64)
  /-- CALL (R197): Instruction that pushes the return index and continues at TARGET. -/
  | call (dt : Nat) (e : Eng) (w : BitVec 64)
  /-- LOOP (R197): Instruction that pushes a loop entry and emits its carried row. -/
  | loop (dt : Nat) (e : Eng) (w : BitVec 64)
  /-- BR (R188): Instruction that branches, at once on an immediate condition or at its decision boundary on a sampled one. -/
  | br (dt : Nat) (e : Eng) (w : BitVec 64)
  /-- WAIT (R195): Instruction that emits and repeats its row until its condition holds or it times out. -/
  | wait (dt : Nat) (e : Eng) (w : BitVec 64)
  /-- SYNC (R196): Instruction that emits K rows until the sync-qualified mc of the next sync event. -/
  | sync (dt : Nat) (e : Eng) (w : BitVec 64)
  /-- SET (R182): Instruction that loads a counter or TS_BASE, or clears a latch. -/
  | setReg (dt : Nat) (e : Eng) (w : BitVec 64)
  /-- REC (R184): Instruction that writes a program record to the site's current queue. -/
  | recWrite (dt : Nat) (e : Eng) (w : BitVec 64)
  /-- HALT (R178): Instruction that emits its carried row and halts the furrow after it. -/
  | halt (dt : Nat) (e : Eng) (w : BitVec 64)
  /-- LEND (R197): End code that closes a loop iteration and continues at the body start or with the next instruction. -/
  | lend (dt : Nat) (e : Eng)
  /-- RET (R197): End code that pops the call stack and continues at the popped index. -/
  | ret (dt : Nat) (e : Eng)
  /-- BRANCH_DECIDE (R187): A sampled condition takes its value at the tested row's decision time t_d. -/
  | branchDecide (dt : Nat) (e : Eng)
  /-- BRANCH_RESOLVE (R192): Pending branches resolve in program order at their decision boundary. -/
  | branchResolve (dt : Nat) (e : Eng)
  /-- WAIT_END (R195): A WAIT ends at the decision boundary of a row whose condition was true. -/
  | waitEnd (dt : Nat) (e : Eng)
  /-- WAIT_TIMEOUT (R195): A WAIT has emitted TIMEOUT rows, and it sets TMO or raises a TMO fault. -/
  | waitTimeout (dt : Nat) (e : Eng)
  /-- PREFETCH_WALK (R217): The prefetcher walks the program ahead of issue and requests instructions and stored rows while the hopper has room. -/
  | prefetchWalk (dt : Nat) (e : Eng)
  /-- TILE_READ (R212): Tile data returns from memory and is checked in full before any row of it is taken. -/
  | tileRead (dt : Nat) (e : Eng) (tile : BitVec 22) (err : Bool)
  /-- GENERATOR_WRITE (R244): A write to FUR.GEN, OVL_ENT, SCR_X or SCR_Y is taken, or is refused and recorded in GEN_ERR. -/
  | generatorWrite (dt : Nat) (p : Path) (e : Eng) (off : BitVec 12) (v : Word)
  /-- ROW_TAKE (R266): A Gleaner slice takes a row's results in row order and updates its counters and captures. -/
  | rowTake (dt : Nat) (f : Fin 64)
  /-- TRANSITION_RECORD_AGE (R281): CLOSE_MC passes since a transition record's BASE_TS, and the record closes. -/
  | transitionRecordAge (dt : Nat) (f : Fin 64) (kind : Fin 2)
  /-- TRANSITION_DRAIN (R282): The transition back end drains a slice's staging buffer into records. -/
  | transitionDrain (dt : Nat)
  /-- STAT_FLUSH (R286): A write of STAT_CFG.FLUSH closes the unit's open set with cause FLUSH. -/
  | statFlush (dt : Nat) (p : Path) (f : Fin 64) (u : Fin 4) (v : Word)
  /-- HIST_CFG_WRITE (R289): A write to HIST_CFG or HIST_BASE while EN is 1 is refused, unless it only clears EN. -/
  | histCfgWrite (dt : Nat) (p : Path) (k : Fin 16) (base : Bool) (v : Word)
  /-- SYSREF_PULSE (R303): The device drives a SYSREF pulse on a LEMC multiple. -/
  | sysrefPulse (dt : Nat) (k : Fin 4)
  /-- JES_BLOCK_LOCK (R304): Every used lane of a link holds 64b/66b block lock. -/
  | jesBlockLock (dt : Nat) (k : Fin 4)
  /-- JES_EMB_LOCK (R304): Every used lane of a link holds extended multiblock lock. -/
  | jesEmbLock (dt : Nat) (k : Fin 4)
  /-- JES_ALIGNED (R304): The device releases the first aligned EMB, loads BOUND and enters ALIGNED. -/
  | jesAligned (dt : Nat) (k : Fin 4)
  /-- JES_MULTIBLOCK (R306): A multiblock is received, checked by CRC-12 and released at its release mc. -/
  | jesMultiblock (dt : Nat) (k : Fin 4) (first : Bool) (ok : Bool) (data : List (BitVec 16))
  /-- JES_LINK_DOWN (R307): A link loses lock or EN, returns to DOWN and trains again. -/
  | jesLinkDown (dt : Nat) (k : Fin 4)
  /-- SAMPLE_PROCESS (R309): A channel processes sample n in mc P(n), with triggers, rings, segments and masks. -/
  | sampleProcess (dt : Nat) (c : Fin 64)
  /-- SEGMENT_RECORD_CLOSE (R333): A segment record closes when its last sample has been written. -/
  | segmentRecordClose (dt : Nat) (c : Fin 64)
  /-- ACQ_REARM (R325): A channel leaves REARM for ARMED, or enters DONE or STOPPED, in mc R. -/
  | acqRearm (dt : Nat) (c : Fin 64)
  /-- ACQ_ARM (R321): A write of ACQ CTL.ARM arms a channel, or is refused. -/
  | acqArm (dt : Nat) (p : Path) (c : Fin 64)
  /-- ACQ_STOP (R326): A write of ACQ CTL.STOP ends the arm at once. -/
  | acqStop (dt : Nat) (p : Path) (c : Fin 64)
  /-- ACQ_FORCE (R313): A write of ACQ CTL.FORCE is the FORCE trigger source. -/
  | acqForce (dt : Nat) (p : Path) (c : Fin 64)
  /-- ENV_DATA_ACCESS (R336): An access to ENV_DATA reads or writes an envelope point and advances POINT. -/
  | envDataAccess (dt : Nat) (p : Path) (c : Fin 64) (write : Bool) (v : Word)
  /-- RECORD_OPEN (R422): A producer offers a record, and the Granary reserves its units in the current queue, or discards it. -/
  | recordOpen (dt : Nat) (site : Fin 64) (typ : BitVec 8) (flags : BitVec 8) (epoch : BitVec 8) (len : Nat) (tag : Nat)
  /-- RECORD_CLOSE (R423): A producer closes a record with VALID set, with a PAD for unused units. -/
  | recordClose (dt : Nat) (tag : Nat) (body : List Byte)
  /-- COMMIT_ADVANCE (R425): COMMIT advances over records whose bytes have all reached memory. -/
  | commitAdvance (dt : Nat) (q : BitVec 20)
  /-- QSEL_WRITE (R448): A write of QSEL loads the descriptor window with the selected queue. -/
  | qselWrite (dt : Nat) (p : Path) (v : Word)
  /-- LOAD (R448): QCMD LOAD reloads the window with the selected descriptor. -/
  | load (dt : Nat) (p : Path)
  /-- WRITE (R419): QCMD WRITE commits the staged descriptor fields, or is refused. -/
  | write (dt : Nat) (p : Path)
  /-- SET_MARK (R432): QCMD SET_MARK sets MARK to RD. -/
  | setMark (dt : Nat) (p : Path)
  /-- CLR_MARK (R432): QCMD CLR_MARK clears MARK_VALID and MARK_LOST. -/
  | clrMark (dt : Nat) (p : Path)
  /-- REWIND (R432): QCMD REWIND sets RD to a valid MARK, or is refused. -/
  | rewind (dt : Nat) (p : Path)
  /-- CLR_WM (R431): QCMD CLR_WM clears WM_HIT and resets PEAK to the current fill. -/
  | clrWm (dt : Nat) (p : Path)
  /-- CLR_FLAGS (R448): QCMD CLR_FLAGS clears OVF, UNDER and DROPS. -/
  | clrFlags (dt : Nat) (p : Path)
  /-- SEAL (R439): QCMD SEAL requests a SEAL record for an epoch on the queue. -/
  | seal (dt : Nat) (p : Path) (epoch : BitVec 8)
  /-- SEAL_PLACE (R439): Once every record of the epoch has closed, the SEAL record is placed. -/
  | sealPlace (dt : Nat) (q : BitVec 20) (epoch : BitVec 8)
  /-- FLUSH_CACHE (R415): QCMD FLUSH_CACHE writes the cached descriptors back to memory. -/
  | flushCache (dt : Nat) (p : Path)
  /-- QCMD_DONE (R448): A QCMD operation completes and BUSY clears. -/
  | qcmdDone (dt : Nat)
  /-- CACHE_FILL (R443): A descriptor read after a cache miss completes, and the waiting record proceeds. -/
  | cacheFill (dt : Nat) (q : BitVec 20)
  /-- DOORBELL_WRITE (R427): A host write to a queue doorbell sets RD and ARMED, or is refused. -/
  | doorbellWrite (dt : Nat) (q : BitVec 20) (v : Word)
  /-- POP_SEL (R428): A write of POP_SEL claims a queue for the path's pop port, or is refused. -/
  | popSel (dt : Nat) (p : Path) (v : Word)
  /-- POP_RELEASE (R428): A write of POP_SEL.RELEASE ends the path's claim. -/
  | popRelease (dt : Nat) (p : Path)
  /-- POP_DATA_READ (R428): A read of POP_DATA returns the next record word and advances RD past each record. -/
  | popDataRead (dt : Nat) (p : Path)
  /-- NR_RD_WRITE (R442): A write of NR_RD arms the notice ring and sends a message when entries wait. -/
  | nrRdWrite (dt : Nat) (p : Path) (n : Fin 16) (v : Word)
  /-- NR_BASE_HI_WRITE (R440): A write of NR_BASE_HI resets the ring's positions and PHASE. -/
  | nrBaseHiWrite (dt : Nat) (p : Path) (n : Fin 16) (v : Word)
  /-- DESC_BASE_HI_WRITE (R446): A write of DESC_BASE_HI starts zeroing the descriptor table. -/
  | descBaseHiWrite (dt : Nat) (p : Path) (v : Word)
  /-- DESC_INIT_DONE (R446): Descriptor table initialisation ends, READY sets and IRQ_STAT bit 3 sets. -/
  | descInitDone (dt : Nat)
  /-- SITE_CUR_WRITE (R438): A write of SITE_CUR sets a site's current stream and epoch, and reopens a sealed epoch. -/
  | siteCurWrite (dt : Nat) (p : Path) (site : Fin 64) (v : Word)
  /-- TIM_ARM (R348): A write of TIM CTL.ARM arms a channel, and its partner under DIFF, or is refused. -/
  | timArm (dt : Nat) (p : Path) (k : Fin 16)
  /-- TIM_STOP (R354): A write of TIM CTL.STOP ends the arm at once. -/
  | timStop (dt : Nat) (p : Path) (k : Fin 16)
  /-- TIM_FLUSH (R358): A write of TIM CTL.FLUSH closes the open statistics set. -/
  | timFlush (dt : Nat) (p : Path) (k : Fin 16)
  /-- TIM_EVENT (R344): A TIM channel decides an event at its event time plus 48 mc. -/
  | timEvent (dt : Nat) (k : Fin 16)
  /-- TIM_TIMEOUT (R352): A measurement with no ending event ends by TIMEOUT or range overflow. -/
  | timTimeout (dt : Nat) (k : Fin 16)
  /-- DEAD_TIME_END (R351): A channel's dead time ends, and it waits for the next measurement or enters DONE. -/
  | deadTimeEnd (dt : Nat) (k : Fin 16)
  /-- TIM_IN_EDGE (R346): A TIM_IN input crosses its threshold. -/
  | timInEdge (dt : Nat) (i : Fin 4) (vs : BitVec 10) (rising : Bool)
  /-- TIN_CFG_WRITE (R347): A write to TIM.TIN_CFG takes effect at once and marks nearby events TINV. -/
  | tinCfgWrite (dt : Nat) (p : Path) (i : Fin 4) (v : Word)
  /-- BIN_TABLE_BUILT (R361): An interpolator finishes a code-density table, which takes force between two events. -/
  | binTableBuilt (dt : Nat) (k : Fin 16) (stop : Bool)
  /-- CAL_LOCK_LOSS (R361): CAL_LOCK falls, which sets IRQ_STAT bit 4 and is reported as a fault. -/
  | calLockLoss (dt : Nat) (k : Fin 16) (stop : Bool)
  /-- FENCE_CROSSING (R371): A fence input crosses a band edge and sets or clears a comparator latch. -/
  | fenceCrossing (dt : Nat) (f : Fin 24) (upper : Bool) (pos : Fin 3)
  /-- FENCE_FILTER_SAMPLE (R376): The majority filter samples the raw output at each DIV multiple. -/
  | fenceFilterSample (dt : Nat) (f : Fin 24)
  /-- FENCE_WINDOW_WRITE (R384): A write to a fence window changes thresholds, modes, filter or sources, or is refused. -/
  | fenceWindowWrite (dt : Nat) (p : Path) (f : Fin 24) (r : Fin 5) (v : Word)
  /-- DAC_SETTLE (R384): A new threshold code takes effect once the DAC settles. -/
  | dacSettle (dt : Nat) (f : Fin 24) (upper : Bool)
  /-- MODE_HOLD_END (R373): The response time of a new comparator mode ends, and the latch follows the input again. -/
  | modeHoldEnd (dt : Nat) (f : Fin 24) (upper : Bool)
  /-- FENCE_TEST_WRITE (R383): A write to TEST ties or swaps the comparator inputs and holds the consumers. -/
  | fenceTestWrite (dt : Nat) (p : Path) (f : Fin 24) (v : Word)
  /-- RAMP_START (R381): A write of RMP CTL.START triggers an idle ramp. -/
  | rampStart (dt : Nat) (p : Path) (r : Fin 4)
  /-- RAMP_STOP (R381): A write of RMP CTL.STOP puts a running ramp in HELD. -/
  | rampStop (dt : Nat) (p : Path) (r : Fin 4)
  /-- RAMP_REARM (R381): A write of RMP CTL.REARM returns a held ramp to IDLE. -/
  | rampRearm (dt : Nat) (p : Path) (r : Fin 4)
  /-- RAMP_STEP (R380): A running ramp adds STEP at each DIV interval. -/
  | rampStep (dt : Nat) (r : Fin 4)
  /-- POWER_UP_RESPONSE_END (R372): The response time after a comparator is turned on ends, and its latch follows the input from its PU state. -/
  | powerUpResponseEnd (dt : Nat) (f : Fin 24) (upper : Bool)
  /-- DRILL_START (R399): A write of DRL CTL.START arms a drill for its start mode, or is refused. -/
  | drillStart (dt : Nat) (p : Path) (d : Fin 16) (mode : Fin 4)
  /-- DRILL_STOP (R400): A write of DRL CTL.STOP puts the drill in STOPPED. -/
  | drillStop (dt : Nat) (p : Path) (d : Fin 16)
  /-- DRILL_STEP (R396): A drill step starts, when its start time comes or the previous dwell expires, and sets its phase. -/
  | drillStep (dt : Nat) (d : Fin 16)
  /-- DRILL_EDGE (R391): The drill phase crosses a half cycle, and gated lanes follow the edge. -/
  | drillEdge (dt : Nat) (d : Fin 16)
  /-- LIST_STAGE (R395): A write to LIST_W[0] to LIST_W[2] is staged. -/
  | listStage (dt : Nat) (p : Path) (d : Fin 16) (w : Fin 3) (v : Word)
  /-- LIST_COMMIT (R395): A write to LIST_W[3] commits all four words of the selected list entry, or is refused. -/
  | listCommit (dt : Nat) (p : Path) (d : Fin 16) (v : Word)
  /-- AMP_GROUP_CLOSE (R402): A drill closes an amplitude group into a bank queue once the previous one is applied and a place is free. -/
  | ampGroupClose (dt : Nat) (d : Fin 16) (b : Bank)
  /-- MARKER_RELEASE (R407): A marker output releases WIDTH after its latest event. -/
  | markerRelease (dt : Nat) (i : Fin 16)
  /-- MK_DLY_WRITE (R408): A write of MK_DLY is refused when it puts a_m out of range. -/
  | mkDlyWrite (dt : Nat) (p : Path) (i : Fin 16) (v : Word)
  /-- SYNC_IN_PULSE (R410): A pulse on SYNC_IN is detected as a sync event. -/
  | syncInPulse (dt : Nat)
  /-- FIRE (R410): A write of SYNC_CFG.FIRE makes a software sync event. -/
  | fire (dt : Nat) (p : Path)
  /-- SYNC_QUALIFIED (R410): The sync-qualified mc Q comes, and SYNC-mode starts and SYNC instructions use it. -/
  | syncQualified (dt : Nat)
  /-- SYNC_OUT_PULSE_END (R412): SYNC_OUT returns low 8 mc after the sync event drove it high. -/
  | syncOutPulseEnd (dt : Nat)
  /-- PING (R472): Mailbox command that returns the firmware version and C. -/
  | ping (dt : Nat) (p : Path)
  /-- SITE_SET (R449): Mailbox command that places a site on a lead furrow. -/
  | siteSet (dt : Nat) (p : Path)
  /-- SITE_CLEAR (R450): Mailbox command that returns an idle site to UNPLACED. -/
  | siteClear (dt : Nat) (p : Path)
  /-- FLOW_START (R472): Mailbox command that queues a first-step flow item for each masked idle site. -/
  | flowStart (dt : Nat) (p : Path)
  /-- FLOW_ABORT (R458): Mailbox command that stops masked sites, whose flows end in bin 255. -/
  | flowAbort (dt : Nat) (p : Path)
  /-- SITE_STATUS (R472): Mailbox command that returns a site's state, flow number, last bin and DUT tag. -/
  | siteStatus (dt : Nat) (p : Path)
  /-- MIGRATE (R468): Mailbox command that names new furrows for a site, or is refused. -/
  | migrate (dt : Nat) (p : Path)
  /-- YIELD_CLEAR (R472): Mailbox command that zeroes the masked sites' yields, FLOWS and GOOD. -/
  | yieldClear (dt : Nat) (p : Path)
  /-- STEP_TIMEOUT (R458): TLIMIT field ticks pass without the step ending, so the step is stopped and ends in bin 254. -/
  | stepTimeout (dt : Nat) (i : Fin 64)
  /-- STEP_LIMIT (R460): SLIMIT × 1,024 steps have been executed, and the flow ends in bin 254. -/
  | stepLimit (dt : Nat) (i : Fin 64)
  /-- TRAIN (R477): A Headland port starts training, on EN, on a TRAIN write or after a loss of lock. -/
  | train (dt : Nat) (p : Path) (i : Fin 2) (v : Word)
  /-- TRAINING_DONE (R477): A port completes training and sets CABLE and its hop latency H. -/
  | trainingDone (dt : Nat) (i : Fin 2) (lanes : BitVec 4) (l : BitVec 16) (peer : BitVec 10)
  /-- PORT_LOCK_LOSS (R478): A Headland lane loses block lock. -/
  | portLockLoss (dt : Nat) (i : Fin 2) (lane : Fin 4)
  /-- TRAIN_RETRY (R478): A port that stays DOWN retries training every 1 ms. -/
  | trainRetry (dt : Nat) (i : Fin 2)
  /-- EXPRESS_SEND (R481): A port sends a waiting express word in its express slot. -/
  | expressSend (dt : Nat) (i : Fin 2)
  /-- EXPRESS_RECEIVE (R481): An express word is received, checked, used and forwarded. -/
  | expressReceive (dt : Nat) (i : Fin 2) (w : BitVec 64)
  /-- RESULT (R509): A received RESULT bulk frame adds to a record placed in the collector queue. -/
  | result (dt : Nat) (i : Fin 2) (frame : List (BitVec 64))
  /-- PAGE_REQ (R507): A received PAGE_REQ frame is carried out on the Headland path and answered. -/
  | pageReq (dt : Nat) (i : Fin 2) (frame : List (BitVec 64))
  /-- PAGE_RSP (R506): A received PAGE_RSP completes the outstanding remote page access. -/
  | pageRsp (dt : Nat) (i : Fin 2) (frame : List (BitVec 64))
  /-- WALK (R487): A received DISC WALK frame assigns or checks IDs and adds to the span. -/
  | walk (dt : Nat) (i : Fin 2) (frame : List (BitVec 64)) (least : BitVec 16)
  /-- REPORT (R487): A received DISC REPORT frame loads TOPO.SPAN and the mode. -/
  | report (dt : Nat) (i : Fin 2) (frame : List (BitVec 64))
  /-- BREAK (R485): A received DISC BREAK frame sets chain mode and is forwarded. -/
  | breakFrame (dt : Nat) (i : Fin 2) (frame : List (BitVec 64))
  /-- DISC_START (R487): A write of DISC.START on the root starts a discovery walk. -/
  | discStart (dt : Nat) (p : Path) (v : Word)
  /-- EXT_REF_LOSS (R490): EXT_REF_IN is lost while it is selected, which starts holdover or a switch. -/
  | extRefLoss (dt : Nat)
  /-- OCXO_RDY_FALL (R490): OCXO_RDY falls while OCXO is selected, which may switch to EXT. -/
  | ocxoRdyFall (dt : Nat)
  /-- EXT_REF_RETURN (R490): EXT has been present again for 10 s, and the PLL re-locks by slewing. -/
  | extRefReturn (dt : Nat)
  /-- SLEW_DONE (R491): The master clock phase matches the new reference, and SLEWING clears. -/
  | slewDone (dt : Nat)
  /-- WARM_RISE (R492): The WARM conditions have held for WARM_MIN seconds, and WARM sets. -/
  | warmRise (dt : Nat)
  /-- HOLDOVER_EXPIRY (R492): Holdover lasts HOLD_WARM seconds, and WARM falls. -/
  | holdoverExpiry (dt : Nat)
  /-- REF_SEL_WRITE (R490): A write of REF_CFG.SEL switches the reference, or is refused for SEL. -/
  | refSelWrite (dt : Nat) (p : Path) (v : Word)
  /-- TIME_FRAME (R494): A TMASTER device originates a TIME frame every 1,048,576 mc. -/
  | timeFrame (dt : Nat)
  /-- RELOAD (R495): A write of TOD CTL.RELOAD clears LOCK so that the next frame loads TS. -/
  | reload (dt : Nat) (p : Path)
  /-- PPS_EDGE (R496): An edge on PPS_IN marks a second boundary and updates SEC and MCS. -/
  | ppsEdge (dt : Nat) (rising : Bool)
  /-- SECOND_ROLL (R497): MCS reaches 1,600,000,000 with no PPS edge, and SEC gains 1. -/
  | secondRoll (dt : Nat)
  /-- PPS_LOSS (R497): No PPS edge for 2 s clears PPS_OK. -/
  | ppsLoss (dt : Nat)
  /-- LATCH (R498): A write of TOD CTL.LATCH loads the TS and time-of-day pair. -/
  | latch (dt : Nat) (p : Path)
  /-- SEC_NEXT_ARM (R496): A write of SEC_NEXT_HI arms SEC_NEXT for the next second boundary. -/
  | secNextArm (dt : Nat) (p : Path) (v : Word)
  /-- TRIG_IN_EVENT (R504): A TRIG_IN edge counts under its polarity and filter and reaches its consumers. -/
  | trigInEvent (dt : Nat) (i : Fin 4) (rising : Bool) (vs : BitVec 10)
  /-- LINE_FIRE (R499): A write of LINE_FIRE raises ring lines from software. -/
  | lineFire (dt : Nat) (p : Path) (v : Word)
  /-- RING_LINE_APPLY (R500): A ring line is applied at TS(r) + TRIG_COMP, or late on presentation. -/
  | ringLineApply (dt : Nat)
  /-- LINE_SRC_WRITE (R499): A write of LINE_SRC is taken, or refused for a reserved KIND. -/
  | lineSrcWrite (dt : Nat) (p : Path) (j : Fin 16) (v : Word)
  /-- TOUT_CFG_WRITE (R505): A write of TOUT_CFG is taken, or refused for a reserved KIND. -/
  | toutCfgWrite (dt : Nat) (p : Path) (i : Fin 4) (v : Word)
  /-- TOUT_FIRE (R505): A write of TOUT_FIRE pulses a TRIG_OUT. -/
  | toutFire (dt : Nat) (p : Path) (v : Word)
  /-- TRIG_OUT_PULSE_END (R505): A TRIG_OUT pulse ends after WIDTH mc. -/
  | trigOutPulseEnd (dt : Nat) (i : Fin 4)
  /-- RPA_GO (R506): A write of RPA_CTL.GO sends a PAGE_REQ, or is refused with BAD_ARG. -/
  | rpaGo (dt : Nat) (p : Path) (v : Word)
  /-- RPA_TIMEOUT (R506): No PAGE_RSP arrives within RPA_TMO, and CODE becomes TIMEOUT. -/
  | rpaTimeout (dt : Nat)
  /-- RESULT_FORWARD (R508): The device sends a record from an HDL queue in RESULT frames and advances RD. -/
  | resultForward (dt : Nat)
  /-- UNCORRECTABLE_ERROR (R519): DDR-5 returns an uncorrectable error, which is delivered as poisoned data. -/
  | uncorrectableError (dt : Nat) (a : BitVec 48)
  /-- CORRECTED_ERROR (R519): DDR-5 returns a corrected error, and the data is written back. -/
  | correctedError (dt : Nat) (a : BitVec 48)
  /-- PATROL_SCRUB (R520): The patrol scrubber reads and corrects the next location. -/
  | patrolScrub (dt : Nat) (k : Fin 8)
  /-- MEM_THERMAL (R516): A DIMM sensor reads 95 °C or more, which sets THERM. -/
  | memThermal (dt : Nat) (k : Fin 8) (temp : BitVec 8)
  /-- MEM_TRAINING_LOSS (R521): A channel loses training and cannot retrain within 16,000 mc. -/
  | memTrainingLoss (dt : Nat) (k : Fin 8)
  /-- MAPOUT (R521): A write of MEM.CTL.MAPOUT maps the channel out. -/
  | mapout (dt : Nat) (p : Path) (k : Fin 8)
  /-- RESTORE (R524): A write of MEM.CTL.RESTORE removes the recorded map-out from the next boot. -/
  | restore (dt : Nat) (p : Path) (k : Fin 8)
  /-- WINDOW_READ (R530): A host read through the BAR2 memory window returns DDR-5 data, or fails. -/
  | windowRead (dt : Nat) (off : BitVec 36) (n : Fin 4097) (err : Bool)
  /-- WINDOW_WRITE (R531): A host write through the BAR2 memory window reaches DDR-5, or is discarded. -/
  | windowWrite (dt : Nat) (off : BitVec 36) (data : List Byte)
  /-- LINK_UP (R534): The PCIe link reaches L0. -/
  | linkUp (dt : Nat) (speed : Fin 6) (width : Fin 9) (bme : Bool) (fmask : Bool)
  /-- LINK_DOWN (R534): The PCIe link is lost, while the device continues and messages become pending. -/
  | linkDown (dt : Nat)
  /-- FLR (R534): A function-level reset returns configuration space and the MSI-X state to reset. -/
  | flr (dt : Nat)
  /-- HOT_RESET (R534): A PCIe hot reset returns configuration space and the MSI-X state to reset. -/
  | hotReset (dt : Nat)
  /-- PERST (R534): PERST# resets the PCIe function state, and its rising edge can request wake. -/
  | perst (dt : Nat) (rising : Bool)
  /-- ETH_FRAME_SEND (R537): The exporter sends records of an ETH queue in one frame and advances RD. -/
  | ethFrameSend (dt : Nat)
  /-- HEARTBEAT (R539): No frame for HB.MS milliseconds, and the exporter sends an idle item. -/
  | heartbeat (dt : Nat)
  /-- ETH_RX_DROP (R536): A received Ethernet frame is discarded and counted. -/
  | ethRxDrop (dt : Nat)
  /-- STATUS (R541): SMBus command that returns the device status word. -/
  | smbStatus (dt : Nat) (pec : Option Bool)
  /-- REG_ADDR (R541): SMBus command that sets the BAR0 offset for register access. -/
  | regAddr (dt : Nat) (off : Word) (pec : Option Bool)
  /-- REG_READ (R541): SMBus command that reads a register and returns a status byte. -/
  | regRead (dt : Nat) (pec : Option Bool)
  /-- REG_WRITE (R541): SMBus command that writes a register. -/
  | regWrite (dt : Nat) (v : Word) (pec : Option Bool)
  /-- HMK_SEL (R541): SMBus command that selects a Hallmark record and half. -/
  | hmkSel (dt : Nat) (v : Word) (pec : Option Bool)
  /-- HMK_READ (R541): SMBus command that reads the selected half of a Hallmark record and advances. -/
  | hmkRead (dt : Nat) (pec : Option Bool)
  /-- HMK_RANGE (R584): SMBus command that returns the oldest and next Hallmark indices. -/
  | hmkRange (dt : Nat) (pec : Option Bool)
  /-- FLASH_READ (R543): XSP OP READ reads flash bytes into BUF. -/
  | flashRead (dt : Nat) (p : Path) (len : BitVec 8)
  /-- PROGRAM (R543): XSP OP PROGRAM writes BUF to the flash, or is refused. -/
  | program (dt : Nat) (p : Path) (len : BitVec 8)
  /-- ERASE (R543): XSP OP ERASE erases the 64 KiB sector, or is refused. -/
  | erase (dt : Nat) (p : Path)
  /-- XSP_COMPLETE (R543): A flash command completes and STAT.DONE sets. -/
  | xspComplete (dt : Nat) (err : Bool)
  /-- FAULT_OCCURRENCE (R549): A fault source occurs, and the collector updates the evidence and takes the reactions of REACT. -/
  | faultOccurrence (dt : Nat) (src : BitVec 8) (cause : BitVec 5) (res : BitVec 9)
  /-- CHIP_RST (R558): A CHIP_RST reaction begins a chip reset once the FAULT record commits or 64 µs pass. -/
  | chipRst (dt : Nat)
  /-- LIVE_FALL (R551): A LEVEL source's condition falls, and TRANSIENT may set. -/
  | liveFall (dt : Nat) (src : BitVec 8) (res : BitVec 9)
  /-- SHADOW_CLOSE (R574): A reaction shadow closes, places a CONSEQ record and re-occurs still-live sources. -/
  | shadowClose (dt : Nat)
  /-- QUENCH_RELEASE (R566): A write of QUENCH.RELEASE leaves Quench, or is refused. -/
  | quenchRelease (dt : Nat) (p : Path) (v : Word)
  /-- ERR_PULSE_END (R560): The minimum ERR# pulse ends, and ERR# rises unless HOLD is 1. -/
  | errPulseEnd (dt : Nat)
  /-- ERR_CLR (R560): A write of ERR_CFG.CLR releases a held ERR#. -/
  | errClr (dt : Nat) (p : Path) (v : Word)
  /-- ERR_REASSERT (R561): The 100 ns high time ends, and a pending ERR reaction lowers ERR# again. -/
  | errReassert (dt : Nat)
  /-- STICKY_CLEAR (R550): A W1C of SRC_STAT.STICKY clears the source's evidence flags, unless LIVE is 1. -/
  | stickyClear (dt : Nat) (p : Path)
  /-- SRC_SEL_WRITE (R590): A write of SRC_SEL loads the source window registers. -/
  | srcSelWrite (dt : Nat) (p : Path) (v : Word)
  /-- SRC_STAT_READ (R551): A read of SRC_STAT counts as a look for TRANSIENT. -/
  | srcStatRead (dt : Nat) (p : Path)
  /-- TRAP_CLEAR (R556): Clearing TRAP.PEND ends the trap. -/
  | trapClear (dt : Nat) (p : Path)
  /-- INJECT_PULSE (R545): A write of INJECT.PULSE makes source SOFT live for one mc. -/
  | injectPulse (dt : Nat) (p : Path) (v : Word)
  /-- INJECT_LEVEL (R545): A write of INJECT.LEVEL sets the live condition of source SOFT. -/
  | injectLevel (dt : Nat) (p : Path) (v : Word)
  /-- DEG_CLEAR (R585): A W1C of DEG bit 4 or 5 clears a rate degradation. -/
  | degClear (dt : Nat) (p : Path) (v : Word)
  /-- HALLMARK_COMMIT (R578): The Hallmark engine writes the next queued record in two verified phases. -/
  | hallmarkCommit (dt : Nat) (bad1 : Option (List Byte)) (bad2 : Option (List Byte))
  /-- HOUR_OF_OPERATION (R582): An hour of operation ends, which writes a LIFETIME record and counts POH. -/
  | hourOfOperation (dt : Nat) (hi : BitVec 16) (lo : BitVec 16)
  /-- DOM_REQ_WRITE (R595): A write to PWR.DOM_REQ switches domains on or off, or is refused. -/
  | domReqWrite (dt : Nat) (p : Path) (v : Word)
  /-- POWER_GOOD (R594): A domain's power-good arrives, and its isolation and reset are released. -/
  | powerGood (dt : Nat) (d : Fin 20)
  /-- POWER_GOOD_TIMEOUT (R594): Power-good does not come within 20 µs, so the domain is left OFF and PWR_SEQ occurs. -/
  | powerGoodTimeout (dt : Nat) (d : Fin 20)
  /-- STANDBY (R597): A write of PWR.CTL.STANDBY starts standby entry, or is refused. -/
  | standby (dt : Nat) (p : Path)
  /-- STANDBY_ENTERED (R597): The Hallmark queue is empty, every domain but AON is down and the main PLL stops. -/
  | standbyEntered (dt : Nat)
  /-- WAKE (R599): A write of PWR.CTL.WAKE over SMBus requests wake. -/
  | wake (dt : Nat) (pec : Option Bool)
  /-- WAKE_TIMER (R599): The wake timer reaches 0 and requests wake. -/
  | wakeTimer (dt : Nat)
  /-- POWER_ON (R601): The AON supply rises through its threshold and starts a power-on reset. -/
  | powerOn (dt : Nat)
  /-- AON_SUPPLY_LOSS (R636): VDD_AON or VDDIO_AON falls below its threshold, and every switch opens. -/
  | aonSupplyLoss (dt : Nat) (torn : Option (List Byte))
  /-- RESET_PIN (R601): RESET# has been low for 1 µs, which starts a PIN chip reset. -/
  | resetPin (dt : Nat)
  /-- CHIP_RESET (R602): A chip reset puts Quench in force, powers down the domains, keeps Table 19-3 state and starts a boot. -/
  | chipReset (dt : Nat) (p : Path)
  /-- BOOT_STAGE (R604): A boot stage completes and the next begins. -/
  | bootStage (dt : Nat) (b : BootIn)
  /-- OWNER_PROGRAM (R613): Fuse operation that writes an owner slot's hash and makes it ACTIVE. -/
  | ownerProgram (dt : Nat) (p : Path) (v : Word)
  /-- OWNER_REVOKE (R613): Fuse operation that makes an owner slot REVOKED. -/
  | ownerRevoke (dt : Nat) (p : Path) (v : Word)
  /-- ARB_ADVANCE (R613): Fuse operation that advances the anti-rollback count. -/
  | arbAdvance (dt : Nat) (p : Path) (v : Word)
  /-- FUSE_DONE (R613): A fuse operation ends and FUSE_RES.DONE sets. -/
  | fuseDone (dt : Nat)
  /-- ASSAY_GO (R619): A write of ASSAY_CTL.GO captures the nonce and starts an Assay report. -/
  | assayGo (dt : Nat) (p : Path)
  /-- ASSAY_DONE (R619): The signed Assay report is ready in RPT. -/
  | assayDone (dt : Nat)
  /-- DBG_NEW (R621): A write of DBG_CTL.NEW makes a new debug challenge. -/
  | dbgNew (dt : Nat) (p : Path)
  /-- DBG_SUBMIT (R622): A write of DBG_CTL.SUBMIT verifies the answer and opens a debug level, or rejects it. -/
  | dbgSubmit (dt : Nat) (p : Path) (v : Word)
  /-- DBG_LOCK (R622): A write of DBG_CTL.LOCK returns debug to LOCKED. -/
  | dbgLock (dt : Nat) (p : Path)
  /-- BYPASS (R623): JTAG instruction BYPASS. -/
  | bypass (dt : Nat) (tdi : List Bool)
  /-- IDCODE (R623): JTAG instruction IDCODE. -/
  | idcode (dt : Nat)
  /-- SAMPLE_PRELOAD (R623): JTAG instruction SAMPLE/PRELOAD. -/
  | samplePreload (dt : Nat) (n : Fin 4096)
  /-- EXTEST (R623): JTAG instruction EXTEST, which cannot release Quench outputs. -/
  | extest (dt : Nat) (quench : Option Bool) (lanes : List (LaneId × Fin 3))
  /-- RESET_PIN_RELEASE (R635): RESET# rises and the held chip reset ends, so the boot begins. -/
  | resetPinRelease (dt : Nat)
  /-- EXT_REF_PRESENCE (R489): EXT_REF_IN becomes present, or absent while not selected, by the 100 µs window measurement. -/
  | extRefPresence (dt : Nat) (b : Bool)
  /-- OCXO_RDY_CHANGE (R490): The OCXO_RDY ball rises, or falls while EXT is selected. -/
  | ocxoRdyChange (dt : Nat) (b : Bool)
  /-- ETH_LINK_UP (R537): The 10GBASE-R PCS gains block lock and the exporter may send again. -/
  | ethLinkUp (dt : Nat)
  /-- ETH_LINK_DOWN (R537): The 10GBASE-R PCS loses block lock and the exporter stops sending. -/
  | ethLinkDown (dt : Nat)
  /-- ETH_MODULE_CHANGE (R536): The SFP+ MOD_ABS or TX_FAULT line changes and sets the MODULE interrupt. -/
  | ethModuleChange (dt : Nat) (modAbs : Bool) (txFault : Bool)
  /-- INSTRUCTION_WORD_READ (R216): Program instruction words fetched for the hopper return from memory, possibly with an uncorrectable error. -/
  | instructionWordRead (dt : Nat) (e : Eng) (err : Bool)
  /-- SYSREF_PULSE_END (R303): A SYSREF pulse ends PW mc after it started. -/
  | sysrefPulseEnd (dt : Nat) (k : Fin 4)
  /-- BUS_RESET_END (R90): FSYNC falls after the bus reset of 16 or more cycles and FEC.STAT.RESETTING clears. -/
  | busResetEnd (dt : Nat) (b : Bank)
  deriving DecidableEq, Repr

end Sys2Proof
end

