-- ==== Sys2Proof/Config.lean ====
section
/-! DEFINITION. What the spec leaves to the device at hand: free values (opaque constants with no
body, applied to the state's counter or to the operands they depend on) and the uninterpreted
cryptographic functions of the named standards. No proof can see a value of any of them. -/
namespace Sys2Proof.Config

/-- A 32-bit value that the spec does not fix, one for each use of the state's counter. -/
opaque freeWord : Nat → BitVec 32

/-- A 64-bit value that the spec does not fix, one for each use of the state's counter. -/
opaque freeTs : Nat → BitVec 64

/-- What the fields of word `w` of the coefficient block of slice `slice` of bank `bank` hold after `swaps` swaps:
measured at manufacture, in the factory store, and corrected in service (R132, Table 04-6). -/
opaque coefWord : (bank slice w swaps : Nat) → BitVec 32

/-- Word 63 of the coefficient block of slice `slice` of bank `bank` in the factory store (R132, Table 04-6). -/
opaque factoryCrc : (bank slice : Nat) → BitVec 32

/-- Factory-measured difference between the path of spare `spare` of bank `bank` and the own path of lane
`lane` of the bank (R107): drive in the low half, sense in the high half, signed, in vs. -/
opaque spareDiff : (bank spare lane : Nat) → BitVec 32

/-- A value that boot loads from fuses, factory store or certificate store (R65, Reset entry L), by register. -/
opaque loaded : (offset : Nat) → BitVec 32

/-- SHA-384 of a byte string (FIPS 180-4), kept uninterpreted. -/
opaque sha384 : List (BitVec 8) → BitVec 384

/-- ECDSA P-384 verification of a signature over a digest (FIPS 186-5), kept uninterpreted. -/
opaque ecdsaVerify : (key : List (BitVec 8)) → (digest : BitVec 384) → (sig : List (BitVec 8)) → Bool

/-- The device's identity-key signature over a digest (R617), 96 bytes, kept uninterpreted. -/
opaque identitySign : BitVec 384 → BitVec 768

/-- The device serial number of Table 00-1, 6 bytes. -/
opaque serial : BitVec 48

/-- Word `w` of the identity certificate that is issued for the device with serial number `n` and names it (R3, R617). -/
opaque certWord : (n : BitVec 48) → (w : Nat) → BitVec 32

/-- The ROM measurement of the die stepping (R611). -/
opaque romMeasure : BitVec 384

/-- SHA-384 of the factory store (R132). -/
opaque factoryHash : BitVec 384

/-- Random bytes of the on-die generator (R621), one draw for each use of the state's counter. -/
opaque random384 : Nat → BitVec 384

/-- The fused root-key hash (R612). -/
opaque rootHash : BitVec 384

/-- SHA-384 of the fuse state: root hash, the four owner hashes, their states and the count (Table 19-10). -/
opaque fuseDigest : (owners : List (Nat × Nat)) → (count : Nat) → BitVec 384

/-- The IEEE 1149.1 device identification code (R623). -/
opaque idcode : BitVec 32

end Sys2Proof.Config
end

