-- ==== Sys2Proof/Machine/Bits.lean ====
section
/-! DEFINITION. Bit fields, signed fields, byte order, integer roots and the CRCs of the spec, on
natural numbers and byte lists. -/
namespace Sys2Proof.Machine

/-- Bits [lo + w − 1 : lo] of `n`. -/
def bits (n lo w : Nat) : Nat := (n >>> lo) % 2 ^ w

/-- Bit `i` of `n`. -/
def bit (n i : Nat) : Bool := bits n i 1 == 1

/-- `n` with bits [lo + w − 1 : lo] replaced by `v` modulo 2^w. -/
def putBits (n lo w v : Nat) : Nat := n - bits n lo w * 2 ^ lo + (v % 2 ^ w) * 2 ^ lo

/-- A w-bit field read as a two's complement number. -/
def sgn (n w : Nat) : Int := if n % 2 ^ w < 2 ^ (w - 1) then (n % 2 ^ w : Nat) else (n % 2 ^ w : Nat) - (2 ^ w : Nat)

/-- The w-bit two's complement code of an integer. -/
def uns (i : Int) (w : Nat) : Nat := (i % (2 ^ w : Nat)).toNat

/-- `a` capped at `m`. -/
def sat (a m : Nat) : Nat := if a > m then m else a

/-- 0 or 1. -/
def b2n (b : Bool) : Nat := if b then 1 else 0

/-- The `n` bytes of `v`, least significant first. -/
def leBytes : Nat → Nat → List Byte
  | 0, _ => []
  | n + 1, v => BitVec.ofNat 8 v :: leBytes n (v / 256)

/-- The number that little-endian bytes hold. -/
def leNat : List Byte → Nat
  | [] => 0
  | b :: bs => b.toNat + 256 * leNat bs

/-- The `n` bytes of `v`, most significant first. -/
def beBytes (n v : Nat) : List Byte := (leBytes n v).reverse

/-- `n` zero bytes. -/
def zeros (n : Nat) : List Byte := List.replicate n 0

/-- One bit of a CRC of width `w` and polynomial `poly`, most significant bit first. -/
def crcStep (w poly crc : Nat) (b : Bool) : Nat :=
  let fb := bit crc (w - 1) != b
  let sh := (crc * 2) % 2 ^ w
  if fb then sh ^^^ poly else sh

/-- The `w` bits of `v`, most significant first. -/
def msbBits : Nat → Nat → List Bool
  | 0, _ => []
  | w + 1, v => bit v w :: msbBits w v

/-- CRC-8, x^8 + x^2 + x + 1, over the `w` bits of `v`, most significant first (R93). -/
def crc8 (w v : Nat) : Nat := (msbBits w v).foldl (crcStep 8 7) 0

/-- One bit of the reflected CRC-32C. -/
def crc32cBit (c : Nat) : Nat := if c % 2 = 1 then (c / 2) ^^^ 0x82F63B78 else c / 2

/-- One byte of the reflected CRC-32C. -/
def crc32cByte (c : Nat) (b : Byte) : Nat :=
  crc32cBit (crc32cBit (crc32cBit (crc32cBit (crc32cBit (crc32cBit (crc32cBit (crc32cBit (c ^^^ b.toNat))))))))

/-- CRC-32C of a byte string (R211). -/
def crc32c (bs : List Byte) : Nat := bs.foldl crc32cByte 0xFFFFFFFF ^^^ 0xFFFFFFFF

/-- Integer square root by bits: the largest `r` below 2^n with r² ≤ v, found from the top bit down. -/
def isqrtGo (v : Nat) : Nat → Nat → Nat
  | 0, r => r
  | n + 1, r => if (r + 2 ^ n) * (r + 2 ^ n) ≤ v then isqrtGo v n (r + 2 ^ n) else isqrtGo v n r

/-- floor(√v) for v below 2^128. -/
def isqrt (v : Nat) : Nat := isqrtGo v 64 0

/-- ⌈a ÷ b⌉. -/
def cdiv (a b : Nat) : Nat := (a + b - 1) / b

/-- floor(a ÷ b) of integers, towards minus infinity, for b > 0. -/
def fdiv (a : Int) (b : Nat) : Int := Int.fdiv a b

/-- The element at `i`, or a default. -/
def nth {α : Type} (d : α) : List α → Nat → α
  | [], _ => d
  | x :: _, 0 => x
  | _ :: xs, i + 1 => nth d xs i

/-- The list with element `i` replaced. -/
def setNth {α : Type} : List α → Nat → α → List α
  | [], _, _ => []
  | _ :: xs, 0, v => v :: xs
  | x :: xs, i + 1, v => x :: setNth xs i v

end Sys2Proof.Machine
end

