-- ==== Sys2Proof/Machine/RegMap.lean ====
section
/-! DEFINITION. The register map: which page holds which block (Table 02-1), its power domain
(Table 01-1), and for every register its offset, access codes, reset value and pairing, one row for
each register or array of registers of the chapters' tables. -/
namespace Sys2Proof.Machine

/-- How a register takes part in the 64-bit rules of R56 and R57: the LO or HI half of an RW pair, the
LO register of a latched group with its number of further registers, or the i-th further register. -/
inductive Pairing where
  | none | pairLo | pairHi | latLo (k : Nat) | latMem (i : Nat)
  deriving DecidableEq, Repr

/-- One register, or `n` registers `stride` bytes apart: the masks of its RW, W1C and RC bits, its
reset value, its pairing, the bits that clear together with a written-1 bit 31 (`vclr`), whether a
block reset keeps it, and whether a write is refused while the page's EN is 1 (`enLock`). -/
structure Reg where
  off : Nat
  n : Nat
  stride : Nat
  rw : Nat
  w1c : Nat
  rc : Nat
  rst : Nat
  pairing : Pairing := .none
  vclr : Nat := 0
  kept : Bool := false
  enLock : Bool := false
  deriving DecidableEq, Repr

/-- A plain RW register. -/
def rRW (off rw rst : Nat) : Reg := { off, n := 1, stride := 4, rw, w1c := 0, rc := 0, rst }
/-- A read-only register. -/
def rRO (off rst : Nat) : Reg := rRW off 0 rst
/-- A register of W1C bits `w`, of which bit 31 also clears `v`. -/
def rW1C (off w v : Nat) : Reg := { off, n := 1, stride := 4, rw := 0, w1c := w, rc := 0, rst := 0, vclr := v }
/-- A register of RC bits. -/
def rRC (off rc : Nat) : Reg := { off, n := 1, stride := 4, rw := 0, w1c := 0, rc, rst := 0 }
/-- `n` registers as `r`, `stride` bytes apart. -/
def Reg.arr (r : Reg) (n : Nat) (stride : Nat := 4) : Reg := { r with n, stride }
/-- `r`, kept by a block reset of its page. -/
def Reg.keep (r : Reg) : Reg := { r with kept := true }
/-- `r`, refused while EN is 1. -/
def Reg.lockEn (r : Reg) : Reg := { r with enLock := true }
/-- The LO and HI registers of an RW pair at `off` and `off + 4`. -/
def rPair (off lo hi : Nat) : List Reg :=
  [{ rRW off lo 0 with pairing := .pairLo }, { rRW (off + 4) hi 0 with pairing := .pairHi }]
/-- A latched group of a LO register and `k` further registers behind it. -/
def rLat (off k : Nat) : List Reg :=
  { rRO off 0 with pairing := .latLo k } :: (List.range k).map fun i => { rRO (off + 4 * (i + 1)) 0 with pairing := .latMem (i + 1) }

/-- The full word. -/
def m32 : Nat := 0xFFFFFFFF

/-- The kinds of register page. -/
inductive PageKind where
  | chip | time | flt | hmk | sec | pwr | tod | svc
  | bankCfg | bankTs | bankCal | bankRfx | fur | gln | glnH | acq | tim | tim0 | fen | rmp | wake
  | drl | grn | grnPop | flw | flwMb | hdlRing | hdlPort | hdlTrig | hdlRpa | hdlRes | mem | mem0 | pci | eth | smb | xsp | fec | jes
  deriving DecidableEq, Repr

/-- Table 02-1, with the pages of the ranges that a chapter leaves reserved taken out. -/
def pageKind (p : Nat) : Option PageKind :=
  if p < 8 then [PageKind.chip, .time, .flt, .hmk, .sec, .pwr, .tod, .svc][p]?
  else if p < 0x40 then none
  else if p < 0x60 then [PageKind.bankCfg, .bankTs, .bankCal, .bankRfx][p % 4]?
  else if p < 0x80 then none
  else if p ≤ 0xC1 then some .fur
  else if p < 0x100 then none
  else if p < 0x110 then some .glnH
  else if p < 0x120 then some .gln
  else if p < 0x140 then some .acq
  else if p = 0x140 then some .tim0
  else if p < 0x150 then some .tim
  else if p < 0x158 then some .fen
  else if p < 0x15C then some .rmp
  else if p = 0x15C then some .wake
  else if p < 0x160 then none
  else if p < 0x170 then some .drl
  else if p = 0x170 then some .grn
  else if p = 0x171 then some .grnPop
  else if p = 0x178 then some .flw
  else if p = 0x179 then some .flwMb
  else if p < 0x180 then none
  else if p = 0x180 then some .hdlRing
  else if p < 0x183 then some .hdlPort
  else if p = 0x183 then some .hdlTrig
  else if p = 0x184 then some .hdlRpa
  else if p = 0x185 then some .hdlRes
  else if p < 0x188 then none
  else if p = 0x188 then some .mem0
  else if p < 0x190 then some .mem
  else if p = 0x190 then some .pci
  else if p = 0x191 then some .eth
  else if p = 0x192 then some .smb
  else if p = 0x193 then some .xsp
  else if p < 0x19C then some .fec
  else if p < 0x1A0 then none
  else if p < 0x1A4 then some .jes
  else none

/-- The first page of the range of Table 02-1 that holds page `p`; INSTANCE counts from it (R48). -/
def pageBase (p : Nat) : Nat :=
  if p < 8 then p else if p < 0x60 then 0x40 else if p ≤ 0xC1 then 0x80 else if p < 0x120 then 0x100
  else if p < 0x140 then 0x120 else if p < 0x150 then 0x140 else if p < 0x158 then 0x150
  else if p < 0x160 then 0x158 else if p < 0x170 then 0x160 else if p < 0x178 then 0x170
  else if p < 0x180 then 0x178 else if p < 0x188 then 0x180 else if p < 0x190 then 0x188
  else if p < 0x194 then p else if p < 0x19C then 0x194 else 0x1A0

/-- BLK_ID.TYPE of Table 02-1. -/
def blkType : PageKind → Nat
  | .chip => 1 | .time => 2 | .flt => 3 | .hmk => 4 | .sec => 5 | .pwr => 6 | .tod => 7 | .svc => 8
  | .bankCfg | .bankTs | .bankCal | .bankRfx => 0x10
  | .fur => 0x20 | .gln | .glnH => 0x30 | .acq => 0x40 | .tim | .tim0 => 0x50 | .fen => 0x60 | .rmp | .wake => 0x61
  | .drl => 0x70 | .grn | .grnPop => 0x80 | .flw | .flwMb => 0x90
  | .hdlPort | .hdlRing | .hdlTrig | .hdlRpa | .hdlRes => 0xA0 | .mem | .mem0 => 0xB0
  | .pci => 0xC0 | .eth => 0xC1 | .smb => 0xC2 | .xsp => 0xC3 | .fec => 0xD0 | .jes => 0xE0

/-- EN is fixed at 1 and SRST does not act on these pages (Table 02-1); FLW page 0x179 has EN fixed. -/
def enFixed : PageKind → Bool
  | .chip | .flt | .hmk | .sec | .pwr | .flwMb => true
  | _ => false

/-- EN after reset (Table 02-1). -/
def enReset : PageKind → Bool
  | .time | .tod | .svc | .mem | .mem0 | .pci | .smb | .xsp => true
  | k => enFixed k

/-- The power domain of a page, by number (Table 01-1, R18). -/
def pageDomain (p : Nat) : Nat :=
  match pageKind p with
  | some .chip | some .flt | some .hmk | some .pwr | some .fen | some .rmp | some .wake | some .smb | none => 0
  | some .sec | some .svc | some .flw | some .flwMb => 1
  | some .gln | some .glnH | some .grn | some .grnPop => 2
  | some .pci | some .eth | some .xsp => 3
  | some .bankCfg | some .bankTs | some .bankCal | some .bankRfx => 4 + (p - 0x40) / 4
  | some .fec => 4 + (p - 0x194)
  | some .fur => if p - 0x80 < 17 then 12 else if p - 0x80 < 34 then 13 else if p - 0x80 < 50 then 14 else 15
  | some .mem | some .mem0 => if p - 0x188 < 4 then 16 else 17
  | some .acq | some .jes | some .hdlPort | some .hdlRing | some .hdlTrig | some .hdlRpa | some .hdlRes => 18
  | some .time | some .tod | some .tim | some .tim0 | some .drl => 19

/-- The common header of Table 02-2. BLK_CTL, IRQ_FORCE and LOCK act through their own operations. -/
def rowsHdr : List Reg :=
  [rRO 0x000 0, rRO 0x004 0, (rRW 0x008 5 0), rRO 0x00C 0,
   { rW1C 0x010 m32 0 with kept := false }, (rRW 0x014 m32 0).keep, rRO 0x018 0, (rW1C 0x01C m32 0).keep]
  ++ (rLat 0x020 1).map Reg.keep ++ [(rRC 0x028 m32).keep, (rW1C 0x02C 0x40000000 0).keep]

/-- Tables 01-6 to 01-9, 02-11 and 19-11. -/
def rowsChip : List Reg :=
  [{ rRW 0x080 0x7F 0x000A000A with w1c := 0x80000000 }] ++ rLat 0x084 1 ++ rLat 0x08C 1
  ++ [rW1C 0x094 0x82000000 0x7E3FFFFC, rRO 0x0A0 1, rRO 0x0A4 0, rRO 0x0A8 0]

/-- Table 03-16. -/
def rowsBankCfg : List Reg :=
  [rRW 0x080 0x107 0x101, rRW 0x084 0x013F0001 1, { rW1C 0x088 0x80000000 0 with kept := true },
   rW1C 0x08C 0x80000000 0x7000003F, rRC 0x090 m32, (rRW 0x100 0x17F 0x7F).arr 64 |>.keep]

/-- Tables 04-7 and 04-8; the entry window reads the tables of lane TS_SEL.LANE. -/
def rowsBankTs : List Reg :=
  [rRW 0x080 0x8000003F 0] ++ rPair 0x084 m32 m32
  ++ [rW1C 0x08C 0x80000000 0x70003F7F, rRC 0x090 m32, rRC 0x094 m32, (rRW 0x100 m32 0).arr 896 |>.keep]

/-- Tables 04-9 and 04-10. -/
def rowsBankCal : List Reg :=
  [rRW 0x080 0xC0000000 0x80000000, rW1C 0x084 0x28000000 0, rRO 0x088 0, rRO 0x08C 0,
   rRW 0x090 0x0F0FFFFF 0x000A0000] ++ rPair 0x094 m32 m32
  ++ rLat 0x09C 1
  ++ [rRO 0x0A4 0, rRW 0x0C0 0x7F 0, (rRO 0x100 0).arr 64, (rRW 0x200 m32 0).arr 64 |>.keep, (rRW 0x300 m32 0).arr 64 |>.keep]

/-- Tables 05-8 to 05-10. -/
def rowsBankRfx : List Reg :=
  (rPair 0x080 m32 m32).map Reg.keep
  ++ [rW1C 0x088 0xFFFF0000 0, rRO 0x08C 0, rW1C 0x090 0x80000000 0x7000000F, rRO 0x094 0] ++ rLat 0x098 1
  ++ [(rRW 0x0A0 m32 0).arr 8 |>.keep, (rRW 0x100 0xFF00003F 0).arr 16 16 |>.keep, (rRW 0x104 m32 0).arr 16 16 |>.keep]
  ++ (rPair 0x108 m32 m32).map (fun r => (r.arr 16 16).keep) ++ [(rRC 0x200 m32).arr 16]

/-- Tables 04-1 to 04-4, 06-11 to 06-13, 07-5, 07-6, 08-1 and 08-7, 08-8. The even and odd scramble
entries and GEN ranges have reset values of their own (`furReset`). -/
def rowsFur : List Reg :=
  [rRW 0x080 0x30000000 0, rW1C 0x084 0xC0000000 0, (rRW 0x088 1 0).keep, (rRW 0x08C 0xC00000FF 0).keep,
   (rRW 0x090 0x8000007F 0).keep, (rRW 0x094 0x1FFFFFF 0).keep, (rRW 0x098 0xFFFFFF 0).keep, rRO 0x09C 0]
  ++ (rPair 0x0A0 0xFFFFF000 m32).map Reg.keep ++ (rPair 0x0A8 0xFFFFF000 m32).map Reg.keep ++ rPair 0x0B0 m32 m32
  ++ rLat 0x0B8 1 ++ [(rW1C 0x0C0 0x80000000 0xFF).keep, (rRO 0x0C4 0).keep] ++ (rLat 0x0C8 1).map Reg.keep
  ++ [rW1C 0x0D0 0xFFFFF 0, rW1C 0x0D4 m32 0, rW1C 0x0D8 m32 0, (rRW 0x0E0 m32 0).arr 4 |>.keep] ++ rLat 0x0F0 1
  ++ [rRO 0x0F8 0, (rRW 0x100 m32 0).arr 12 |>.keep, (rRW 0x200 0xC07F01FF 0x100).keep, (rRW 0x204 0x7FFFFF 0).keep,
   (rRW 0x208 0xFFFF 256).keep, (rRW 0x20C m32 1024).keep, rRO 0x210 0, rRO 0x214 0, rRO 0x218 256000,
   rW1C 0x21C 0x60000000 0, (rW1C 0x220 0x80000000 0x783FFFFF).keep, (rRW 0x224 0xC0FFFFFF 0xC0000640).keep,
   rRC 0x228 0xFFFF, rRC 0x22C m32] ++ rLat 0x230 1 ++ rLat 0x238 1 ++ rLat 0x240 1
  ++ [(rRW 0x3F0 0x7F 0).keep, rW1C 0x3F4 0x80000000 0, (rRW 0x400 m32 16).arr 128 8 |>.keep, (rRW 0x404 0x3FF 0).arr 128 8 |>.keep,
   (rRW 0x800 m32 0).arr 64, rW1C 0x900 0x80000000 0x70000FFF, rRW 0x904 7 0, (rRW 0x940 m32 0).arr 16 |>.keep,
   (rRW 0x980 m32 0).arr 16 |>.keep, (rRW 0xA00 m32 0).arr 64 |>.keep]

/-- Tables 03-17 to 03-25. -/
def rowsFec : List Reg :=
  [{ rRW 0x080 0x7FFFF7FF 0x006433FF with w1c := 0x80000000 }, rRO 0x084 0, rRO 0x088 0, rRW 0x08C 0x703F0000 0]
  ++ rPair 0x090 m32 m32 ++ [rW1C 0x098 0xE0000000 0, rRO 0x09C 0, rRC 0x0A0 m32, rRO 0x0A4 0, (rRO 0x0C0 0).arr 8]

/-- Table 17-3. Channel 0's page also holds SCHED and CHANNELS. -/
def rowsMem : List Reg :=
  [rRO 0x080 0, rW1C 0x084 0x20000000 0, rRO 0x088 0, rRC 0x08C m32, rRC 0x090 m32, (rRW 0x094 0xFFFF 256).keep,
   { rRO 0x098 0 with pairing := .latLo 1 }, { rW1C 0x09C 0x80000000 0x4000FFFF with pairing := .latMem 1 }, (rRW 0x0A0 0xFF 24).keep]

/-- Page 0x188. -/
def rowsMem0 : List Reg := rowsMem ++ [rRC 0x0C0 0xFFFF0000, rRO 0x0C4 0]

/-- Table 17-6. -/
def rowsPci : List Reg :=
  [(rRO 0x080 0).keep] ++ (rPair 0x084 0xC0000000 m32).map Reg.keep
  ++ [rW1C 0x08C 0x80000000 0x30000000, rRC 0x090 m32, rRC 0x094 m32, (rRW 0x800 0x87FF87FF 0).arr 512 |>.keep]

/-- Table 17-8. -/
def rowsEth : List Reg :=
  [(rRW 0x080 0xC000FFFF 0x88B5).lockEn, rRW 0x084 0xFFFF 100, rRO 0x088 0, rRO 0x08C 0, rRC 0x090 m32, (rRW 0x100 m32 0).arr 11 |>.lockEn]

/-- Table 17-10. -/
def rowsSmb : List Reg := [rRW 0x080 0x80000000 0, rRC 0x084 m32]

/-- Table 17-11. -/
def rowsXsp : List Reg :=
  [(rRO 0x080 0).keep, rRW 0x084 0x300000FF 0, rRW 0x088 0xFFFFFFF 0, rW1C 0x08C 0xC0000000 0, rRW 0x090 0x80000000 0, (rRW 0x100 m32 0).arr 64]

/-- Table 19-12. -/
def rowsPwr : List Reg :=
  [rRO 0x080 0, rRW 0x084 0x4FFF0 0xFFFFF, rRO 0x088 0, rW1C 0x08C 0x80000000 0x7000001F, rRW 0x090 0xC0000000 0,
   rRW 0x094 m32 0, rW1C 0x098 0x80000000 0]

/-- Table 19-13. -/
def rowsSec : List Reg :=
  [rRO 0x080 0, rRW 0x084 1 0, rRW 0x088 0x7300007F 0, rW1C 0x08C 0x80000000 0, rRW 0x090 0x03700000 0, rW1C 0x094 0x10000000 0,
   rW1C 0x098 0x20000000 0, rRO 0x0A0 0, (rRW 0x0C0 m32 0).arr 12, (rRW 0x100 m32 0).arr 8, (rRO 0x200 0).arr 128,
   (rRO 0x400 0).arr 16, (rRW 0x440 m32 0).arr 48, (rRO 0x600 0).arr 256]

/-- One statistics unit of Table 09-11 at offset `b`. -/
def rowsStat (b : Nat) : List Reg :=
  [(rRW b 0x7F800000 0x04000000).keep, (rRW (b + 4) m32 0).keep, (rRW (b + 8) 0xFFFFFC00 0x1800).keep] ++ rLat (b + 0xC) 1
  ++ [rRO (b + 0x14) m32, rRO (b + 0x18) 0] ++ rLat (b + 0x1C) 1 ++ rLat (b + 0x24) 2 ++ rLat (b + 0x30) 1 ++ rLat (b + 0x38) 1

/-- One slice window of Tables 09-9 to 09-11 at offset `b`. -/
def rowsSlice (b : Nat) : List Reg :=
  [(rRW b 0xF8000000 0x88000000).keep, rW1C (b + 4) 0xC0000000 0, (rRW (b + 8) m32 0).keep, rRO (b + 0xC) 0, (rRW (b + 0x10) 0xF8000000 0x20000000).keep,
   (rRW (b + 0x14) 0x1FFFFFF 1).keep, (rRW (b + 0x18) 0x1FFFFFF 0).keep, (rRW (b + 0x1C) 0xFE0FFFFF 0x0C003E80).keep, (rRW (b + 0x20) m32 0).arr 4 |>.keep,
   (rRO (b + 0x30) 0).arr 2] ++ rLat (b + 0x38) 1 ++ rLat (b + 0x40) 1 ++ rLat (b + 0x48) 1 ++ rLat (b + 0x50) 1
  ++ rLat (b + 0x58) 1 ++ rLat (b + 0x60) 1 ++ rLat (b + 0x68) 1 ++ [(rRO (b + 0x70) 0).arr 3] ++ rLat (b + 0x80) 1
  ++ [(rRO (b + 0x88) 0).arr 3, (rRO (b + 0xA0) 0).arr 8] ++ rLat (b + 0xC0) 1 ++ rLat (b + 0xC8) 1 ++ rLat (b + 0xD0) 1
  ++ [rRO (b + 0xD8) 0] ++ rowsStat (b + 0x100) ++ rowsStat (b + 0x140) ++ rowsStat (b + 0x180) ++ rowsStat (b + 0x1C0)
  ++ [(rRO (b + 0x200) 0).arr 128]

/-- A GLN page without a histogram unit. -/
def rowsGln : List Reg := [rW1C 0x080 0x80000000 0x70000FFF] ++ rowsSlice 0x100 ++ rowsSlice 0x500

/-- GLN pages 0x100 to 0x10F also hold a histogram unit (Table 09-12). -/
def rowsGlnH : List Reg :=
  rowsGln ++ [(rRW 0x900 0x9F00033F 0).keep, (rRW 0x904 m32 0).keep, rRO 0x908 0, rRO 0x90C 0, (rRO 0xA00 0).arr 256]

/-- Table 10-5. -/
def rowsJes : List Reg :=
  ([rRW 0x080 0xFF0F0F03 0x01000002, rRW 0x084 m32 0x00080005, rRW 0x088 0x3FF 200, rRW 0x08C m32 0, rRW 0x090 0xC0FFFFFF 0x40040810,
   rRW 0x094 0x1FFF 0].map Reg.keep) ++ [rRO 0x098 0, (rRO 0x09C 0).keep, rRC 0x0A0 0xFFFFFF00] ++ (rLat 0x0A4 1).map Reg.keep ++ [rW1C 0x0AC 0x80000000 0x70000000]

/-- One channel window of Table 10-6 at offset `b`. -/
def rowsAcqCh (b : Nat) : List Reg :=
  [rRO b 0, rW1C (b + 4) 0xC0000000 0] ++ ([rRW (b + 8) 0xFF3FFFFF 0, rRW (b + 0xC) m32 0, rRW (b + 0x10) 0x80001FFF 0, rRW (b + 0x14) m32 1,
   rRW (b + 0x18) m32 1, rRW (b + 0x1C) 0x007F3F0F 0, rRW (b + 0x20) 0xFC3F3000 0x1000, rRW (b + 0x24) m32 0, rRW (b + 0x28) m32 0,
   rRW (b + 0x2C) m32 0, rRW (b + 0x30) 0xDFFFFFFF 0x10000000, rRW (b + 0x34) 0x1FFF 0, rRW (b + 0x38) 0xFFFF 0].map Reg.keep) ++ [rRO (b + 0x3C) 0,
   rRC (b + 0x40) m32] ++ rLat (b + 0x44) 1 ++ (rLat (b + 0x4C) 1).map Reg.keep ++ [(rRO (b + 0x54) 0).arr 2 |>.keep] ++ (rLat (b + 0x5C) 1).map Reg.keep

/-- An ACQ page: CFG_ERR and two channel windows. -/
def rowsAcq : List Reg := [rW1C 0x080 0x80000000 0x70000FFF] ++ rowsAcqCh 0x100 ++ rowsAcqCh 0x500

/-- Tables 11-6 and 11-7. -/
def rowsTim : List Reg :=
  [rRO 0x080 0, rW1C 0x084 0xC0000000 0, (rRW 0x088 0xFFC00000 0).keep, (rRW 0x08C 0xFDFFFDFF 0).keep, (rRW 0x090 m32 0).keep]
  ++ (rPair 0x094 m32 0x1FF).map Reg.keep ++ [(rRW 0x09C m32 0).keep] ++ (rPair 0x0A0 m32 0xFFFF).map Reg.keep
  ++ [rW1C 0x0A8 0x80000000 0x70000FFF, rRO 0x0AC 0, rRC 0x0B0 m32, rRC 0x0B4 m32]
  ++ rLat 0x0B8 1 ++ rLat 0x0C0 1 ++ rLat 0x0C8 1 ++ rLat 0x0D0 1 ++ [(rRO 0x0E0 0).arr 2]

/-- Page 0x140 also holds the TIM_IN inputs. -/
def rowsTim0 : List Reg := rowsTim ++ [(rRW 0x200 0x800F0FFF 0x800).arr 4 8 |>.keep, (rRW 0x204 m32 0).arr 4 8 |>.keep]

/-- One fence window of Table 12-5 at offset `b`. -/
def rowsFence (b : Nat) : List Reg :=
  ([rRW b 0xFFFFE000 0x0AC00000, rRW (b + 4) 0x003F0FFF 0x00040FFF, rRW (b + 8) 0x003F0FFF 0x00040000, rRW (b + 0xC) 0x1F1FFFFF 0x01010001,
   rRW (b + 0x10) 7 0].map Reg.keep) ++ [rRO (b + 0x14) 0, rW1C (b + 0x18) 0x80000000 0x403FFFFF] ++ rLat (b + 0x1C) 1 ++ rLat (b + 0x24) 1
  ++ [rRC (b + 0x2C) m32]

/-- A FEN page: CFG_ERR and three fence windows. -/
def rowsFen : List Reg := [rW1C 0x080 0x80000000 0x70000FFF] ++ rowsFence 0x100 ++ rowsFence 0x200 ++ rowsFence 0x300

/-- Table 12-6. -/
def rowsRmp : List Reg :=
  [rRO 0x080 0, (rRW 0x084 0xF83F330F 0x1000).keep, (rRW 0x088 0x0FFF0FFF 0x0FFF0000).keep, (rRW 0x08C 0xFFFF 0).keep, (rRW 0x090 0xFFFF 1).keep, rRO 0x094 0,
   rRC 0x098 m32, rW1C 0x0A0 0x80000000 0x70000FFF]

/-- The wake page (R390). -/
def rowsWake : List Reg := [rRW 0x080 0xFFFFFF 0, rW1C 0x084 0x80000000 0x4000001F]

/-- Tables 13-3 and 13-4; LIST_W reads the list memory. -/
def rowsDrl : List Reg :=
  [rRW 0x080 0x30000000 0, rW1C 0x084 0xE0000000 0, (rRW 0x088 0xC000003F 0).keep, (rRW 0x08C 0x0FFF0FFF 0x0FFF0000).keep] ++ rPair 0x090 m32 m32
  ++ [(rRW 0x098 0x83FFFFFF 0).keep, rRC 0x09C m32, rW1C 0x0A8 0x80000000 0x70000FFF, rRW 0x0B0 0xFFF 0, (rRW 0x0B4 m32 0).arr 4,
   (rRW 0x100 0xE7FF0000 0).keep, (rRW 0x104 0xFFFFF 1024).keep, (rRW 0x108 0x3FFF 0).keep, rRC 0x10C m32]

/-- Tables 14-4 and 14-5; QDESC shows the staged window. -/
def rowsGrn : List Reg :=
  rPair 0x080 0xFE000000 m32
  ++ [rRW 0x088 0xFFFFF 0, rRO 0x08C 0, rW1C 0x090 0x80000000 0x700FFFFF, rW1C 0x094 0x80000000 0xFFFFF, rRC 0x098 0xFFFF0000,
   rRW 0x0A0 0xFFFFF000 0, rRW 0x0A4 m32 0, (rRO 0x0A8 0).arr 5, rRW 0x0BC 0x80FF0000 0, (rRC 0x0C0 m32).arr 3]
  ++ (rPair 0x100 0xFFFFF000 m32).map (fun r => (r.arr 16 16).keep)
  ++ [{ rRW 0x108 0x87FF001F 0x2000000C with w1c := 0x40000000, n := 16, stride := 16, kept := true }, (rRC 0x10C m32).arr 16 16 |>.keep,
   (rRW 0x200 m32 0).arr 16 |>.keep, (rRO 0x240 0).arr 16 |>.keep, (rRW 0x300 0xFF003FFF 0).arr 64 |>.keep]

/-- Table 14-6; the values are each path's own. -/
def rowsGrnPop : List Reg := [rRW 0x080 0xFFFFF 0, rRO 0x084 0, rW1C 0x088 0xC0000000 0]

/-- Table 15-10. -/
def rowsFlw : List Reg :=
  (rPair 0x080 0xFFFFFFF0 m32).map Reg.keep ++ [(rRW 0x088 0x1FFFF 0).keep] ++ (rPair 0x08C 0xFFFFF000 m32).map Reg.keep
  ++ [(rRW 0x094 0xC00FFFFF 0).keep, rRC 0x098 m32, rRC 0x09C m32, rRC 0x0A0 0xFFFF0000, rRO 0x0A4 30, (rRW 0x0C0 m32 0).arr 8 |>.keep, rRO 0x100 0,
   (rRW 0x104 m32 0).arr 4, rW1C 0x114 0x60000000 0, (rRO 0x118 0).arr 4]

/-- Table 15-11. -/
def rowsFlwMb : List Reg :=
  (rPair 0x800 0xFFFFFFC0 m32).map (fun r => r.arr 64 32)
  ++ [(rRW 0x808 0x10FF7FFF 0).arr 64 32, (rRO 0x80C 0x007F0000).arr 64 32, (rRO 0x810 0).arr 64 32, (rRO 0x814 0).arr 64 32,
   (rRO 0x818 0).arr 64 32, (rRO 0x81C 0).arr 64 32]

/-- Tables 04-11, 13-5 and 16-6. -/
def rowsTime : List Reg :=
  [rRW 0x080 0xB000FFFF 0x80000384, rW1C 0x084 0x02000000 0, rRW 0x088 0xFFFF 10,
   { rRW 0x0C0 0x3FFF 0 with w1c := 0x80000000 }, rRW 0x100 0xE000FFFF 1, rRW 0x104 0xFFFF 0, rRW 0x108 0xFFFF 0,
   rW1C 0x10C 0xC0000000 0] ++ rLat 0x110 1

/-- Table 16-7. -/
def rowsTod : List Reg :=
  [rRW 0x080 0x3000FFFF 1600, rRW 0x084 0x8000FFFF 0, { rW1C 0x088 0x34000000 0 with rst := 0x80000000 }, rRO 0x08C 0]
  ++ (rLat 0x090 1 ++ rLat 0x098 1).map Reg.keep ++ [(rRO 0x0A0 0).keep] ++ rPair 0x0A4 m32 m32 ++ [rRW 0x0AC m32 0] ++ rLat 0x0B0 4
  ++ rLat 0x0C4 3 ++ [rRC 0x0D4 m32, rRC 0x0D8 m32]

/-- Table 16-8. -/
def rowsHdlRing : List Reg :=
  [(rRW 0x080 0xFC000000 0x38000000).keep, (rRW 0x084 0x03FF0000 0).keep, rW1C 0x088 0x20000000 0, (rW1C 0x08C 0x40000000 0).keep,
   (rRW 0x090 0xFFFF 0).keep, rRO 0x094 0, rRC 0x098 m32]

/-- Table 16-9. -/
def rowsHdlPort : List Reg :=
  [(rRW 0x080 0x4000000F 0x40000000).keep, rRO 0x084 0, (rRO 0x088 0).keep, rRC 0x08C m32, rRC 0x090 m32]

/-- Table 16-10. -/
def rowsHdlTrig : List Reg :=
  [(rRW 0x080 0xC00000FF 0).arr 4 |>.keep] ++ (rLat 0x0A0 1).map (fun r => r.arr 4 8)
  ++ [(rRW 0x0C0 0xFBFC0FFF 0x40008).arr 4 |>.keep, rRO 0x0D0 0, (rRW 0x100 0xF03F3000 0x1000).arr 16 |>.keep, rRO 0x140 0,
   rW1C 0x144 m32 0] ++ rLat 0x148 1

/-- Table 16-11, page 0x184. -/
def rowsHdlRpa : List Reg :=
  [(rRW 0x080 0x43FF0000 0).keep, (rRW 0x084 0x3FFFFC 0).keep, (rRW 0x088 m32 0).keep, rW1C 0x08C 0x40000000 0, (rRW 0x090 0xFFFF 100).keep]

/-- Table 16-11, page 0x185. -/
def rowsHdlRes : List Reg := [(rRW 0x080 0x83FF0000 0).keep, (rRW 0x084 0x800FFFFF 0).keep, rRC 0x088 m32, rRC 0x08C m32, rRC 0x090 m32]

/-- Table 18-9; the source window shows the source SRC_SEL names. -/
def rowsFlt : List Reg :=
  [rRW 0x080 0xFF 0, rRW 0x084 0x0800003F 0, rW1C 0x088 0x80000000 0, rRC 0x08C m32] ++ rLat 0x090 1 ++ rLat 0x098 1
  ++ [(rW1C 0x0A0 m32 0).arr 8, rRW 0x0C0 0x80003FFF 100, rRC 0x0C4 m32, { rRW 0x0C8 0x18000000 0x98000000 with w1c := 0x20000000 }]
  ++ rLat 0x0CC 1 ++ [rRO 0x0D4 0, rRW 0x0D8 0xFFFF 1600, rW1C 0x0DC 0x80000000 0, rRW 0x0E0 0x40000000 0, rRW 0x0E4 0x800FFFFF 0,
   rW1C 0x0E8 0x30 0, rRW 0x0EC 0xFFFF 64]

/-- Table 18-10; RD_DATA reads the journal. -/
def rowsHmk : List Reg :=
  [rW1C 0x080 0x20000000 0, rRO 0x084 0, rRO 0x088 0] ++ rLat 0x08C 1 ++ [rRC 0x094 m32, (rRO 0x098 0).arr 5, rRW 0x0C0 0x1FFF 0,
   (rRO 0x100 0).arr 64]

/-- The block registers of a page kind, at 0x080 and above. -/
def rowsOf : PageKind → List Reg
  | .chip => rowsChip | .time => rowsTime | .flt => rowsFlt | .hmk => rowsHmk | .sec => rowsSec | .pwr => rowsPwr
  | .tod => rowsTod | .svc => [] | .bankCfg => rowsBankCfg | .bankTs => rowsBankTs | .bankCal => rowsBankCal
  | .bankRfx => rowsBankRfx | .fur => rowsFur | .gln => rowsGln | .glnH => rowsGlnH | .acq => rowsAcq | .tim => rowsTim
  | .tim0 => rowsTim0 | .fen => rowsFen | .rmp => rowsRmp | .wake => rowsWake | .drl => rowsDrl | .grn => rowsGrn
  | .grnPop => rowsGrnPop | .flw => rowsFlw | .flwMb => rowsFlwMb | .hdlRing => rowsHdlRing | .hdlPort => rowsHdlPort
  | .hdlTrig => rowsHdlTrig | .hdlRpa => rowsHdlRpa | .hdlRes => rowsHdlRes | .mem => rowsMem | .mem0 => rowsMem0
  | .pci => rowsPci | .eth => rowsEth | .smb => rowsSmb | .xsp => rowsXsp | .fec => rowsFec | .jes => rowsJes

/-- Whether row `r` holds the register at page offset `o`. -/
def Reg.hits (r : Reg) (o : Nat) : Bool :=
  decide (r.off ≤ o) && decide ((o - r.off) % r.stride = 0) && decide ((o - r.off) / r.stride < r.n)

/-- The register at BAR0 offset `a`, when the map assigns one (R49, R50). -/
def regAt (a : Nat) : Option Reg :=
  match pageKind (a / 0x1000) with
  | none => none
  | some k => (if a % 0x1000 < 0x80 then rowsHdr else rowsOf k).find? (fun r => r.hits (a % 0x1000))

/-- The reset values of a FUR page that differ between registers of one array: MAP.LOGICAL (R19), the
generator ranges (Table 08-1) and the identity scramble maps (R250). -/
def furReset (e o : Nat) : Option Nat :=
  if o = 0x090 then some (if e < 64 then e else 0x7F)
  else if o = 0x81C || o = 0x828 then some m32
  else if o = 0x820 || o = 0x82C then some 1
  else if o = 0x834 then some 0xFFFFFF
  else if o = 0x850 then some 0x4003
  else if o = 0x854 then some 0x7F7F7F7F
  else if 0x940 ≤ o && o < 0x9C0 then some (0x10000 + 0x20002 * ((o % 0x40) / 4))
  else none

/-- The blocks that need no configuration, training or calibration of their own and so reset with
READY at 1: those whose chapter makes READY wait for nothing. -/
def readyAtReset : PageKind → Bool
  | .bankCfg | .bankTs | .bankCal | .bankRfx | .mem | .mem0 | .grn | .grnPop | .chip | .xsp | .fec | .time | .hmk | .sec => false
  | _ => true

/-- The header registers that differ between pages after reset: BLK_ID, EN and BLK_STAT. -/
def hdrReset (k : PageKind) (p o : Nat) : Nat :=
  if o = 0 then blkType k * 0x10000 + (p - pageBase p) * 0x100 + (if k = .chip then 0x42 else 0)
  else if o = 8 then (if enReset k then 1 else 0)
  else if o = 0xC then (if readyAtReset k then (if enReset k then 5 else 4) else 0)
  else 0

/-- The value of the register at BAR0 offset `a` after reset (R65). -/
def regReset (a : Nat) : Word :=
  match pageKind (a / 0x1000) with
  | none => 0
  | some k =>
    if a % 0x1000 < 0x80 then w32 (hdrReset k (a / 0x1000) (a % 0x1000))
    else
      match (if k = .fur then furReset (a / 0x1000 - 0x80) (a % 0x1000) else none) with
      | some v => w32 v
      | none =>
        match (rowsOf k).find? (fun r => r.hits (a % 0x1000)) with
        | some r => w32 r.rst
        | none => 0

end Sys2Proof.Machine
end

