-- ==== Sys2Proof/Machine/State.lean ====
section
/-! DEFINITION. The state of the device as plain data: the register file, the memories, the hidden
state of every block, what has left the device, and the queue of waiting commands. -/
namespace Sys2Proof.Machine

/-- A sparse table by number, in one canonical form: rising keys, no entry equal to the default. -/
abbrev NMap (α : Type) := List (Nat × α)

/-- Why a step stops. The spec gives every command of the table an effect, so no meaning raises a fault. -/
inductive Fault where
  /-- Raised by no meaning; the type is closed. Safe: nothing is claimed of it. -/
  | none
  deriving DecidableEq, Repr

/-- Why a step is refused. -/
inductive Refusal where
  /-- Raised by `exec` for a command that has no meaning yet. Safe: the run stops. -/
  | notModelled (mnemonic : String)
  deriving DecidableEq, Repr

/-- A row symbol, Table 05-1. -/
abbrev Sym := BitVec 3

/-- The state of a drive lane (R76). -/
inductive DState where
  | d0 | d1 | p
  deriving DecidableEq, Repr

/-- One access path's private staging: the read latch and write staging register of R56 and R57, the
period staging latch of R119, the timing-set staging entry of R120, the drill list staging of R395
and the pop port of R428 (claim, next word, value last read, flags). -/
structure PathSt where
  latchGrp : Option Nat := none
  latch : List Word := []
  stage : Option (Nat × Word) := none
  per : Option (Nat × Nat × Word) := none
  edge : Option (Nat × Nat × List (Nat × Word)) := none
  list : NMap Word := []
  claim : Option Nat := none
  popWord : Nat := 0
  /-- LEN of the record that the port delivers, as its header was read (R428). -/
  popLen : Nat := 0
  popLast : Word := 0
  popUnder : Bool := false
  popRefused : Bool := false
  underMc : Nat := 0
  refusedMc : Nat := 0
  deriving DecidableEq, Repr

/-- What a placed drive event does to a lane (Table 05-2); a lane is gated on to drill `d` at drill time `td`, and follows the
edges of the drill it is gated on to, each to state `st` at drill time `td`. -/
inductive Drv where
  | to (d : DState)
  | gateOn (d td : Nat)
  | gateOff (d : DState)
  | drill (d td : Nat) (st : DState)
  deriving DecidableEq, Repr

/-- A placed drive event: time at the balls in vs, the row that scheduled it, and its action. -/
structure Ev where
  t : Nat
  row : Nat
  act : Drv
  deriving DecidableEq, Repr

/-- A report of the sense decoder (R83): the time from which it holds, the state, the crossing that began it, and the time at
which it counts as occurring (R156). -/
structure SRep where
  t : Nat
  st : SState
  u : Nat
  m : Nat
  deriving DecidableEq, Repr

/-- A drive and sense lane (R73, R76, R83, R127): the state of the formatted row stream, the state at
the balls with the time of its last transition, the placed events, the sense decoder and the health
conditions. -/
structure Lane where
  fmt : DState := .p
  gate : Bool := false
  drive : DState := .p
  lastT : Option Nat := none
  lastEv : Option Nat := none
  evs : List Ev := []
  parked : Bool := true
  /-- The park conditions' changes, newest first: the time and the value from then on (R152). -/
  parkHist : List (Nat × Bool) := []
  /-- Writes of its bank's EN that have still to reach it: the first row of its owner they apply to, and whether it
  parks from there (R33, R112). -/
  parks : List (Nat × Bool) := []
  raw : SState := .m
  mSince : Option Nat := none
  /-- The report of the 1/8 mc step in which the lane last changed, until the step is over (R83, R278). -/
  held : Option SRep := none
  rep : List (Nat × SState) := []
  /-- The drill that the lane was last gated on to (R147). -/
  clk : Nat := 0
  st0 : List (Nat × Nat) := []
  st1 : List (Nat × Nat) := []
  ioFail : Bool := false
  sliceFail : Bool := false
  isOpen : Bool := false
  /-- Its changes, newest first (R84, R148). -/
  openHist : List (Nat × Bool) := []
  suspect : Bool := false
  /-- Returned to its own slice, which has still to pass calibration (R109). -/
  unproven : Bool := false
  deriving DecidableEq, Repr

/-- A front-end command waiting on a bank's control bus (R91, R97). -/
structure FecCmd where
  chip : Nat
  kind : Nat
  addr : Nat
  data : Nat
  /-- 0 software command, 1 frame of an amplitude group, 2 status poll, 3 FE_ID read of R103. -/
  src : Nat
  retries : Nat := 0
  /-- A group's frame that has been sent and is not to be sent again, and the SEQ it was sent with. -/
  fly : Bool := false
  /-- The frame has been sent, whatever came of it (R405). -/
  sent : Bool := false
  seqno : Nat := 0
  /-- The frame has been answered ACK, or is a broadcast that has been or is being sent. -/
  acked : Bool := false
  /-- The mc in which the answer was received, or in which the broadcast has been sent. -/
  ackT : Nat := 0
  deriving DecidableEq, Repr

/-- What a closed group waits for (R95 to R99). -/
inductive GrpTarget where
  | none | ts (t : Nat) | furrow (f : Nat) | drill (d : Nat)
  deriving DecidableEq, Repr

/-- A closed group of armed writes: its frames, its target and the target time in vs once known. -/
structure Group where
  frames : List FecCmd
  target : GrpTarget
  time : Option Nat := none
  /-- The mc in which the group became complete. -/
  done : Option Nat := none
  amp : Option Nat := none
  deriving DecidableEq, Repr

/-- One bank's front-end control bus (R88 to R105). -/
structure FecBus where
  seq : Nat := 0
  opn : List FecCmd := []
  groups : List Group := []
  imm : List FecCmd := []
  polls : List FecCmd := []
  /-- Frames that wait for their response, oldest first: command and first FCK cycle. -/
  outs : List (FecCmd × Nat) := []
  rsp : List Word := []
  ovf : Bool := false
  nextPoll : Nat := 0
  /-- First FCK cycle in which the next frame slot is free. -/
  freeAt : Nat := 0
  /-- The first FCK cycle of the bus reset in progress. -/
  resetAt : Option Nat := none
  /-- First FCK cycle in which the head group's frames may begin: after the APPLY of the group before it (R97). -/
  grpAt : Nat := 0
  /-- First FCK cycle in which FSYNC may go high again (R90). -/
  syncAt : Nat := 0
  /-- A drain has discarded groups behind the head group: a bus reset follows the last APPLY (R105). -/
  rstDue : Bool := false
  deriving DecidableEq, Repr

/-- A board deskew in progress (R133): the TIM channel held, 2^REPS and LOOP_DLY as they were at START, every lane masked
then, the lanes still to be measured with the one under way at the head, the mc of its first transition, the transitions it
has made, the launch whose stop is awaited, and the sum of its measurements; `bad` when some stop did not come in time. -/
structure Dsk where
  tim : Nat
  n : Nat
  loop : Nat
  mask : List Nat
  todo : List Nat
  start : Nat
  k : Nat := 0
  wait : Option Nat := none
  sum : Nat := 0
  bad : Bool := false
  deriving DecidableEq, Repr

/-- One bank's calibration engines (R133, R137). -/
structure CalSt where
  lastSwap : Option Nat := none
  /-- Slices swapped in the mc of the latest swap. -/
  swapped : List Nat := []
  ready : List Nat := []
  dsk : Option Dsk := none
  /-- Swaps that each slice has made since its block was loaded (Table 04-6). -/
  swaps : NMap Nat := []
  /-- The first row of its lane's owner that the latest swap of a slice acts on (R137, R139). -/
  swapRow : NMap Nat := []
  lastBg : Option Nat := none
  /-- The mc of the latest write that set OPEN_EN (R84). -/
  openEn : Option Nat := none
  /-- Spares found out of range, bit 0 spare A, bit 1 spare B (R141). -/
  badSpare : Nat := 0
  deriving DecidableEq, Repr

/-- One reflex rule's pending firing and hold (R156, R157): the mc of the governing entry, the mc in which
the trigger lane left the state, the mc at whose start the drive begins and whether it has begun, the
lanes acted on, and the rule's mode, drive state and length as they were at the firing. -/
structure Hold where
  active : Bool := false
  m : Nat := 0
  n : Option Nat := none
  start : Nat := 0
  begun : Bool := false
  lanes : List Nat := []
  mode : Nat := 0
  d : Nat := 0
  len : Nat := 0
  /-- A hold ended by software or a reset ends at the start of this mc. -/
  endAt : Option Nat := none
  /-- Later firings that start holds of their own once this one has ended, oldest first: entry, leave, lanes. -/
  queue : List (Nat × Option Nat × List Nat) := []
  deriving DecidableEq, Repr

/-- One strobe of an issued row (R126, R148, R152). -/
structure Strobe where
  lane : Nat
  slot : Nat
  which : Nat
  t : Nat
  sym : Sym
  cmp : Nat
  masked : Bool
  /-- Placed under R129; and counted in s_last of R153: not suppressed, as far as the formatter knew, by an earlier row. -/
  placed : Bool
  counted : Bool
  smp : Option SState := none
  fail : Option Bool := none
  deriving DecidableEq, Repr

/-- What kind of row the furrow issued (R177, R189, R194, R196, R233). -/
inductive RowKind where
  | own | hold | drain | sync | idle
  deriving DecidableEq, Repr

/-- An issued row of one engine, kept until its Gleaner slice has taken it. -/
structure Row where
  k : Nat
  t : Nat
  len : Nat
  set : Nat
  idx : Nat
  kind : RowKind
  syms : List Sym
  mkEv : Nat
  rmsk : Nat
  x : Nat
  y : Nat
  z : Nat
  dmask : List Nat
  strobes : List Strobe
  flagT : Nat
  flagged : Bool := false
  rowFail : Bool := false
  rowMatch : Bool := false
  ticked : Bool := false
  tinv : Bool := false
  /-- The launch and sample adjustments of each slot in force for the row (R137). -/
  adjs : List (Nat × Nat) := []
  /-- Latch clear of a SET that acts at the row's start: REG and VALUE (R182, R183). -/
  clr : Option (Nat × Nat) := none
  /-- An idle or substituted row: CAUSE, instruction index and SKIP of its episode (R236). -/
  idl : Option (Nat × Nat × Bool) := none
  deriving DecidableEq, Repr

/-- A saved point of program state (R190). -/
structure Ckpt where
  pc : Nat
  loops : List (Nat × Nat)
  calls : List Nat
  tile : Nat
  row : Nat
  cnt : List Nat
  tmo : Bool
  tsb : Nat
  gen : List Word
  /-- Generator registers of the yoke's members, by engine. -/
  mgen : List (Nat × List Word)
  deriving DecidableEq, Repr

/-- A pending sampled branch (R187 to R192). -/
structure Pend where
  idx : Nat
  cond : Nat
  sel : Nat
  clr : Bool
  hold : Bool
  link : Bool
  target : Nat
  k : Nat
  tD : Nat
  dec : Option Bool := none
  ck : Ckpt
  deriving DecidableEq, Repr

/-- A hopper or pin entry (R216): an instruction word with its data and its error mark once returned, or
a stored row, which is present once its tile has been read; and the mc since which the entry is there. -/
inductive HopEnt where
  | word (idx : Nat) (data : Option (BitVec 64 × Bool)) (since : Nat)
  | row (tile row since : Nat)
  deriving DecidableEq, Repr

/-- The prefetcher's own copy of program state (R217). -/
structure Walk where
  pc : Nat := 0
  loops : List (Nat × Nat) := []
  calls : List Nat := []
  cnt : List Nat := []
  tile : Nat := 0
  row : Nat := 0
  /-- Rows of the current instruction still to request. -/
  left : Nat := 0
  /-- The cursor after those rows, where the walk has passed a loop that a pin holds. -/
  curAfter : Option (Nat × Nat) := none
  /-- The walk ends once the rows left are requested: a HALT, or a word it cannot pass. -/
  stopped : Bool := true
  deriving DecidableEq, Repr

/-- A pin of the loop cache (R224): the body of a loop or the target path of a branch. -/
structure Pin where
  /-- The LOOP or BR that made the pin. -/
  owner : Nat
  body : Bool
  /-- First instruction index the pin serves. -/
  start : Nat
  ents : List HopEnt
  bytes : Nat
  used : Nat
  /-- Its number on the yoke's engines. -/
  no : Nat
  deriving DecidableEq, Repr

/-- A tile as the device holds it after TILE_READ (R212): the cause that makes it bad (0 when it is
good), its row count, the tile that follows it, its rows as runs of equal images, and the mc in which it came. -/
structure Tile where
  cause : Nat
  rows : Nat
  next : Nat
  runs : List (Nat × List Sym)
  since : Nat := 0
  deriving DecidableEq, Repr

/-- Why the furrow issues drain rows (R194, R213, R237): a bad tile with the engines that read it and its causes, a starve with the
engines that starve. -/
inductive Drain where
  | fault (code idx : Nat) | halt (w : BitVec 64) (idx : Nat) | tile (bad : List (Nat × Nat)) (t : Nat) | starve (es : List Nat) (idx : Nat)
  deriving DecidableEq, Repr

/-- A starvation episode in progress (R236). -/
structure Epi where
  first : Nat
  count : Nat
  ts : Nat
  cause : Nat
  idx : Nat
  skip : Bool
  deriving DecidableEq, Repr

/-- The hidden state of one furrow engine (R164 to R240). -/
structure Furrow where
  slots : List Nat := []
  pc : Nat := 0
  /-- The instruction being issued: word, index, rows issued of it. -/
  cur : Option (BitVec 64 × Nat × Nat) := none
  /-- The end code of the finished instruction still to act: LEND is 1, RET is 2. -/
  endc : Nat := 0
  lastTs : Nat := 0
  prev : List Sym := []
  tNext : Nat := 0
  armed : Nat := 0
  startMc : Option Nat := none
  loops : List (Nat × Nat) := []
  calls : List Nat := []
  tile : Nat := 0
  row : Nat := 0
  pend : List Pend := []
  waitRows : List (Nat × Nat × Option Bool) := []
  /-- The mc in which the latest row with a decision at its start begins (R23). -/
  selC : Option Nat := none
  syncT : Nat := 0
  issued : List Row := []
  taken : Nat := 0
  drain : Option Drain := none
  /-- A transfer of control that faults: code and transferring index (R202). -/
  xfault : Option (Nat × Nat) := none
  /-- A stop request: the mc in which it was accepted, and its CAUSE (R170, R172). -/
  stop : Option (Nat × Nat) := none
  /-- Cause with which the furrow will stop once its issued rows complete, and the engines of the yoke that it comes from (R201). -/
  ending : Option Nat := none
  endBy : List Nat := []
  /-- The lanes have parked at the end of the last row (R171). -/
  halted : Bool := false
  /-- CTL.MODE of the accepted START (R168). -/
  mode : Nat := 0
  /-- For each latch, its latest setting in vs (R183): 0 the sticky fail latch, 1 + j trigger latch j, 21 + c mask-violation
  latch c. -/
  latAt : NMap Nat := []
  /-- The changes of each latch, newest first: the time and the value from then on (R184, R187). -/
  latHist : NMap (List (Nat × Bool)) := []
  /-- Latch clears of taken branches and ended waits that act in a later mc: that mc, COND, SEL and t_d (R191). -/
  clrs : List (Nat × Nat × Nat × Nat) := []
  hop : List HopEnt := []
  /-- The rows of the lead's walk that a yoke member has still to take into its hopper (R223). -/
  want : List (Nat × Nat) := []
  /-- The tiles that have been requested from memory and have not returned (R217, R526). -/
  asked : List Nat := []
  tiles : NMap Tile := []
  pins : List Pin := []
  walk : Walk := {}
  /-- A taken branch's refill has not reached the path yet (R238, R240). -/
  miss : Bool := false
  /-- The number of the target pin that serves the path now, and what it has still to serve (R226). -/
  srv : Option Nat := none
  path : List HopEnt := []
  /-- The tile that the walk has read last, and a tile that it read again and found bad, with the cause (R217, R241). -/
  wtile : Option Nat := none
  reBad : Option (Nat × Nat) := none
  lcCfg : Nat := 0
  policy : Bool := false
  epi : Option Epi := none
  /-- The first idle row of the run, on every engine of the yoke (R235). -/
  idleK : Option Nat := none
  demand : Nat := 0
  /-- The placement epoch latched at START (R438). -/
  epoch : Nat := 0
  deriving DecidableEq, Repr


/-- The single-ended output pins the device drives. -/
inductive Pin1 where
  | quenchN | errN | replaceN | syncOut | txDisable | xspWpN
  deriving DecidableEq, Repr

/-- A host request of the memory window that waits for a channel's recalibration (R525): write or read, its address, the number of
bytes read, whether the read meets an uncorrectable error, and the bytes written. -/
structure HostReq where
  write : Bool
  a : Nat
  n : Nat := 0
  err : Bool := false
  data : List Byte := []
  deriving DecidableEq, Repr

/-- The PCIe function's hidden state (R529, R532 to R534): configuration bits, the MSI-X table in words
of 32 bits (four a vector) and the pending-bit array. -/
structure PciSt where
  bme : Bool := false
  fmask : Bool := false
  table : NMap Word := []
  pba : NMap Bool := []
  /-- Host requests that a channel holds, oldest first (R525). -/
  held : List HostReq := []
  deriving DecidableEq, Repr

/-- An MSI-X table word after reset: Vector Control has its mask bit set (PRESUMED, PCIe Base 5.0). -/
def msixDflt (i : Nat) : Word := if i % 4 = 3 then 1 else 0

/-- A record that a queue holds at or beyond COMMIT: its position, units reserved, whether it has closed,
and the epoch it counts for. -/
structure GRec where
  pos : Nat
  units : Nat
  opn : Bool
  epoch : Nat
  sys : Bool
  typ : Nat
  flags : Nat
  seq : Nat
  ts : Nat
  warm0 : Bool
  /-- Bytes the producer has written so far. -/
  written : Nat
  /-- SITE of the header, and whether the record is a copy that keeps its original's flags (R467, R509). -/
  site : Nat
  raw : Bool
  deriving DecidableEq, Repr

/-- A queue descriptor (Table 14-1) with the Granary's own account of the queue: records from COMMIT on,
record boundaries in the ring, the overflow episode, records of each epoch, seals asked for and in force. -/
structure Queue where
  w0 : Nat := 0
  w1 : Nat := 0
  wrp : Nat := 0
  commit : Nat := 0
  rdp : Nat := 0
  seq : Nat := 0
  mark : Nat := 0
  en : Bool := false
  armed : Bool := false
  wmHit : Bool := false
  markValid : Bool := false
  markLost : Bool := false
  ovf : Bool := false
  under : Bool := false
  wm : Nat := 0
  peak : Nat := 0
  drops : Nat := 0
  recs : List GRec := []
  bounds : List Nat := []
  epi : Option (Nat × Nat × Nat) := none
  counts : NMap Nat := []
  sealReq : List Nat := []
  sealed : List Nat := []
  deriving DecidableEq, Repr

/-- A record offered to the Granary: the queue, type, flags, epoch, declared length and bytes after the
header; `whole` when the producer closes it at once. -/
structure Offer where
  q : Nat
  typ : Nat
  flags : Nat
  epoch : Nat
  sys : Bool
  len : Nat
  ts : Nat
  body : List Byte
  whole : Bool
  /-- The producer's own number for a record left open. -/
  tag : Nat
  /-- SITE of the original of a copy, which keeps its original's flags (R467, R509). -/
  site : Option Nat := none
  deriving DecidableEq, Repr

/-- The Granary (R415 to R448): descriptors by queue, the cache in least-recently-used order (latest
first), the intake buffer, the staged window, the QCMD in progress, ring phases, and the records that
producers hold open (producer's tag, queue, position). -/
structure GrnSt where
  queues : NMap Queue := []
  cache : List Nat := []
  intake : List Offer := []
  /-- Records that a full intake has left with their producers (R443). -/
  kept : List Offer := []
  win : List Nat := []
  busy : Option (Nat × Nat × Nat) := none
  initing : Bool := false
  opens : List (Nat × Nat × Nat) := []
  deriving DecidableEq, Repr

/-- An occurrence that the current command has raised: source, cause bit, and the resource whose
condition begins (R544, R545). -/
structure Raised where
  src : Nat
  cause : Nat
  res : Nat
  /-- The occurrence that follows the close of a shadow is primary whatever shadow is open (R574). -/
  prim : Bool := false
  /-- The detection mc, where it lies before the current mc (R544). -/
  t : Option Nat := none
  deriving DecidableEq, Repr

/-- The evidence of one fault source (R549 to R552) with its reaction mask and JOURNAL bit where
software has changed them. -/
structure SrcSt where
  sticky : Bool := false
  /-- The resources whose condition lasts; LIVE is 1 while any is listed. -/
  live : List Nat := []
  /-- Cause bits of the latest occurrence. -/
  cause : Nat := 0
  transient : Bool := false
  conseq : Bool := false
  prereset : Bool := false
  parent : Nat := 0
  count : Nat := 0
  first : Nat := 0
  last : Nat := 0
  react : Option Nat := none
  journal : Option Bool := none
  /-- SRC_STAT has been read since the latest occurrence (R551). -/
  looked : Bool := false
  /-- Field tick of the last Granary FAULT record, and occurrences since (R575). -/
  recTick : Option Nat := none
  unrec : Nat := 0
  /-- Second of operation of the last Hallmark FAULT record, and occurrences since (R559). -/
  jSec : Option Nat := none
  unj : Nat := 0
  /-- What a W1C of STICKY cleared: its mc, and TRANSIENT, CONSEQ, PRERESET and PARENT as they were (R17, R549). -/
  undo : Option (Nat × Bool × Bool × Bool × Nat) := none
  deriving DecidableEq, Repr

/-- An open reaction shadow (R570): its opener, the page in block reset (none for Quench), the held
sources, the sources it has held, and when it closes once known. -/
structure Shadow where
  opener : Nat
  page : Option Nat
  t0 : Nat
  scope : List Nat
  heldIds : List Nat := []
  heldN : Nat := 0
  closeAt : Option Nat := none
  deriving DecidableEq, Repr

/-- The fault collector's hidden state: the sources, the open shadows in order of opening, the ERR#
timing of R560 and R561, and the chip reset of R558 that waits. -/
structure FltSt where
  srcs : NMap SrcSt := []
  shadows : List Shadow := []
  errEnd : Nat := 0
  /-- The mc in which ERR# last rose. -/
  errHigh : Option Nat := none
  errPend : Bool := false
  errClr : Bool := false
  /-- Source and latest mc of a waiting CHIP_RST, and whether its FAULT record has committed. -/
  chipRst : Option (Nat × Nat × Bool) := none
  /-- Quench has been entered and has not reached the lanes yet, and the mc in which it does (R564). -/
  quenchPend : Bool := false
  quenchMc : Nat := 0
  /-- The mc of the latest reactions, the REACT bits that have acted in it, and the pages whose EVT_COUNT has
  gained in it (R554, Table 02-10). -/
  acted : Option (Nat × Nat × List Nat) := none
  /-- An accepted RELEASE whose mc has not passed yet (R566, R567). -/
  rel : Option Nat := none
  /-- The mc of a write of INJECT.PULSE. -/
  pulse : Option Nat := none
  /-- SRAM_CE occurrences in the current hour of operation. -/
  sramHour : Nat := 0
  deriving DecidableEq, Repr

/-- A queued Hallmark record (R577, R581): its priority, kind, flags, times, counts and body. -/
structure HmkRec where
  prio : Nat
  kind : Nat
  /-- The fault source of a FAULT record. -/
  src : Nat
  flags : Nat
  ts : Nat
  sec : Nat
  poh : Nat
  boots : Nat
  body : List Byte
  deriving DecidableEq, Repr

/-- The Hallmark engine's hidden state: its queue, and the hours of operation counted since power-on. -/
structure HmkSt where
  queue : List HmkRec := []
  hours : Nat := 0
  deriving DecidableEq, Repr

/-- An open codeword window (R274 to R277). -/
structure Win where
  first : Nat
  x : Nat
  y : Nat
  z : Nat
  cont : Bool := false
  rows : Nat := 0
  bits : Nat := 0
  errors : Nat := 0
  tinv : Bool := false
  /-- From the start of its first row to the end of its last, in vs. -/
  t0 : Nat := 0
  t1 : Nat := 0
  deriving DecidableEq, Repr

/-- A staged transition entry (R278 to R282): its kind, tag in 1/8 mc, slot, state, and the row most recently
taken when it was staged. -/
structure TEnt where
  kind : Nat
  tag : Nat
  slot : Nat
  st : Nat
  row : Nat
  tinv : Bool
  deriving DecidableEq, Repr

/-- An open transition record (R281). -/
structure TRec where
  base : Nat
  row : Nat
  ents : List TEnt
  deriving DecidableEq, Repr

/-- An open statistics set (R285), with its first value's row and window Z. -/
structure StatSet where
  n : Nat := 0
  s1 : Nat := 0
  s2 : Nat := 0
  mn : Nat := 0xFFFFFFFF
  mx : Nat := 0
  saturated : Bool := false
  row : Nat := 0
  z : Nat := 0
  tinv : Bool := false
  /-- The reference-plane times that its latest values come from (R294). -/
  spans : List (Nat × Nat) := []
  deriving DecidableEq, Repr

/-- An open loss episode (R291): row most recently taken at the first loss, count, mc of the first loss. -/
structure LossEp where
  row : Nat
  count : Nat
  ts : Nat
  /-- A record or entry lost was timing-invalid (R294). -/
  tinv : Bool := false
  deriving DecidableEq, Repr

/-- A record that waits in a producer's buffer for the Granary: type, flags, epoch and bytes after the header. -/
structure BufRec where
  typ : Nat
  flags : Nat
  epoch : Nat
  ts : Nat
  body : List Byte
  /-- The site of a TIM channel's record (R360). -/
  site : Nat := 0
  deriving DecidableEq, Repr

/-- A sense transition reported to a slice in the current mc (R278, R282): slot, tag, state, timing mark, and the mc in which
it counts as occurring. -/
structure GSense where
  slot : Nat
  tag : Nat
  st : Nat
  tinv : Bool
  m : Nat
  deriving DecidableEq, Repr

/-- The hidden state of one Gleaner slice (R264 to R298): the settings in force since the last START, the run,
and what is open. -/
structure Slice where
  eff : List Nat := []
  epoch : Nat := 0
  run : Bool := false
  /-- Every row of the run has been taken and the run's records have been closed. -/
  done : Bool := false
  last : Nat := 0
  runTinv : Bool := false
  lossRun : Bool := false
  logN : Nat := 0
  win : Option Win := none
  /-- The first row of the codeword window in which a failing row has been logged (R271). -/
  logWin : Option Nat := none
  /-- Failing slots as bits (R279). -/
  fst : Nat := 0
  /-- Marker rows that the capture gate can still need, newest first: row start in vs and marker event (R280). -/
  marks : List (Nat × Nat) := []
  stage : List TEnt := []
  /-- Sense transitions of the current mc, which are staged in tag order once it is over (R282). -/
  pend : List GSense := []
  /-- Entries that have come in each of the latest mc (R282). -/
  inMc : List (Nat × Nat) := []
  /-- Rows that each field snapshot under way is to cover before it is copied, oldest first (R37). -/
  snapK : List Nat := []
  /-- LOG_SKIP, FIRST VALID and the slot counters at the latest field snapshot, which the service layer reads (R37, Table 15-3). -/
  fs : List Nat := []
  rec0 : Option TRec := none
  rec1 : Option TRec := none
  /-- Starts of pending intervals by statistics unit: tag, or row start in vs, with its timing mark and its time at the
reference plane. -/
  ivs : NMap (Option (Nat × Bool × Nat)) := []
  sets : NMap StatSet := []
  loss : NMap (Option LossEp) := []
  gap : Option Epi := none
  buf : List BufRec := []
  deriving DecidableEq, Repr

/-- The Gleaner: its slices by logical furrow, and the transition back end's next slice and free mc (R282). -/
structure GlnSt where
  slices : NMap Slice := []
  next : Nat := 0
  freeAt : Nat := 0
  deriving DecidableEq, Repr

/-- A timed event that acquisition channels look up by sample interval (R312, R313): its kind (3 PIN, 4 RING,
5 MARKER, 6 FORCE, 7 marker output), its number, and its time in vs. -/
structure TrigEv where
  kind : Nat
  idx : Nat
  t : Nat
  deriving DecidableEq, Repr

/-- A received multiblock: arrival mc, CRC-12 result, and its 128 × L words. The link's words run converter after
converter for each sample; a frame may lie across two multiblocks. -/
structure MBlk where
  arr : Nat
  ok : Bool
  data : List (BitVec 16)
  deriving DecidableEq, Repr

/-- One JESD204C link (R300 to R309): the fields taken at EN, the boundary B0, the index of the next word (word n × M + c is
sample n of converter c), the elastic buffer, the released multiblocks by first word, and SYSREF. -/
structure Jes where
  par : List Nat := []
  b0 : Nat := 0
  next : Nat := 0
  elastic : List MBlk := []
  blocks : List (Nat × MBlk) := []
  burst : Nat := 0
  /-- The SYSREF pulse in progress: the mc of its start and of its end, and SYSREF_DLY (R303). -/
  sysHigh : Option (Nat × Nat × Nat) := none
  deriving DecidableEq, Repr

/-- A firing (R313, R317, R320): trigger sample, satisfied sources, attributed source, its value pair and
threshold or event time, and whether the cubic form places it. -/
structure Fire where
  n : Nat
  causes : Nat
  attr : Nat
  /-- FRAC, once it is known. -/
  frac : Nat
  /-- Threshold of a LEVEL or WINDOW crossing that the cubic form places: threshold and rising. -/
  cubic : Option (Int × Bool)
  deriving DecidableEq, Repr

/-- A segment in progress (R322 to R333). -/
structure Seg where
  n : Nat
  preA : Nat
  shortPre : Bool
  fire : Fire
  dec : Nat
  missed : Nat
  /-- Samples of the segment handed to the Granary so far (R327). -/
  handed : Nat
  /-- Index of the first sample of the current record. -/
  first : Nat
  cont : Bool
  /-- The current record's samples, newest first. -/
  samples : List (BitVec 16)
  tag : Nat
  crc : Bool
  /-- WARM was 0 while a sample of the record was taken. -/
  cold : Bool
  viol : Nat
  firstV : Option Nat
  anyV : Bool
  /-- Samples lost from this index on (R327). -/
  lostFrom : Option Nat
  deriving DecidableEq, Repr

/-- A complete segment record that waits for its close (R333 to R335): tag, bytes after the header, site and epoch of its arm,
the gap record behind it, the segment's trigger sample, the record's first sample and their number, and how many of them
waited in the ring when the segment ended. -/
structure AcqRec where
  tag : Nat
  body : List Byte
  site : Nat
  epoch : Nat
  gap : Option (List Byte) := none
  n : Nat
  first : Nat
  cnt : Nat
  left : Nat
  deriving DecidableEq, Repr

/-- One acquisition channel (R311 to R338): the settings taken at ARM, the trigger state, the pre-trigger ring,
and the segment. -/
structure Acq where
  eff : List Nat := []
  epoch : Nat := 0
  next : Nat := 0
  /-- The ring, newest first: sample, CRC failure of its multiblock, WARM flag 0. -/
  ring : List (BitVec 16 × Bool × Bool) := []
  /-- With R319's later decision: the sample whose interval is not decided yet. -/
  held : Option (BitVec 16 × Bool × Bool) := none
  lUp : Bool := false
  lDn : Bool := false
  sUp : Bool := false
  sDn : Bool := false
  inside : Bool := false
  /-- A firing that waits for the next sample (R319). -/
  wait : Option Fire := none
  seg : Option Seg := none
  segN : Nat := 0
  missed : Nat := 0
  /-- Nominal last sample's processing mc of the segment that ended. -/
  endP : Nat := 0
  /-- The mc from which a firing is taken (R325). -/
  armedAt : Nat := 0
  stop : Bool := false
  /-- Records opened so far, offers the Granary has had no room for, and complete records that wait for their
  close. -/
  recN : Nat := 0
  unopened : List Offer := []
  closing : List AcqRec := []
  closedAt : Nat := 0
  deriving DecidableEq, Repr

/-- The links, the channels, the mask envelopes (channel × 8,192 + UPPER × 4,096 + point), the event log, and the
violations whose mc has not come (mc, channel; R330). -/
structure AcqSt where
  links : NMap Jes := []
  chans : NMap Acq := []
  env : NMap (BitVec 16) := []
  log : List TrigEv := []
  viols : List (Nat × Nat) := []
  deriving DecidableEq, Repr

/-- An event that waits for its decision at a TIM channel (R344): event time in vs, whether the START and the
STOP selector takes it (both when they name the same source and EDGE), and its timing mark. -/
structure TimEv where
  t : Int
  start : Bool
  stop : Bool
  tinv : Bool
  /-- Of a SENSE event, its lane's owner and its row time (R362). -/
  src : Option (Nat × Int) := none
  deriving DecidableEq, Repr

/-- A measurement in WAIT_SECOND: whether a start began it, its first event's time, its marks. -/
structure TimFirst where
  isStart : Bool
  t : Int
  tinv : Bool
  order : Bool
  src : Option (Nat × Int) := none
  deriving DecidableEq, Repr

/-- A measurement that has ended (R349 to R354). -/
structure TimMeas where
  t0 : Int
  t1 : Int
  v : Option Int
  tmo : Bool
  ovr : Bool
  under : Bool
  order : Bool
  warm0 : Bool
  tinv : Bool
  ptmo : Bool := false
  src : List (Nat × Int) := []
  deriving DecidableEq, Repr

/-- A channel's open statistics set (R357). -/
structure TimSet where
  n : Nat := 0
  s1 : Int := 0
  s2 : Nat := 0
  mn : Int := 0
  mx : Int := 0
  saturated : Bool := false
  noval : Nat := 0
  under : Nat := 0
  first : Nat := 0
  warm0 : Bool := false
  tinv : Bool := false
  deriving DecidableEq, Repr

/-- A TIM channel (R341 to R367): the settings taken at ARM (CFG, SRC, COUNT, TIMEOUT, STAT_N, REF), the arm,
and the loops and tables of its interpolators as bits (0, 1 tables built; 2, 3 loops unlocked). -/
structure Tim where
  eff : List Nat := []
  epoch : Nat := 0
  ea : Nat := 0
  evs : List TimEv := []
  first : Option TimFirst := none
  /-- A stop was ignored since the last measurement ended (R349). -/
  early : Bool := false
  dead : Int := 0
  /-- Measurement number of the next report, and IGNORED events since the previous result record. -/
  m : Nat := 0
  ign : Nat := 0
  /-- The arm has ended and the channel enters DONE after the dead time; a channel with DIFF then still forms the
  differences of its measurements. -/
  ended : Bool := false
  set : TimSet := {}
  /-- Own and partner's measurements of a DIFF channel that wait for each other (R355). -/
  mine : List TimMeas := []
  theirs : List TimMeas := []
  cal : Nat := 0
  buf : List BufRec := []
  deriving DecidableEq, Repr

/-- An event raised whose event time has not come: source, EDGE codes it satisfies, time, timing mark (R348). -/
structure TimRaw where
  kind : Nat
  idx : Nat
  edges : List Nat
  t : Int
  tinv : Bool
  src : Option (Nat × Int) := none
  deriving DecidableEq, Repr

/-- The TIM channels, the events of times still to come, and the mc of the latest TIN_CFG write of each input (R347). -/
structure TimSt where
  chans : NMap Tim := []
  ahead : List TimRaw := []
  tin : NMap (Option Nat) := []
  deriving DecidableEq, Repr

/-- A fence comparator (R371 to R374): on, its latch, where the external input stands (0 inside the band, 1 on
the setting side, 2 on the clearing side), the end of a response time or mode-change hold with its kind, and
the threshold code and hysteresis that the DAC has settled to. -/
structure Cmp where
  on : Bool := false
  latch : Bool := false
  pos : Nat := 0
  /-- End of the time during which the latch does not follow the input, and whether a mode change began it. -/
  hold : Option (Nat × Bool) := none
  code : Nat := 0
  hyst : Nat := 4
  deriving DecidableEq, Repr

/-- A change of a fence's raw output or latches: its mc, raw output, upper latch, lower latch. -/
structure RawEv where
  t : Nat
  raw : Bool
  u : Bool
  l : Bool
  deriving DecidableEq, Repr

/-- A fence (R370 to R385): its comparators, the raw output's recent changes newest first, the filter's samples
newest first and the time of the latest, the filtered output, and what the consumers see. -/
structure Fence where
  up : Cmp := { code := 4095 }
  lo : Cmp := {}
  log : List RawEv := []
  hist : List Bool := []
  last : Nat := 0
  /-- Time up to which the latches have followed a ramp (R381). -/
  tieT : Nat := 0
  /-- Time of a turn-off under which the filtered output was asserted: it reads released from the next mc (R385). -/
  outAt : Option Nat := none
  out : Bool := false
  seen : Bool := false
  /-- Its changes, newest first, in vs (R187). -/
  seenHist : List (Nat × Bool) := []
  deriving DecidableEq, Repr

/-- A stretch of a ramp's history (R380): from mc `t` on it held `v`, and when `run` it added STEP every DIV mc; under
REPEAT (`k1` not 0) it was at `start` after `k0` additions and after every `k1` more; else it was at `fin` from `k0` additions
on. -/
structure RSeg where
  t : Nat
  v : Nat
  step : Int
  div : Nat
  run : Bool
  fin : Nat
  k0 : Nat
  k1 : Nat
  start : Nat
  deriving DecidableEq, Repr

/-- A ramp: m_0 of its run, additions made, and its history newest first. -/
structure Ramp where
  m0 : Nat := 0
  n : Nat := 0
  segs : List RSeg := []
  deriving DecidableEq, Repr

/-- An express word that waits at a port (R480, R481): KIND, ORIGIN, SAT, DIST, DATA, the mc of its take, and
whether it is forwarded. -/
structure ExpWord where
  kind : Nat
  origin : Nat
  satd : Bool := false
  dist : Nat := 0
  data : Nat
  take : Nat
  fwd : Bool := false
  deriving DecidableEq, Repr

/-- A Headland port: waiting express words, and the mc of the latest express slot used. -/
structure HPort where
  txq : List ExpWord := []
  slot : Option Nat := none
  /-- The lanes that training uses after a lane has lost lock in UP4 with FB 1, as a mask; 0: all four (R478). -/
  pair : Nat := 0
  /-- Mc at which training is retried, when the port is DOWN with EN 1. -/
  downAt : Nat := 0
  deriving DecidableEq, Repr

/-- A TRIG_IN input: the latest edge while its filter runs (ball time in vs, new pin level), counted edges of the event polarity
on their way to the consumers (the time in vs at which each arrives), and the pin's filtered level. -/
structure TrigIn where
  pend : Option (Nat × Bool) := none
  way : List Nat := []
  lvl : Bool := false
  deriving DecidableEq, Repr

/-- A TRIG_OUT pulse in progress: the mc in which it ends at the balls. -/
structure TrigOut where
  stop : Option Nat := none
  lvl : Bool := false
  deriving DecidableEq, Repr

/-- A RESULT record in reassembly from one source: bytes so far and the TAG of its frames. -/
structure ResIn where
  bytes : List Byte
  tag : Nat
  /-- A frame of the record is missing: the rest of it is passed over. -/
  bad : Bool := false
  deriving DecidableEq, Repr

/-- A followed TIME frame in progress (R495): origin, segments so far, the stamp bits, DIST of SEG 0 and the mc
of its presentation. -/
structure TimeRx where
  origin : Nat
  next : Nat
  stamp : Nat
  dist : Nat
  at0 : Nat
  deriving DecidableEq, Repr

/-- Headland, trigger pins, reference and time of day (R475 to R510). -/
structure HdlSt where
  ports : NMap HPort := []
  /-- Ring lines waiting for application: mask, mc, and whether they are late. -/
  apps : List (Nat × Nat × Bool) := []
  tins : NMap TrigIn := []
  touts : NMap TrigOut := []
  /-- The TIME frames heard: lowest ORIGIN, and the frame in progress. -/
  origin : Option Nat := none
  rx : Option TimeRx := none
  /-- Mc of the latest TIME frame originated here, and its words whose mc of take has not come. -/
  timeTx : Option Nat := none
  timeQ : List ExpWord := []
  /-- Express words received and still to be presented: port, word, and the mc of presentation (R481). -/
  rxq : List (Nat × Nat × Nat) := []
  /-- The request in flight (R506): TAG, the mc of its timeout, and whether it is a read. -/
  rpa : Option (Nat × Nat × Bool) := none
  rpaTag : Nat := 0
  /-- Records in reassembly by source (R509), and the frames of RESULT_FORWARD sent so far. -/
  resIn : NMap (Option ResIn) := []
  resTag : Nat := 0
  /-- The walk (R487): on the root 1 first pass east, 2 second pass in a ring, 3 west in a chain; on another device
  the port of the walk's first visit; and whether the latest walk found a ring. -/
  walk : Nat := 0
  walkPort : Option Nat := none
  walkRing : Bool := false
  /-- Since which mc EXT_REF_IN is present, OCXO_RDY is 1 and the main PLL is locked, and the mc in which holdover
  began (R489 to R492). -/
  extFrom : Option Nat := none
  ocxoFrom : Option Nat := none
  lockFrom : Option Nat := none
  holdFrom : Option Nat := none
  /-- Time of day (R496, R497): mc of the latest second boundary, of the latest PPS edge and of the latest roll without an
  edge, and the edges whose boundary has still to come, oldest first: mc of detection, and boundary. -/
  bound : Int := 0
  lastPps : Option Int := none
  rolled : Option Int := none
  ppsWait : List (Int × Int) := []
  deriving DecidableEq, Repr

/-- A stretch of a drill's phase (R391, R392): from time `t` in vs it starts at `phi` and advances by `f` a vs. -/
structure DSeg where
  t : Nat
  phi : Nat
  f : Nat
  deriving DecidableEq, Repr

/-- A drill (R391 to R405): its phase history newest first, the arming, the step in progress, and the amplitude
groups that it holds. -/
structure Drill where
  segs : List DSeg := []
  armed : Nat := 0
  /-- Start of the first step in vs, once known. -/
  start : Option Nat := none
  /-- Level after the last drill edge, and the number of the next half cycle. -/
  lvl : Bool := false
  half : Nat := 0
  endAt : Option Nat := none
  endRow : Option Nat := none
  /-- End of the last row of a furrow that a block reset has cut off, where it is still to come (R398). -/
  haltAt : Option Nat := none
  /-- STOP of the step in progress, and MODE of the START (R395, R399). -/
  last : Bool := false
  mode : Nat := 0
  amp : Nat := 0
  /-- Amplitude groups held for want of a queue place: bank and group (R403). -/
  held : List (Nat × Group) := []
  /-- By bank, the list entry for which the latest amplitude group was built. -/
  ahead : NMap (Option Nat) := []
  deriving DecidableEq, Repr

/-- A marker output (R406 to R409): asserted, the end of the assertion, whether its latest event came with TOGGLE, its latest
event and latest drive event in vs. -/
structure Marker where
  lvl : Bool := false
  stop : Nat := 0
  tog : Bool := false
  lastEv : Option Nat := none
  lastDrv : Option Nat := none
  deriving DecidableEq, Repr

/-- A quantity that closed while sites ran steps (R454): KIND of Table 15-3 (1 a run's summary), unit or channel, and its
figures. For an acquisition channel `n` is segments, `mean` violating samples and `sd` MISSED. -/
structure FlowQ where
  kind : Nat
  unit : Nat
  t : Nat
  n : Nat := 0
  noval : Nat := 0
  mean : Int := 0
  sd : Nat := 0
  mn : Int := 0
  mx : Int := 0
  warm0 : Bool := false
  deriving DecidableEq, Repr

/-- A placed site (R449 to R471): its furrows, lead first, the flow in progress and its running step. -/
structure Site where
  furs : List Nat := []
  /-- Flow number of the flow in progress or of the latest, and whether a flow is in progress. -/
  flow : Option Nat := none
  busy : Bool := false
  tFlow : Nat := 0
  bin : Nat := 0
  steps : Nat := 0
  pat : Nat := 0
  /-- Mc in which the running step started, and the field tick of its first START write. -/
  t0 : Nat := 0
  tick0 : Nat := 0
  /-- Quantities that had been logged when the running step started (R454). -/
  log0 : Nat := 0
  /-- The running step's START has been accepted. -/
  started : Bool := false
  /-- START has been refused for admission and is written again (R457). -/
  startPend : Bool := false
  retry : Bool := false
  tmoed : Bool := false
  aborted : Bool := false
  /-- A lane of the site that failed during the step (R459). -/
  lost : Option Nat := none
  armed : List Nat := []
  settle : Nat := 0
  defer : Nat := 0
  /-- SLIMIT has been reached (R460). -/
  limit : Bool := false
  /-- A first step that waits as a flow item, and the mc in which it was queued. -/
  queued : Option (Nat × Nat) := none
  /-- A migration accepted (R469), and the mc in which it became due. -/
  mig : Option (List Nat × Nat) := none
  /-- A migration being carried out: old furrows, old queue, channels stopped in step 1, and the step to start next. -/
  moving : Option (List Nat × Nat × List Nat × Option Nat) := none
  deriving DecidableEq, Repr

/-- The service layer's flow state (R449 to R474): sites, the carried flow items in order, the mailbox command that
waits, the datalog copies that wait, and the quantities logged while steps run. -/
structure FlwSt where
  sites : NMap Site := []
  wait : List Nat := []
  cmd : Option Nat := none
  /-- MB_ARG[0..3] as they stood when the command was queued (R472). -/
  args : List Nat := []
  /-- The command, or a datalog copy, was left over by the latest field tick (R463). -/
  cmdOld : Bool := false
  dlogOld : Bool := false
  dlog : List Offer := []
  log : List FlowQ := []
  deriving DecidableEq, Repr

/-- The 10GBASE-R exporter (R537 to R539): the queue served last, the queues whose record it sends in
fragments, with the record's position and the bytes sent, FSEQ, the IPv4 identification of the next frame, and the mc of the last frame or of EN. -/
structure EthSt where
  last : Option Nat := none
  frags : List (Nat × Nat × Nat) := []
  fseq : Nat := 0
  ident : Nat := 0
  sent : Nat := 0
  deriving DecidableEq, Repr

/-- The SMBus target (R541): register offset, outcome of the last REG_WRITE, Hallmark index and half. -/
structure SmbSt where
  addr : Nat := 0
  wst : Nat := 0
  sel : Nat := 0
  half : Nat := 0
  deriving DecidableEq, Repr

/-- The image that boot has accepted (R610, R611): slot, SVN, BUILD, the owner slot that verified it or 0xFF, and the
firmware measurement. -/
structure Image where
  slot : Nat
  svn : Nat
  build : Nat
  owner : Nat
  meas : BitVec 384
  deriving DecidableEq, Repr

/-- The security block's hidden state (R613 to R622): the running image, the hash of the board calibration record as
read, the highest debug level opened since the last chip reset, the nonce of the Assay report in the making, and the
fuse operation in progress: OP, SLOT, VALUE and the hash. -/
structure SecSt where
  image : Option Image := none
  bcal : Nat := 0
  dbgMax : Nat := 0
  assay : Option (List Word) := none
  fuse : Option (Nat × Nat × Nat × Nat) := none
  /-- The image slot tried first has been rejected (R610). -/
  tried : Bool := false
  deriving DecidableEq, Repr

/-- What has left the device, in order: the model's own record of its outputs. -/
inductive Out where
  /-- Read data returned on a path. -/
  | rd (p : Path) (v : Word)
  /-- A drive-lane transition at the balls: lane, time in vs, new state (R78). -/
  | dl (l t : Nat) (st : DState)
  /-- An MSI-X message: vector, address, data (R532). -/
  | msix (vec : Nat) (addr : Ts) (data : Word)
  /-- A command frame on FCMD: its bits, and the time in vs of the FCK falling edge that launches the first (R88, R91). -/
  | fcmd (bank t : Nat) (frame : BitVec 48)
  /-- An APPLY: bank and time of the FCK rising edge in vs (R98). -/
  | fapply (bank t : Nat)
  /-- FSYNC goes to a level for a bus reset, at the time in vs of an FCK falling edge (R88, R90). -/
  | freset (bank t : Nat) (level : Bool)
  /-- A marker output changes: drill page, time in vs, level (R407). -/
  | marker (m t : Nat) (level : Bool)
  /-- A drive level of a single-ended pin of the device. -/
  | pin (name : Pin1) (level : Bool)
  /-- A TRIG_OUT level (R505). -/
  | trigOut (i t : Nat) (level : Bool)
  /-- A SYSREF level of link k at a time in vs (R303). -/
  | sysref (k t : Nat) (level : Bool)
  /-- A Headland express word on a port, as the 64 bits of R480 (port 0 HE, 1 HW). -/
  | express (port : Nat) (w : BitVec 64)
  /-- A Headland bulk frame on a port. -/
  | bulk (port : Nat) (bytes : List Byte)
  /-- An Ethernet frame without its FCS (R538). -/
  | eth (bytes : List Byte)
  /-- SMBus response bytes (R541). -/
  | smb (bytes : List Byte)
  /-- A BAR2 read completion: data, poisoned, unsupported request (R530). -/
  | win (bytes : List Byte) (poison ur : Bool)
  /-- The drive pairs of a bank are undriven (R81), or every drive pair and QUENCH# (R636). -/
  | undriven (bank : Option Nat)
  /-- Bits shifted out on TDO (R623). -/
  | tdo (bits : List Bool)
  deriving DecidableEq, Repr

/-- The device but for its non-volatile stores: what an ordinary command acts on. -/
structure Dev where
  /-- TS, the current mc (R28). -/
  ts : Ts := 0
  /-- The register file as the current mc found it (R17). -/
  mcRegs : NMap Word := []
  /-- The master clock runs and TS advances (R493, R598). -/
  clk : Bool := false
  /-- The AON supply is within its limits (R592). -/
  aon : Bool := true
  /-- The register file by BAR0 offset; a register not listed holds its reset value. -/
  regs : NMap Word := []
  /-- The snapshots of R60 by BAR0 offset, for the pages in `frozen`. -/
  snap : NMap Word := []
  /-- The pages that hold a snapshot. -/
  frozen : List Nat := []
  /-- Pages in block reset (R70). -/
  resetting : List Nat := []
  /-- The bytes of DDR-5 memory that differ from what an unwritten byte reads as (R517). -/
  mem : List Host.Cell := []
  /-- The boot flash (R607). -/
  flash : List Host.Cell := []
  paths : NMap PathSt := []
  lanes : NMap Lane := []
  fec : NMap FecBus := []
  cal : NMap CalSt := []
  /-- Applied launch and sample adjustments of lanes still moving towards their registers (R136). -/
  adj : NMap (Option (Nat × Nat)) := []
  /-- Timing-set words by (lane × 128 + entry) × 7 + word (R120, R124). -/
  tsets : NMap Word := []
  /-- Reflex holds by bank × 16 + rule. -/
  holds : NMap Hold := []
  fur : NMap Furrow := []
  /-- What registers and timing-set words that rows use held before each recent change: the mc of the change, the key (a
  BAR0 offset, or one of `tsKey` and `adjKey`) and the old value, newest first (R33). -/
  rowHist : List (Nat × Nat × Word) := []
  /-- Overlay words by (engine × 8 + overlay) × 64 + n (R256). -/
  ovl : NMap Word := []
  pci : PciSt := {}
  eth : EthSt := {}
  smb : SmbSt := {}
  /-- The flash command in progress: OP, address, bytes (R543). -/
  xsp : Option (Nat × Nat × Nat) := none
  /-- By DDR-5 channel, the times of operation of recent uncorrectable and corrected errors, newest first (R521). -/
  ueT : NMap (List Nat) := []
  ceT : NMap (List Nat) := []
  /-- The most memory tags in use since the last read of SCHED (R526, Table 17-3). -/
  tagPeak : Nat := 0
  /-- By DDR-5 channel, the offset that the patrol scrubber reads next (R520). -/
  scrub : NMap Nat := []
  /-- The channels whose recorded map-out the next boot applies (R524). -/
  memOut : List Nat := []
  grn : GrnSt := {}
  flw : FlwSt := {}
  /-- BUILD of the firmware image that boot started (Table 19-6). -/
  fwBuild : Nat := 0
  gln : GlnSt := {}
  acq : AcqSt := {}
  tim : TimSt := {}
  fen : NMap Fence := []
  hdl : HdlSt := {}
  drl : NMap Drill := []
  mks : NMap Marker := []
  /-- Drill list words by (drill × 4,096 + entry) × 4 + word (R394). -/
  lists : NMap Word := []
  /-- Start of the SYNC_OUT pulse in progress (R412). -/
  syncOut : Option Nat := none
  rmp : NMap Ramp := []
  /-- Standby: 0 not in standby, 1 being entered, 2 in standby (R597, R598). -/
  standby : Nat := 0
  /-- A wake request that waits: its PWR.WAKE_SRC code (R599). -/
  wakeReq : Option Nat := none
  /-- 64-byte accesses of DDR-5 memory for which an uncorrectable error was reported, with the mc (R519). -/
  ueNow : List (Nat × Nat) := []
  /-- The sample time of the fence assert that WAKE_CAUSE shows (R390). -/
  wakeT : Option Nat := none
  /-- AON oscillator cycles since the master clock stopped. -/
  aonT : Nat := 0
  /-- The periods in which WARM was 0, newest first: first mc, and the mc in which WARM rose (R492). -/
  cold : List (Nat × Option Nat) := [(0, none)]
  /-- The latest accepted sync event: its arrival mc a and its sync-qualified mc Q (R410). -/
  syncEv : Option (Nat × Nat) := none
  flt : FltSt := {}
  hmk : HmkSt := {}
  /-- Mc of operation: time with the main PLL locked (R582). -/
  opMc : Nat := 0
  /-- Fault occurrences that the current command has raised and the collector has still to take. -/
  raised : List Raised := []
  /-- Mc of the previous field tick (R35). -/
  fieldMc : Option Nat := none
  /-- The spare mappings that the AON domain holds for a bank whose domain is off: SPARE_STAT bits (R596, R602). -/
  spareKeep : NMap Nat := []
  /-- The domains whose switch has closed and whose power-good is awaited, with the time of closing (R594). -/
  sw : List (Nat × Nat) := []
  /-- RESET# is low, and the chip reset is held (R635). -/
  rstLow : Bool := true
  /-- A boot is in progress, and the AON oscillator's count at its start (R604, R605). -/
  booting : Bool := false
  bootT : Nat := 0
  sec : SecSt := {}
  /-- The JTAG instruction in force: 0 BYPASS, 1 IDCODE, 2 SAMPLE/PRELOAD, 3 EXTEST (R623). -/
  jtag : Nat := 0
  /-- What has left the device, oldest first: the model's own record. -/
  out : List Out := []
  /-- Counter that numbers the uses of free values: the model's own. -/
  freeCtr : Nat := 0
  deriving DecidableEq, Repr

/-- The state of an owner key slot in the fuses (R612). -/
structure OwnerSlot where
  status : Nat := 0
  hash : Nat := 0
  deriving DecidableEq, Repr

/-- The stores that keep their content without power and that only their own engines write: the
Hallmark slots (R576, R580), each with its 256 bytes, and the fuses of R612 and R613. -/
structure Nv where
  /-- Committed and torn slots by number; a slot that nothing has written is not listed. -/
  slots : NMap (List Byte) := []
  owners : NMap OwnerSlot := []
  arb : Nat := 0
  deriving DecidableEq, Repr

/-- The whole state: the device, its non-volatile stores, and the commands that are waiting, first in, first out. -/
structure State where
  dev : Dev := {}
  nv : Nv := {}
  pending : List Instr := []
  deriving DecidableEq, Repr

/-- The machine right after a power-on reset: every field at its default, no command waiting. -/
def State.reset : State := {}

end Sys2Proof.Machine
end

