-- ==== Sys2Proof/Machine/Ops.lean ====
section
/-! DEFINITION. The named operations over the state that every meaning uses: sparse tables, the
register file, time, memory, the access paths, outputs, interrupts, fault-cause bits and free values. -/
namespace Sys2Proof.Machine

/-- What a step answers. -/
abbrev Res := Host.Outcome State Fault Refusal

/-! ### Sparse tables -/

/-- The entry at `k`, or the default of `k`. -/
def mget {α : Type} (d : Nat → α) : NMap α → Nat → α
  | [], k => d k
  | (a, v) :: m, k => if a = k then v else mget d m k

/-- The table with entry `k` set to `v`, in canonical form. -/
def mset {α : Type} [DecidableEq α] (d : Nat → α) (k : Nat) (v : α) : NMap α → NMap α
  | [] => if v = d k then [] else [(k, v)]
  | (a, w) :: m =>
    if a < k then (a, w) :: mset d k v m
    else if a = k then (if v = d k then m else (k, v) :: m)
    else if v = d k then (a, w) :: m
    else (k, v) :: (a, w) :: m

/-- Canonical form: keys strictly rising from `lo`, and no entry equal to its default. -/
def mwf {α : Type} [DecidableEq α] (d : Nat → α) : Nat → NMap α → Bool
  | _, [] => true
  | lo, (a, v) :: m => decide (lo ≤ a) && decide (v ≠ d a) && mwf d (a + 1) m

/-- The table without the entries whose key satisfies `p`. -/
def mdrop {α : Type} (p : Nat → Bool) (m : NMap α) : NMap α := m.filter fun e => !p e.1

/-- `f` when `b` holds. -/
def onlyIf (b : Bool) (f : Dev → Dev) (s : Dev) : Dev := if b then f s else s

/-! ### Register file -/

/-- BAR0 offset of page `p`, page offset `o` (R47). -/
def A (p o : Nat) : Nat := p * 0x1000 + o

/-- The stored value of the register at BAR0 offset `a`. -/
def rd (s : Dev) (a : Nat) : Word := mget regReset s.regs a

/-- The stored value as a number. -/
def rdN (s : Dev) (a : Nat) : Nat := (rd s a).toNat

/-- The register at `a` set to `v`. -/
def wr (a : Nat) (v : Word) (s : Dev) : Dev := { s with regs := mset regReset a v s.regs }

/-- The register at `a` set to the number `n` modulo 2^32. -/
def wrN (a n : Nat) (s : Dev) : Dev := wr a (w32 n) s

/-- A field of the register at `a`. -/
def fget (s : Dev) (a lo w : Nat) : Nat := bits (rdN s a) lo w

/-- A one-bit field. -/
def fbit (s : Dev) (a i : Nat) : Bool := fget s a i 1 == 1

/-- A field of the register at `a` set to `v`. -/
def fset (a lo w v : Nat) (s : Dev) : Dev := wrN a (putBits (rdN s a) lo w v) s

/-- The bits of `m` of the register at `a` count as set in the current mc (R17). -/
def markSet (a m : Nat) (s : Dev) : Dev :=
  { s with mcRegs := mset regReset a (mget regReset s.mcRegs a &&& w32 (m32 ^^^ (m % 2 ^ 32))) s.mcRegs }

/-- Hardware sets the bits of `m` in the register at `a`. -/
def orReg (a m : Nat) (s : Dev) : Dev := wrN a (rdN s a ||| m) (markSet a m s)

/-- Hardware sets the W1C bit `i` of the register at `a`, whether or not it is 1 already (R17). -/
def hit (a i : Nat) (s : Dev) : Dev := fset a i 1 1 (markSet a (2 ^ i) s)

/-- The W1C bit `i` of the register at `a` cleared, unless hardware has set it in the current mc (R17). -/
def clrHit (a i : Nat) (s : Dev) : Dev :=
  if fbit s a i && !bit (mget regReset s.mcRegs a).toNat i then s else fset a i 1 0 s

/-- What hardware has added in the current mc to the counters of code RC under the mask `m` of the register at `a`. -/
def rcFresh (s : Dev) (a m : Nat) : Nat := (rdN s a &&& m) - ((mget regReset s.mcRegs a).toNat &&& m)

/-- A read clears the fields of code RC under the mask `m`: what the current mc has added to them stays (R16, R17). -/
def rcClear (a m : Nat) (s : Dev) : Dev :=
  wrN a ((rdN s a ^^^ (rdN s a &&& m)) ||| rcFresh s a m)
    { s with mcRegs := mset regReset a (mget regReset s.mcRegs a &&& w32 (m32 ^^^ m)) s.mcRegs }

/-- The field of the register at `a` raised by `n`, saturating. -/
def incSat (a lo w n : Nat) (s : Dev) : Dev := fset a lo w (sat (fget s a lo w + n) (2 ^ w - 1)) s

/-- The 64-bit value of a LO and HI pair at `a` and `a + 4`. -/
def rd64 (s : Dev) (a : Nat) : Nat := rdN s a + 2 ^ 32 * rdN s (a + 4)

/-- A LO and HI pair set to `v` modulo 2^64. -/
def wr64 (a v : Nat) (s : Dev) : Dev := wrN (a + 4) (v / 2 ^ 32) (wrN a v s)

/-- A 64-bit counter in a LO and HI pair raised by `n`, saturating. -/
def inc64 (a n : Nat) (s : Dev) : Dev := wr64 a (sat (rd64 s a + n) (2 ^ 64 - 1)) s

/-- Every register of page `p` for which `keep` is false returns to its reset value. -/
def dropPage (p : Nat) (keep : Nat → Bool) (s : Dev) : Dev :=
  { s with regs := mdrop (fun a => a / 0x1000 == p && !keep (a % 0x1000)) s.regs }

/-! ### Power and enables -/

/-- Whether domain `d` is ON: PWR.DOM_STAT (R592). -/
def domOn (s : Dev) (d : Nat) : Bool := d == 0 || fbit s (A 5 0x88) d

/-- Whether the block of page `p` is powered. -/
def pageOn (s : Dev) (p : Nat) : Bool := domOn s (pageDomain p)

/-- BLK_CTL.EN of page `p`. -/
def blkEn (s : Dev) (p : Nat) : Bool := fbit s (A p 8) 0

/-- BLK_STAT.ACTIVE of page `p`. -/
def blkActive (s : Dev) (p : Nat) : Bool := fbit s (A p 0xC) 0

/-- BLK_STAT.DRAINING of page `p`. -/
def blkDraining (s : Dev) (p : Nat) : Bool := fbit s (A p 0xC) 1

/-- BLK_STAT.READY of page `p`. -/
def blkReady (s : Dev) (p : Nat) : Bool := fbit s (A p 0xC) 2

/-- The block of page `p` runs: powered, ACTIVE, not draining and not in reset. -/
def running (s : Dev) (p : Nat) : Bool :=
  pageOn s p && blkActive s p && !blkDraining s p && !s.resetting.contains p

/-! ### Time -/

/-- The current mc as a number. -/
def now (s : Dev) : Nat := s.ts.toNat

/-- The start of the current mc, in vs. -/
def nowVs (s : Dev) : Nat := now s * 1024

/-- `dt` mc pass: TS advances while the master clock runs; while it is off, `dt` counts cycles of the AON
oscillator (R28, R386, R598). Operation counts while the main PLL is locked (R582). The registers as a new mc finds
them are kept for R17. -/
def tick (dt : Nat) (s : Dev) : Dev :=
  if s.clk then
    { s with ts := s.ts + BitVec.ofNat 64 dt, opMc := if fbit s (A 1 0x84) 26 then s.opMc + dt else s.opMc
             mcRegs := if dt = 0 then s.mcRegs else s.regs }
  else { s with aonT := s.aonT + dt, mcRegs := if dt = 0 then s.mcRegs else s.regs }

/-! ### Outputs, free values -/

/-- An output leaves the device. -/
def emit (o : Out) (s : Dev) : Dev := { s with out := s.out ++ [o] }

/-- A fresh free word, and the state with the counter advanced. -/
def freshWord (s : Dev) : Word × Dev := (Config.freeWord s.freeCtr, { s with freeCtr := s.freeCtr + 1 })

/-! ### Access paths -/

/-- The number of a path. -/
def pathNum : Path → Nat
  | .host => 0 | .svc0 => 1 | .svc1 => 2 | .svc2 => 3 | .svc3 => 4 | .smbus => 5 | .headland => 6

/-- The code of a path in CHIP.ACCESS_ERR.PATH (Table 02-11). -/
def pathCode : Path → Nat
  | .host => 0 | .svc0 | .svc1 | .svc2 | .svc3 => 1 | .smbus => 2 | .headland => 3

/-- A path's staging. -/
def getPath (s : Dev) (p : Path) : PathSt := mget (fun _ => {}) s.paths (pathNum p)

/-- A path's staging replaced. -/
def setPath (p : Path) (x : PathSt) (s : Dev) : Dev := { s with paths := mset (fun _ => {}) (pathNum p) x s.paths }

/-! ### Memory -/

/-- What a byte of DDR-5 memory that nothing has written reads as (DESIGN CHOICE, log entry 2). -/
def memDflt (_ : Nat) : Byte := 0

/-- What a byte of the boot flash that nothing has written reads as: the erased state (PRESUMED, log entry 3). -/
def flashDflt (_ : Nat) : Byte := 0xFF

/-- Memory is in canonical form: addresses strictly rising, and no entry equal to what an unlisted address reads as. -/
def Memory.wf (m : List Host.Cell) : Bool := mwf memDflt 0 m

/-- One byte of DDR-5 memory. -/
def memByte (s : Dev) (a : Nat) : Byte := mget memDflt s.mem a

/-- `n` bytes from address `a`. -/
def memBytes (s : Dev) : Nat → Nat → List Byte
  | _, 0 => []
  | a, n + 1 => memByte s a :: memBytes s (a + 1) n

/-- The little-endian number in the `n` bytes from `a`. -/
def memNat (s : Dev) (a n : Nat) : Nat := leNat (memBytes s a n)

/-- The channels in use, ascending (R517). -/
def memChannels (s : Dev) : List Nat := (List.range 8).filter fun k => bit (fget s (A 0x188 0xC4) 0 8) k

/-- The capacity of DDR-5 memory in bytes: channels in use times the DIMM capacity, in GiB (R517). -/
def memCapacity (s : Dev) : Nat :=
  fget s (A 0x188 0xC4) 8 4 * (fget s (A (0x188 + (memChannels s).headD 0) 0x88) 24 8 * 2 ^ 30)

/-- The channel that holds address `a` (R517). -/
def memChannel (s : Dev) (a : Nat) : Nat :=
  nth 0 (memChannels s) ((a / 256) % (if (memChannels s).length = 0 then 1 else (memChannels s).length))

/-- Channel `k` drains towards its map-out: it finishes the requests issued to it and takes no new one, unless another channel is
mapped out already (R67, R521, R523). -/
def memDrains (s : Dev) (k : Nat) : Bool :=
  fbit s (A (0x188 + k) 0xC) 1 && fget s (A (0x188 + k) 0x84) 30 2 == 2 && !(List.range 8).any fun j => fget s (A (0x188 + j) 0x84) 30 2 == 3

/-- Whether address `a` lies in a mapped-out channel. -/
def memOutAt (s : Dev) (a : Nat) : Bool := fget s (A (0x188 + memChannel s a) 0x84) 30 2 == 3

/-- Whether a request made now for address `a` meets a channel that is mapped out, or will be before it serves another request
(R521, R522). -/
def memMappedOut (s : Dev) (a : Nat) : Bool := memOutAt s a || memDrains s (memChannel s a)

/-- Whether address `a` lies within the capacity. -/
def memInside (s : Dev) (a : Nat) : Bool := decide (a < memCapacity s)

/-- Whether address `a` can be read and written: inside the capacity, not mapped out (R518, R522). -/
def memGood (s : Dev) (a : Nat) : Bool := memInside s a && !memMappedOut s a

/-- One byte written, where the address can be written (R518, R522). -/
def memPut (a : Nat) (b : Byte) (s : Dev) : Dev :=
  if memGood s a then { s with mem := mset memDflt a b s.mem } else s

/-- Bytes put from address `a` on. -/
def memPuts (a : Nat) (bs : List Byte) (s : Dev) : Dev := (bs.foldl (fun x b => (x.1 + 1, memPut x.1 b x.2)) (a, s)).2

/-- Mc in an hour of operation. -/
def mcPerHour : Nat := 3600 * 1600000000

/-- An uncorrectable error counts in channel `k`'s page, and its time is kept for R521. -/
def ueCount (k : Nat) (s : Dev) : Dev :=
  let old := mget (fun _ => []) s.ueT k
  let s := { s with ueT := mset (fun _ => []) k ((s.opMc :: old).take 16) s.ueT }
  { s with regs := mset regReset (A (0x188 + k) 0x90) (w32 (sat (rdN s (A (0x188 + k) 0x90) + 1) 0xFFFFFFFF)) s.regs }

/-- A request for `n` bytes at `a` that reaches beyond the capacity is not issued, and counts (R518). -/
def outCount (a n : Nat) (s : Dev) : Dev := if n ≠ 0 && memCapacity s < a + n then ueCount 0 s else s

/-! ### Request tags (R526) -/

/-- The classes of memory requests (Tables 01-12 and 17-2). -/
inductive MemClass where
  | rows | acq | granary | host | service
  deriving DecidableEq, Repr

/-- A class's own tags, and the shared pool (Table 17-2). -/
def tagOwn : MemClass → Nat
  | .rows => 8192
  | .acq | .granary | .host => 2048
  | .service => 1024
def tagShared : Nat := 1024

/-- The instruction word that a hopper waits for, by index. -/
def wordAsked (f : Furrow) : Option Nat := f.hop.findSome? fun x => match x with | .word i none _ => some i | _ => none

/-- The tags that the requests in flight of a class hold, one for each access of 64 bytes (R526). The stored-row class holds those of
the words and tiles that hoppers wait for; every other class issues and completes its requests within one command, and
holds none between commands (DESIGN CHOICE, log entry 94). -/
def tagUse (s : Dev) : MemClass → Nat
  | .rows => (s.fur.map fun x => 64 * x.2.asked.length + b2n (wordAsked x.2).isSome).foldl (· + ·) 0
  | _ => 0

/-- Tags of the shared pool in use: what each class holds beyond its own. -/
def sharedUse (s : Dev) : Nat := ([MemClass.rows, .acq, .granary, .host, .service].map fun c => tagUse s c - tagOwn c).foldl (· + ·) 0

/-- The tags that a class finds free: first its own, then shared ones; no class takes another's own (R526). -/
def tagRoom (s : Dev) (c : MemClass) : Nat := (tagOwn c - tagUse s c) + (tagShared - sharedUse s)

/-- Tags in use (Table 17-3). -/
def tagsNow (s : Dev) : Nat := ([MemClass.rows, .acq, .granary, .host, .service].map (tagUse s)).foldl (· + ·) 0

/-- SCHED.PEAK follows the tags in use. -/
def tagMark (n : Nat) (s : Dev) : Dev := { s with tagPeak := max s.tagPeak n }

/-- The 64-byte accesses of a request for `n` bytes at `a`. -/
def tagCount (a n : Nat) : Nat := if n = 0 then 0 else (a + n - 1) / 64 - a / 64 + 1

/-- A request of class `c` for `n` bytes at `a` that is issued and completed here: what finds no tag free waits for those of the
same request that come back. -/
def tagPass (c : MemClass) (a n : Nat) (s : Dev) : Dev := tagMark (tagsNow s + min (tagCount a n) (tagRoom s c)) s

/-- A write request of class `c` of bytes at address `a` (R518, R522). -/
def memWrite (c : MemClass) (a : Nat) (bs : List Byte) (s : Dev) : Dev := memPuts a bs (outCount a bs.length (tagPass c a bs.length s))

/-- A request for `n` bytes at `a` is held: a channel that it needs recalibrates in a block reset (R525). -/
def memHolds (s : Dev) (a n : Nat) : Bool := (List.range n).any fun i => s.resetting.contains (0x188 + memChannel s (a + i))

/-- A byte at `a` reaches the requester as memory holds it: the address lies within the capacity, its channel serves requests, and
no uncorrectable error is reported for its 64 bytes in this mc (R518, R519, R522, log entry 109). -/
def memDelivers (s : Dev) (a : Nat) : Bool := memGood s a && !s.ueNow.contains (a / 64, now s)

/-- A read request of class `c` for `n` bytes at `a` by a requester whose chapter does not say what it makes of poisoned data: a
poisoned byte is a free value (R518, R519, R522, log entry 109). -/
def memRead (c : MemClass) (a n : Nat) (s : Dev) : List Byte × Dev :=
  let s := outCount a n (tagPass c a n s)
  if (List.range n).all fun i => memDelivers s (a + i) then (memBytes s a n, s)
  else
    ((List.range n).map fun i => if memDelivers s (a + i) then memByte s (a + i) else BitVec.ofNat 8 (Config.freeWord (s.freeCtr + i)).toNat,
     { s with freeCtr := s.freeCtr + n })

/-- The little-endian number that such a read returns. -/
def memReadNat (c : MemClass) (a n : Nat) (s : Dev) : Nat × Dev := let r := memRead c a n s; (leNat r.1, r.2)

/-! ### Interrupts (R52, R532, R533) -/

/-- Whether page `p` requests an interrupt (R52). -/
def irqReq (s : Dev) (p : Nat) : Bool := rdN s (A p 0x10) &&& rdN s (A p 0x14) != 0

/-- Why a message of vector `v` cannot be sent now (R533): vector masked, function masked, Bus Master
Enable 0, link down, or PCI EN 0. -/
def msixBlocked (s : Dev) (v : Nat) : Bool :=
  s.pci.fmask || !s.pci.bme || !fbit s (A 0x190 0x80) 0 || !blkEn s 0x190 || !domOn s 3
    || bit (mget msixDflt s.pci.table (4 * v + 3)).toNat 0

/-- The message of vector `v` leaves the device (R532). -/
def msixSendNow (v : Nat) (s : Dev) : Dev :=
  incSat (A 0x190 0x94) 0 32 1
    (emit (.msix v (ts64 ((mget msixDflt s.pci.table (4 * v)).toNat + 2 ^ 32 * (mget msixDflt s.pci.table (4 * v + 1)).toNat))
      (mget msixDflt s.pci.table (4 * v + 2))) s)

/-- The message of vector `v` is sent, or becomes pending (R533). -/
def msixSend (v : Nat) (s : Dev) : Dev :=
  if msixBlocked s v then { s with pci := { s.pci with pba := mset (fun _ => false) v true s.pci.pba } }
  else msixSendNow v s

/-- The mapped vector of page `p` is sent when its VEC_MAP entry is enabled (R532). -/
def pageMsix (p : Nat) (s : Dev) : Dev :=
  if bit (fget s (A 0x190 (0x800 + 4 * (p / 2))) (16 * (p % 2)) 16) 15
  then msixSend (fget s (A 0x190 (0x800 + 4 * (p / 2))) (16 * (p % 2)) 11) s else s

/-- A change `f` of page `p`'s interrupt registers, and the message a rise of its request sends (R532). -/
def withIrq (p : Nat) (f : Dev → Dev) (s : Dev) : Dev :=
  if !irqReq s p && irqReq (f s) p then pageMsix p (f s) else f s

/-- Hardware sets bits of page `p`'s IRQ_STAT. -/
def irqSet (p mask : Nat) (s : Dev) : Dev := withIrq p (orReg (A p 0x10) mask) s

/-- BLK_STAT.DEGRADED of page `p` is set or cleared; a rise sets IRQ_STAT bit 29 (Table 02-7). -/
def setDegraded (p : Nat) (b : Bool) (s : Dev) : Dev :=
  if b && !fbit s (A p 0xC) 4 then irqSet p 0x20000000 (fset (A p 0xC) 4 1 1 s)
  else fset (A p 0xC) 4 1 (b2n b) s

/-- Hardware sets causes of page `p`'s FAULT_CAUSE: the sticky bits, FAULT_TS on the first, EVT_COUNT once an mc
(`cnt`), BLK_STAT.FAULT and IRQ_STAT.FAULT for a newly set bit (R53, Tables 02-7 to 02-10), detected in mc `d`. A register that software
has cleared in the same mc has never read 0 (R17). -/
def faultCause (p mask d : Nat) (cnt : Bool) (s : Dev) : Dev :=
  let old := rdN s (A p 0x1C)
  let s := if old = 0 && mget regReset s.mcRegs (A p 0x1C) = 0 then wr64 (A p 0x20) d s else s
  let s := onlyIf cnt (incSat (A p 0x28) 0 32 1) (fset (A p 0xC) 3 1 1 (orReg (A p 0x1C) mask s))
  if old ||| mask = old then s else irqSet p 0x80000000 s

/-- Cause bit `cause` of source `src` occurs for resource `res` in this command (R544, R545); the
collector takes it at the command's end. -/
def raiseOn (src cause res : Nat) (s : Dev) : Dev := { s with raised := s.raised ++ [{ src, cause, res }] }

/-- An occurrence of a source with a single resource. -/
def raise (src cause : Nat) (s : Dev) : Dev := raiseOn src cause 0 s

/-- An occurrence detected in mc `t`, which has passed while the master clock ran. -/
def raiseAt (t src cause : Nat) (s : Dev) : Dev := { s with raised := s.raised ++ [{ src, cause, res := 0, t := if s.clk then some t else none }] }

/-! ### Refusals (R59, R644) -/

/-- A refused or ignored access at BAR0 offset `a` is recorded in CHIP.ACCESS_ERR, or counts as
overflow; either sets CHIP.IRQ_STAT bit 0 (R59). -/
def accessErr (p : Path) (a cause : Nat) (s : Dev) : Dev :=
  irqSet 0 1
    (if fbit s (A 0 0x94) 31 then hit (A 0 0x94) 25 s
     else wrN (A 0 0x94) (2 ^ 31 + cause * 2 ^ 28 + pathCode p * 2 ^ 26 + (a % 2 ^ 22 / 4) * 4) s)

/-- A refused write recorded in a block's own error register of the layout VALID [31], CAUSE [30:28],
where: the first refusal after VALID was cleared is kept (R644). -/
def recordErr (a cause lo : Nat) (s : Dev) : Dev :=
  if fbit s a 31 then s else wrN a (2 ^ 31 + cause * 2 ^ 28 + lo) s

/-- The number of sub-vernier steps of an mc. -/
def vsPerMc : Nat := 1024

/-! ### Access to the tables of hidden state -/

def getLane (s : Dev) (l : Nat) : Lane := mget (fun _ => {}) s.lanes l
def setLane (l : Nat) (x : Lane) (s : Dev) : Dev := { s with lanes := mset (fun _ => {}) l x s.lanes }
def getFec (s : Dev) (b : Nat) : FecBus := mget (fun _ => {}) s.fec b
def setFec (b : Nat) (x : FecBus) (s : Dev) : Dev := { s with fec := mset (fun _ => {}) b x s.fec }
def getCal (s : Dev) (b : Nat) : CalSt := mget (fun _ => {}) s.cal b
def setCal (b : Nat) (x : CalSt) (s : Dev) : Dev := { s with cal := mset (fun _ => {}) b x s.cal }
/-- `x` put into a list that ascends in `key`, behind what has the same key. -/
def insOn {α : Type} (key : α → Nat) (x : α) : List α → List α
  | [] => [x]
  | y :: ys => if key x < key y then x :: y :: ys else y :: insOn key x ys

/-- A list in ascending order of `key`. -/
def sortOn {α : Type} (key : α → Nat) (xs : List α) : List α := xs.foldl (fun acc x => insOn key x acc) []

def getHold (s : Dev) (i : Nat) : Hold := mget (fun _ => {}) s.holds i
def setHold (i : Nat) (x : Hold) (s : Dev) : Dev := { s with holds := mset (fun _ => {}) i x s.holds }
def getFur (s : Dev) (e : Nat) : Furrow := mget (fun _ => {}) s.fur e
def setFur (e : Nat) (x : Furrow) (s : Dev) : Dev := { s with fur := mset (fun _ => {}) e x s.fur }
/-- Word `w` of timing-set entry `j` of lane `l` (R124: 0 until written). -/
def tsWord (s : Dev) (l j w : Nat) : Word := mget (fun _ => 0) s.tsets ((l * 128 + j) * 7 + w)
def setTsWord (l j w : Nat) (v : Word) (s : Dev) : Dev := { s with tsets := mset (fun _ => 0) ((l * 128 + j) * 7 + w) v s.tsets }

/-! ### What a row finds (R33) -/

/-- The key of a timing-set word's history. -/
def tsKey (l j w : Nat) : Nat := 2 ^ 24 + (l * 128 + j) * 7 + w
/-- The key of the history of lane `l`'s adjustments. -/
def adjKey (l : Nat) : Nat := 2 ^ 25 + l

/-- The value `v` under key `k` is about to change: it is kept for the rows whose fetch stage has begun. -/
def noteOld (k : Nat) (v : Word) (s : Dev) : Dev :=
  { s with rowHist := (now s, k, v) :: s.rowHist.filter fun x => decide (now s < x.1 + 64) }

/-- What a row whose fetch stage begins in mc `F` finds under key `k`, which holds `v` now: the value before the first
change in mc `F` or later (R33). -/
def asOf (s : Dev) (F k : Nat) (v : Word) : Word :=
  match (s.rowHist.filter fun x => x.2.1 == k && decide (F ≤ x.1)).getLast? with
  | some x => x.2.2
  | none => v

/-- The register at `a` as a row whose fetch stage begins in mc `F` finds it. -/
def rdAt (s : Dev) (F a : Nat) : Nat := (asOf s F a (rd s a)).toNat

/-- The oldest entry for key `k` from mc `F` on takes the value `v`; none when there is no such entry. -/
def histPut (F k : Nat) (v : Word) : List (Nat × Nat × Word) → Option (List (Nat × Nat × Word))
  | [] => none
  | x :: xs =>
    match histPut F k v xs with
    | some ys => some (x :: ys)
    | none => if x.2.1 = k && F ≤ x.1 then some ((x.1, k, v) :: xs) else none

/-- A row whose fetch stage begins in mc `F` sets the register at `a` to `v`: a write that software has made since then
stays in force after it. -/
def wrAt (F a v : Nat) (s : Dev) : Dev :=
  match histPut F a (w32 v) s.rowHist with
  | some h => { s with rowHist := h }
  | none => wrN a v s

/-- Every element of a list applied in order. -/
def forAll {α : Type} : List α → (α → Dev → Dev) → Dev → Dev
  | [], _, s => s
  | x :: xs, f, s => forAll xs f (f x s)

end Sys2Proof.Machine
end

