-- ==== Sys2Proof/Machine/Bus.lean ====
section
/-! DEFINITION. The rules that every register access shares: which access is refused and how it is
recorded, and how a plain register takes a write (Register pages). -/
namespace Sys2Proof.Machine

/-- LOCK.LOCKED of page `p` (R63). -/
def locked (s : Dev) (p : Nat) : Bool := fbit s (A p 0x2C) 31

/-- A write to a locked page is ignored: VIOL, IRQ_STAT.LOCKVIOL and the record (R64). -/
def lockViolation (p : Path) (a : Nat) (s : Dev) : Dev :=
  accessErr p a 4 (irqSet (a / 0x1000) 0x10000000 (hit (A (a / 0x1000) 0x2C) 30 s))

/-- Whether LOCK guards the offset: BLK_CTL and everything from 0x080 on (R64). -/
def lockGuards (o : Nat) : Bool := o == 8 || o ≥ 0x80

/-- A full-word write to BAR0 offset `a` on path `p`: refused under the first cause that holds, or carried
out by `f` (R49, R50, R58, R64, R71, R644). -/
def guardWrite (p : Path) (a : Nat) (f : Dev → Dev) (s : Dev) : Dev :=
  match regAt a with
  | none => accessErr p a 2 s
  | some _ =>
    if !pageOn s (a / 0x1000) then accessErr p a 3 s
    else if locked s (a / 0x1000) && lockGuards (a % 0x1000) then lockViolation p a s
    else if s.resetting.contains (a / 0x1000) then accessErr p a 5 s
    else f s

/-- The value a register of row `r` holds after a write of `v` over `old`: RW bits take `v`, W1C bits
written 1 clear, and a written-1 bit 31 clears the fields it guards (R16). -/
def writeBits (r : Reg) (old v : Nat) : Nat :=
  let x := (old ^^^ (old &&& r.rw)) ||| (v &&& r.rw)
  let c := (v &&& r.w1c) ||| (if bit (v &&& r.w1c) 31 then r.vclr else 0)
  x ^^^ (x &&& c)

/-- The W1C bits of the register at `a` that have been set in the current mc (R17). -/
def hotBits (s : Dev) (a : Nat) (r : Reg) : Nat := rdN s a &&& r.w1c &&& (m32 ^^^ (mget regReset s.mcRegs a).toNat)

/-- A plain write: the register takes it by its access codes; a W1C bit set in the same mc stays, also where a written-1 bit 31
would clear it with its own (R17). -/
def plainWrite (a v : Nat) (s : Dev) : Dev :=
  match regAt a with
  | some r => wrN a (writeBits r (rdN s a) (v ^^^ (v &&& hotBits s a r)) ||| hotBits s a r) s
  | none => s

/-- The registers from which rows take what they do, but for the timing-set words: CMP_MASK and CLK_SEL of a reflex page;
YOKE, PROG_LEN, CNT, RMASK, HOP_CFG, TILE_LIMIT, TS_BASE and the period table of a FUR page; CFG, MK_CFG and MK_WIDTH of a DRL
page (R33). -/
def rowReg (a : Nat) : Bool :=
  let o := a % 0x1000
  match pageKind (a / 0x1000) with
  | some .bankRfx => (0x80 ≤ o && o < 0x88) || (0xA0 ≤ o && o < 0xC0)
  | some .drl => o == 0x88 || o == 0x100 || o == 0x104
  | some .fur => (0xE0 ≤ o && o < 0xF0) || (0x100 ≤ o && o < 0x130) || o == 0x88 || o == 0x8C || o == 0x94 || o == 0x200 || o == 0x204 || o == 0x3F0 || (0x400 ≤ o && o < 0x800)
  | _ => false

/-- A write to the register at `a` comes: what it and the other register of its pair hold is kept for the rows whose
fetch stage has begun (R33). -/
def noteRow (a : Nat) (s : Dev) : Dev :=
  if rowReg a then noteOld (a / 8 * 8) (rd s (a / 8 * 8)) (noteOld (a / 8 * 8 + 4) (rd s (a / 8 * 8 + 4)) s) else s

/-- A write of `v` to the register at `a` on path `p`, carried out by `f` once the guard lets it through. -/
def onWrite (p : Path) (a : Nat) (f : Dev → Dev) (s : Dev) : Dev := guardWrite p a f s

/-- A write of `v` to the LO register at `a` of an RW pair is staged on path `p` (R57). -/
def stageLo (p : Path) (a v : Nat) (s : Dev) : Dev := setPath p { getPath s p with stage := some (a, w32 v) } s

/-- The LO value staged on path `p` for the pair at `a` (R57). -/
def stagedLo (s : Dev) (p : Path) (a : Nat) : Option Nat :=
  match (getPath s p).stage with
  | some (x, v) => if x = a then some v.toNat else none
  | none => none

/-- A write of `v` to the HI register of the pair at `a` on path `p`: with a LO value staged for the pair
both are written and the staging empties; else HI alone is written (R57). -/
def commitHi (p : Path) (a v : Nat) (s : Dev) : Dev :=
  match stagedLo s p a with
  | some lo => plainWrite (a + 4) v (plainWrite a lo (setPath p { getPath s p with stage := none } s))
  | none => plainWrite (a + 4) v s

/-- A write that the block's chapter refuses and records in CHIP.ACCESS_ERR (cause 0b110, Table 02-11). -/
def refused (p : Path) (a : Nat) (s : Dev) : Dev := accessErr p a 6 s

end Sys2Proof.Machine
end

