-- ==== Sys2Proof/Machine/Granary.lean ====
section
/-! DEFINITION. The Granary's shared operations: descriptors, reservation, closing, commit, notices,
overflow episodes and seals (Result queues: the Granary). -/
namespace Sys2Proof.Machine

/-- The granary's control page. -/
def grnPage : Nat := 0x170

/-- The modulus of positions (R417). -/
def posM : Nat := 2 ^ 32

def getQ (s : Dev) (q : Nat) : Queue := mget (fun _ => {}) s.grn.queues q
def setQ (q : Nat) (x : Queue) (s : Dev) : Dev :=
  { s with grn := { s.grn with queues := mset (fun _ => {}) q x s.grn.queues } }

/-- Units of the ring, S = 2^(SIZE + 8) (R417). -/
def qUnits (x : Queue) : Nat := 2 ^ (bits x.w1 11 5 + 8)
/-- The ring's base address. -/
def qBase (x : Queue) : Nat := bits x.w0 12 20 * 0x1000 + bits x.w1 16 16 * 2 ^ 32
/-- CLASS of the queue. -/
def qClass (x : Queue) : Nat := bits x.w1 9 2
/-- The difference of two positions, modulo 2^32. -/
def posSub (a b : Nat) : Nat := (a + posM - b % posM) % posM
/-- The fill of the queue (R417). -/
def qFill (x : Queue) : Nat := posSub x.wrp x.rdp
/-- The byte address of position `p` (R417). -/
def posAddr (x : Queue) (p : Nat) : Nat := qBase x + 16 * (p % qUnits x)
/-- The site of queue `q` (R415). -/
def qSite (q : Nat) : Nat := q / 16384

/-- QDESC[7] of a queue (Table 14-1). -/
def qWord7 (x : Queue) : Nat :=
  b2n x.en * 2 ^ 31 + b2n x.armed * 2 ^ 30 + b2n x.wmHit * 2 ^ 29 + b2n x.markValid * 2 ^ 28 + b2n x.markLost * 2 ^ 27
    + b2n x.ovf * 2 ^ 26 + b2n x.under * 2 ^ 25 + b2n (x.recs.any (·.opn)) * 2 ^ 24 + x.wm * 2 ^ 16 + x.peak * 2 ^ 7 + x.drops

/-- The eight words of a descriptor (R416). -/
def qWords (x : Queue) : List Nat := [x.w0, x.w1, x.wrp, x.commit, x.rdp, x.seq, x.mark, qWord7 x]

/-- GRN.DESC_BASE (R415). -/
def descBase (s : Dev) : Nat := rd64 s (A grnPage 0x80)

/-- The descriptor of queue `q` written back to DDR-5 memory (R415, R443). -/
def qWriteBack (q : Nat) (s : Dev) : Dev :=
  memWrite .granary (descBase s + 32 * q) ((qWords (getQ s q)).flatMap (leBytes 4)) s

/-- A descriptor whose copy in memory is `bs`, with the Granary's own account `x` of the queue. -/
def qOfBytes (bs : List Byte) (x : Queue) : Queue :=
  let w := fun i => leNat ((bs.drop (4 * i)).take 4)
  { x with
    w0 := w 0, w1 := w 1, wrp := w 2, commit := w 3, rdp := w 4, seq := w 5, mark := w 6, en := bit (w 7) 31,
    armed := bit (w 7) 30, wmHit := bit (w 7) 29, markValid := bit (w 7) 28, markLost := bit (w 7) 27, ovf := bit (w 7) 26,
    under := bit (w 7) 25, wm := bits (w 7) 16 8, peak := bits (w 7) 7 9, drops := bits (w 7) 0 7 }

/-- Whether a pop port holds queue `q` (R428, R443). -/
def qClaimed (s : Dev) (q : Nat) : Bool := s.paths.any fun e => e.2.claim == some q

/-- Whether the descriptor of queue `q` is in the cache. -/
def qCached (s : Dev) (q : Nat) : Bool := s.grn.cache.contains q

/-- The entry the cache replaces: the least recently used whose queue has no open record and no claim (R443). -/
def cacheVictim (s : Dev) : Option Nat :=
  s.grn.cache.reverse.find? fun q => !(getQ s q).recs.any (·.opn) && !qClaimed s q

/-- Queue `q` becomes the most recently used entry of the cache. -/
def cacheTouch (q : Nat) (s : Dev) : Dev :=
  { s with grn := { s.grn with cache := q :: s.grn.cache.filter (· ≠ q) } }

/-- The descriptor of queue `q` is read from DDR-5 memory. -/
def qRead (q : Nat) (s : Dev) : Dev :=
  let (bs, s) := memRead .granary (descBase s + 32 * q) 32 s
  setQ q (qOfBytes bs (getQ s q)) s

/-- The descriptor of queue `q` is read into the cache, and a replaced one is written back (R443). Where every entry has an open
record or a claim, none can be replaced: the descriptor is read, and goes back to memory after its use. -/
def cacheLoad (q : Nat) (s : Dev) : Dev :=
  if qCached s q then cacheTouch q s
  else if s.grn.cache.length < 4096 then cacheTouch q (qRead q s)
  else
    match cacheVictim s with
    | some v => let s := qWriteBack v s; cacheTouch q (qRead q { s with grn := { s.grn with cache := s.grn.cache.filter (· ≠ v) } })
    | none => qRead q s

/-- A descriptor that found no place in the cache goes back to memory. -/
def cacheSettle (q : Nat) (s : Dev) : Dev := if qCached s q then s else qWriteBack q s

/-- The descriptor of queue `q` is used, and read into the cache on a miss, which counts (R443). -/
def cacheGet (q : Nat) (s : Dev) : Dev :=
  cacheLoad q (onlyIf (!qCached s q) (incSat (A grnPage 0x98) 16 16 1) s)

/-! ### Notices (R440 to R442) -/

/-- The free places of notice ring `n`. -/
def nrFull (s : Dev) (n : Nat) : Bool :=
  posSub (rdN s (A grnPage (0x240 + 4 * n))) (rdN s (A grnPage (0x200 + 4 * n))) ≥ 2 ^ fget s (A grnPage (0x108 + 16 * n)) 0 5

/-- The message of notice ring `n`, when its ARM is 1; it clears ARM (R442). -/
def nrMessage (n : Nat) (s : Dev) : Dev :=
  if fbit s (A grnPage (0x108 + 16 * n)) 29 then
    msixSend (fget s (A grnPage (0x108 + 16 * n)) 16 11) (fset (A grnPage (0x108 + 16 * n)) 29 1 0 s)
  else s

/-- A notice of `kind` for queue `q` is written to its ring, or lost when the ring is full (R440, R442). -/
def notice (q kind : Nat) (s : Dev) : Dev :=
  let n := bits (getQ s q).w1 4 4
  if !fbit s (A grnPage (0x108 + 16 * n)) 31 then s
  else if nrFull s n then
    irqSet grnPage 1 (hit (A grnPage (0x108 + 16 * n)) 30 (incSat (A grnPage (0x10C + 16 * n)) 0 32 1 s))
  else
    let wrp := rdN s (A grnPage (0x240 + 4 * n))
    let sz := fget s (A grnPage (0x108 + 16 * n)) 0 5
    let phase := 1 - (wrp / 2 ^ sz) % 2
    let entry := phase * 2 ^ 63 + kind * 2 ^ 60 + (q % 2 ^ 20) * 2 ^ 32 + now s % 2 ^ 32
    let s := memWrite .granary (rd64 s (A grnPage (0x100 + 16 * n)) + 8 * (wrp % 2 ^ sz)) (leBytes 8 entry) s
    nrMessage n (wrN (A grnPage (0x240 + 4 * n)) (wrp + 1) s)

/-- A notice of `kind` when the queue's IEN bit `ien` enables it (R441). -/
def noticeIf (q kind ien : Nat) (s : Dev) : Dev := onlyIf (bit (getQ s q).w1 ien) (notice q kind) s

/-- The notice ring that queue `q` names is on. -/
def ringOn (q : Nat) (s : Dev) : Bool := fbit s (A grnPage (0x108 + 16 * bits (getQ s q).w1 4 4)) 31

/-- A DATA notice when ARMED; sending it, lost or not, clears ARMED (R441, R442). -/
def dataNotice (q : Nat) (s : Dev) : Dev :=
  if (getQ s q).armed && bit (getQ s q).w1 3 && ringOn q s then notice q 1 (setQ q { getQ s q with armed := false } s) else s

/-! ### Records (R420 to R425) -/

/-- The closing word: bytes 0 to 7 of the header (R420). -/
def closingWord (valid typ flags epoch site len : Nat) : Nat :=
  valid * 2 ^ 63 + (typ % 128) * 2 ^ 56 + (flags % 256) * 2 ^ 48 + (epoch % 256) * 2 ^ 40 + (site % 64) * 2 ^ 32 + len % 2 ^ 32

/-- A 16-byte header (R420). -/
def header (valid typ flags epoch site len seq ts : Nat) : List Byte :=
  leBytes 8 (closingWord valid typ flags epoch site len) ++ leBytes 4 seq ++ leBytes 4 ts

/-- The WARM flag is 0 (R420). -/
def warm0 (s : Dev) : Bool := !fbit s (A 1 0x84) 31

/-- WARM was 0 at some mc from time `a` to time `b` (R363). -/
def coldIn (s : Dev) (a b : Int) : Bool :=
  s.cold.any fun p => decide ((p.1 : Int) ≤ fdiv b 1024) && (match p.2 with
    | some e => decide (fdiv a 1024 < e)
    | none => true)

/-- PEAK and the watermark after a reservation (R430). -/
def afterReserve (q : Nat) (s : Dev) : Dev :=
  let x := getQ s q
  let f := qFill x
  let x := { x with peak := max x.peak (cdiv (f * 256) (qUnits x)) }
  if x.wm ≠ 0 && !x.wmHit && f * 256 ≥ x.wm * qUnits x then noticeIf q 2 2 (setQ q { x with wmHit := true } s) else setQ q x s

/-- The writer overtakes the rewind mark (R433). -/
def markCheck (q : Nat) (s : Dev) : Dev :=
  let x := getQ s q
  if x.markValid && posSub x.wrp x.mark > qUnits x then
    let back := (x.bounds.filterMap fun b => if posSub x.wrp b ≤ qUnits x then some (posSub x.wrp b) else none).foldl max 0
    noticeIf q 4 0 (setQ q { x with markValid := false, markLost := true, mark := posSub x.wrp back } s)
  else s

/-- Record boundaries that the ring no longer holds are forgotten (R433). -/
def trimBounds (x : Queue) : Queue := { x with bounds := x.bounds.filter fun b => posSub x.wrp b ≤ qUnits x }

/-- A PAD of `u` units placed at WR (R423, R424, R646). -/
def placePad (q u : Nat) (s : Dev) : Dev :=
  if u = 0 then s else
    let x := getQ s q
    let s := memWrite .granary (posAddr x x.wrp) (header 1 1 0 0 (qSite q) (16 * u) x.seq (now s)) s
    setQ q { x with wrp := (x.wrp + u) % posM, bounds := x.bounds ++ [x.wrp],
                    recs := x.recs ++ [{ pos := x.wrp, units := u, opn := false, epoch := 0, sys := true, typ := 1, flags := 0,
                                         seq := x.seq, ts := now s, warm0 := false, written := 16, site := qSite q, raw := false }] } s

/-- The PAD that a record of `u` units needs so that it does not cross the ring's end (R424). -/
def padFor (x : Queue) (wrp u : Nat) : Nat :=
  if wrp % qUnits x + u > qUnits x then qUnits x - wrp % qUnits x else 0

/-- A record of `u` units reserved at WR, after its PAD; it takes the next SEQ (R422). -/
def reserve (q u : Nat) (o : Offer) (s : Dev) : Dev :=
  let s := placePad q (padFor (getQ s q) (getQ s q).wrp u) s
  let x := getQ s q
  let s := memWrite .granary (posAddr x x.wrp) (zeros 8) s
  let s := setQ q { x with wrp := (x.wrp + u) % posM, seq := (x.seq + 1) % posM, bounds := x.bounds ++ [x.wrp],
                           recs := x.recs ++ [{ pos := x.wrp, units := u, opn := true, epoch := o.epoch, sys := o.sys, typ := o.typ,
                                                flags := o.flags, seq := x.seq, ts := o.ts, warm0 := warm0 s, written := 16, site := o.site.getD (qSite q), raw := o.site.isSome }],
                           counts := if o.sys then x.counts else mset (fun _ => 0) o.epoch (sat (mget (fun _ => 0) x.counts o.epoch + 1) (posM - 1)) x.counts } s
  let s := markCheck q (afterReserve q s)
  setQ q (trimBounds (getQ s q)) s

/-- The bytes of a record of `typ` from `a` on: the samples of a SEGMENT travel in the acquisition class, all else in the
Granary class (R425). -/
def recBytes (typ a : Nat) (body : List Byte) (s : Dev) : Dev :=
  if typ = 0x20 then memWrite .acq (a + 48) (body.drop 48) (memWrite .granary a (body.take 48) s) else memWrite .granary a body s

/-- The open record of queue `q` at position `pos` closes: its bytes after the header, then the closing
word with the actual LEN, and a PAD for the rest of the reservation (R422, R423). -/
def closeRec (q pos : Nat) (body : List Byte) (cut : Bool) (s : Dev) : Dev :=
  let x := getQ s q
  match x.recs.find? (fun r => r.pos == pos && r.opn) with
  | none => s
  | some r =>
    let len := 16 * cdiv (16 + body.length) 16
    let flags := if r.raw then r.flags else
      r.flags ||| (if r.warm0 || coldIn s (1024 * (r.ts : Int)) (nowVs s) then 0x40 else 0) ||| (if cut then 0x20 else 0) ||| (if r.sys then 0x10 else 0)
    let s := recBytes r.typ (posAddr x pos + 16) body s
    let s := memWrite .granary (posAddr x pos) (header 1 r.typ flags r.epoch r.site len r.seq r.ts) s
    let u := len / 16
    let pad := r.units - u
    let s := if pad = 0 then s else memWrite .granary (posAddr x (pos + u)) (header 1 1 0 0 (qSite q) (16 * pad) x.seq (now s)) s
    setQ q { x with
      recs := x.recs.flatMap fun y => if y.pos == pos && y.opn then
          { y with opn := false, units := u } ::
            (if pad = 0 then [] else [{ y with pos := (pos + u) % posM, units := pad, opn := false, sys := true, typ := 1 }])
        else [y],
      bounds := if pad = 0 then x.bounds else x.bounds ++ [(pos + u) % posM] } s

/-- COMMIT advances over the records that have closed, from the oldest on (R425). -/
def commitGo : Nat → List GRec → Nat × List GRec
  | c, [] => (c, [])
  | c, r :: rs => if r.opn then (c, r :: rs) else commitGo ((r.pos + r.units) % posM) rs

/-- COMMIT of queue `q` advances; a DATA notice follows while ARMED (R425, R441). -/
def commitQ (q : Nat) (s : Dev) : Dev :=
  if (commitGo (getQ s q).commit (getQ s q).recs).1 = (getQ s q).commit then s
  else
    let s := cacheGet q s
    let x := getQ s q
    let (c, rs) := commitGo x.commit x.recs
    cacheSettle q (dataNotice q (setQ q { x with commit := c, recs := rs } s))

/-! ### Offers (R435 to R439) -/

/-- A GAP record's payload (Table 07-4): the three 64-bit words and the last two 32-bit words. -/
def gapBody (a b c d e : Nat) : List Byte := leBytes 8 a ++ leBytes 8 b ++ leBytes 8 c ++ leBytes 4 d ++ leBytes 4 e

/-- Fill after the reservations of `us`, each with its PAD, from position `w`. -/
def endAfter (x : Queue) : Nat → List Nat → Nat
  | w, [] => w
  | w, u :: us => endAfter x (w + padFor x w u + u) us

/-- A record without room is dropped whole (R435). -/
def dropRec (q len : Nat) (s : Dev) : Dev :=
  let x := getQ s q
  match x.epi with
  | some (b, n, t) => setQ q { x with drops := sat (x.drops + 1) 127, ovf := true, epi := some (b + len, n + 1, t) } s
  | none =>
    let s := setQ q { x with drops := sat (x.drops + 1) 127, ovf := true, epi := some (len, 1, now s) } s
    let s := noticeIf q 3 1 s
    onlyIf (bit x.w1 8) (raise 0xED 0) s

/-- The overflow episode's GAP record, placed ahead of the first record that fits (R436, R646). -/
def overflowGap (q : Nat) (s : Dev) : Dev :=
  match (getQ s q).epi with
  | none => s
  | some (b, n, t) =>
    let o : Offer := { q, typ := 4, flags := 0x10, epoch := 0, sys := true, len := 48, ts := now s, body := [], whole := true, tag := 0, site := some (qSite q) }
    let s := setQ q { getQ s q with epi := none } s
    let s := reserve q 3 o s
    let x := getQ s q
    closeRec q (posSub x.wrp 3) (gapBody b n t 0x30000000 (qSite q)) false s

/-- Sealed epochs of `x` refuse the record (R439). -/
def staleFor (x : Queue) (o : Offer) : Bool := !o.sys && x.sealed.contains o.epoch

/-- How many queues hold open records (R437). -/
def openQueues (s : Dev) : Nat := (s.grn.queues.filter fun e => e.2.recs.any (·.opn)).length

/-- A record is placed in its queue, or dropped for want of room (R422, R435, R436). -/
def placeRoom (o : Offer) (s : Dev) : Dev :=
  let x := getQ s o.q
  let u := cdiv o.len 16
  let us := match x.epi with
    | some _ => [3, u]
    | none => [u]
  if u > qUnits x || endAfter x x.wrp us - x.wrp + qFill x > qUnits x then dropRec o.q o.len s
  else
    let s := reserve o.q u o (overflowGap o.q s)
    let pos := posSub (getQ s o.q).wrp u
    if o.whole then closeRec o.q pos o.body false s
    else { s with grn := { s.grn with opens := s.grn.opens ++ [(o.tag, o.q, pos)] } }

/-- A record for queue `q` is discarded: its EN is 0, or 4,096 queues hold open records (R437). -/
def noQueue (s : Dev) (q : Nat) : Bool := !(getQ s q).en || decide (openQueues s ≥ 4096)

/-- An offered record is discarded, dropped, or placed in its queue (R422, R435 to R439). -/
def placeOffer (o : Offer) (s : Dev) : Dev :=
  if noQueue s o.q then irqSet grnPage 0x20 (incSat (A grnPage 0xC0) 0 32 1 s)
  else if staleFor (getQ s o.q) o then irqSet grnPage 0x10 (incSat (A grnPage 0xC4) 0 32 1 s)
  else placeRoom o s

/-- Bytes waiting in the intake buffer of 256 KiB (R443). -/
def intakeBytes (s : Dev) : Nat := (s.grn.intake.map (·.len)).foldl (· + ·) 0

/-- The Granary takes no new record: disabled or draining (R437, R445). -/
def grnClosed (s : Dev) : Bool := !running s grnPage || !blkEn s grnPage

/-- Whether the Granary can take an offer now: a Granary that discards it; or, with no earlier record for its queue left with a
producer, a cached queue with nothing of it waiting, or room in the intake (R443). -/
def grnRoom (o : Offer) (s : Dev) : Bool :=
  grnClosed s || (!s.grn.kept.any (·.q == o.q) &&
    ((qCached s o.q && !s.grn.intake.any (·.q == o.q)) || intakeBytes s + o.len ≤ 262144))

/-- A record is offered (R437, R443): refused while the Granary is disabled or draining; placed when the
queue's descriptor is cached; else it waits in the intake for its descriptor, or with its producer while the intake is full. -/
def offer (o : Offer) (s : Dev) : Dev :=
  if grnClosed s then incSat (A grnPage 0xC8) 0 32 1 s
  else if !grnRoom o s then { s with grn := { s.grn with kept := s.grn.kept ++ [o] } }
  else if s.grn.intake.any (·.q == o.q) then { s with grn := { s.grn with intake := s.grn.intake ++ [o] } }
  else if qCached s o.q then placeOffer o (cacheTouch o.q s)
  else
    let s := incSat (A grnPage 0x98) 16 16 1 s
    { s with grn := { s.grn with intake := s.grn.intake ++ [o] } }

/-- The number of site `i`'s current queue: SITE_CUR.STREAM when the record opens (R415, R438). -/
def siteQueue (s : Dev) (i : Nat) : Nat := 16384 * i + fget s (A grnPage (0x300 + 4 * i)) 0 14

/-- The site's placement epoch (R438). -/
def siteEpoch (s : Dev) (i : Nat) : Nat := fget s (A grnPage (0x300 + 4 * i)) 24 8

/-- FLW.SITE_STAT of site `i`: STATE in [31:29], the lead furrow in [22:16] (Table 15-11). -/
def siteStat (i : Nat) : Nat := A 0x179 (0x80C + 32 * i)

/-- The site placed on lead furrow `f` (R449); a site is placed while its STATE is not UNPLACED. -/
def siteOn (s : Dev) (f : Nat) : Option Nat :=
  (List.range 64).find? fun i => fget s (siteStat i) 29 3 != 0 && fget s (siteStat i) 16 7 == f

/-- Some site runs a step or awaits its verdict (R450). -/
def flowRuns (s : Dev) : Bool := s.flw.sites.any fun x => fget s (siteStat x.1) 29 3 == 2 || fget s (siteStat x.1) 29 3 == 3

/-- A quantity that closes while a step runs is kept for its limits (R454). -/
def logQ (q : FlowQ) (s : Dev) : Dev := onlyIf (flowRuns s) (fun s => { s with flw := { s.flw with log := s.flw.log ++ [q] } }) s

/-- A whole record of `typ` with `body` after its header, and with TS `ts`, goes to site `i`'s current queue. -/
def siteRecordAt (i typ flags epoch ts : Nat) (body : List Byte) (s : Dev) : Dev :=
  offer { q := siteQueue s i, typ, flags, epoch, sys := false, len := 16 + body.length, ts, body, whole := true, tag := 0 } s

/-- The same with the TS of the current mc. -/
def siteRecord (i typ flags epoch : Nat) (body : List Byte) (s : Dev) : Dev := siteRecordAt i typ flags epoch (now s) body s

/-- A whole record of no placement goes to queue `q`. -/
def sysRecord (q typ flags : Nat) (body : List Byte) (s : Dev) : Dev :=
  offer { q, typ, flags, epoch := 0, sys := true, len := 16 + body.length, ts := now s, body, whole := true, tag := 0 } s

/-- The open record a producer knows by `tag` closes. -/
def closeTag (tag : Nat) (body : List Byte) (s : Dev) : Dev :=
  match s.grn.opens.find? (·.1 == tag) with
  | some (_, q, pos) =>
    closeRec q pos body false { s with grn := { s.grn with opens := s.grn.opens.filter (fun e => e.1 != tag) } }
  | none => s

/-- The open record a producer knows by `tag` gains the flags `fl`. -/
def flagTag (tag fl : Nat) (s : Dev) : Dev :=
  match s.grn.opens.find? (·.1 == tag) with
  | some (_, q, pos) =>
    setQ q { getQ s q with recs := (getQ s q).recs.map fun r => if r.pos == pos && r.opn then { r with flags := r.flags ||| fl } else r } s
  | none => s

/-- Bytes of the open record a producer knows by `tag` are written at offset `ofs`, up to which it is written then (R422,
R444). -/
def streamTag (tag ofs : Nat) (bs : List Byte) (s : Dev) : Dev :=
  match s.grn.opens.find? (·.1 == tag) with
  | some (_, q, pos) =>
    let s := memWrite .acq (posAddr (getQ s q) pos + ofs) bs s
    setQ q { getQ s q with recs := (getQ s q).recs.map fun r => if r.pos == pos && r.opn then { r with written := max r.written (ofs + bs.length) } else r } s
  | none => s

/-- Every open record of queue `q` closes with CUT, its LEN the bytes already written (R444). -/
def cutQueue (q : Nat) (s : Dev) : Dev :=
  let s := forAll ((getQ s q).recs.filter (·.opn)) (fun r s =>
    closeRec q r.pos (memBytes s (posAddr (getQ s q) r.pos + 16) (r.written - 16)) true s) s
  { s with grn := { s.grn with opens := s.grn.opens.filter fun e => e.2.1 != q } }

/-- Records of epoch `e` without SYS that are still open in queue `q` (R439). -/
def openOfEpoch (x : Queue) (e : Nat) : Bool := x.recs.any fun r => r.opn && !r.sys && r.epoch == e

/-- The SEAL record of epoch `e`, once every record of the epoch has closed (R439, R646). The epoch is sealed, and the notice sent,
when the record has been placed; without room or with EN 0 it is dropped or discarded as any record is (R435, R437). -/
def placeSeal (q e : Nat) (s : Dev) : Dev :=
  let x := getQ s q
  let s := cacheLoad q s
  if !x.sealReq.contains e || openOfEpoch x e || s.grn.intake.any (fun o => o.q == q && o.epoch == e && !o.sys) || !qCached s q then s
  else
    let x := getQ s q
    let body := leBytes 4 (mget (fun _ => 0) x.counts e) ++ leBytes 4 (e * 2 ^ 24 + siteEpoch s (qSite q)) ++ leBytes 8 (now s)
    let s := setQ q { x with sealReq := x.sealReq.filter (· ≠ e) } s
    let o : Offer := { q, typ := 3, flags := 0, epoch := e, sys := false, len := 32, ts := now s, body, whole := true, tag := 0, site := some (qSite q) }
    let s := if noQueue s q then irqSet grnPage 0x20 (incSat (A grnPage 0xC0) 0 32 1 s) else placeRoom o s
    if (getQ s q).seq = x.seq then s
    else noticeIf q 5 3 (setQ q { getQ s q with sealed := (getQ s q).sealed.filter (· ≠ e) ++ [e] } s)

end Sys2Proof.Machine
end

