-- ==== Sys2Proof/Machine/Lane.lean ====
section
/-! DEFINITION. The drive lane and the sense lane: ownership, parks, the transmitter with its
deferral (R79), the formatter's spacing (R127), the sense decoder's qualification (R83) and lane health (R110). -/
namespace Sys2Proof.Machine

/-! ### Addresses and ownership -/

/-- The configuration page of bank `b` (R73). -/
def cfgPage (b : Nat) : Nat := 0x40 + 4 * b
/-- The timing-set window page of bank `b`. -/
def tsPage (b : Nat) : Nat := 0x41 + 4 * b
/-- The calibration page of bank `b`. -/
def calPage (b : Nat) : Nat := 0x42 + 4 * b
/-- The reflex page of bank `b`. -/
def rfxPage (b : Nat) : Nat := 0x43 + 4 * b
/-- The FUR page of engine `e` (R164). -/
def furPage (e : Nat) : Nat := 0x80 + e
/-- The FEC page of bank `b`. -/
def fecPage (b : Nat) : Nat := 0x194 + b

/-- BANK.LANE_CFG of lane `l` (R73). -/
def laneCfg (l : Nat) : Nat := A (cfgPage (l / 64)) (0x100 + 4 * (l % 64))

/-- The owner of a lane: a logical furrow, or 0x7F for none (R74). -/
def owner (s : Dev) (l : Nat) : Nat := fget s (laneCfg l) 0 7

/-- The engine that runs logical furrow `f` (R164). -/
def engOf (s : Dev) (f : Nat) : Option Nat :=
  if f < 64 && fget s (A (furPage f) 0x90) 0 7 == f then some f
  else (List.range 66).find? fun e => fget s (A (furPage e) 0x90) 0 7 == f

/-- The logical furrow of engine `e`. -/
def logical (s : Dev) (e : Nat) : Nat := fget s (A (furPage e) 0x90) 0 7

/-- FUR.STAT.STATE of engine `e` (Table 06-1). -/
def furState (s : Dev) (e : Nat) : Nat := fget s (A (furPage e) 0x84) 16 3

/-- Stopped: IDLE, HALTED or FAULTED (R166). -/
def engStopped (s : Dev) (e : Nat) : Bool := furState s e == 0 || furState s e == 4 || furState s e == 5

/-- Logical furrow `f` is stopped; one that runs on no engine is. -/
def furStopped (s : Dev) (f : Nat) : Bool :=
  match engOf s f with
  | some e => engStopped s e
  | none => true

/-- BAR0 offset of register `o` of engine `e`. -/
def fa (e o : Nat) : Nat := A (furPage e) o

/-! ### Yokes (R198) -/

/-- FUR.YOKE.ROLE. -/
def yokeRole (s : Dev) (e : Nat) : Nat := fget s (fa e 0x8C) 30 2
/-- FUR.YOKE.POS. -/
def yokePos (s : Dev) (e : Nat) : Nat := fget s (fa e 0x8C) 6 2
/-- FUR.YOKE.LEAD, for a furrow that runs as the next row finds it (R33). -/
def yokeLead (s : Dev) (m : Nat) : Nat :=
  if furState s m == 3 then bits (rdAt s ((getFur s m).tNext / 1024 - 22) (fa m 0x8C)) 0 6 else fget s (fa m 0x8C) 0 6
/-- The engines that name the furrow of `e` as their lead. -/
def yokeNamed (s : Dev) (e : Nat) : List Nat :=
  (List.range 66).filter fun m => yokeRole s m == 2 && yokeLead s m == logical s e && logical s m != 0x7F && logical s e != 0x7F
/-- The members of the yoke that engine `e` leads, by position. -/
def yokeMembers (s : Dev) (e : Nat) : List Nat :=
  if yokeRole s e = 1 then [1, 2, 3].flatMap fun p => (yokeNamed s e).filter fun m => yokePos s m == p else []
/-- The engines of the yoke led by `e`, the lead first. -/
def yokeEngs (s : Dev) (e : Nat) : List Nat := e :: yokeMembers s e
/-- The lead of engine `e`: itself, unless it is a member. -/
def leadOf (s : Dev) (e : Nat) : Nat :=
  if yokeRole s e = 2 then match engOf s (yokeLead s e) with
    | some l => l
    | none => e
  else e

/-! ### Lanes of a furrow -/

/-- The lane whose LANE_CFG lies at BAR0 offset `a`. -/
def laneOfAddr (a : Nat) : Option Nat :=
  if 0x40 ≤ a / 0x1000 && a / 0x1000 < 0x60 && a / 0x1000 % 4 == 0 && 0x100 ≤ a % 0x1000 && a % 0x1000 < 0x200
  then some ((a / 0x1000 - 0x40) / 4 * 64 + (a % 0x1000 - 0x100) / 4) else none

/-- The lanes that logical furrow `f` owns, ascending: its slots (R174). A lane whose LANE_CFG holds its
reset value has no owner, so only listed registers count. -/
def ownedLanes (s : Dev) (f : Nat) : List Nat :=
  s.regs.filterMap fun e => match laneOfAddr e.1 with
    | some l => if e.2.toNat % 128 = f then some l else none
    | none => none

/-! ### Latches of a furrow (R183, R186) -/

/-- A Boolean with the changes `h`, newest first, as it was at time `t`; it is `v` now. -/
def histAt (h : List (Nat × Bool)) (v : Bool) (t : Nat) : Bool :=
  match h.find? fun x => x.1 ≤ t with
  | some x => x.2
  | none => match h.getLast? with
    | some x => !x.2
    | none => v

/-- The number of the latch that the condition `c` with SEL tests: the sticky fail latch, a trigger latch or a mask-violation
latch. -/
def latKey (c sel : Nat) : Nat := if c = 5 then 0 else if c = 7 then 1 + sel else 21 + sel

/-- The register bit that shows latch `k` of engine `e`. -/
def latBit (e k : Nat) : Nat × Nat :=
  if k = 0 then (fa e 0x84, 15) else if k < 21 then (fa e 0xD0, k - 1) else (fa e (0xD4 + 4 * ((k - 21) / 32)), (k - 21) % 32)

/-- Latch `k` of engine `e` is set. -/
def latOn (s : Dev) (e k : Nat) : Bool := fbit s (latBit e k).1 (latBit e k).2

/-- Latch `k` as it was at time `t`. -/
def latWas (s : Dev) (e k t : Nat) : Bool := histAt (mget (fun _ => []) (getFur s e).latHist k) (latOn s e k) t

/-- A change of latch `k` to `b` at time `t` is kept for the decisions that look back to it. -/
def latNote (e k t : Nat) (b : Bool) (s : Dev) : Dev :=
  let f := getFur s e
  setFur e { f with latHist := mset (fun _ => []) k ((t, b) :: mget (fun _ => []) f.latHist k) f.latHist } s

/-- Latch `k` of engine `e` is set at time `t` (R183). -/
def latSet (e k t : Nat) (s : Dev) : Dev :=
  let was := latOn s e k
  let s := if was then s else latNote e k t true s
  let f := getFur s e
  let s := setFur e { f with latAt := mset (fun _ => 0) k (max t (if was then mget (fun _ => 0) f.latAt k else 0)) f.latAt } s
  hit (latBit e k).1 (latBit e k).2 s

/-! ### Owners -/

/-! ### Parks (R111) -/

/-- Quench is in force (R563). -/
def inQuench (s : Dev) : Bool := fbit s (A 2 0xC8) 31

/-- The lane's health code (Table 03-15). -/
def health (s : Dev) (l : Nat) : Nat := fget s (laneCfg l) 16 3

/-- The park conditions of Table 03-9 that come neither from the bank's EN nor from a symbol, a format event or Quench. -/
def parkOther (s : Dev) (l : Nat) : Bool :=
  !domOn s (4 + l / 64) || !blkReady s (cfgPage (l / 64)) || owner s l == 0x7F
    || fbit s (laneCfg l) 8 || health s l == 3 || health s l == 4

/-- Those, or the bank's EN at 0. -/
def parkCond (s : Dev) (l : Nat) : Bool := !blkEn s (cfgPage (l / 64)) || parkOther s l

/-- Drive-state codes of RFX_CFG.D (Table 05-10). -/
def drvCode (d : Nat) : DState := if d = 0 then .d0 else if d = 1 then .d1 else .p

/-- The natural end of a hold in mode `mode` of length `len` whose latest entry came in mc `m` and left in mc `n` (R157). -/
def natEnd (mode len m : Nat) (n : Option Nat) : Option Nat :=
  if mode = 0 then n.map fun n => max (m + 14 + len) (n + 14) else if mode = 1 then some (m + 14 + len) else none

/-- The mc at whose start a hold ends, once it is known (R157). -/
def holdEnd (h : Hold) : Option Nat :=
  match natEnd h.mode h.len h.m h.n, h.endAt with
  | some a, some c => some (min a c)
  | some a, none => some a
  | none, c => c

/-- The hold has ended by the start of mc `t`. -/
def holdOver (h : Hold) (t : Nat) : Bool :=
  match holdEnd h with
  | some e => decide (e ≤ t)
  | none => false

/-- The hold is in force at time `t`. -/
def holdsAt (h : Hold) (t : Nat) : Bool := h.active && decide (h.start * 1024 ≤ t) && !holdOver h (t / 1024) && !holdOver h h.start

/-- The lowest-numbered rule of the lane's bank that holds it at time `t`, and its state (R158). -/
def heldBy (s : Dev) (l t : Nat) : Option DState :=
  match (List.range 16).find? (fun r => holdsAt (getHold s (l / 64 * 16 + r)) t && (getHold s (l / 64 * 16 + r)).lanes.contains l) with
  | some r => some (drvCode (getHold s (l / 64 * 16 + r)).d)
  | none => none

/-- Quench has reached the drive lanes (R564). -/
def quenchParks (s : Dev) : Bool := inQuench s && !s.flt.quenchPend

/-- The state the transmitter takes at time `t` from the highest-ranked source: Quench, a park condition, a reflex
rule, the formatted row (R24, R111). -/
def laneTarget (s : Dev) (l t : Nat) : DState :=
  if quenchParks s || (getLane s l).parked then .p
  else match heldBy s l t with
    | some d => d
    | none => (getLane s l).fmt

/-! ### Drill level (R391, R393, R401) -/

/-- The drill that BANK.CLK_SEL names for lane `l`. -/
def clkSel (s : Dev) (l : Nat) : Nat := fget s (A (rfxPage (l / 64)) (0xA0 + 4 * (l % 64 / 8))) (4 * (l % 8)) 4

/-- The drill that it names for a row whose fetch stage begins in mc `F` (R33, Table 05-9). -/
def clkSelAt (s : Dev) (F l : Nat) : Nat := bits (rdAt s F (A (rfxPage (l / 64)) (0xA0 + 4 * (l % 64 / 8)))) (4 * (l % 8)) 4

/-- The row of lane `l`'s owner that runs at time `t`. -/
def rowOf (s : Dev) (l t : Nat) : Option Row :=
  (engOf s (owner s l)).bind fun e => (getFur s e).issued.find? fun r => r.t ≤ t && t < r.t + r.len

/-- Drill `d` clocks the lane, or will once an event that waits has come (R147). -/
def followsDrill (d : Nat) (x : Lane) : Bool :=
  (x.gate && x.clk == d) || x.evs.any fun v => match v.act with
    | .gateOn d' _ => d' == d
    | _ => false

/-- The drill's phase at time `t`, in units of 2^−58 cycle: low outside a run. -/
def phaseAt (x : Drill) (t : Nat) : Nat := match x.segs.find? (fun g => g.t ≤ t) with
  | some g => (g.phi + g.f * (t - g.t)) % 2 ^ 58
  | none => 2 ^ 57

/-- The state that a lane takes when drill `d` is gated on at drill time `td`. -/
def drillState (s : Dev) (d td : Nat) : DState :=
  if phaseAt (mget (fun _ => {}) s.drl d) td < 2 ^ 57 then .d1 else .d0

/-! ### The transmitter -/

/-- The lane's drive goes to `st` at `t`: no transition when it is there already (R145); a transition
less than 410 vs after the previous one is deferred and counted (R79). A deferred transition is the previous one of the next:
a further change before its time follows it 410 vs later, and none is dropped (DEDUCED, log entry 54). -/
def driveTo (l t : Nat) (st : DState) (s : Dev) : Dev :=
  let ln := getLane s l
  if ln.drive = st then s
  else
    let late := match ln.lastT with
      | some u => decide (t < u + 410)
      | none => false
    let t' := match ln.lastT with
      | some u => if t < u + 410 then u + 410 else t
      | none => t
    let s := setLane l { ln with drive := st, lastT := some t' } s
    let s := onlyIf late (incSat (A (cfgPage (l / 64)) 0x90) 0 32 1) s
    onlyIf (domOn s (4 + l / 64)) (emit (.dl l t' st)) s

/-- The lane takes the state of its highest-ranked source at time `t`. -/
def settle (l t : Nat) (s : Dev) : Dev := driveTo l t (laneTarget s l t) s

/-- The spans of time that hold some moment from `a` on and before `b`. -/
def meets (a b : Nat) (ps : List (Nat × Nat)) : Bool := ps.any fun p => p.1 < b && a < p.2

/-- A transition entry that falls within the row `k` of reference-plane times `a` to `b`, or that its results made, is
timing-invalid (R294). -/
def markEnt (a b k : Nat) (x : TEnt) : TEnt :=
  { x with tinv := x.tinv || (if x.kind = 0 then decide (a ≤ x.tag * 128) && decide (x.tag * 128 < b) else x.row == k) }

/-- Row `r` of logical furrow `f` has been marked timing-invalid: what its slice has open from that row is (R130, R294). -/
def lateTinv (f taken : Nat) (r : Row) (s : Dev) : Dev :=
  let x : Slice := mget (fun _ => {}) s.gln.slices f
  if !x.run || x.done then s
  else
    let a := r.t + fget s (A 1 0xC0) 0 14
    let b := a + r.len
    let old := decide (r.k < taken)
    let ent := markEnt a b r.k
    let rec' := fun (t : TRec) => { t with ents := t.ents.map ent }
    let x := { x with runTinv := x.runTinv || old, stage := x.stage.map ent, rec0 := x.rec0.map rec', rec1 := x.rec1.map rec',
                      pend := x.pend.map fun p => { p with tinv := p.tinv || (decide (a ≤ p.tag * 128) && decide (p.tag * 128 < b)) },
                      win := x.win.map fun w => { w with tinv := w.tinv || (old && decide (w.first ≤ r.k)) },
                      loss := x.loss.map fun p => (p.1, p.2.map fun ep => { ep with tinv := ep.tinv || (old && decide (ep.row ≤ r.k)) }),
                      ivs := x.ivs.map fun p => (p.1, p.2.map fun q => (q.1, q.2.1 || (decide (a ≤ q.2.2) && decide (q.2.2 < b)), q.2.2)),
                      sets := x.sets.map fun u => (u.1, { u.2 with tinv := u.2.tinv || meets a b u.2.spans }) }
    { s with gln := { s.gln with slices := mset (fun _ => {}) f x s.gln.slices } }

/-- A SENSE event lies in one of the rows of logical furrow `f` from row time `a` to `b` (R126, R362). -/
def inRow (f a b : Nat) (x : Nat × Int) : Bool := x.1 == f && decide ((a : Int) ≤ x.2) && decide (x.2 < b)

/-- Row `r` of logical furrow `f` has been marked timing-invalid: so are the measurements in progress with an event in it (R362). -/
def markTim (f : Nat) (r : Row) (s : Dev) : Dev :=
  let hits := inRow f r.t (r.t + r.len)
  let ev := fun (e : TimEv) => { e with tinv := e.tinv || e.src.any hits }
  let meas := fun (m : TimMeas) => { m with tinv := m.tinv || m.src.any hits }
  let chan := fun (x : Tim) =>
    { x with evs := x.evs.map ev, first := x.first.map fun p => { p with tinv := p.tinv || p.src.any hits }
             mine := x.mine.map meas, theirs := x.theirs.map meas }
  { s with tim := { s.tim with chans := s.tim.chans.map fun x => (x.1, chan x.2) } }

/-- The issued row `k` is marked timing-invalid on every engine of the yoke of `e`: the furrows of one site (R130, R449). -/
def markTinv (e k : Nat) (s : Dev) : Dev :=
  forAll (yokeEngs s (leadOf s e)) (fun m s =>
    let f := getFur s m
    match f.issued.find? fun r => r.k == k with
    | some r => if r.tinv then s else
        markTim (logical s m) r <| lateTinv (logical s m) f.taken r (setFur m { f with issued := f.issued.map fun r => if r.k = k then { r with tinv := true } else r } s)
    | none => s) s

/-- A mark that row `k` has on one engine of a yoke reaches the others, whose row has come after it (R130). -/
def shareTinv (e k : Nat) (s : Dev) : Dev :=
  onlyIf ((yokeEngs s e).any fun m => (getFur s m).issued.any fun r => r.k == k && r.tinv) (markTinv e k) s

/-- An event of row `k` on lane `l` was dropped: the counter at page offset `o`, IRQ bit 1 and the mark (R130). -/
def dropEvent (l k o : Nat) (s : Dev) : Dev :=
  let s := irqSet (tsPage (l / 64)) 2 (incSat (A (tsPage (l / 64)) o) 0 32 1 s)
  match engOf s (owner s l) with
  | some e => markTinv e k s
  | none => s

/-- Order of events on a lane: by time, and on the same vs the later row's first (R127). -/
def evBefore (a b : Ev) : Bool := a.t < b.t || (a.t == b.t && a.row > b.row)

/-- Insert an event in that order. -/
def insEv (x : Ev) : List Ev → List Ev
  | [] => [x]
  | y :: ys => if evBefore x y then x :: y :: ys else y :: insEv x ys

/-- One placed drive event comes: it is kept or suppressed (R127), and a kept one changes the formatted
state and with it the lane, unless a source of higher rank holds it (R24); a lane newly gated on to a drill takes its level (R401).
An edge of a drill that the lane is not gated on to is no event of the lane (R147). -/
def doEvent (l : Nat) (x : Ev) (s : Dev) : Dev :=
  let ln := getLane s l
  let off := match x.act with
    | .drill d _ _ => !ln.gate || ln.clk != d
    | _ => false
  if off then s
  else if (match ln.lastEv with | some u => decide (x.t < u + 410) | none => false) then dropEvent l x.row 0x90 s
  else
    let ln := { ln with lastEv := some x.t }
    let ln := match x.act with
      | .to d => { ln with fmt := d, gate := false }
      | .gateOn d td => if ln.gate && ln.clk == d then ln else { ln with gate := true, clk := d, fmt := drillState s d td }
      | .gateOff d => { ln with fmt := d, gate := false }
      | .drill _ _ d => { ln with fmt := d }
    settle l x.t (setLane l ln s)

/-- The events of lane `l` that come before `limit`, in order. -/
def laneEvents (l limit : Nat) (s : Dev) : Dev :=
  let due := (getLane s l).evs.takeWhile fun x => x.t < limit
  forAll due (doEvent l) (setLane l { getLane s l with evs := (getLane s l).evs.drop due.length } s)

/-- Every event that comes before `limit`, on every lane. -/
def lanesUntil (limit : Nat) (s : Dev) : Dev :=
  forAll ((s.lanes.filter fun x => match x.2.evs with | v :: _ => decide (v.t < limit) | [] => false).map (·.1)) (fun l => laneEvents l limit) s

/-- Every drive lane takes P at time `t`, and QUENCH# is low (R564). -/
def quenchPark (t : Nat) (s : Dev) : Dev :=
  let s := lanesUntil t s
  let s := { s with flt := { s.flt with quenchPend := false } }
  emit (.pin .quenchN false) (forAll (s.lanes.map (·.1)) (fun l => settle l t) s)

/-- Lane `l` parks at the end of the last row, at time `t`: what spills past it changes nothing more (R171). -/
def haltPark (l t : Nat) (s : Dev) : Dev :=
  let s := laneEvents l t s
  let x := getLane s l
  settle l t (setLane l { x with fmt := .p, gate := false, evs := x.evs.map fun v => { v with act := .to .p } } s)

/-- Lane `l` is parked when the furrow that owns it is IDLE (R171). -/
def idlePark (l : Nat) (s : Dev) : Dev :=
  match engOf s (owner s l) with
  | some e => if furState s e = 0 then haltPark l (nowVs s) s else s
  | none => s

/-- The start of the mc after the current one. -/
def nextMcVs (s : Dev) : Nat := (now s + 1) * 1024

/-- A park condition begins or ends on lane `l` at time `t`; one that ends gives way to an event of the same vs. -/
def setPark (l t : Nat) (b : Bool) (s : Dev) : Dev :=
  let s := laneEvents l (if b then t else t + 1) s
  let x := getLane s l
  settle l t (setLane l { x with parked := b, parkHist := if b = x.parked then x.parkHist else (t, b) :: x.parkHist } s)

/-- The park conditions of lane `l` act at once; a write of its bank's EN that has still to reach it keeps its place. -/
def repark (l : Nat) (s : Dev) : Dev :=
  if (getLane s l).parks.isEmpty then setPark l (nowVs s) (parkCond s l) s
  else if parkOther s l then setPark l (nowVs s) true s else s

/-- Every park condition of lane `l` acts at once, its bank's EN included. -/
def reparkNow (l : Nat) (s : Dev) : Dev := setPark l (nowVs s) (parkCond s l) (setLane l { getLane s l with parks := [] } s)

/-- The writes of EN that apply from row `k` on, or all of them, reach lane `l` at time `t` (R33, R112). -/
def parksDue (l t : Nat) (k : Option Nat) (s : Dev) : Dev :=
  let due := fun (x : Nat × Bool) => match k with
    | some k => decide (x.1 ≤ k)
    | none => true
  match ((getLane s l).parks.filter due).getLast? with
  | some x => setPark l t (x.2 || parkOther s l) (setLane l { getLane s l with parks := (getLane s l).parks.filter fun y => !due y } s)
  | none => s

/-- The lanes of bank `b`. -/
def bankLanes (b : Nat) : List Nat := (List.range 64).map (· + 64 * b)

/-- The first row of engine `e` whose fetch stage begins after the current mc (R33, R112). -/
def nextFetched (s : Dev) (e : Nat) : Nat :=
  let f := getFur s e
  rd64 s (fa e 0xB8) + (if f.tNext / 1024 ≤ now s + 22 then 1 else 0)

/-- Whether the furrow that owns lane `l` is running. -/
def ownerRuns (s : Dev) (l : Nat) : Bool := !furStopped s (owner s l)

/-! ### The sense decoder -/

/-- BANK.SENSE_CFG.MQUAL of the lane's bank, in vs (R83: units of 1/8 mc). -/
def mqual (s : Dev) (l : Nat) : Nat := fget s (A (cfgPage (l / 64)) 0x80) 0 3 * 128

/-- The state last reported. -/
def lastRep (ln : Lane) : SState :=
  match ln.rep with
  | (_, x) :: _ => x
  | [] => .m

/-- When the last report took effect. -/
def lastRepT (ln : Lane) : Nat :=
  match ln.rep with
  | (t, _) :: _ => t
  | [] => 0

/-- The changes of a history that a look back to time `h` can still need. -/
def histCut (h : Nat) (xs : List (Nat × Bool)) : List (Nat × Bool) := xs.takeWhile (fun x => h < x.1) ++ (xs.dropWhile fun x => h < x.1).take 1

/-- The state that the decoder finds, and since when: that of the step in progress, or the last one reported. -/
def curRep (ln : Lane) : SState := match ln.held with
  | some h => h.st
  | none => lastRep ln
def curRepT (ln : Lane) : Nat := match ln.held with
  | some h => h.t
  | none => lastRepT ln

/-- A qualified M that began at `u` is reported from the start of the 1/8 mc step in which it began, or
from the report before it when that lies later in the same step (R83). -/
def mStart (ln : Lane) (u : Nat) : Nat :=
  if u / 128 * 128 < curRepT ln && curRepT ln / 128 = u / 128 then curRepT ln else u / 128 * 128

/-- The decoder reports what it holds; the lane, and the report. -/
def senseOut (ln : Lane) : Lane × List SRep := match ln.held with
  | some h => ({ ln with held := none, rep := (h.t, h.st) :: ln.rep }, [h])
  | none => (ln, [])

/-- The step of the report that the decoder holds is over by time `t`: a stay in M that began in it, too, has been decided. -/
def stepOver (t : Nat) (ln : Lane) : Bool := match ln.held with
  | some h => decide (h.t / 128 * 128 + 128 ≤ t) && (match ln.mSince with
    | some u => decide (h.t / 128 < u / 128)
    | none => true)
  | none => false

/-- The decoder finds a state: of one 1/8 mc step it reports the state at the step's end, when that differs from the one
reported before (R83, R278). -/
def senseFind (r : SRep) (ln : Lane) : Lane × List SRep :=
  let x := match ln.held with
    | some h => if h.t / 128 = r.t / 128 then ({ ln with held := none }, []) else senseOut ln
    | none => (ln, [])
  (if lastRep x.1 = r.st then x.1 else { x.1 with held := some r }, x.2)

/-- The decoder at time `t`: a stay in M that has reached the qualification `q` is found, and a step that is over is reported. -/
def senseTo (t q : Nat) (ln : Lane) : Lane × List SRep :=
  let x := match ln.mSince with
    | some u => if u + q ≤ t then senseFind { t := mStart ln u, st := .m, u, m := max (u + q) (mStart ln u) } { ln with mSince := none } else (ln, [])
    | none => (ln, [])
  if stepOver t x.1 then ((senseOut x.1).1, x.2 ++ (senseOut x.1).2) else x

/-- A change of the raw state to `st` at time `t`: entry into M waits for its qualification; leaving an
unqualified M, or any other change, gives a state that is reported when it differs from the last one (R83). -/
def senseChange (t q : Nat) (st : SState) (ln0 : Lane) : Lane × List SRep :=
  let x := senseTo t q ln0
  let ln := { x.1 with raw := st }
  if st = ln0.raw then x
  else if st = .m then
    if curRep ln = .m then (ln, x.2)
    else if q = 0 then
      let y := senseFind { t := mStart ln t, st, u := t, m := t } ln
      (y.1, x.2 ++ y.2)
    else ({ ln with mSince := some t }, x.2)
  else
    let ln := { ln with mSince := none }
    if curRep ln = st then (ln, x.2)
    else
      let y := senseFind { t, st, u := t, m := t } ln
      (y.1, x.2 ++ y.2)

/-- The state reported at time `t`, M while the lane is OPEN (R84). -/
def senseAt (s : Dev) (l t : Nat) : SState :=
  let ln := (senseTo (nowVs s) (mqual s l) (getLane s l)).1
  if histAt ln.openHist ln.isOpen t then .m
  else match ln.rep.find? (fun e => e.1 ≤ t) with
    | some e => e.2
    | none => .m

/-- The states reported strictly between `a` and `b`. -/
def senseBetween (s : Dev) (l a b : Nat) : List SState :=
  let ln := (senseTo (nowVs s) (mqual s l) (getLane s l)).1
  let opens := (ln.openHist.filter fun e => a < e.1 && e.1 < b).map fun e => if e.2 then .m else senseAt s l e.1
  opens ++ ((ln.rep.filter fun e => a < e.1 && e.1 < b && !histAt ln.openHist ln.isOpen e.1).map (·.2))

/-- The earliest time to which the strobes of lane `l` that have still to be judged look back: those of a row with one that has,
since a window compare needs its S0 until its S1 is judged (R150). -/
def lookBack (s : Dev) (l : Nat) : Nat :=
  let mine := fun (r : Row) => r.strobes.filter fun x => x.lane == l && x.placed
  match engOf s (owner s l) with
  | some e => (getFur s e).issued.foldl (fun n r => if (mine r).all (·.smp.isSome) then n else (mine r).foldl (fun n x => min n x.t) n) (nowVs s)
  | none => nowVs s

/-- The reports that a look back to time `h` can still need. -/
def repCut (h : Nat) (xs : List (Nat × SState)) : List (Nat × SState) := xs.takeWhile (fun x => h < x.1) ++ (xs.dropWhile fun x => h < x.1).take 1

/-- The histories of lane `l` without what no strobe can need any more. -/
def cutLane (l : Nat) (s : Dev) : Dev :=
  let h := lookBack s l
  let x := getLane s l
  setLane l { x with rep := repCut h x.rep, openHist := histCut h x.openHist, parkHist := histCut h x.parkHist } s

/-! ### Health (R110) -/

/-- The first of R110's list that holds. -/
def healthCode (s : Dev) (l : Nat) : Nat :=
  let ln := getLane s l
  if fbit s (laneCfg l) 8 then 6 else if ln.ioFail then 4 else if ln.sliceFail then 3 else if ln.isOpen then 5
  else if ln.suspect then 2 else if ln.unproven || fget s (laneCfg l) 20 2 ≠ 0 then 1 else 0

/-- Records made from rows of a furrow with lane `l` are timing-invalid: the lane's slice is suspect (R106),
or its bank lags (R139). -/
def laneTinv (s : Dev) (l : Nat) : Bool :=
  (getLane s l).suspect || (getLane s l).sliceFail || fbit s (A (calPage (l / 64)) 0x84) 31

/-- A record made now from a row of engine `e` is timing-invalid, whatever the row: a lane of its yoke, and so of its
site, is in one of those cases (R106, R139, R449). -/
def engTinv (s : Dev) (e : Nat) : Bool := (yokeEngs s (leadOf s e)).any fun m => (getFur s m).slots.any (laneTinv s)

/-- Row `r` of engine `e` marks the records made now from it as timing-invalid (R106, R130, R139, R235). -/
def rowTinv (s : Dev) (e : Nat) (r : Row) : Bool :=
  r.tinv || engTinv s e || (match (getFur s e).idleK with
    | some k => decide (k ≤ r.k)
    | none => false)

/-- An idle row of engine `e`'s running furrow has begun: the records of its site are timing-invalid (R235). -/
def idleNow (s : Dev) (e : Nat) : Bool :=
  furState s e == 3 && (match (getFur s e).idleK with
    | some k => !((getFur s e).issued.any fun r => r.k == k && decide (nowVs s + 1024 ≤ r.t))
    | none => false)

/-- A lane of the yoke of engine `e`, and so of its site, runs on a slice that is suspect (R106, R449). -/
def engSuspect (s : Dev) (e : Nat) : Bool :=
  (yokeEngs s (leadOf s e)).any fun m => (getFur s m).slots.any fun l => (getLane s l).suspect || (getLane s l).sliceFail

/-- The records that site `i` makes now are timing-invalid (R106, R235). -/
def siteTinv (s : Dev) (i : Nat) : Bool :=
  fget s (siteStat i) 29 3 != 0 && (match engOf s (fget s (siteStat i) 16 7) with
    | some e => idleNow s e || engSuspect s e
    | none => false)

/-- OPEN of lane `l` takes the value `b` at the start of the current mc (R84). -/
def setOpen (l : Nat) (b : Bool) (s : Dev) : Dev :=
  let x := getLane s l
  if x.isOpen = b then s else setLane l { x with isOpen := b, openHist := (nowVs s, b) :: x.openHist } s

/-- HEALTH shows the condition in force; a change sets BANK IRQ_STAT bit 0 (R110). -/
def updHealth (l : Nat) (s : Dev) : Dev :=
  if healthCode s l = health s l then s
  else irqSet (cfgPage (l / 64)) 1 (fset (laneCfg l) 16 3 (healthCode s l) s)

end Sys2Proof.Machine
end

