-- ==== Sys2Proof/Machine/Deg.lean ====
section
/-! DEFINITION. The Hallmark queue, the Granary records of the fault collector and the degradation bits
(Faults, Quench and the Hallmark record). -/
namespace Sys2Proof.Machine

/-! ### The Hallmark queue (R577, R581) -/

/-- Seconds of time of day. -/
def todSec (s : Dev) : Nat := rdN s (A 6 0x98) + 2 ^ 32 * fget s (A 6 0x9C) 0 16

/-- Time of day is valid while PPS_OK is 1 (DEDUCED, log entry 21). -/
def todValid (s : Dev) : Bool := fbit s (A 6 0x88) 27

/-- A body of exactly `n` bytes: cut or filled with 0. -/
def fitBytes (n : Nat) (l : List Byte) : List Byte := l.take n ++ zeros (n - l.length)

/-- HMK.STAT.QUEUED shows the queue's length. -/
def showHmk (s : Dev) : Dev := fset (A 3 0x80) 16 5 s.hmk.queue.length s

/-- A lost record is counted (R581). -/
def hmkDropped (s : Dev) : Dev := irqSet 3 2 (incSat (A 3 0x94) 0 32 1 s)

/-- The newest queued record of a priority below `p` replaced by `r`; none when there is no such record. -/
def hmkReplace (p : Nat) (r : HmkRec) (q : List HmkRec) : Option (List HmkRec) :=
  let rec go : List HmkRec → Option (List HmkRec)
    | [] => none
    | x :: xs => if x.prio > p then some (r :: xs) else (go xs).map (x :: ·)
  (go q.reverse).map List.reverse

/-- A record is offered to the Hallmark engine (R577, R581). -/
def hmkQueue (prio kind src : Nat) (body : List Byte) (s : Dev) : Dev :=
  let r : HmkRec := { prio, kind, src, flags := b2n s.clk + 2 * b2n (todValid s) + 4 * b2n (!warm0 s), ts := if s.clk then now s else 0,
                      sec := if todValid s then todSec s else 0, poh := rdN s (A 3 0x98), boots := rdN s (A 3 0xA4), body := fitBytes 208 body }
  if s.hmk.queue.length < 16 then showHmk { s with hmk := { s.hmk with queue := s.hmk.queue ++ [r] } }
  else
    match hmkReplace prio r s.hmk.queue with
    | some q => hmkDropped { s with hmk := { s.hmk with queue := q } }
    | none => hmkDropped s

/-! ### Granary records of the collector (R575) -/

/-- A fault record of `typ` with 32 payload bytes goes to queue FLT.REC.QUEUE while REC.EN is 1. -/
def fltRecord (typ : Nat) (body : List Byte) (s : Dev) : Dev :=
  onlyIf (fbit s (A 2 0xE4) 31) (sysRecord (fget s (A 2 0xE4) 0 20) typ 0 (fitBytes 32 body)) s

/-! ### Degraded operation (R585 to R588) -/

/-- A map of bits as bytes, bit i of byte i ÷ 8 first. -/
def bitBytes (n : Nat) (f : Nat → Bool) : List Byte :=
  (List.range n).map fun i => BitVec.ofNat 8 ((List.range 8).foldl (fun a j => a + b2n (f (8 * i + j)) * 2 ^ j) 0)

/-- The mapped-out DDR-5 channel, or 0xFF. -/
def mappedChannel (s : Dev) : Nat :=
  (((List.range 8).find? fun k => fget s (A (0x188 + k) 0x84) 30 2 == 3).orElse fun _ => s.memOut.head?).getD 0xFF

/-- SPARE_STAT of bank `b`, or what the AON domain holds of it while the bank is off (R596). -/
def spareStat (s : Dev) (b : Nat) : Nat := if domOn s (4 + b) then rdN s (A (cfgPage b) 0x88) else mget (fun _ => 0) s.spareKeep b

/-- The body of a Hallmark DEGRADE record (Table 18-7). -/
def degBody (code res : Nat) (s : Dev) : List Byte :=
  leBytes 1 code ++ zeros 1 ++ leBytes 2 res ++ leBytes 4 (rdN s (A 2 0xE8))
    ++ (List.range 8).flatMap (fun b => leBytes 4 (spareStat s b))
    ++ bitBytes 16 (fun k => k < 66 && fbit s (A (furPage k) 0x90) 31)
    ++ leBytes 1 (logical s 64) ++ leBytes 1 (logical s 65) ++ leBytes 1 (mappedChannel s)
    ++ leBytes 1 (fget s (A 0x181 0x84) 29 3) ++ leBytes 1 (fget s (A 0x182 0x84) 29 3) ++ zeros 3
    ++ bitBytes 64 (fun l => health s l == 3 || health s l == 4)

/-- A degradation event is recorded in the Hallmark journal and the Granary (R587). -/
def degEvent (code res : Nat) (s : Dev) : Dev :=
  fltRecord 0x43 (leBytes 1 code ++ zeros 1 ++ leBytes 2 res ++ leBytes 4 (rdN s (A 2 0xE8)) ++ leBytes 8 (now s))
    (hmkQueue 2 2 0 (degBody code res s) s)

/-- REPLACE# and FLT.BLK_STAT.DEGRADED follow FLT.DEG (R586, R637). -/
def degPins (s : Dev) : Dev :=
  let d := rdN s (A 2 0xE8) != 0
  let was := fbit s (A 2 0xC) 4
  let s := fset (A 2 0xC) 4 1 (b2n d) s
  if d = was then s else emit (.pin .replaceN (!d)) s

/-- Bit `i` of FLT.DEG becomes `v`, with its event code and resource (R587). -/
def degBit (i code res : Nat) (v : Bool) (s : Dev) : Dev :=
  let old := fbit s (A 2 0xE8) i
  if v && !old then degEvent code res (irqSet 2 0x20000000 (degPins (fset (A 2 0xE8) i 1 1 s)))
  else if !v && old then degEvent 0x20 code (irqSet 2 0x20000000 (degPins (fset (A 2 0xE8) i 1 0 s)))
  else s

/-- Bit SPARE_SLICE: whether any spare timing slice is mapped. -/
def degSpares (res : Nat) (s : Dev) : Dev :=
  degBit 0 1 res ((List.range 8).any fun b => bit (spareStat s b) 15 || bit (spareStat s b) 7) s

/-- Bit SPARE_ENGINE. -/
def degEngines (e : Nat) (s : Dev) : Dev :=
  degBit 1 2 e (logical s 64 != 0x7F || logical s 65 != 0x7F || (List.range 66).any fun k => fbit s (A (furPage k) 0x90) 31) s

/-- Bit MEM_MAPOUT. -/
def degMem (k : Nat) (s : Dev) : Dev := degBit 2 3 k ((List.range 8).any fun c => fget s (A (0x188 + c) 0x84) 30 2 == 3) s

/-- Bit HDL_FALLBACK; port 0 is HE, 1 HW. -/
def degHdl (port : Nat) (s : Dev) : Dev :=
  degBit 3 4 port (fget s (A 0x181 0x84) 29 3 == 3 || fget s (A 0x182 0x84) 29 3 == 3) s

/-- Bit LANE_FAILED: the listed LANE_CFG registers tell. -/
def degLanes (l : Nat) (s : Dev) : Dev :=
  degBit 6 7 l (s.regs.any fun e => (laneOfAddr e.1).isSome && (bits e.2.toNat 16 3 == 3 || bits e.2.toNat 16 3 == 4)) s

end Sys2Proof.Machine
end

