-- ==== Sys2Proof/Machine/Health.lean ====
section
/-! DEFINITION. Lane configuration, lane health, open detection, failures and spare timing slices (Tine
lanes and the front-end contract: R75, R84, R106 to R113). -/
namespace Sys2Proof.Machine

/-! ### Open sense lanes (R84) -/

/-- The 1 µs of common mode that sets or clears OPEN, in mc. -/
def openMc : Nat := 1600

/-- OPEN_EN of bank `b` has been 1 for the 1 µs of low common mode, counted from the mc of the write that set it. -/
def openCounted (s : Dev) (b : Nat) : Bool :=
  fbit s (A (cfgPage b) 0x80) 8 && (match (getCal s b).openEn with | some t => decide (t + openMc ≤ now s) | none => true)

/-- SENSE_OPEN_DETECT: while OPEN_EN is 1 the lane becomes OPEN. -/
def doSenseOpenDetect (l : LaneId) (s : Dev) : Dev :=
  if openCounted s (l / 64) && domOn s (4 + l / 64)
  then updHealth l (setOpen l true s) else s

/-- SENSE_OPEN_RECOVER: the lane leaves OPEN. -/
def doSenseOpenRecover (l : LaneId) (s : Dev) : Dev :=
  if domOn s (4 + l / 64) then updHealth l (setOpen l false s) else s

/-! ### Ownership (R75) -/

/-- The deskew engine of the lane's bank holds the lane (R135): it was masked at the START. -/
def dskHolds (s : Dev) (l : Nat) : Bool := match (getCal s (l / 64)).dsk with
  | some d => d.mask.contains l
  | none => false

/-- The cause that refuses a write of OWNER `o` and MAPOUT `m` to LANE_CFG of lane `l`, 0 for none
(R75, Table 03-13). -/
def ownErr (s : Dev) (l o : Nat) (m : Bool) : Nat :=
  let cur := owner s l
  let curM := fbit s (laneCfg l) 8
  if o ≠ cur && (!furStopped s cur || !furStopped s o || dskHolds s l) then 1
  else if o ≠ cur && o < 64 && (ownedLanes s o).length ≥ 128 then 2
  else if o ≠ cur && o ≠ 0x7F && (health s l == 3 || health s l == 4 || health s l == 6) then 3
  else if 64 ≤ o && o ≤ 126 then 4
  else if (m != curM && cur ≠ 0x7F) || (m && o ≠ 0x7F) then 5
  else 0

/-- A write of `v` to LANE_CFG of lane `l`: taken, or refused as a whole and recorded (R75). -/
def writeLaneCfg (l v : Nat) (s : Dev) : Dev :=
  let c := ownErr s l (bits v 0 7) (bit v 8)
  if c ≠ 0 then irqSet (cfgPage (l / 64)) 2 (recordErr (A (cfgPage (l / 64)) 0x8C) c (l % 64) s)
  else idlePark l (repark l (updHealth l (fset (laneCfg l) 8 1 (b2n (bit v 8)) (fset (laneCfg l) 0 7 (bits v 0 7) s))))

/-- LANE_CFG_WRITE. -/
def doLaneCfgWrite (p : Path) (l : LaneId) (v : Word) (s : Dev) : Dev :=
  onWrite p (laneCfg l) (writeLaneCfg l v.toNat) s

/-! ### Failures and spares (R106 to R109) -/

/-- A bank shows degraded operation while it uses a spare or has lost a lane (R587). -/
def bankDegraded (b : Nat) (s : Dev) : Dev :=
  setDegraded (cfgPage b) (fbit s (A (cfgPage b) 0x88) 15 || fbit s (A (cfgPage b) 0x88) 7
    || s.regs.any fun e => match laneOfAddr e.1 with
      | some l => l / 64 == b && (bits e.2.toNat 16 3 == 3 || bits e.2.toNat 16 3 == 4)
      | none => false) s

/-- A failed lane parks, and the failure is degraded operation (R108, R585). -/
def laneLost (l : Nat) (s : Dev) : Dev := bankDegraded (l / 64) (degLanes l (repark l (updHealth l s)))

/-- LANE_IO_FAIL (R108): the transmitter or the receiver of a lane fails. -/
def doLaneIoFail (l : LaneId) (rx : Bool) (s : Dev) : Dev :=
  if domOn s (4 + l / 64) then
    raiseOn (0x15 + 4 * (l / 64)) (b2n rx) l (laneLost l (setLane l { getLane s l with ioFail := true } s))
  else s

/-- Spare `x` of bank `b` (0 is A, 1 is B) is mapped: its USED bit. -/
def spareUsed (s : Dev) (b x : Nat) : Bool := fbit s (A (cfgPage b) 0x88) (if x = 0 then 15 else 7)
/-- The lane of the device that spare `x` of bank `b` serves. -/
def spareLane (s : Dev) (b x : Nat) : Nat := 64 * b + fget s (A (cfgPage b) 0x88) (if x = 0 then 8 else 0) 6
/-- Spare `x` of bank `b` is unusable (R132, R141). -/
def spareBad (s : Dev) (b x : Nat) : Bool := bit (getCal s b).badSpare x

/-- The lane that slice `j` of bank `b` serves: its own lane, or the lane of a mapped spare. -/
def sliceLane (s : Dev) (b j : Nat) : Option Nat :=
  if j < 64 then (if fget s (laneCfg (64 * b + j)) 20 2 = 0 then some (64 * b + j) else none)
  else if spareUsed s b (j - 64) then some (spareLane s b (j - 64)) else none

/-- Word `w` of a coefficient block with the fields of Table 04-6: the slice's number, and reserved bits 0. -/
def coefField (j w : Nat) (v : Word) : Nat :=
  if w = 0 then v.toNat / 2 ^ 16 * 2 ^ 16 + j
  else if w = 1 || (56 ≤ w && w < 62) then v.toNat % 2 ^ 16
  else if w = 62 then 0
  else v.toNat

/-- The CRC-32C over words 0 to 62 of the block of slice `j` of bank `b` after `n` swaps, each word's low byte first. -/
def coefCrc (b j n : Nat) : Nat := crc32c ((List.range 63).flatMap fun w => leBytes 4 (coefField j w (Config.coefWord b j w n)))

/-- Word `w` of that block: the CRC of the factory store, which the device computes anew at each swap (Table 04-6). -/
def coefAt (b j n w : Nat) : Nat :=
  if w < 63 then coefField j w (Config.coefWord b j w n) else if n = 0 then (Config.factoryCrc b j).toNat else coefCrc b j n

/-- A coefficient block fails its CRC at the load: the slice's lane fails, or the spare is unusable, and the fault is
reported (R132). -/
def coefBad (b j : Nat) (s : Dev) : Dev :=
  raiseOn (0x14 + 4 * b) 1 j (if j < 64 then laneLost (64 * b + j) (setLane (64 * b + j) { getLane s (64 * b + j) with sliceFail := true } s)
    else setCal b { getCal s b with badSpare := (getCal s b).badSpare ||| 2 ^ (j % 2) } s)

/-- Every slice's block of bank `b` is loaded from the factory store (R132). -/
def loadCoefs (b : Nat) (s : Dev) : Dev :=
  forAll ((List.range 66).filter fun j => coefCrc b j 0 != (Config.factoryCrc b j).toNat) (coefBad b)
    (setCal b { getCal s b with swaps := [], swapRow := [] } s)

/-- Spare `x` of bank `b` is freed, its lane back on its own slice. A_LANE or B_LANE keeps the last lane, also over a block reset
(DESIGN CHOICE, log entry 104). -/
def freeSpare (b x : Nat) (s : Dev) : Dev :=
  let l := spareLane s b x
  fset (laneCfg l) 20 2 0 (fset (A (cfgPage b) 0x88) (if x = 0 then 15 else 7) 1 0 s)

/-- The board-deskew value carried over to the spare's path (R107): the factory difference is added to the value as it stands. A
lane that comes from the other spare keeps that spare's difference in it (DESIGN CHOICE, log entry 103). -/
def carryDsk (b x l : Nat) (s : Dev) : Dev :=
  let d := (Config.spareDiff b x (l % 64)).toNat
  let v := rdN s (A (calPage b) (0x200 + 4 * (l % 64)))
  wrN (A (calPage b) (0x200 + 4 * (l % 64))) ((bits v 0 16 + bits d 0 16) % 65536 + (bits v 16 16 + bits d 16 16) % 65536 * 65536) s

/-- Spare `x` of bank `b` is mapped to lane `l` (R107, R109): another spare that served the lane is freed. -/
def mapSpare (b x l : Nat) (s : Dev) : Dev :=
  let s := forAll ((List.range 2).filter fun y => spareUsed s b y && spareLane s b y == l) (freeSpare b) s
  let s := fset (A (cfgPage b) 0x88) (if x = 0 then 8 else 0) 6 (l % 64) (fset (A (cfgPage b) 0x88) (if x = 0 then 15 else 7) 1 1 s)
  let s := carryDsk b x l (fset (laneCfg l) 20 2 (x + 1) s)
  let s := updHealth l (setLane l { getLane s l with suspect := false, sliceFail := false, unproven := false } s)
  bankDegraded b (degSpares (2 * b + x) (irqSet (cfgPage b) 4 (repark l s)))

/-- Spare `x` of bank `b` is unmapped (R109); BANK.DSK of its lane stays as it stands (DESIGN CHOICE, log entry 103). -/
def unmapSpare (b x : Nat) (s : Dev) : Dev :=
  let l := spareLane s b x
  let s := freeSpare b x s
  let s := updHealth l (setLane l { getLane s l with suspect := false, sliceFail := false, unproven := true } s)
  bankDegraded b (degSpares (2 * b + x) (irqSet (cfgPage b) 4 (repark l s)))

/-- A MAP of spare `x` to lane `l` of bank `b` is refused (R109). -/
def mapRefused (s : Dev) (b x l : Nat) : Bool :=
  !furStopped s (owner s l) || spareUsed s b x || spareBad s b x || health s l == 4 || (getLane s l).ioFail

/-- A write of `v` to SPARE_CFG of bank `b` (R109): a refused request changes nothing but REQ_ERR. An UNMAP that names a
spare which is not mapped is among no refusal of R109, and there is nothing to free: it changes no mapping and sets no
REQ_ERR (DEDUCED, log entry 85). A write with both MAP and UNMAP acts as a MAP (DESIGN CHOICE, log entry 104). -/
def writeSpareCfg (b v : Nat) (s : Dev) : Dev :=
  let x := bits v 24 1
  let l := 64 * b + bits v 16 6
  let err := hit (A (cfgPage b) 0x88) 31
  if bit v 31 then
    if mapRefused s b x l then err s else mapSpare b x l (plainWrite (A (cfgPage b) 0x84) v s)
  else if bit v 30 then
    if spareUsed s b x && !furStopped s (owner s (spareLane s b x)) then err s
    else
      let s := plainWrite (A (cfgPage b) 0x84) v s
      if spareUsed s b x then unmapSpare b x s else s
  else plainWrite (A (cfgPage b) 0x84) v s

/-- SPARE_MAP. -/
def doSpareMap (p : Path) (b : Bank) (v : Word) (s : Dev) : Dev :=
  onWrite p (A (cfgPage b) 0x84) (writeSpareCfg b (v.toNat ||| 0x80000000)) s

/-- SPARE_UNMAP. -/
def doSpareUnmap (p : Path) (b : Bank) (v : Word) (s : Dev) : Dev :=
  onWrite p (A (cfgPage b) 0x84) (writeSpareCfg b (putBits v.toNat 30 2 1)) s

/-- The owner of SUSPECT lane `l` stops: the lowest-lettered free spare is mapped, or the lane fails
(R107, R108). -/
def spareAtStop (l : Nat) (s : Dev) : Dev :=
  let b := l / 64
  if !(getLane s l).suspect || health s l == 6 || health s l == 4 then s
  else
    match (List.range 2).find? fun x => fbit s (A (cfgPage b) 0x84) 0 && !spareUsed s b x && !spareBad s b x with
    | some x => mapSpare b x l s
    | none => laneLost l (setLane l { getLane s l with suspect := false, sliceFail := true } s)

end Sys2Proof.Machine
end

