-- ==== Sys2Proof/Machine/Gen.lean ====
section
/-! DEFINITION. The algorithmic generator: its registers, the LFSR, the address operations, the
scramble maps and the overlays (Algorithmic generation). -/
namespace Sys2Proof.Machine

/-- Offset of FUR.GEN[g] on engine `e`. -/
def genAddr (e g : Nat) : Nat := A (furPage e) (0x800 + 4 * g)

/-- The 64 generator registers of engine `e` (Table 08-1). -/
def genRegs (s : Dev) (e : Nat) : List Word := (List.range 64).map fun g => rd s (genAddr e g)

/-- The generator registers of engine `e` all written. -/
def genPut (e : Nat) (g : List Word) (s : Dev) : Dev := forAll (g.zipIdx) (fun p => wr (genAddr e p.2) p.1) s

/-- Register `i` of a register list. -/
def gr (g : List Word) (i : Nat) : Nat := (nth 0 g i).toNat
/-- The 64-bit value in registers `i` and `i + 1`. -/
def gr64 (g : List Word) (i : Nat) : Nat := gr g i + 2 ^ 32 * gr g (i + 1)
/-- Register `i` set. -/
def gw (i v : Nat) (g : List Word) : List Word := setNth g i (w32 v)
/-- Registers `i` and `i + 1` set to a 64-bit value. -/
def gw64 (i v : Nat) (g : List Word) : List Word := gw (i + 1) (v / 2 ^ 32) (gw i v g)

/-- The bit indexes of `p` that are 1, up to 63. -/
def setBits (p : Nat) : List Nat := (List.range 64).filter fun i => bit p i

/-- The order n and tap set T of the selected polynomial (Table 08-5). -/
def lfsr (g : List Word) : Nat × List Nat :=
  match bits (gr g 20) 0 3 with
  | 0 => (7, [6])
  | 1 => (15, [14])
  | 2 => (23, [18])
  | 3 => (31, [28])
  | _ =>
    let bs := setBits (gr64 g 18)
    let h := bs.getLastD 0
    (h + 1, (bs.filter (· ≠ h)).map (· + 1))

/-- One shift of the LFSR (R251). -/
def lfsrShift (n : Nat) (ts : List Nat) (gd : Nat × Nat) : Nat × Nat :=
  let b := ts.foldl (fun x t => x != bit gd.1 (t - 1)) (bit gd.1 (n - 1))
  ((gd.1 * 2 + b2n b) % 2 ^ n, (gd.2 * 2 + b2n b) % 2 ^ 64)

/-- `k` shifts. -/
def lfsrShifts (n : Nat) (ts : List Nat) : Nat → Nat × Nat → Nat × Nat
  | 0, gd => gd
  | k + 1, gd => lfsrShifts n ts k (lfsrShift n ts gd)

/-- G before any shift of a row: all ones when it is 0 (R252). -/
def lfsrSeed (n g : Nat) : Nat := if g % 2 ^ n = 0 then 2 ^ n - 1 else g % 2 ^ n

/-- The fold of the 64-bit key to order n (R254). -/
def keyFold (n k : Nat) : Nat :=
  (List.range 64).foldl (fun acc j => if n * j < 64 then acc ^^^ bits k (n * j) n else acc) 0

/-- One bit of a physical address (R250). -/
def physBit (x entry : Nat) : Bool :=
  (bit x (bits entry 0 5) != (bit entry 15 && bit x (bits entry 8 5))) != bit entry 14

/-- The map entries of SCR_X (`o` 0x940) or SCR_Y (`o` 0x980). -/
def scrMap (s : Dev) (e o : Nat) : List Nat := (List.range 32).map fun p => fget s (A (furPage e) (o + 4 * (p / 2))) (16 * (p % 2)) 16

/-- The physical address of `x` under a map. -/
def physAddr (m : List Nat) (x : Nat) : Nat := (m.zipIdx).foldl (fun acc p => acc + b2n (physBit x p.1) * 2 ^ p.2) 0

/-- Background index i (R255). -/
def bgIndex (g : List Word) (a : Nat) : Nat :=
  (List.range 4).foldl (fun acc j =>
    let sel := bits (gr g 21) (8 * j) 7
    acc + (if sel < 88 then b2n (bit a sel) else 0) * 2 ^ j) 0

/-- The physical address vector A: PX, PY, PZ (R255). -/
def addrVec (mx my : List Nat) (g : List Word) : Nat :=
  physAddr mx (gr g 0) + 2 ^ 32 * physAddr my (gr g 1) + 2 ^ 64 * gr g 2

/-- Step 1 of an AGEN row: DOP acts on D and G (R253). -/
def genData (mx my : List Nat) (gop : Nat) (g : List Word) : List Word :=
  let (n, ts) := lfsr g
  match bits gop 5 3 with
  | 1 =>
    let (G, D) := lfsrShifts n ts (bits (gr g 20) 8 7) (lfsrSeed n (gr64 g 22), gr64 g 14)
    gw64 14 D (gw64 22 G g)
  | 2 =>
    let k := gr64 g 16 ^^^ (gr g 2 * 2 ^ 40 % 2 ^ 64) ^^^ (gr g 1 * 2 ^ 20) ^^^ gr g 0
    let (G, D) := lfsrShifts n ts 64 (lfsrSeed n (keyFold n k), gr64 g 14)
    gw64 14 D (gw64 22 G g)
  | 3 => gw64 14 (gr64 g (24 + 2 * bgIndex g (addrVec mx my g))) g
  | 4 => gw64 14 (2 ^ 64 - 1 - gr64 g 14) g
  | _ => g

/-- The address operation `op` on value `v` with saved value and range: the new value, the new saved
value, and whether it wrapped (Table 08-3). -/
def addrOp (op v saved lo hi step : Nat) : Nat × Nat × Bool :=
  match op with
  | 1 => if v + step > hi then (lo, saved, true) else (v + step, saved, false)
  | 2 => if (v : Int) - step < lo then (hi, saved, true) else (v - step, saved, false)
  | 3 => (saved, saved, false)
  | 4 => (v, v, false)
  | 5 => (lo, saved, false)
  | 6 => (hi, saved, false)
  | 7 => ((((lo : Int) + hi - v) % (2 ^ 32 : Int)).toNat, saved, false)
  | _ => (v, saved, false)

/-- Step 3 of an AGEN row: XOP, YOP and ZOP act in that order (R248, R249). -/
def genAddrStep (gop : Nat) (g : List Word) : List Word :=
  let xop := bits gop 13 3
  let yop := bits gop 10 3
  let (x, xs, xw) := addrOp xop (gr g 0) (gr g 3) (gr g 6) (gr g 7) (gr g 8)
  let yop' := if yop = 7 then (if xw then xop else 0) else yop
  let (y, ys, yw) := addrOp yop' (gr g 1) (gr g 4) (gr g 9) (gr g 10) (gr g 11)
  let inc := if gr g 2 ≥ gr g 13 then gr g 12 else gr g 2 + 1
  let z := match bits gop 8 2 with
    | 1 => inc
    | 2 => if yw then inc else gr g 2
    | 3 => gr g 12
    | _ => gr g 2
  gw 2 z (gw 4 ys (gw 1 y (gw 3 xs (gw 0 x g))))

/-- The overlay entry of slot `i` in overlay `o` of engine `e` (R256). -/
def ovlEntry (s : Dev) (e o i : Nat) : Nat :=
  bits (mget (fun _ => 0) s.ovl ((e * 8 + o) * 64 + i / 2)).toNat (16 * (i % 2)) 16

/-- The symbol that an overlay entry places, or none for NONE (Table 08-6). -/
def ovlSym (entry gop px py pz d : Nat) : Option Sym :=
  let arg := bits entry 0 7
  let inv := bit gop 4
  let b := bit d arg != inv
  match bits entry 13 3 with
  | 1 => some (BitVec.ofNat 3 (b2n (bit px arg)))
  | 2 => some (BitVec.ofNat 3 (b2n (bit py arg)))
  | 3 => some (BitVec.ofNat 3 (b2n (bit pz arg)))
  | 4 => some (BitVec.ofNat 3 (b2n b + if bit gop 3 then 2 else 0))
  | 5 => if bit gop 3 then some 7 else some (BitVec.ofNat 3 (b2n b + 2 * b2n (bit d arg != bit d (arg + 1))))
  | 6 => some (BitVec.ofNat 3 arg)
  | _ => none

/-- An AGEN's GOP that is illegal: a reserved XOP, DOP or low bit, or a shift with no polynomial (R246, R252). -/
def gopBad (g : List Word) (gop : Nat) : Bool :=
  bits gop 0 3 != 0 || bits gop 5 3 ≥ 5
    || ((bits gop 5 3 == 1 || bits gop 5 3 == 2) && bits (gr g 20) 0 3 == 4 && gr64 g 18 == 0)

/-- A reserved generator register number (R243). -/
def gregReserved (g : Nat) : Bool := g == 5 || g ≥ 56

/-- A value that sets a reserved bit of generator register `g`, or is out of its range (R243). -/
def gregBad (g v : Nat) : Bool :=
  if g == 2 || g == 12 || g == 13 then v ≥ 2 ^ 24
  else if g == 20 then v ≥ 2 ^ 15 || bits v 3 5 != 0 || bits v 8 7 == 0 || bits v 8 7 > 64 || bits v 0 3 > 4
  else if g == 21 then bit v 31 || bit v 23 || bit v 15 || bit v 7
  else false

/-- An overlay entry that R256 refuses. -/
def ovlBad (entry : Nat) : Bool :=
  let arg := bits entry 0 7
  bits entry 7 6 != 0 ||
    match bits entry 13 3 with
    | 0 => arg != 0
    | 1 | 2 => arg > 31
    | 3 => arg > 23
    | 4 => arg > 63
    | 5 => arg > 62
    | 6 => arg > 7
    | _ => true

/-- A scramble-map entry that sets a reserved bit (R250). -/
def scrBad (entry : Nat) : Bool := bit entry 13 || bits entry 5 3 != 0

end Sys2Proof.Machine
end

