-- ==== Sys2Proof/Machine/Tile.lean ====
section
/-! DEFINITION. The tile format: row images, the four body modes and the checks of Table 07-2 (Stored
rows and streaming). -/
namespace Sys2Proof.Machine

/-- The `n` bytes of `bs` from offset `o` as a little-endian number. -/
def leAt (bs : List Byte) (o n : Nat) : Nat := leNat ((bs.drop o).take n)

/-- Bytes of a row image of `S` slots (R206). -/
def imgBytes (S : Nat) : Nat := cdiv (3 * S) 8

/-- The symbols of a row image; none when a padding bit is not 0 (R206). -/
def imgSyms (S : Nat) (img : List Byte) : Option (List Sym) :=
  let n := leNat img
  if n / 2 ^ (3 * S) = 0 then some ((List.range S).map fun i => BitVec.ofNat 3 (n / 2 ^ (3 * i))) else none

/-- A RAW body of `rows` images (R207). -/
def decRaw (S : Nat) : Nat → List Byte → Option (List (Nat × List Sym))
  | 0, _ => some []
  | r + 1, bs =>
    match imgSyms S (bs.take (imgBytes S)), decRaw S r (bs.drop (imgBytes S)) with
    | some x, some xs => some ((1, x) :: xs)
    | _, _ => none

/-- A RUN body of `n` entries (R208). -/
def decRun (S : Nat) : Nat → List Byte → Option (List (Nat × List Sym))
  | 0, _ => some []
  | n + 1, bs =>
    let c := leAt bs 0 3
    match imgSyms S ((bs.drop 3).take (imgBytes S)), decRun S n (bs.drop (3 + imgBytes S)) with
    | some x, some xs => if c = 0 then none else some ((c, x) :: xs)
    | _, _ => none

/-- The rows a list of code bytes names in a dictionary (R209). -/
def decCodes (dict : List (Nat × List Sym)) : List Byte → Option (List (Nat × List Sym))
  | [] => some []
  | c :: cs =>
    match dict[c.toNat]?, decCodes dict cs with
    | some d, some xs => some (d :: xs)
    | _, _ => none

/-- One change list: pairs of slot and symbol in ascending slot order (R210). -/
def decChanges (S : Nat) : Nat → Option Nat → List Byte → List Sym → Option (List Sym × List Byte)
  | 0, _, bs, row => some (row, bs)
  | n + 1, last, a :: b :: bs, row =>
    let ok := (match last with | some l => decide (l < a.toNat) | none => true)
    if a.toNat < S && b.toNat < 8 && ok then decChanges S n (some a.toNat) bs (setNth row a.toNat (BitVec.ofNat 3 b.toNat)) else none
  | _ + 1, _, _, _ => none

/-- The rows of an XOR body after row 0 (R210); every byte must be used. -/
def decXor (S : Nat) : Nat → List Byte → List Sym → Option (List (Nat × List Sym))
  | 0, bs, _ => if bs.isEmpty then some [] else none
  | r + 1, n :: bs, row =>
    if n.toNat > S then none else
    match decChanges S n.toNat none bs row with
    | none => none
    | some (row', bs') =>
      match decXor S r bs' row' with
      | some xs => some ((1, row') :: xs)
      | none => none
  | _ + 1, [], _ => none

/-- The runs of a tile's body under its mode; none when the body does not decode (R207 to R210). -/
def decBody (mode S rows len arg : Nat) (body : List Byte) : Option (List (Nat × List Sym)) :=
  let w := imgBytes S
  let used := body.take len
  if (body.drop len).any (· ≠ 0) then none
  else if mode = 0 then (if len = rows * w then decRaw S rows used else none)
  else if mode = 1 then
    if len % (3 + w) = 0 then
      match decRun S (len / (3 + w)) used with
      | some xs => if (xs.map (·.1)).foldl (· + ·) 0 = rows then some xs else none
      | none => none
    else none
  else if mode = 2 then
    if 1 ≤ arg && arg ≤ 256 && len = arg * w + rows then
      match decRaw S arg used with
      | some d => decCodes d (used.drop (arg * w))
      | none => none
    else none
  else if rows ≤ len && w ≤ len then
    match imgSyms S (used.take w) with
    | some x =>
      match decXor S (rows - 1) (used.drop w) x with
      | some xs => some ((1, x) :: xs)
      | none => none
    | none => none
  else none

/-- The reserved header fields that must be 0 (Table 07-2, DECODE). -/
def tileHdrReserved (bs : List Byte) : Bool :=
  leAt bs 6 2 != 0 || bits (leAt bs 0x10 4) 22 9 != 0
    || (if leAt bs 3 1 = 2 then leAt bs 0x14 4 / 512 != 0 else leAt bs 0x14 4 != 0) || leAt bs 0x20 28 != 0

/-- The tile that follows tile `t` (R214). -/
def tileNext (bs : List Byte) (t : Nat) : Nat := if bit (leAt bs 0x10 4) 31 then bits (leAt bs 0x10 4) 0 22 else t + 1

/-- A tile's 4,096 bytes checked for a furrow of `owned` slots (R212): its rows, or the cause that makes
it bad. LIMIT and MEMORY are judged by the reader. -/
def tileParse (owned t : Nat) (bs : List Byte) : Tile :=
  let S := leAt bs 4 2
  let rows := leAt bs 8 4
  let len := leAt bs 12 4
  let bad := fun c => { cause := c, rows, next := tileNext bs t, runs := [] : Tile }
  if crc32c (bs.take 0x3C ++ bs.drop 0x40) ≠ leAt bs 0x3C 4 then bad 6
  else if leAt bs 0 2 ≠ 0x7A54 || leAt bs 2 1 ≠ 1 then bad 1
  else if leAt bs 3 1 > 3 then bad 2
  else if S = 0 || S > 128 || S > owned then bad 3
  else if rows = 0 || rows > 0xFFFFFF || len = 0 || len > 4032 then bad 4
  else if tileHdrReserved bs then bad 5
  else
    match decBody (leAt bs 3 1) S rows len (leAt bs 0x14 4 % 512) (bs.drop 0x40) with
    | some runs => { cause := 0, rows, next := tileNext bs t, runs }
    | none => bad 5

/-- Row `r` of a list of runs. -/
def runRow : List (Nat × List Sym) → Nat → Option (List Sym)
  | [], _ => none
  | (c, x) :: xs, r => if r < c then some x else runRow xs (r - c)

/-- The symbols of `n` slots: slots beyond the image carry K (R206). -/
def padSyms (n : Nat) (x : List Sym) : List Sym := (List.range n).map fun i => nth 7 x i

end Sys2Proof.Machine
end

