-- ==== Sys2Proof/Machine/Row.lean ====
section
/-! DEFINITION. Placing a row: the adjustments of R125, the drive events of Table 05-2, strobes with
their spacing and spills, and the row as the engine keeps it until its slice has taken it (Row timing
and edge placement; Formats, compare and reflex rules). -/
namespace Sys2Proof.Machine

/-! ### Adjustments -/

/-- TIME.PLANE_DLY.D. -/
def planeDly (s : Dev) : Nat := fget s (A 1 0xC0) 0 14

/-- BANK.DSK of lane `l`. -/
def dskAddr (l : Nat) : Nat := A (calPage (l / 64)) (0x200 + 4 * (l % 64))
/-- BANK.RPO of lane `l`. -/
def rpoAddr (l : Nat) : Nat := A (calPage (l / 64)) (0x300 + 4 * (l % 64))

/-- The launch adjustment that the values give: D − P − Rd (R125). -/
def launchOf (d dsk rpo : Nat) : Int := (d : Int) - bits dsk 0 16 - sgn (bits rpo 0 16) 16
/-- The sample adjustment: D + Q + Rs (R125). -/
def sampleOf (d dsk rpo : Nat) : Int := (d : Int) + bits dsk 16 16 + sgn (bits rpo 16 16) 16

/-- Both adjustments lie from 0 to 8,192 vs (R125). -/
def adjOk (d dsk rpo : Nat) : Bool :=
  decide (0 ≤ launchOf d dsk rpo) && decide (launchOf d dsk rpo ≤ 8192)
    && decide (0 ≤ sampleOf d dsk rpo) && decide (sampleOf d dsk rpo ≤ 8192)

/-- The adjustments that the registers of lane `l` call for. -/
def adjTarget (s : Dev) (l : Nat) : Nat × Nat :=
  ((launchOf (planeDly s) (rdN s (dskAddr l)) (rdN s (rpoAddr l))).toNat,
   (sampleOf (planeDly s) (rdN s (dskAddr l)) (rdN s (rpoAddr l))).toNat)

/-- The adjustments in force on lane `l` for a row whose fetch stage begins in mc `F`: those of the registers, or those
applied so far by swaps (R33, R136). -/
def adjOf (s : Dev) (F l : Nat) : Nat × Nat :=
  let c := match mget (fun _ => none) s.adj l with
    | some ab => ab
    | none => adjTarget s l
  let w := asOf s F (adjKey l) (w32 (c.1 + 2 ^ 16 * c.2))
  (w.toNat % 2 ^ 16, w.toNat / 2 ^ 16)

/-- The adjustments of lane `l` are about to move by a swap: rows whose fetch stage has begun keep them (R137). -/
def noteAdj (l : Nat) (s : Dev) : Dev :=
  let c := adjOf s (now s + 1) l
  noteOld (adjKey l) (w32 (c.1 + 2 ^ 16 * c.2)) s

/-! ### Events of a row -/

/-- D0 or D1. -/
def dOf (b : Bool) : DState := if b then .d1 else .d0

/-- The drive events of Table 05-2 as pairs of edge number and action (R143, R144, R146). -/
def fmtEvents (fmt : Nat) (sym : Sym) : List (Nat × Drv) :=
  let n := sym.toNat
  if n = 7 then []
  else if fmt = 6 then (if n = 1 then [(0, .gateOn 0 0)] else if n = 0 then [(0, .gateOff .d0)] else [(0, .gateOff .p)])
  else if 4 ≤ n then [(0, .to .p)]
  else if fmt = 4 || fmt = 5 then
    let a := dOf (bit n 0)
    let b := dOf (bit n 0 != bit n 1)
    if fmt = 4 then [(0, .to a), (1, .to b)] else [(0, .to a), (1, .to .d0), (2, .to b), (3, .to .d0)]
  else if 2 ≤ n then [(0, .to .p)]
  else
    let d := dOf (n == 1)
    let c := dOf (n != 1)
    if fmt = 1 then [(0, .to d), (1, .to .d0)]
    else if fmt = 2 then [(0, .to d), (1, .to .d1)]
    else if fmt = 3 then [(0, .to c), (1, .to d), (2, .to c)]
    else [(0, .to d)]

/-- How many edges a format uses (Table 05-2). -/
def fmtEdges (fmt : Nat) : Nat := if fmt = 0 || fmt = 6 then 1 else if fmt = 3 then 3 else if fmt = 5 then 4 else 2

/-- Whether a symbol calls for a compare under a format (R143, R144). -/
def wantsCmp (fmt : Nat) (sym : Sym) : Bool :=
  sym == 4 || sym == 5 || ((sym == 2 || sym == 3) && !(fmt == 4 || fmt == 5))

/-- Whether state `x` passes the expectation of a symbol (Table 05-5). -/
def passes (sym : Sym) (x : SState) : Bool :=
  match sym.toNat, x with
  | 2, .l => true
  | 3, .h => true
  | 4, .m => true
  | 5, .l => true
  | 5, .h => true
  | _, _ => false

/-! ### Strobe spacing (R127) -/

/-- Order of strobes on one sampler: by time, the later row's first on the same vs. -/
def insSt (x : Nat × Nat) : List (Nat × Nat) → List (Nat × Nat)
  | [] => [x]
  | y :: ys => if x.1 < y.1 || (x.1 == y.1 && x.2 > y.2) then x :: y :: ys else y :: insSt x ys

/-- The strobes kept: each at least 410 vs after the last one kept. -/
def keptSt : Option Nat → List (Nat × Nat) → List (Nat × Nat)
  | _, [] => []
  | last, x :: xs =>
    match last with
    | some u => if x.1 < u + 410 then keptSt last xs else x :: keptSt (some x.1) xs
    | none => x :: keptSt (some x.1) xs

/-- The strobe list of a lane's sampler, 0 for S0 and 1 for S1. -/
def stOf (ln : Lane) (which : Nat) : List (Nat × Nat) := if which = 0 then ln.st0 else ln.st1
/-- The strobes of a sampler that decide about those from time `h` on: these, and the last one kept before. -/
def stCut (h : Nat) (x : List (Nat × Nat)) : List (Nat × Nat) :=
  ((keptSt none x).filter fun y => y.1 < h).getLast?.toList ++ x.filter fun y => h ≤ y.1
/-- The strobe list of a sampler replaced, with what those from time `h` on need. -/
def setSt (ln : Lane) (which h : Nat) (x : List (Nat × Nat)) : Lane :=
  if which = 0 then { ln with st0 := stCut h x } else { ln with st1 := stCut h x }

/-- The row's strobe is suppressed as the list stands. -/
def stSuppressed (xs : List (Nat × Nat)) (t k : Nat) : Bool := !(keptSt none xs).contains (t, k)

/-! ### A row -/

/-- What a row needs to be placed on one engine. -/
structure RowReq where
  kind : RowKind
  syms : List Sym
  x : Nat
  set : Nat
  len : Nat
  t : Nat
  k : Nat
  idx : Nat
  mkEv : Nat := 0
  rmsk : Nat := 0
  maskAll : Bool := false
  dmask : List Nat := []
  tag : Nat × Nat × Nat := (0, 0, 0)
  clr : Option (Nat × Nat) := none
  idl : Option (Nat × Nat × Bool) := none
  deriving DecidableEq, Repr

/-- The mc in which the fetch stage of a row that starts at time `t` begins (Table 01-2). -/
def fetchMc (t : Nat) : Nat := t / 1024 - 22

/-- Slot `i` of engine `e` is masked by the row mask `m` for a row fetched in mc `F` (R33, R174, Table 06-5). -/
def rmaskBit (s : Dev) (F e m i : Nat) : Bool :=
  m != 0 && bit (rdAt s F (A (furPage e) (0x100 + 16 * (m - 1) + 4 * (i / 32)))) (i % 32)

/-- BANK.CMP_MASK of lane `l` for a row fetched in mc `F` (R33, Table 05-6). -/
def cmpMasked (s : Dev) (F l : Nat) : Bool := bit (rdAt s F (A (rfxPage (l / 64)) (0x80 + 4 * (l % 64 / 32)))) (l % 32)

/-- Word `w` of entry `j` of lane `l` for a row fetched in mc `F` (R33, R123). -/
def tsAt (s : Dev) (F l j w : Nat) : Nat := (asOf s F (tsKey l j w) (tsWord s l j w)).toNat
/-- An edge offset of a timing-set entry: E0 to E3, S0, S1 as 0 to 5. -/
def edgeOf (s : Dev) (F l set v : Nat) : Nat := tsAt s F l set (v + 1)
/-- FMT of the entry. -/
def fmtOf (s : Dev) (F l set : Nat) : Nat := bits (tsAt s F l set 0) 0 3
/-- CMP of the entry. -/
def cmpOf (s : Dev) (F l set : Nat) : Nat := bits (tsAt s F l set 0) 6 2

/-- An offset that lies 32 mc or more past the row's end is not placed (R129). -/
def spilled (r : RowReq) (o : Nat) : Bool := r.len + 32768 ≤ o

/-- The row's drive events on lane `l` (a drill is gated on at its drill time, R401), and the drops of R129 (one list entry for each). -/
def laneDrives (r : RowReq) (l : Nat) (sym : Sym) (s : Dev) : List Ev × Nat :=
  let F := fetchMc r.t
  let evs := (fmtEvents (fmtOf s F l r.set) sym).map fun p => (edgeOf s F l r.set p.1, p.2)
  let ok := evs.filter fun p => !spilled r p.1
  let act := fun (p : Nat × Drv) => match p.2 with
    | .gateOn _ _ => Drv.gateOn (clkSelAt s F l) (r.t + p.1)
    | x => x
  (ok.map fun p => { t := r.t + p.1 + (adjOf s F l).1, row := r.k, act := act p }, evs.length - ok.length)

/-- The row's strobes on lane `l`: times, masks, whether each is placed, and whether it counts in s_last: not when an event of an
earlier row suppresses it as the formatter knows then (R126, R129, R149, R152, R153). -/
def laneStrobes (e : Nat) (r : RowReq) (slot l : Nat) (sym : Sym) (s : Dev) : List Strobe :=
  let F := fetchMc r.t
  if wantsCmp (fmtOf s F l r.set) sym then
    let cmp := cmpOf s F l r.set
    let masked := r.maskAll || cmpMasked s F l || rmaskBit s F e r.rmsk slot
    ((if cmp = 0 then [0] else [0, 1]).map fun w =>
      let o := edgeOf s F l r.set (4 + w)
      let t := r.t + o + (adjOf s F l).2
      { lane := l, slot, which := w, t, sym, cmp, masked,
        placed := !spilled r o, counted := !spilled r o && !stSuppressed (insSt (t, r.k) (stOf (getLane s l) w)) t r.k })
  else []

/-- The strobes of the row join their samplers' lists. -/
def addStrobes (k : Nat) (sts : List Strobe) (r : RowReq) (s : Dev) : Dev :=
  forAll sts (fun x s =>
    if spilled r (edgeOf s (fetchMc r.t) x.lane r.set (4 + x.which)) then s
    else setLane x.lane (setSt (getLane s x.lane) x.which (lookBack s x.lane) (insSt (x.t, k) (stOf (getLane s x.lane) x.which))) s) s

/-- The events and strobes that are not placed, of which `n` are drive events (R129, R130). What R127 suppresses is counted when
its time has come, since a later row may still change it. -/
def countDrops (r : RowReq) (l n : Nat) (sts : List Strobe) (s : Dev) : Dev :=
  forAll (List.replicate (n + (sts.filter fun x => !x.placed).length) ()) (fun _ => dropEvent l r.k 0x94) s

/-- The row placed on engine `e`: kept with its strobes, its drive events queued on the lanes. -/
def placeRow (e : Nat) (r : RowReq) (s : Dev) : Dev :=
  let f := getFur s e
  let lanes := f.slots.zipIdx
  let sts := lanes.flatMap fun p => laneStrobes e r p.2 p.1 (nth 7 r.syms p.2) s
  let row : Row := { k := r.k, t := r.t, len := r.len, set := r.set, idx := r.idx, kind := r.kind, syms := r.syms, mkEv := r.mkEv,
                     rmsk := r.rmsk, x := r.tag.1, y := r.tag.2.1, z := r.tag.2.2, dmask := r.dmask, strobes := sts,
                     flagT := r.t + 16384, clr := r.clr, idl := r.idl, tinv := engTinv s e,
                     adjs := f.slots.map (adjOf s (fetchMc r.t)) }
  let s := setFur e { f with issued := f.issued ++ [row] } s
  forAll lanes (fun p s =>
    let (evs, n) := laneDrives r p.1 (nth 7 r.syms p.2) s
    let mine := sts.filter fun x => x.slot == p.2
    let s := setLane p.1 { getLane s p.1 with evs := evs.foldl (fun acc x => insEv x acc) (getLane s p.1).evs } s
    countDrops r p.1 n mine (addStrobes r.k mine r s)) s

/-- A strobe that its sampler's list no longer suppresses counts from now on (R127, R153). -/
def recount (s : Dev) (r : Row) : Row :=
  if r.flagged then r
  else { r with strobes := r.strobes.map fun x => { x with counted := x.counted || (x.placed && !stSuppressed (stOf (getLane s x.lane) x.which) x.t r.k) } }

/-- The latest time of the counted strobes of row `k` on the engines `es` plus 16 mc, or the row's start
plus 16 mc (R153). -/
def flagTime (s : Dev) (es : List Nat) (k t : Nat) : Nat :=
  let ts := es.flatMap fun e => (getFur s e).issued.flatMap fun r => if r.k = k then (r.strobes.filter (·.counted)).map (·.t) else []
  ts.foldl max (if ts.isEmpty then t else 0) + 16384

/-- Row `k` has been placed on every engine of the yoke `es`: the marks that an engine has given it, and the flag times of the
rows whose flags are still to come. -/
def setFlagTime (es : List Nat) (k : Nat) (s : Dev) : Dev :=
  let s := forAll (es.take 1) (fun e => shareTinv e k) s
  let s := forAll es (fun e s => setFur e { getFur s e with issued := (getFur s e).issued.map (recount s) } s) s
  forAll es (fun e s' => setFur e { getFur s' e with issued := (getFur s' e).issued.map fun r =>
    if r.flagged then r else { r with flagT := flagTime s es r.k r.t } } s') s

end Sys2Proof.Machine
end

