-- ==== Sys2Proof/Machine/Cal.lean ====
section
/-! DEFINITION. Period tables, timing-set commits, calibration offsets, board deskew, background
recalibration and swaps (Row timing and edge placement). -/
namespace Sys2Proof.Machine

/-! ### Period tables (R118, R119) -/

/-- FUR.PER_N of entry `i` of engine `e`. -/
def perNAddr (e i : Nat) : Nat := A (furPage e) (0x400 + 8 * i)

/-- A write of `v` to PER_N[i] on path `p`. -/
def writePerN (p : Path) (e i v : Nat) (s : Dev) : Dev :=
  if v = 0 then fset (A (furPage e) 0x3F4) 0 7 i (hit (A (furPage e) 0x3F4) 31 s)
  else
    let x := getPath s p
    let s := noteRow (perNAddr e i) s
    let s := match x.per with
      | some (e', i', f) => if e' = e && i' = i then wr (perNAddr e i + 4) f s else s
      | none => s
    wrN (perNAddr e i) v (setPath p { x with per := none } s)

/-- PER_N_WRITE. -/
def doPerNWrite (p : Path) (e : Eng) (i : Fin 128) (v : Word) (s : Dev) : Dev := onWrite p (perNAddr e i) (writePerN p e i v.toNat) s

/-- A write of `v` to PER_F[i] on path `p`: staged in the path's period staging latch. -/
def stagePerF (p : Path) (e i : Nat) (v : Word) (s : Dev) : Dev := setPath p { getPath s p with per := some (e, i, v &&& 0x3FF) } s

/-- PER_F_WRITE. -/
def doPerFWrite (p : Path) (e : Eng) (i : Fin 128) (v : Word) (s : Dev) : Dev := onWrite p (perNAddr e i + 4) (stagePerF p e i v) s

/-! ### Timing-set entries (R120 to R124) -/

/-- TS_FMT of entry `j` in the window of bank `b`. -/
def tsFmtAddr (b j : Nat) : Nat := A (tsPage b) (0x100 + 28 * j)

/-- A write of edge word `v` on path `p`: the word joins the path's staging entry (R120). -/
def stageEdge (p : Path) (b j edge : Nat) (v : Word) (s : Dev) : Dev :=
  let x := getPath s p
  let old := match x.edge with
    | some (b', j', ws) => if b' = b && j' = j then ws.filter (fun w => w.1 != edge) else []
    | none => []
  setPath p { x with edge := some (b, j, old ++ [(edge, v)]) } s

/-- TS_EDGE_WRITE. -/
def doTsEdgeWrite (p : Path) (b : Bank) (j : Fin 128) (edge : Fin 6) (v : Word) (s : Dev) : Dev :=
  onWrite p (tsFmtAddr b j + 4 + 4 * edge) (stageEdge p b j edge v) s

/-- The edge words that path `p` has staged for entry `j` of bank `b`. -/
def stagedEdges (s : Dev) (p : Path) (b j : Nat) : List (Nat × Word) :=
  match (getPath s p).edge with
  | some (b', j', ws) => if b' = b && j' = j then ws else []
  | none => []

/-- Edge word `v` of the entry as it would be after the commit: staged, or that of lane `l` (R121). -/
def edgeAfter (s : Dev) (ws : List (Nat × Word)) (l j v : Nat) : Word :=
  match ws.find? fun w => w.1 == v with
  | some w => w.2
  | none => tsWord s l j (v + 1)

/-- The first `n` edges ascend by at least 410 vs each (R122). -/
def edgesApart (f : Nat → Nat) (n : Nat) : Bool := (List.range (n - 1)).all fun i => decide (f i + 410 ≤ f (i + 1))

/-- The cause that refuses a commit, 0 for none (R122, Table 04-8). -/
def tsErr (fmt cmp : Nat) (f : Nat → Nat) : Nat :=
  if fmt = 7 then 1 else if cmp = 3 then 2 else if !edgesApart f (fmtEdges fmt) then 3 else if cmp = 2 && f 5 < f 4 then 4 else 0

/-- The lanes that a commit on bank `b` writes (R121). -/
def tsTargets (s : Dev) (b : Nat) : List Nat :=
  if fbit s (A (tsPage b) 0x80) 31 then (bankLanes b).filter fun l => fbit s (A (tsPage b) (0x84 + 4 * (l % 64 / 32))) (l % 32)
  else [64 * b + fget s (A (tsPage b) 0x80) 0 6]

/-- A word of a timing-set entry changes: rows whose fetch stage has begun keep the old one (R33, R123). -/
def putTs (l j w : Nat) (v : Word) (s : Dev) : Dev := setTsWord l j w v (noteOld (tsKey l j w) (tsWord s l j w) s)

/-- A commit of entry `j` with TS_FMT value `v` on path `p` (R120 to R122). -/
def commitTs (p : Path) (b j : Nat) (v : Word) (s : Dev) : Dev :=
  let sel := fget s (A (tsPage b) 0x80) 0 6
  let ws := stagedEdges s p b j
  let e := edgeAfter s ws (64 * b + sel) j
  let c := tsErr (bits v.toNat 0 3) (bits v.toNat 6 2) (fun i => (e i).toNat)
  if c ≠ 0 then irqSet (tsPage b) 1 (recordErr (A (tsPage b) 0x8C) c (sel * 256 + j) s)
  else
    let edges := (List.range 6).map e
    let own := fun l i => if ws.any (fun w => w.1 == i) || fbit s (A (tsPage b) 0x80) 31 then nth 0 edges i else tsWord s l j (i + 1)
    let s' := forAll (tsTargets s b) (fun l t =>
      forAll (List.range 6) (fun i => putTs l j (i + 1) (own l i)) (putTs l j 0 (v &&& 0xC7) t)) s
    setPath p { getPath s p with edge := none } s'

/-- TS_FMT_COMMIT. -/
def doTsFmtCommit (p : Path) (b : Bank) (j : Fin 128) (v : Word) (s : Dev) : Dev := onWrite p (tsFmtAddr b j) (commitTs p b j v) s

/-! ### Calibration offsets (R125, R136) -/

/-- The lanes whose owner is not stopped. -/
def busyLanes (s : Dev) : List Nat := s.fur.flatMap fun x => if engStopped s x.1 then [] else x.2.slots

/-- The lanes that keep their adjustments and move by swaps keep what is in force now (R136). -/
def keepAdj (ls : List Nat) (s : Dev) : Dev :=
  { s with adj := ls.foldl (fun m l => mset (fun _ => none) l (some (adjOf s (now s + 1) l)) m) s.adj }

/-- a_m lies from 0 to 8,192 vs for plane delay `d` and path delay `p` (R408). -/
def markOk (d p : Nat) : Bool := decide (p ≤ d) && decide (d - p ≤ 8192)

/-- A refused write recorded in DRL.CFG_ERR of drill page `d`, with IRQ bit 3 (R414). -/
def drlErr (d cause o : Nat) (s : Dev) : Dev := irqSet (0x160 + d) 8 (recordErr (A (0x160 + d) 0xA8) cause o s)

/-- A write of `v` to DSK or RPO of lane `l`, or to PLANE_DLY: refused out of range, or taken (R125, R136, R408). A P, Q or D above
8,192, outside Tables 04-10 and 04-11, is taken where the adjustments that it gives lie in range (DESIGN CHOICE, log entry 100). -/
def writeCalOffset (r : CalReg) (v : Nat) (s : Dev) : Dev :=
  match r with
  | .dsk l =>
    if !adjOk (planeDly s) v (rdN s (rpoAddr l)) then irqSet (calPage (l / 64)) 4 (hit (A (calPage (l / 64)) 0x84) 29 s)
    else wrN (dskAddr l) v (keepAdj ((busyLanes s).filter (· == l.toNat)) s)
  | .rpo l =>
    if !adjOk (planeDly s) (rdN s (dskAddr l)) v then irqSet (calPage (l / 64)) 4 (hit (A (calPage (l / 64)) 0x84) 29 s)
    else wrN (rpoAddr l) v (keepAdj ((busyLanes s).filter (· == l.toNat)) s)
  | .plane =>
    let s := onlyIf (bit v 31) (clrHit (A 1 0xC0) 31) s
    let lanesBad := (List.range 512).any fun l => domOn s (4 + l / 64) && !adjOk (bits v 0 14) (rdN s (dskAddr l)) (rdN s (rpoAddr l))
    let marksBad := (List.range 16).filter fun i => !markOk (bits v 0 14) (fget s (A (0x160 + i) 0x108) 0 14)
    if lanesBad || !marksBad.isEmpty then hit (A 1 0xC0) 31 (forAll marksBad (fun i => drlErr i 2 0x108) s)
    else plainWrite (A 1 0xC0) v (keepAdj (busyLanes s) s)

/-- The BAR0 offset that CAL_OFFSET_WRITE names. -/
def calRegAddr : CalReg → Nat
  | .dsk l => dskAddr l
  | .rpo l => rpoAddr l
  | .plane => A 1 0xC0

/-- CAL_OFFSET_WRITE. -/
def doCalOffsetWrite (p : Path) (r : CalReg) (v : Word) (s : Dev) : Dev := onWrite p (calRegAddr r) (writeCalOffset r v.toNat) s

/-! ### Board deskew (R133 to R135) -/

/-- The lanes marked in DSK_MASK of bank `b`, ascending. -/
def dskLanes (s : Dev) (b : Nat) : List Nat :=
  (bankLanes b).filter fun l => fbit s (A (calPage b) (0x94 + 4 * (l % 64 / 32))) (l % 32)

/-- A deskew engine holds TIM channel `ch` (R135). -/
def timLent (s : Dev) (ch : Nat) : Bool := s.cal.any fun x => match x.2.dsk with
  | some d => d.tim == ch
  | none => false

/-- STAT.LENT of TIM channel `ch` (R364). -/
def showLent (ch : Nat) (s : Dev) : Dev := fset (A (0x140 + ch) 0x84) 29 1 (b2n (timLent s ch)) s

/-- The deskew engine of bank `b` lets go of its TIM channel, which is IDLE then (R135, R364). -/
def dskEnd (b : Nat) (s : Dev) : Dev :=
  match (getCal s b).dsk with
  | some d => showLent d.tim (fset (A (0x140 + d.tim) 0x84) 16 3 0 (setCal b { getCal s b with dsk := none } s))
  | none => s

/-- A write of `v` to DSK_CTL: with START it starts the engine, which holds the TIM channel, or is refused (R135, R364); a page that
drains starts none (R67).
The engine takes TIM, REPS, LOOP_DLY and DSK_MASK as they are at START, and makes its first transition in the next mc
(DEDUCED, log entry 87). -/
def writeDskCtl (b v : Nat) (s : Dev) : Dev :=
  let st := A (calPage b) 0x84
  if !bit v 31 || blkDraining s (calPage b) then plainWrite (A (calPage b) 0x90) v s
  else if (dskLanes s b).any (fun l => owner s l != 0x7F) || blkActive s (0x140 + bits v 24 4) || fbit s st 28
      || bits v 16 4 < 4 || bits v 16 4 > 12 then hit st 27 s
  else
    let s := wr64 (A (calPage b) 0x9C) 0 (fset st 28 1 1 (plainWrite (A (calPage b) 0x90) v s))
    let d : Dsk := { tim := bits v 24 4, n := 2 ^ bits v 16 4, loop := bits v 0 16, mask := dskLanes s b, todo := dskLanes s b, start := now s + 1 }
    showLent d.tim (setCal b { getCal s b with dsk := some d } s)

/-- DESKEW_START. -/
def doDeskewStart (p : Path) (b : Bank) (v : Word) (s : Dev) : Dev :=
  onWrite p (A (calPage b) 0x90) (writeDskCtl b (v.toNat ||| 0x80000000)) s

/-- The value that deskew writes for a round trip `rt` with loopback delay `lp`, if it is accepted (R133, R134). -/
def dskValue (s : Dev) (l : Nat) (rt : Option Nat) (lp : Nat) : Option Nat :=
  match rt with
  | none => none
  | some rt =>
    if rt < lp then none
    else
      let d := rt - lp
      let v := (d - d / 2) * 65536 + d / 2
      if d - d / 2 < 65536 && adjOk (planeDly s) v (rdN s (rpoAddr l)) then some v else none

/-- Deskew of one lane ends with its measured round trip, none when a stop did not come (R133, R134). -/
def dskLane (l : Nat) (rt : Option Nat) (lp : Nat) (s : Dev) : Dev :=
  match dskValue s l rt lp with
  | some v => wrN (dskAddr l) v s
  | none => fset (A (calPage (l / 64)) (0x9C + 4 * (l % 64 / 32))) (l % 32) 1 1 s

/-- The time in vs of the engine's next act: a transition of the lane under way, or its end. -/
def dskTime (d : Dsk) : Nat := (d.start + 128 * d.k) * 1024

/-- RT of the lane under way: the mean of the rise mean and the fall mean, to the nearest vs, halves up (R133). Both are
means of as many measurements. -/
def dskRt (d : Dsk) : Option Nat := if d.bad || d.wait.isSome then none else some ((d.sum + d.n) / (2 * d.n))

/-- The engine may drive lane `l`: neither Quench nor the loss of the lane parks it (R24, R111). -/
def dskMay (s : Dev) (l : Nat) : Bool := !quenchParks s && domOn s (4 + l / 64) && !(health s l == 3 || health s l == 4 || health s l == 6)

/-- The engine's next act: the transitions of a lane, D1 first, 128 mc apart, and after the last of them its value; the next
lane follows (R133). -/
def dskAct (b l : Nat) (d : Dsk) (s : Dev) : Dev :=
  let t := dskTime d
  if d.k < 2 * d.n then
    let s := setCal b { getCal s b with dsk := some { d with k := d.k + 1, wait := some t, bad := d.bad || d.wait.isSome } } s
    onlyIf (dskMay s l) (driveTo l t (dOf (d.k % 2 == 0))) s
  else
    let s := setCal b { getCal s b with dsk := some { d with todo := d.todo.tail, start := d.start + 128 * d.k, k := 0, wait := none, sum := 0, bad := false } } s
    settle l t (dskLane l (dskRt d) d.loop s)

/-- At most `n` acts of the engine of bank `b` that have come by the start of the current mc. -/
def dskActs (b : Nat) : Nat → Dev → Dev
  | 0, s => s
  | n + 1, s =>
    match (getCal s b).dsk with
    | some d => match d.todo with
      | l :: _ => if dskTime d ≤ nowVs s then dskActs b n (dskAct b l d s) else s
      | [] => s
    | none => s

/-- What the deskew engines have done by the start of the current mc: at most a transition every 128 mc and an end for each
lane. -/
def dskAdvance (s : Dev) : Dev :=
  if !s.clk then s
  else forAll (List.range 8) (fun b s => match (getCal s b).dsk with
    | some d => dskActs b ((now s + 1 - d.start) / 128 + d.todo.length + 2) s
    | none => s) s

/-- Lane `l` enters state `st` at the balls at time `t`: the stop of the transition that the engine measures on it, when it
comes within 64 mc (R133, R134). -/
def dskSense (l t : Nat) (st : SState) (s : Dev) : Dev :=
  match (getCal s (l / 64)).dsk with
  | some d => match d.todo, d.wait with
    | l' :: _, some w =>
      if l' = l && st = (if d.k % 2 = 1 then SState.h else SState.l) && w ≤ t && t ≤ w + 65536
      then setCal (l / 64) { getCal s (l / 64) with dsk := some { d with wait := none, sum := d.sum + (t - w) } } s
      else s
    | _, _ => s
  | none => s

/-- DESKEW_DONE (R133 to R135): every masked lane has been measured; the engine ends. The round trips that the command
reports have no effect: the engine writes what its TIM channel has measured, lane by lane (log entry 87). -/
def doDeskewDone (b : Bank) (_rt : List (Option (BitVec 32))) (s : Dev) : Dev :=
  match (getCal s b).dsk with
  | none => s
  | some d => if !d.todo.isEmpty then s else irqSet (calPage b) 2 (fset (A (calPage b) 0x84) 28 1 0 (dskEnd b s))

/-! ### Background recalibration and swaps (R136 to R141) -/

/-- CAL_STAT.LAG of bank `b` takes a value; a rise sets IRQ bit 0 (R139). -/
def setLag (b : Nat) (v : Bool) (s : Dev) : Dev :=
  let st := A (calPage b) 0x84
  if v && !fbit s st 31 then irqSet (calPage b) 1 (fset st 31 1 1 s) else fset st 31 1 (b2n v) s

/-- LAG follows the largest difference between computed and applied placement, in 1/16 vs: it sets above
4 vs, clears at 2 vs or less, and reads 1 while BG_EN is 0 (R139, R140). -/
def lagRule (b : Nat) (pend : BitVec 16) (s : Dev) : Dev :=
  let d := (sgn pend.toNat 16).natAbs
  let s := fset (A (calPage b) 0x8C) 16 16 pend.toNat s
  if !fbit s (A (calPage b) 0x80) 31 || d > 64 then setLag b true s else if d ≤ 32 then setLag b false s else s

/-- Slice `j` of bank `b` is found out of range, or in range again (R106, R109, R141). -/
def judgeSlice (b j : Nat) (isBad : Bool) (s : Dev) : Dev :=
  if !isBad then
    if j < 64 && (getLane s (64 * b + j)).unproven
    then updHealth (64 * b + j) (setLane (64 * b + j) { getLane s (64 * b + j) with unproven := false } s) else s
  else
    let s := if j < 64 || spareBad s b (j - 64) then s else
      raiseOn (0x14 + 4 * b) 2 (j - 64) (setCal b { getCal s b with badSpare := (getCal s b).badSpare ||| 2 ^ (j - 64) } s)
    match sliceLane s b j with
    | none => s
    | some l =>
      if (getLane s l).suspect || (getLane s l).sliceFail then s
      else
        let s := updHealth l (setLane l { getLane s l with suspect := true, unproven := false } s)
        let s := raiseOn (0x14 + 4 * b) 0 l (irqSet (calPage b) 8 s)
        if furStopped s (owner s l) then spareAtStop l s else s

/-- BACKGROUND_RECALIBRATION (R137 to R141): the bank measures, computes new coefficients for every slice
into its idle buffer, and judges the slices. -/
def doBackgroundRecalibration (b : Bank) (temp pend : BitVec 16) (bad : List (Fin 66)) (s : Dev) : Dev :=
  let c := getCal s b
  let early := match c.lastBg with
    | some t => decide (now s < t + 102400)
    | none => false
  if !fbit s (A (calPage b) 0x80) 31 || !domOn s (4 + b) || !blkReady s (cfgPage b) || early then s
  else
    let s := wrN (A (calPage b) 0xA4) temp.toNat (setCal b { c with lastBg := some (now s), ready := List.range 66 } s)
    forAll (List.range 66) (fun j => judgeSlice b j (bad.any (·.toNat == j))) (lagRule b pend s)

/-- One vs towards a target. -/
def stepTo (a t : Nat) : Nat := if a < t then a + 1 else if a > t then a - 1 else a

/-- The adjustments of lane `l` move by one swap (R136). -/
def stepAdj (l : Nat) (s : Dev) : Dev :=
  match mget (fun _ => none) s.adj l with
  | none => s
  | some (x, y) =>
    let (tx, ty) := adjTarget s l
    let n := (stepTo x tx, stepTo y ty)
    let s := noteAdj l s
    { s with adj := mset (fun _ => none) l (if n = (tx, ty) then none else some n) s.adj }

/-- The engine that leads the running owner of the lane that slice `j` of bank `b` serves. -/
def sliceEng (s : Dev) (b j : Nat) : Option Nat :=
  match sliceLane s b j with
  | some l => if ownerRuns s l then (engOf s (owner s l)).map (leadOf s) else none
  | none => none

/-- The latest swap of slice `j` waits for a row boundary of the lane's running owner, in a yoke of its lead (R137, R139). -/
def swapWaits (s : Dev) (b j : Nat) : Bool :=
  match sliceEng s b j with
  | some e => decide (rd64 s (fa e 0xB8) < mget (fun _ => 0) (getCal s b).swapRow j)
  | none => false

/-- CAL_STAT.PEND of bank `b`: a swap waits for the row boundary of a running owner (R139). -/
def calPend (s : Dev) (b : Nat) : Bool :=
  s.adj.any (fun x => x.1 / 64 == b)
    || (getCal s b).swapRow.any (fun x => swapWaits s b x.1)
    || (fbit s (A (calPage b) 0x80) 31 && !fbit s (A (calPage b) 0x80) 30 && (getCal s b).ready.any fun j => (sliceEng s b j).isSome)

/-- The drift `y` lies at most 1 vs from `x`, both signed in 1/16 vs (R137). -/
def driftStep (x y : Nat) : Bool := decide ((sgn x 16 - sgn y 16).natAbs ≤ 16)

/-- SWAP (R137): the idle buffer of a slice becomes the active one, for the rows fetched from now on, with
the drift then applied and still pending; the adjustments of its lane move with it (R136). One swap moves an event by 1 vs at
most: a swap that moves adjustments leaves the drift where it is, and the slice goes on to successive swaps while some
placement still differs from the computed one. A swap whose row has not come yet keeps the next one of its slice off. Several
slices of a bank may swap in one mc: that is one instant of the 1,600 mc, and SWAP_COUNT counts each (DESIGN CHOICE, log entry 101). -/
def doSwap (b : Bank) (slice : Fin 66) (pend drift : BitVec 16) (s : Dev) : Dev :=
  let c := getCal s b
  let ctl := A (calPage b) 0x80
  let fresh := match c.lastSwap with
    | some t => decide (t + 1600 ≤ now s)
    | none => true
  let spaced := fresh || (c.lastSwap == some (now s) && !c.swapped.contains slice.toNat)
  let moves := match sliceLane s b slice with
    | some l => (mget (fun _ => none) s.adj l).isSome
    | none => false
  let applied := fget s (A (calPage b) 0x8C) 0 16
  let coef := c.ready.contains slice.toNat && !fbit s ctl 30 && !moves && driftStep applied drift.toNat
  if !spaced || !fbit s ctl 31 || !(moves || coef) || !domOn s (4 + b) || swapWaits s b slice then s
  else
    let row := match sliceEng s b slice with
      | some e => mset (fun _ => 0) slice.toNat (nextFetched s e + 1) c.swapRow
      | none => mdrop (· == slice.toNat) c.swapRow
    let s := setCal b { c with lastSwap := some (now s), swapped := if fresh then [slice.toNat] else slice.toNat :: c.swapped,
                               swaps := mset (fun _ => 0) slice.toNat (mget (fun _ => 0) c.swaps slice + 1) c.swaps, swapRow := row,
                               ready := if coef && pend.toNat = 0 then c.ready.filter (· != slice.toNat) else c.ready } s
    let s := wrN (A (calPage b) 0x88) (rdN s (A (calPage b) 0x88) + 1) s
    let s := match sliceLane s b slice with
      | some l => stepAdj l s
      | none => s
    lagRule b pend (fset (A (calPage b) 0x8C) 0 16 (if coef then drift.toNat else applied) s)

/-- A write of CAL_CTL (R140): clearing BG_EN makes LAG read 1. -/
def writeCalCtl (b v : Nat) (s : Dev) : Dev :=
  let s := plainWrite (A (calPage b) 0x80) v s
  if bit v 31 then s else setLag b true s

end Sys2Proof.Machine
end

