-- ==== Sys2Proof/Machine/Fec.lean ====
section
/-! DEFINITION. The front-end control bus: frames, responses, groups, APPLY, polls and bus resets (Tine
lanes and the front-end contract: R88 to R105, R114). -/
namespace Sys2Proof.Machine

/-! ### Clock and frames (R88 to R93) -/

/-- The time of FCK rising edge `k` in vs: k × 32 ÷ 5 mc, to the nearest vs (R88). -/
def fckRise (k : Nat) : Nat := (k * 65536 + 5) / 10

/-- The first FCK rising edge at or after time `t`. -/
def fckFrom (t : Nat) : Nat :=
  let k := t * 10 / 65536
  if t ≤ fckRise k then k else if t ≤ fckRise (k + 1) then k + 1 else k + 2

/-- The time of the FCK falling edge after rising edge `k`, 3.2 mc later, to the nearest vs (R88). -/
def fckFall (k : Nat) : Nat := ((2 * k + 1) * 32768 + 5) / 10

/-- The first FCK cycle whose bit is launched at or after time `t`: the bit sampled on rising edge `k` is launched on the
falling edge before it (Table 03-4). -/
def launchFrom (t : Nat) : Nat :=
  let k := t * 10 / 65536
  if t ≤ fckFall (k - 1) && 0 < k then k else if t ≤ fckFall k then k + 1 else k + 2

/-- The level of FCK of bank `b` at time `t`: it runs while ACTIVE is 1 and is low otherwise (R88). -/
def fckLevel (s : Dev) (b t : Nat) : Bool :=
  let k := t * 10 / 65536
  pageOn s (fecPage b) && blkActive s (fecPage b)
    && ((fckRise k ≤ t && t < fckFall k) || (fckRise (k + 1) ≤ t && t < fckFall (k + 1)))

/-- The 48 bits of a command frame (R91, R93). -/
def fecFrame (c : FecCmd) (seq : Nat) : BitVec 48 :=
  let body := (c.chip % 8) * 2 ^ 36 + (c.kind % 8) * 2 ^ 33 + (c.addr % 1024) * 2 ^ 23 + (c.data % 65536) * 2 ^ 7 + seq % 128
  BitVec.ofNat 48 (2 ^ 47 + body * 256 + crc8 39 body)

/-- Broadcasts and reserved kinds get no response (Table 03-5). -/
def noResponse (c : FecCmd) : Bool := c.kind ≥ 4

/-- Armed kinds join the open group. -/
def isArmed (kind : Nat) : Bool := kind == 1 || kind == 5

/-! ### What the registers show -/

/-- Armed writes of the open group for one chip. -/
def armedFor (fs : List FecCmd) (n : Nat) : Nat := (fs.filter fun c => c.kind == 5 || c.chip == n).length

/-- GRP_STAT.QUEUED and OPEN_MAX (Table 03-22). -/
def showFec (b : Nat) (s : Dev) : Dev :=
  let x := getFec s b
  fset (A (fecPage b) 0x98) 8 4 x.groups.length
    (fset (A (fecPage b) 0x98) 0 5 (((List.range 8).map (armedFor x.opn)).foldl max 0) s)

/-- A bus's hidden state replaced, and its registers shown. -/
def putFec (b : Nat) (x : FecBus) (s : Dev) : Dev := showFec b (setFec b x s)

/-- A response word enters FEC.RSP, or is lost when the FIFO is full (Table 03-19). IRQ bit 0 sets as it enters: one that software
clears while the FIFO holds more stays clear (DESIGN CHOICE, log entry 106). -/
def pushRsp (b : Nat) (w : Nat) (s : Dev) : Dev :=
  let x := getFec s b
  if x.rsp.length ≥ 16 then setFec b { x with ovf := true } s
  else irqSet (fecPage b) 1 (setFec b { x with rsp := x.rsp ++ [w32 (2 ^ 31 + w)] } s)

/-- A bus reset begins with the next FCK cycle that FSYNC may be high in, so that an APPLY just given stays one cycle
long (R90). FCK and FSYNC of a bus that is not ACTIVE are at rest, and nothing is driven (R88). SEQ counts on through a bus
reset: it increments for each frame the bank sends (R91; DEDUCED, log entry 33). -/
def busReset (b : Nat) (s : Dev) : Dev :=
  let x := getFec s b
  if x.resetAt.isSome || !blkActive s (fecPage b) then s
  else
    let k := max x.syncAt (launchFrom (nowVs s))
    fset (A (fecPage b) 0xA4) 8 1 1 (emit (.freset b (fckFall (k - 1)) true) (setFec b { x with resetAt := some k, rstDue := false } s))

/-- BUS_RESET_END (R90): FSYNC falls, after 16 or more cycles, on an FCK falling edge that comes in this mc. -/
def doBusResetEnd (b : Bank) (s : Dev) : Dev :=
  match (getFec s b).resetAt with
  | some k0 =>
    let k := max (k0 + 16) (launchFrom (nowVs s))
    if nowVs s + 1024 ≤ fckFall (k - 1) then s
    else fset (A (fecPage b) 0xA4) 8 1 0 (emit (.freset b (fckFall (k - 1)) false) (setFec b { getFec s b with resetAt := none, syncAt := k + 1 } s))
  | none => s

/-! ### Groups (R97 to R99) -/

/-- The head group is complete once every unicast frame has been acknowledged and every broadcast has been sent; the mc
is that of the last of them, and that in which it heads the queue for a group without frames (R97). -/
def checkDone (b : Nat) (s : Dev) : Dev :=
  match (getFec s b).groups with
  | g :: gs =>
    if g.done.isNone && g.frames.all (fun c => c.acked && c.ackT ≤ now s) then
      let d := if g.frames.isEmpty then now s else (g.frames.map (·.ackT)).foldl max 0
      let time := if g.target = .none then some (d * 1024) else g.time
      setFec b { getFec s b with groups := { g with done := some d, time } :: gs } s
    else s
  | [] => s

/-- The FCK cycle of the head group's APPLY and its lateness, once both its target and its completion are known
(R98, R99): the cycle, and the target when the group is late. FSYNC is launched half a cycle before the edge that samples
it (Table 03-4), so an edge that E would name before the group is complete cannot be had: the first that can be launched
from the completion's mc on is taken (DESIGN CHOICE, log entry 79), and no cycle before the one that R90 leaves free. -/
def applyEdge (s : Dev) (b : Nat) (g : Group) : Option (Nat × Option Nat) :=
  match g.done, g.time with
  | some d, some t =>
    let dly := fget s (A (fecPage b) 0x80) 24 7 * 128
    let t' := max t (d * 1024)
    some (max (max (fckFrom (t' - dly)) (launchFrom (d * 1024))) (getFec s b).syncAt, if t < d * 1024 then some t else none)
  | _, _ => none

/-- The page takes new commands. -/
def fecTakes (s : Dev) (b : Nat) : Bool := running s (fecPage b) && blkEn s (fecPage b)

/-- A drill's first held group for bank `b`, and the drill without it. -/
def takeHeld (b : Nat) : List (Nat × Group) → Option (Group × List (Nat × Group))
  | [] => none
  | x :: xs => if x.1 = b then some (x.2, xs) else (takeHeld b xs).map fun r => (r.1, x :: r.2)

/-- Amplitude groups that drills hold take the places that are free, the lowest-numbered drill first (R403); a page that drains takes
none (R105). -/
def ampRefill (b : Nat) (s : Dev) : Dev :=
  forAll (List.range 16) (fun d s =>
    let x := mget (fun _ => {}) s.drl d
    if !fecTakes s b || (getFec s b).groups.length ≥ 8 then s
    else
      match takeHeld b x.held with
      | some (g, rest) =>
        let s := { s with drl := mset (fun _ => {}) d { x with held := rest } s.drl }
        checkDone b (putFec b { getFec s b with groups := (getFec s b).groups ++ [g] } s)
      | none => s) s

/-- APPLY (R98, R99): the head group is applied on its FCK edge; FSYNC is high for that one cycle (R90), and the next group's
frames begin after that edge (R97). The last APPLY of
a drain that has discarded groups is followed by its bus reset (R105). -/
def doApply (b : Bank) (s : Dev) : Dev :=
  let s := checkDone b s
  let x := getFec s b
  match x.groups with
  | [] => s
  | g :: gs =>
    match applyEdge s b g with
    | none => s
    | some (k, late) =>
      if nowVs s + 1024 ≤ fckFall (k - 1) || x.resetAt.isSome || !blkActive s (fecPage b) then s
      else
        let e := fckRise k
        let s := putFec b { x with groups := gs, syncAt := k + 2, grpAt := k + 1 } (emit (.fapply b e) s)
        let s := match late with
          | some t =>
            let d := e + fget s (A (fecPage b) 0x80) 24 7 * 128 - t
            irqSet (fecPage b) 2 (hit (A (fecPage b) 0x98) 31 (wrN (A (fecPage b) 0x9C) (sat (cdiv d 1024) m32) s))
          | none => s
        let s := ampRefill b (checkDone b (irqSet (fecPage b) 0x10 s))
        onlyIf (x.rstDue && gs.isEmpty) (busReset b) s

/-! ### Commands (R91, R95, R96, R103) -/

/-- A write of FEC.CMD: refused, joined to the open group, or queued as an immediate command (R95, R103,
Table 03-18). -/
def fecCommand (b : Nat) (c : FecCmd) (s : Dev) : Dev :=
  let x := getFec s b
  let st := A (fecPage b) 0x98
  if !fecTakes s b then s
  else if c.kind ≠ 4 && c.kind ≠ 5 && !fbit s (A (fecPage b) 0x80) c.chip then hit (A (fecPage b) 0x80) 31 s
  else if isArmed c.kind then
    if (List.range 8).any fun n => armedFor (x.opn ++ [c]) n > 16 then hit st 29 s
    else putFec b { x with opn := x.opn ++ [c] } s
  else if x.imm.length ≥ 64 then hit st 29 s
  else putFec b { x with imm := x.imm ++ [c] } s

/-- A software command on path `p`. -/
def softCmd (p : Path) (b kind chip addr data : Nat) (s : Dev) : Dev :=
  onWrite p (A (fecPage b) 0x84) (fecCommand b { chip, kind, addr, data, src := 0 }) s

/-- WRITE_NOW. -/
def doWriteNow (p : Path) (b : Bank) (chip : BitVec 3) (addr : BitVec 10) (data : BitVec 16) (s : Dev) : Dev :=
  softCmd p b 0 chip.toNat addr.toNat data.toNat s
/-- WRITE_ARMED. -/
def doWriteArmed (p : Path) (b : Bank) (chip : BitVec 3) (addr : BitVec 10) (data : BitVec 16) (s : Dev) : Dev :=
  softCmd p b 1 chip.toNat addr.toNat data.toNat s
/-- READ; DATA is ignored and sent as 0. -/
def doRead (p : Path) (b : Bank) (chip : BitVec 3) (addr : BitVec 10) (s : Dev) : Dev :=
  softCmd p b 2 chip.toNat addr.toNat 0 s
/-- POLL. The row has no ADDR of its own: the frame carries FE_ALARM's (DESIGN CHOICE, log entry 80). -/
def doPoll (p : Path) (b : Bank) (chip : BitVec 3) (s : Dev) : Dev := softCmd p b 3 chip.toNat 0x201 0 s
/-- BCAST_NOW. -/
def doBcastNow (p : Path) (b : Bank) (addr : BitVec 10) (data : BitVec 16) (s : Dev) : Dev :=
  softCmd p b 4 0 addr.toNat data.toNat s
/-- BCAST_ARMED. -/
def doBcastArmed (p : Path) (b : Bank) (addr : BitVec 10) (data : BitVec 16) (s : Dev) : Dev :=
  softCmd p b 5 0 addr.toNat data.toNat s

/-- FLUSH (R105): every queued group and the open group are discarded, with a bus reset. -/
def flushGroups (b : Nat) (s : Dev) : Dev := ampRefill b (busReset b (putFec b { getFec s b with groups := [], opn := [] } s))

/-- The target that SRC and INDEX name (Table 03-20). INDEX 16 to 63 with SRC 0b011 names no drill: the group is queued for a step
that never comes (DESIGN CHOICE, log entry 107). -/
def groupTarget (s : Dev) (b v : Nat) : Option (GrpTarget × Option Nat) :=
  match bits v 28 3 with
  | 0 => some (.none, none)
  | 1 => let t := rd64 s (A (fecPage b) 0x90)
         some (.ts t, some (t * 1024))
  | 2 => some (.furrow (bits v 16 6), none)
  | 3 => some (.drill (bits v 16 6), none)
  | _ => none

/-- A write of `v` to GRP_CTL (R97, R105): FLUSH, or CLOSE of the open group, or its fields alone. -/
def writeGrpCtl (b v : Nat) (s : Dev) : Dev :=
  let a := A (fecPage b) 0x8C
  if bit v 27 then flushGroups b (plainWrite a v s)
  else if bit v 31 && fecTakes s b then
    let x := getFec s b
    match groupTarget s b v with
    | some (target, time) =>
      if x.groups.length ≥ 8 then hit (A (fecPage b) 0x98) 30 s
      else checkDone b (putFec b { x with opn := [], groups := x.groups ++ [{ frames := x.opn, target, time }] } (plainWrite a v s))
    | none => hit (A (fecPage b) 0x98) 30 s
  else plainWrite a v s

/-- CLOSE. -/
def doClose (p : Path) (b : Bank) (v : Word) (s : Dev) : Dev :=
  onWrite p (A (fecPage b) 0x8C) (writeGrpCtl b (putBits (v.toNat ||| 0x80000000) 27 1 0)) s
/-- FLUSH. -/
def doFlush (p : Path) (b : Bank) (v : Word) (s : Dev) : Dev :=
  onWrite p (A (fecPage b) 0x8C) (writeGrpCtl b (putBits (v.toNat ||| 0x08000000) 31 1 0)) s

/-! ### Sending (R89, R97) -/

/-- The first frame of a group still to send, with the frames before and after it. -/
def nextFrame : List FecCmd → Option (List FecCmd × FecCmd × List FecCmd)
  | [] => none
  | c :: cs => if !c.acked && !c.fly then some ([], c, cs) else (nextFrame cs).map fun r => (c :: r.1, r.2.1, r.2.2)

/-- The frame that goes out next from FCK cycle `k` on, by priority, and the bus without it in its queue: the head group's frames,
which begin after the APPLY of the group before it, immediate commands, status polls. `sent` is the mc in which the frame will have
been sent. -/
def pickFrame (x : FecBus) (k sent : Nat) : Option (FecCmd × FecBus) :=
  let grp := match x.groups with
    | g :: gs =>
      if k < x.grpAt then none else (nextFrame g.frames).map fun r =>
        let c := { r.2.1 with fly := true, sent := true, seqno := x.seq, acked := noResponse r.2.1, ackT := sent }
        (c, { x with groups := { g with frames := r.1 ++ c :: r.2.2 } :: gs })
    | [] => none
  match grp, x.imm, x.polls with
  | some y, _, _ => some y
  | none, c :: cs, _ => some ({ c with seqno := x.seq }, { x with imm := cs })
  | none, [], c :: cs => some ({ c with seqno := x.seq }, { x with polls := cs })
  | none, [], [] => none

/-- FEC_FRAME_SEND (R97): the next frame leaves in the frame slot whose first bit is launched in this mc. -/
def doFecFrameSend (b : Bank) (s : Dev) : Dev :=
  let x := getFec s b
  let k := max x.freeAt (launchFrom (nowVs s))
  if !(pageOn s (fecPage b) && blkActive s (fecPage b)) || x.resetAt.isSome || nowVs s + 1024 ≤ fckFall (k - 1) then s
  else
    match pickFrame x k (fckFall (k + 47) / 1024) with
    | none => s
    | some (c, y) =>
      let y := { y with seq := (y.seq + 1) % 128, freeAt := k + 49, outs := if noResponse c then y.outs else y.outs ++ [(c, k)] }
      checkDone b (putFec b y (emit (.fcmd b (fckFall (k - 1)) (fecFrame c c.seqno)) s))

/-! ### Responses (R92 to R94, R100 to R103) -/

/-- A poll of chip `n` joins the status polls that wait (R102), unless the page drains (R105). The spec names no ADDR and
no DATA for a POLL that the device sends of itself: they carry FE_ALARM's address and 0 (DESIGN CHOICE, log entry 80). -/
def addPoll (b n : Nat) (s : Dev) : Dev :=
  let x := getFec s b
  if !fecTakes s b then s
  else setFec b { x with polls := x.polls ++ [{ chip := n, kind := 3, addr := 0x201, data := 0, src := 2 }] } s

/-- A field of ERR_COUNT gains 1. -/
def fecErr (b lo : Nat) (s : Dev) : Dev := incSat (A (fecPage b) 0xA0) lo 8 1 s

/-- The head group's frame that was sent with `seq` changes by `f`. -/
def onGroupFrame (b seq : Nat) (f : FecCmd → FecCmd) (s : Dev) : Dev :=
  match (getFec s b).groups with
  | g :: gs =>
    setFec b { getFec s b with groups := { g with frames := g.frames.map fun c => if c.fly && !c.acked && c.seqno == seq then f c else c } :: gs } s
  | [] => s

/-- Retries are exhausted (R101): the report, and the bus reset after which the head group's acknowledged
frames go out again; an FE_ID read causes no bus reset (R103). A frame sent again keeps the retries it has used: R100 allows
a command RETRY of them and names no fresh start (DEDUCED, log entry 81). -/
def exhausted (b : Nat) (c : FecCmd) (s : Dev) : Dev :=
  let s := raise (0x16 + 4 * b) 0 (irqSet (fecPage b) 8 (fecErr b 0 s))
  let s := if c.src = 0 then pushRsp b (c.chip * 2 ^ 27 + 7 * 2 ^ 24 + c.seqno * 2 ^ 16) s else s
  if c.src = 3 then s
  else
    let s := busReset b s
    match (getFec s b).groups with
    | g :: gs =>
      setFec b { getFec s b with groups := { g with done := none, frames := g.frames.map fun x =>
        if x.acked then { x with acked := false, fly := false, ackT := 0 } else x } :: gs } s
    | [] => s

/-- The oldest outstanding command has missed: it goes out again, or its retries are exhausted (R100); a page that drains
has stopped polling (R105). -/
def missed (b : Nat) (c : FecCmd) (s : Dev) : Dev :=
  if c.retries ≥ fget s (A (fecPage b) 0x80) 8 3 then exhausted b c s
  else
    let x := getFec s b
    let again := { c with retries := c.retries + 1 }
    if isArmed c.kind then onGroupFrame b c.seqno (fun y => { y with fly := false, retries := y.retries + 1 }) s
    else if c.src = 2 then (if fecTakes s b then setFec b { x with polls := again :: x.polls } s else s)
    else setFec b { x with imm := again :: x.imm } s

/-- A polled FE_ALARM value of chip `n` (R102, Table 18-1). -/
def alarmValue (b n v : Nat) (s : Dev) : Dev :=
  let s := wrN (A (fecPage b) (0xC0 + 4 * n)) v s
  let s := onlyIf (v != 0) (irqSet (fecPage b) 4) s
  onlyIf (bit v 13) (raiseOn (0x16 + 4 * b) 2 n) (onlyIf (bit v 14) (raiseOn (0x16 + 4 * b) 1 n) s)

/-- A good response with status code `code`, alert `al` and data `d` to command `c`, received in mc `m` (R92, R100, R102,
R103). A code that R92 does not list is no ACK, and is taken as a NAK (DESIGN CHOICE, log entry 82). -/
def answered (b : Nat) (c : FecCmd) (code : Nat) (al : Bool) (d m : Nat) (s : Dev) : Dev :=
  let s := onlyIf al (addPoll b c.chip) s
  let s := onlyIf (code != 0) (fecErr b 8) s
  let s := if c.src = 0 then pushRsp b (c.chip * 2 ^ 27 + code * 2 ^ 24 + b2n al * 2 ^ 23 + c.seqno * 2 ^ 16 + d) s else s
  let s := if c.kind = 3 && code = 0 then alarmValue b c.chip d s else s
  let s := if c.src = 3 then
      (if code = 0 && d ≠ 0 && d ≠ 0xFFFF then fset (A (fecPage b) 0xA4) c.chip 1 1 s else exhausted b c s)
    else s
  let s := if isArmed c.kind && code = 0 then onGroupFrame b c.seqno (fun y => { y with acked := true, ackT := m }) s else s
  checkDone b s

/-- The oldest outstanding command is taken from the list. -/
def popOut (b : Nat) (s : Dev) : Dev := setFec b { getFec s b with outs := (getFec s b).outs.tail } s

/-- FEC_RESPONSE (R92 to R94, R100): a response whose start bit is sampled on the `edge`-th rising edge after the
command's last bit. -/
def doFecResponse (b : Bank) (frame : BitVec 39) (edge : BitVec 5) (s : Dev) : Dev :=
  match (getFec s b).outs with
  | [] => s
  | (c, k) :: _ =>
    let f := frame.toNat
    let overT := fckRise (k + 47 + edge.toNat + 38) + fget s (A (fecPage b) 0x80) 12 4 * 1024
    if nowVs s + 1024 ≤ overT then s
    else
      let s := popOut b s
      if !bit f 38 || edge.toNat < 2 || edge.toNat > 8 then missed b c (fecErr b 16 s)
      else if crc8 30 (bits f 8 30) ≠ bits f 0 8 || bits f 35 3 ≠ c.chip || bits f 24 7 ≠ c.seqno then missed b c (fecErr b 24 s)
      else answered b c (bits f 31 3) (bit f 34) (bits f 8 16) (overT / 1024) s

/-- FEC_RESPONSE_TIMEOUT (R100): no response starts within the window of R94. -/
def doFecResponseTimeout (b : Bank) (s : Dev) : Dev :=
  match (getFec s b).outs with
  | [] => s
  | (c, k) :: _ =>
    if nowVs s + 1024 ≤ fckRise (k + 55) + fget s (A (fecPage b) 0x80) 12 4 * 1024 then s
    else missed b c (fecErr b 16 (popOut b s))

/-- STATUS_POLL (R102): the poll interval has passed. -/
def doStatusPoll (b : Bank) (s : Dev) : Dev :=
  let us := fget s (A (fecPage b) 0x80) 16 8
  if us = 0 || !fecTakes s b || now s < (getFec s b).nextPoll then s
  else
    let s := forAll ((List.range 8).filter fun n => fbit s (A (fecPage b) 0x80) n) (addPoll b) s
    setFec b { getFec s b with nextPoll := now s + us * 1600 } s

/-! ### Registers and enabling (R103, R105) -/

/-- The value that a read of FEC.RSP returns, and the FIFO after it. OVF clears with every such read, also of an empty FIFO (DESIGN
CHOICE, log entry 106). -/
def rspRead (b : Nat) (s : Dev) : Word × Dev :=
  let x := getFec s b
  match x.rsp with
  | w :: ws => (w ||| (if x.ovf then 0x40000000 else 0), setFec b { x with rsp := ws, ovf := false } s)
  | [] => (if x.ovf then 0x40000000 else 0, setFec b { x with ovf := false } s)

/-- A write of `v` to FEC.CFG: an APPLY_DLY above 112 is not taken and sets CFG_ERR (Table 03-17). -/
def writeFecCfg (b v : Nat) (s : Dev) : Dev :=
  let a := A (fecPage b) 0x80
  if bits v 24 7 > 112 then hit a 31 (plainWrite a (putBits v 24 7 (fget s a 24 7)) s) else plainWrite a v s

/-- EN of FEC page `b` goes from 0 to 1 (R103): the bus reset, and the FE_ID reads. SEEN records what this reading finds: it
starts at 0 each time (DEDUCED, log entry 83). -/
def fecEnable (b : Nat) (s : Dev) : Dev :=
  let cfg := rdN s (A (fecPage b) 0x80)
  let ids := ((List.range 8).filter (bit cfg)).map fun n => ({ chip := n, kind := 2, addr := 0x200, data := 0, src := 3 } : FecCmd)
  let s := fset (A (fecPage b) 0xA4) 0 8 0 (busReset b s)
  ampRefill b (setFec b { getFec s b with imm := (getFec s b).imm ++ ids, nextPoll := now s + bits cfg 16 8 * 1600 } s)

/-- The target of a group has come: a group with no target is due as soon as it is complete. -/
def groupDue (s : Dev) (g : Group) : Bool :=
  match g.time with
  | some t => decide (t ≤ nowVs s)
  | none => g.target == .none

/-- EN of FEC page `b` goes from 1 to 0 (R105): groups whose target has not come are discarded, with a bus reset: at once
where the head group is among them or none is left, and after the last APPLY where the head group is kept, since the reset
would take its armed writes from the front ends (DEDUCED, log entry 84). -/
def fecDrain (b : Nat) (s : Dev) : Dev :=
  let x := getFec s b
  let keep := x.groups.filter (groupDue s)
  let head := match x.groups with | g :: _ => groupDue s g | [] => false
  let s := putFec b { x with groups := keep, opn := [], polls := [] } s
  if head then (if keep.length = x.groups.length && x.opn.isEmpty then s else setFec b { getFec s b with rstDue := true } s)
  else checkDone b (busReset b s)

/-- A block reset of FEC page `b`: queues and FIFOs are empty, and FSYNC is low, once a bus reset in progress has had its 16 cycles
(R88, R90). -/
def fecReset (b : Nat) (s : Dev) : Dev :=
  match (getFec s b).resetAt with
  | some k => setFec b { syncAt := k + 17 } (emit (.freset b (max (nowVs s) (fckFall (k + 15))) false) s)
  | none => setFec b { syncAt := (getFec s b).syncAt } s

/-- The bus has no work left, and the last frame and APPLY have left it (R90, R105). -/
def fecIdle (s : Dev) (b : Nat) : Bool :=
  let x := getFec s b
  x.imm.isEmpty && x.groups.isEmpty && x.outs.isEmpty && x.resetAt.isNone
    && decide (max x.freeAt x.syncAt ≤ launchFrom (nowVs s))

end Sys2Proof.Machine
end

