-- ==== Sys2Proof/Machine/Fetch.lean ====
section
/-! DEFINITION. Instruction fields, the hopper, the loop cache and the prefetch walk (Furrow programs,
Instruction format; Stored rows and streaming, The hopper and The loop cache). -/
namespace Sys2Proof.Machine

/-! ### Instruction fields (Tables 06-3 and 06-5) -/

/-- A field of an instruction word. -/
def wf (w : BitVec 64) (lo n : Nat) : Nat := bits w.toNat lo n
/-- OP. -/
def opOf (w : BitVec 64) : Nat := wf w 58 6
/-- END. -/
def endOf (w : BitVec 64) : Nat := wf w 44 2
/-- CR. -/
def crOf (w : BitVec 64) : Bool := wf w 43 1 == 1
/-- TARGET. -/
def targetOf (w : BitVec 64) : Nat := wf w 0 24
/-- COND. -/
def condOf (w : BitVec 64) : Nat := wf w 34 5
/-- SEL. -/
def selOf (w : BitVec 64) : Nat := wf w 28 6

/-- A condition decided when the BR is issued (Table 06-8). -/
def immCond (c : Nat) : Bool := c == 0 || c == 13 || c == 14 || c == 15 || c == 16

/-- Rows an EMIT, RPT or AGEN emits, 1 for the rest (Table 06-4). -/
def rowsOfInstr (w : BitVec 64) : Nat :=
  if opOf w = 1 then wf w 0 10 + 1 else if opOf w = 2 then wf w 0 32 else if opOf w = 3 then wf w 0 16 + 1 else 1

/-- The instruction reads rows at the stored cursor (R216). -/
def readsRows (w : BitVec 64) : Bool :=
  if opOf w = 1 then true else if opOf w = 2 || opOf w = 13 then false else if opOf w = 3 then wf w 24 1 == 1 else !crOf w

/-! ### FUR registers -/

/-- PROG_LEN. -/
def progLen (s : Dev) (e : Nat) : Nat := fget s (fa e 0x94) 0 25
/-- TS_BASE, for a row fetched in mc `F`. -/
def tsBase (s : Dev) (F e : Nat) : Nat := bits (rdAt s F (fa e 0x3F0)) 0 7
/-- The effective set of index `x` (R115). -/
def effSet (s : Dev) (F e x : Nat) : Nat := (tsBase s F e + x) % 128
/-- The length in vs of a row of set `j` (R115). -/
def perLen (s : Dev) (F e j : Nat) : Nat := rdAt s F (fa e (0x400 + 8 * j)) * 1024 + bits (rdAt s F (fa e (0x404 + 8 * j))) 0 10
/-- CNT[0..3]. -/
def cntList (s : Dev) (F e : Nat) : List Nat := (List.range 4).map fun n => rdAt s F (fa e (0xE0 + 4 * n))
/-- The mc in which the fetch stage of engine `e`'s next row begins. -/
def nextFetch (s : Dev) (e : Nat) : Nat := fetchMc (getFur s e).tNext

/-- Bytes of a stored row in the hopper (R216). -/
def rowBytes (f : Furrow) : Nat := cdiv (3 * f.slots.length) 64 * 8
/-- Bytes of an entry. -/
def entBytes (f : Furrow) : HopEnt → Nat
  | .word _ _ _ => 8
  | .row _ _ _ => rowBytes f
/-- Bytes of a list of entries. -/
def entsBytes (f : Furrow) (l : List HopEnt) : Nat := l.foldl (fun n x => n + entBytes f x) 0

/-- FUR.STAT, HOP_STAT and LC_STAT show the hidden state. -/
def showFur (e : Nat) (s : Dev) : Dev :=
  let f := getFur s e
  let s := fset (fa e 0x84) 11 3 f.pend.length (fset (fa e 0x84) 7 4 f.loops.length (fset (fa e 0x84) 0 5 f.calls.length s))
  let s := fset (fa e 0x21C) 16 9 (entsBytes f f.hop / 1024) (fset (fa e 0x21C) 0 5 f.pins.length s)
  let s := fset (fa e 0x21C) 31 1 (b2n f.epi.isSome) s
  fset (fa e 0x228) 16 7 (cdiv ((f.pins.map (·.bytes)).foldl (· + ·) 0) 1024) s

/-- The hidden state of engine `e` replaced, its registers following. -/
def putFur (e : Nat) (f : Furrow) (s : Dev) : Dev := showFur e (setFur e f s)

/-! ### The walk (R217) -/

/-- The walk ends after the rows left. -/
def walkEnd (k : Walk) : Walk := { k with stopped := true }

/-- The walk passes on to index `i`, or ends where no instruction is. -/
def walkTo (n i : Nat) (k : Walk) : Walk := if i < n then { k with pc := i } else walkEnd k

/-- The end code of the instruction at `i` on the walk. -/
def walkEndCode (n i c : Nat) (k : Walk) : Walk :=
  if c = 1 then
    match k.loops with
    | (m, st) :: rest => if m ≠ 1 then walkTo n st { k with loops := (m - 1, st) :: rest } else walkTo n (i + 1) { k with loops := rest }
    | [] => walkEnd k
  else if c = 2 then
    match k.calls with
    | r :: rest => walkTo n r { k with calls := rest }
    | [] => walkEnd k
  else walkTo n (i + 1) k

/-- The walk passes the instruction `w` at its program counter in a program of `n` instructions. -/
def walkApply (n : Nat) (w : BitVec 64) (k : Walk) : Walk :=
  let i := k.pc
  let k := { k with left := if readsRows w then rowsOfInstr w else 0 }
  match opOf w with
  | 1 => walkEndCode n i (endOf w) { k with tile := wf w 22 22, row := wf w 10 12 }
  | 2 | 3 | 4 | 17 => walkEndCode n i (endOf w) k
  | 16 =>
    let k := if wf w 36 4 < 4 then { k with cnt := setNth k.cnt (wf w 36 4) (wf w 0 32) } else k
    walkEndCode n i (endOf w) k
  | 8 => walkTo n (targetOf w) k
  | 9 => if k.calls.length < 16 then walkTo n (targetOf w) { k with calls := (i + 1) :: k.calls } else walkEnd k
  | 10 => if k.loops.length < 8 then walkTo n (i + 1) { k with loops := (wf w 0 32, i + 1) :: k.loops } else walkEnd k
  | 11 =>
    let c := nth 0 k.cnt (selOf w)
    let taken := condOf w == 0 || (condOf w == 13 && c != 0) || (condOf w == 14 && c == 0)
    let k := if (condOf w == 13 || condOf w == 14) && wf w 39 1 == 1 then { k with cnt := setNth k.cnt (selOf w) (c - 1) } else k
    if taken then
      if wf w 41 1 = 1 then (if k.calls.length < 16 then walkTo n (targetOf w) { k with calls := (i + 1) :: k.calls } else walkEnd k)
      else walkTo n (targetOf w) k
    else walkTo n (i + 1) k
  | 12 | 13 => walkTo n (i + 1) k
  | _ => walkEnd k

/-- Where the cursor stands after row `r` of a tile of `rows` rows that `next` follows (R176). -/
def advance (t r rows next : Nat) : Nat × Nat := if r + 1 < rows then (t, r + 1) else (next, 0)

/-- BAR0-independent address of program word `i`. -/
def wordAddr (s : Dev) (e i : Nat) : Nat := rd64 s (fa e 0xA0) + 8 * i
/-- Program word `i` as memory holds it. -/
def memWord (s : Dev) (e i : Nat) : BitVec 64 := BitVec.ofNat 64 (memNat s (wordAddr s e i) 8)
/-- Every byte of a range can be read (R518, R522). -/
def rangeGood (s : Dev) : Nat → Nat → Bool
  | _, 0 => true
  | a, n + 1 => memGood s a && rangeGood s (a + 1) n
/-- Address of tile `t` of engine `e` (R204). -/
def tileAddr (s : Dev) (e t : Nat) : Nat := rd64 s (fa e 0xA8) + 4096 * t
/-- FUR.TILE_LIMIT. -/
def tileLimit (s : Dev) (e : Nat) : Nat := fget s (fa e 0x204) 0 23

/-- A tile as engine `e` knows it under a limit: read and checked, or beyond the limit (R212). -/
def tileUnder (s : Dev) (lim e t : Nat) : Option Tile :=
  if t ≥ lim then some { cause := 8, rows := 0, next := t + 1, runs := [] }
  else (getFur s e).tiles.findSome? fun p => if p.1 = t then some p.2 else none

/-- A tile as engine `e` knows it now. -/
def tileOf (s : Dev) (e t : Nat) : Option Tile := tileUnder s (tileLimit s e) e t

/-- Rows and successor of a tile, from the tile as read, else from its header in memory. -/
def tileHead (s : Dev) (e t : Nat) : Nat × Nat :=
  match tileOf s e t with
  | some x => (x.rows, x.next)
  | none => (memNat s (tileAddr s e t + 8) 4, tileNext (memBytes s (tileAddr s e t) 0x40) t)

/-! ### Pins (R224 to R227) -/

/-- The rows that an instruction reads from the cursor, and the cursor after them. -/
def pinRows (s : Dev) (e : Nat) : Nat → Nat → Nat → List (Nat × Nat) × Nat × Nat
  | 0, t, r => ([], t, r)
  | n + 1, t, r =>
    let (rows, next) := tileHead s e t
    let (t', r') := advance t r rows next
    let (xs, p) := pinRows s e n t' r'
    ((t, r) :: xs, p)

/-- Program word `i` as an entry that comes now. -/
def wordEnt (s : Dev) (e i : Nat) : HopEnt := .word i (some (memWord s e i, !rangeGood s (wordAddr s e i) 8)) (now s)
/-- Rows as entries that come now. -/
def rowEnts (s : Dev) (l : List (Nat × Nat)) : List HopEnt := l.map fun x => .row x.1 x.2 (now s)

/-- The body of a cacheable loop from index `i` at nesting `d`: its entries, the index of its LEND, and what it leaves of the
counters `cnt` and the cursor `cur` (R217, R225); none when it is not cacheable. No loop of more than 8,192 words fits
the loop cache. -/
def scanBody (s : Dev) (e : Nat) : Nat → Nat → Nat → List Nat → Option (Nat × Nat) → Option (List HopEnt × Nat × List Nat × Option (Nat × Nat))
  | 0, _, _, _, _ => none
  | fuel + 1, i, d, cnt, cur =>
    let w := memWord s e i
    let op := opOf w
    let okOp := op == 1 || op == 2 || op == 3 || op == 4 || op == 10 || op == 16 || op == 17
    let badRow := if op = 1 || op = 2 then false else readsRows w
    if i ≥ progLen s e || !okOp || badRow then none
    else
      let rows := if op = 1 then pinRows s e (rowsOfInstr w) (wf w 22 22) (wf w 10 12) else ([], 0, 0)
      let ents := wordEnt s e i :: rowEnts s rows.1
      let cur := if op = 1 then some rows.2 else cur
      let cnt := if op = 16 && wf w 36 4 < 4 then setNth cnt (wf w 36 4) (wf w 0 32) else cnt
      if endOf w = 1 && op ≠ 10 && d = 0 then some (ents, i, cnt, cur)
      else
        match scanBody s e fuel (i + 1) (if op = 10 then d + 1 else if endOf w = 1 then d - 1 else d) cnt cur with
        | some (xs, p) => some (ents ++ xs, p)
        | none => none

/-- A branch with a target pin: a sampled BR, or one on TMO or NOTMO (R226). -/
def pinsTarget (w : BitVec 64) : Bool := opOf w == 11 && (!immCond (condOf w) || condOf w == 15 || condOf w == 16)

/-- The walk as it enters the target of the branch `w` at index `i`, once the branch's carried row has been read. -/
def targetWalk (s : Dev) (e i : Nat) (w : BitVec 64) (k : Walk) : Walk :=
  let (_, tile, row) := pinRows s e (if readsRows w then 1 else 0) k.tile k.row
  { k with pc := targetOf w, calls := if wf w 41 1 = 1 then (i + 1) :: k.calls else k.calls, tile, row, left := 0, stopped := false }

/-- The target path of a branch in predicted order until `left` vs of nominal row time are used, or up to a
HALT, WAIT or sampled BR, which ends it (R226): its entries, the walk after it, and the branches in it that have target
pins of their own, each with the walk at it. A row takes at least 1 mc, so that the time bounds the recursion. -/
def scanPath (s : Dev) (e : Nat) : Nat → Nat → Walk → List HopEnt × Walk × List (Nat × BitVec 64 × Walk)
  | 0, _, k => ([], k, [])
  | fuel + 1, left, k =>
    if left = 0 || k.stopped || k.pc ≥ progLen s e then ([], k, [])
    else
      let w := memWord s e k.pc
      let op := opOf w
      let k' := walkApply (progLen s e) w k
      let len := perLen s (now s + 1) e (effSet s (now s + 1) e (wf w 51 7))
      let n := if op = 12 then 1 else rowsOfInstr w
      let m := if n * len ≤ left then n else cdiv left len
      let (rows, t, r) := pinRows s e (min k'.left m) k'.tile k'.row
      let k' := { k' with tile := t, row := r, left := k'.left - m }
      let last := op = 63 || op = 12 || (op = 11 && !immCond (condOf w))
      let (xs, k'', brs) := scanPath s e fuel (if last then 0 else left - n * len) k'
      (wordEnt s e k.pc :: rowEnts s rows ++ xs, k'', (if pinsTarget w then [(k.pc, w, k)] else []) ++ brs)

/-- The target path from the walk `k` with the LEAD_MC in force (R226, R228). -/
def targetPath (s : Dev) (e : Nat) (k : Walk) : List HopEnt × Walk × List (Nat × BitVec 64 × Walk) :=
  let left := bits (getFur s e).lcCfg 0 24 * 1024
  scanPath s e (left + 1) left k

/-- The walk from `k` through the entries of a pin, where they are what it meets in order (R217, R226). -/
def followPin (s : Dev) (e : Nat) : List HopEnt → Walk → Option Walk
  | [], k => some k
  | .word i d _ :: xs, k =>
    if k.left = 0 && !k.stopped && k.pc = i then
      match d with
      | some (w, false) => followPin s e xs (walkApply (progLen s e) w k)
      | some (_, true) => if xs.isEmpty then some (walkEnd k) else none
      | none => none
    else none
  | .row t r _ :: xs, k =>
    if k.left > 0 && k.tile = t && k.row = r then
      let (rows, next) := tileHead s e t
      let (t', r') := advance t r rows next
      followPin s e xs { k with left := k.left - 1, tile := t', row := r' }
    else none

/-- What an entry names. -/
def entKey : HopEnt → Nat × Nat × Bool
  | .word i _ _ => (i, 0, true)
  | .row t r _ => (t, r, false)

/-- Indexes that instructions from the one at the issue point to the walk name: pins they own are not released, nor the pin that
serves (R227). -/
def pinBusy (f : Furrow) (p : Pin) : Bool :=
  (f.hop ++ f.path).any (fun x => match x with | .word i _ _ => i == p.owner | _ => false) || f.loops.any (fun l => l.2 == p.start)
    || f.pend.any (fun b => b.idx == p.owner) || f.cur.any (fun c => c.2.1 == p.owner) || f.srv == some p.no

/-- `n` more bytes fit beside the pins `ps`. -/
def pinFits (n : Nat) (ps : List Pin) : Bool := decide ((ps.map (·.bytes)).foldl (· + ·) 0 + n ≤ 65536)

/-- The pins of lead `f` that stay once pins are released in least-recently-used order until `fits` holds of the numbers of those that
stay; none when that cannot be, or when 16 pins exist (R227). -/
def pinRoom (f : Furrow) (fits : List Nat → Bool) : Nat → List Pin → Option (List Nat)
  | 0, _ => none
  | fuel + 1, ps =>
    if ps.length ≥ 16 then none
    else if fits (ps.map (·.no)) then some (ps.map (·.no))
    else
      let free := ps.filter fun p => !pinBusy f p
      match free with
      | [] => none
      | q :: qs =>
        let v := qs.foldl (fun a b => if b.used < a.used then b else a) q
        pinRoom f fits fuel (ps.filter fun p => p.no != v.no)

/-- The entries of a pin that engine `m` keeps: a yoke member keeps the rows only (R223). -/
def pinEnts (e m : Nat) (ents : List HopEnt) : List HopEnt :=
  if m = e then ents else ents.filter fun x => match x with | .row _ _ _ => true | _ => false

/-- The pin for the instruction at `owner` with these entries exists. -/
def hasPin (f : Furrow) (owner : Nat) (body : Bool) (ents : List HopEnt) : Bool :=
  f.pins.any fun p => p.owner == owner && p.body == body && p.ents.map entKey == ents.map entKey

/-- A pin made for the instruction at `owner`, unless it exists or has no room; a yoke makes and releases a pin on every engine or on
none (R223, R225 to R227; DESIGN CHOICE, log entry 78). Its words count as read from memory. -/
def makePin (e owner : Nat) (body : Bool) (start : Nat) (ents : List HopEnt) (s : Dev) : Dev :=
  if hasPin (getFur s e) owner body ents then s
  else
    let es := yokeEngs s e
    let kept := fun (nos : List Nat) m => (getFur s m).pins.filter fun p => nos.contains p.no
    let fits := fun nos => es.all fun m => pinFits (entsBytes (getFur s m) (pinEnts e m ents)) (kept nos m)
    match pinRoom (getFur s e) fits 17 (getFur s e).pins with
    | some nos =>
      let no := ((getFur s e).pins.map (·.no)).foldl max 0 + 1
      let words := (ents.filter fun x => match x with | .word _ _ _ => true | _ => false).length
      inc64 (fa e 0x238) (8 * words) (forAll es (fun m s =>
        let f := getFur s m
        let own := pinEnts e m ents
        putFur m { f with pins := kept nos m ++ [{ owner, body, start, ents := own, bytes := entsBytes f own, used := now s, no }] } s) s)
    | none => forAll es (fun m => hit (fa m 0x21C) 29) s

/-- Target pins for the branches of a list, and for those inside the pins made (R226). -/
def targetPins (e : Nat) : Nat → List (Nat × BitVec 64 × Walk) → Dev → Dev
  | 0, _, s => s
  | _, [], s => s
  | fuel + 1, (i, w, k) :: rest, s =>
    let (ents, _, brs) := targetPath s e (targetWalk s e i w k)
    let had := hasPin (getFur s e) i false ents
    let s := makePin e i false (targetOf w) ents s
    targetPins e fuel (if !had && hasPin (getFur s e) i false ents then rest ++ brs else rest) s

/-! ### Prefetching -/

/-- The furrow is PRIMING, ARMED or RUNNING. -/
def furActive (s : Dev) (e : Nat) : Bool := furState s e == 1 || furState s e == 2 || furState s e == 3

/-- The walk goes past the LEND at index `j` of a loop that a pin holds: its counters are those the loop leaves, and its cursor, once
a row of the LOOP itself has been requested, too (R217). -/
def walkPast (n j : Nat) (cnt : List Nat) (cur : Option (Nat × Nat)) (k : Walk) : Walk :=
  let k := walkTo n (j + 1) { k with loops := k.loops.drop 1, cnt }
  match cur with
  | some c => if k.left = 0 then { k with tile := c.1, row := c.2 } else { k with curAfter := some c }
  | none => k

/-- A word that has returned is walked: pins are made and the walk moves on (R217, R225, R226). -/
def walkWord (e i : Nat) (w : BitVec 64) (err : Bool) (s : Dev) : Dev :=
  let k := (getFur s e).walk
  let k' := walkApply (progLen s e) w k
  if err then setFur e { getFur s e with walk := walkEnd k } s
  else if opOf w = 10 && bit (getFur s e).lcCfg 31 then
    match scanBody s e 8193 (i + 1) 0 k'.cnt none with
    | some (ents, j, cnt, cur) =>
      let s := makePin e i true (i + 1) ents s
      let k2 := if hasPin (getFur s e) i true ents && !k'.stopped then walkPast (progLen s e) j cnt cur k' else k'
      setFur e { getFur s e with walk := k2 } s
    | none => setFur e { getFur s e with walk := k' } s
  else
    let s := if pinsTarget w && bit (getFur s e).lcCfg 30 then targetPins e 1048576 [(i, w, k)] s else s
    setFur e { getFur s e with walk := k' } s

/-- The hopper has room for `n` more bytes (R216). -/
def hopRoom (f : Furrow) (n : Nat) : Bool := entsBytes f f.hop + n ≤ 262144

/-- The walk after one more row has been requested at the cursor (`t`, `r`). -/
def rowWalked (k : Walk) (t r : Nat) : Walk :=
  let k := { k with left := k.left - 1, tile := t, row := r }
  match k.curAfter with
  | some c => if k.left = 0 then { k with tile := c.1, row := c.2, curAfter := none } else k
  | none => k

/-- SCHED.PEAK takes the tags in use now. -/
def tagNote (s : Dev) : Dev := tagMark (tagsNow s) s

/-- Engine `e` requests tile `t`, unless it has done so: the request waits while its 64 accesses do not find tags, and while a channel
drains towards its map-out (R521, R526). -/
def tileAsk (e t : Nat) (s : Dev) : Dev :=
  if (getFur s e).asked.contains t || tagRoom s .rows < 64 || (List.range 8).any (memDrains s) then s
  else tagNote (setFur e { getFur s e with asked := (getFur s e).asked ++ [t] } s)

/-- The tile `t` as the walk of engine `e` reads its rows now: none until it has been read, which every entry into a tile asks for
(R217, R241; DEDUCED, log entry 99). -/
def walkTile (s : Dev) (e t : Nat) : Option Tile :=
  let f := getFur s e
  if t < tileLimit s e && f.wtile != some t then none
  else match f.reBad with
    | some (u, c) => if u = t then some { cause := c, rows := 0, next := t + 1, runs := [] } else tileOf s e t
    | none => tileOf s e t

/-- One step of the walk of lead or solo engine `e`: the next stored row, or a request for the next word
(R217). A row of a tile that has not returned waits for the tile, which is requested. A word waits in the same way for a tag
(R526). Yoke members have to fetch the row too (R223). -/
def walkStep (e : Nat) (s : Dev) : Dev :=
  let f := getFur s e
  let k := f.walk
  if k.left > 0 then
    match walkTile s e k.tile with
    | none => tileAsk e k.tile s
    | some x =>
      if !hopRoom f (rowBytes f) then s
      else
        let hop := f.hop ++ [.row k.tile k.row (now s)]
        let s := forAll (yokeMembers s e) (fun m s => setFur m { getFur s m with want := (getFur s m).want ++ [(k.tile, k.row)] } s) s
        if x.cause ≠ 0 || k.row ≥ x.rows then putFur e { f with hop, walk := { k with left := 0, stopped := true } } s
        else
          let (t, r) := advance k.tile k.row x.rows x.next
          putFur e { f with hop, walk := rowWalked k t r } s
  else if k.stopped then s
  else if f.hop.any (fun x => match x with | .word _ none _ => true | _ => false) then s
  else if !hopRoom f 8 || tagRoom s .rows = 0 || memDrains s (memChannel s (wordAddr s e k.pc)) then s
  else tagNote <| putFur e { f with hop := f.hop ++ [.word k.pc none (now s)] } s

/-- A yoke member takes the next row of the lead's walk into its hopper, once its own tile has been read (R223). -/
def memberStep (m : Nat) (s : Dev) : Dev :=
  let f := getFur s m
  match f.want with
  | [] => s
  | (t, r) :: rest =>
    if (walkTile s m t).isNone then tileAsk m t s
    else if !hopRoom f (rowBytes f) then s
    else putFur m { f with hop := f.hop ++ [.row t r (now s)], want := rest } s

/-- PREFETCH_WALK on engine `e`. -/
def doPrefetchWalk (e : Fin 66) (s : Dev) : Dev :=
  if !furActive s e then s else if yokeRole s e = 2 then memberStep e s else walkStep e s

/-- The word entry of index `i` that waits for its data takes it in mc `t`. -/
def fillWord (i t : Nat) (d : BitVec 64 × Bool) : List HopEnt → List HopEnt
  | [] => []
  | .word j none t0 :: xs => if i = j then .word j (some d) t :: xs else .word j none t0 :: fillWord i t d xs
  | x :: xs => x :: fillWord i t d xs

/-- The index of the instruction word that the hopper of engine `e` waits for. -/
def wordWaited (s : Dev) (e : Nat) : Option Nat := wordAsked (getFur s e)

/-- Every byte of a range that was requested before now can be read (R518, R521, R522). -/
def rangeServed (s : Dev) : Nat → Nat → Bool
  | _, 0 => true
  | a, n + 1 => memInside s a && !memOutAt s a && rangeServed s (a + 1) n

/-- INSTRUCTION_WORD_READ: the requested word returns from memory, with the event's uncorrectable error or
that of a poisoned address, and the walk passes it (R216). -/
def doInstructionWordRead (e : Fin 66) (err : Bool) (s : Dev) : Dev :=
  let f := getFur s e
  match wordWaited s e with
  | some i =>
    if furActive s e && !memHolds s (wordAddr s e i) 8 then
      let bad := err || !rangeServed s (wordAddr s e i) 8
      let w := memWord s e i
      let s := setFur e { f with hop := fillWord i (now s) (w, bad) f.hop } s
      showFur e (inc64 (fa e 0x238) 8 (walkWord e i w bad (outCount (wordAddr s e i) 8 s)))
    else s
  | none => s

/-- A tile that has returned: kept, unless it was known, in which case only a failure is noted; the walk may read on in one that it
has asked for. -/
def tileCome (t : Nat) (asked : Bool) (x : Tile) (f : Furrow) : Furrow :=
  let d : Tile := { cause := 9, rows := 0, next := 0, runs := [] }
  let f := if asked then { f with wtile := some t } else f
  if f.tiles.any fun p => p.1 == t then (if x.cause ≠ 0 then { f with reBad := some (t, x.cause) } else f)
  else { f with tiles := mset (fun _ => d) t x f.tiles }

/-- TILE_READ: a tile returns from memory and is checked in full (R212); its tags are free again. A tile that no walk has
requested, a row of a pin's, is requested and returns here (DESIGN CHOICE, log entry 94). Of a tile read again the entries made
before stay as they were fetched (R219). -/
def doTileRead (e : Fin 66) (tile : BitVec 22) (err : Bool) (s : Dev) : Dev :=
  let t := tile.toNat
  let asked := (getFur s e).asked.contains t
  if furActive s e && ((tileOf s e t).isNone || asked) && !memHolds s (tileAddr s e t) 4096 then
    let a := tileAddr s e t
    let x : Tile := if err || !(if asked then rangeServed s a 4096 else rangeGood s a 4096) then { cause := 7, rows := 0, next := t + 1, runs := [] }
      else tileParse (getFur s e).slots.length t (memBytes s a 4096)
    putFur e (tileCome t asked { x with since := now s } { getFur s e with asked := (getFur s e).asked.filter (· ≠ t) })
      (inc64 (fa e 0x238) 4096 (outCount a 4096 (onlyIf (!asked) (tagPass .rows a 4096) s)))
  else s

/-! ### Taking entries at the fetch stage -/

/-- The word of index `i` in a list of entries, when its data was there in mc `F` (R232). -/
def wordIn (F i : Nat) (l : List HopEnt) : Option (BitVec 64 × Bool) :=
  l.findSome? fun x => match x with | .word j d t => if j = i && t ≤ F then d else none | _ => none

/-- Row `r` of tile `t` was in a list of entries in mc `F`. -/
def rowIn (F t r : Nat) (l : List HopEnt) : Bool := l.any fun x => match x with | .row a b u => a == t && b == r && u ≤ F | _ => false

/-- The entries after the first that satisfies `p`. -/
def afterFirst (p : HopEnt → Bool) : List HopEnt → Option (List HopEnt)
  | [] => none
  | x :: xs => if p x then some xs else afterFirst p xs

/-- The body pins of `f` that serve now: those of the open loops of lead `l` (R225). -/
def bodyPins (l f : Furrow) : List Pin := f.pins.filter fun p => p.body && l.loops.any fun x => x.2 == p.start

/-- Pins that serve an entry are marked as used now. -/
def touchPins (t : Nat) (p : Pin → Bool) (f : Furrow) : Furrow :=
  { f with pins := f.pins.map fun q => if p q then { q with used := t } else q }

/-- The next entry that the serving target pin has to serve is the one that `key` names (R226). -/
def pathNext (f : Furrow) (key : Nat × Nat × Bool) : Bool := (f.path.take 1).any fun x => entKey x == key

/-- The serving target pin has served its next entry, in mc `t`; at its end it serves no more. -/
def pathStep (t : Nat) (f : Furrow) : Furrow :=
  { touchPins t (fun q => f.srv == some q.no) f with path := f.path.drop 1, srv := if f.path.length ≤ 1 then none else f.srv }

/-- The hopper serves: its content from the entry taken on, and no target pin any more; the refill of lead `f` has reached the path. -/
def fromHop (rest : List HopEnt) (f : Furrow) : Furrow := { f with hop := rest, path := [], srv := none, miss := false }

/-- The word of index `i` taken by the fetch stage in mc `F`: from the target pin that serves, in order; from the hopper's front; from
the body pin of an open loop; else from further back in the hopper. None when it is missing (R225, R226, R232). -/
def takeWord (e i F : Nat) (s : Dev) : Option ((BitVec 64 × Bool) × Dev) :=
  let f := getFur s e
  if pathNext f (i, 0, true) then (wordIn F i (f.path.take 1)).map fun d => (d, setFur e (pathStep (now s) f) s)
  else
    match wordIn F i (f.hop.take 1), (bodyPins f f).findSome? (fun p => wordIn F i p.ents), wordIn F i f.hop with
    | some d, _, _ => some (d, setFur e (fromHop (f.hop.drop 1) f) s)
    | _, some d, _ => some (d, setFur e (touchPins (now s) (fun q => q.body && (wordIn F i q.ents).isSome) f) s)
    | _, _, some d => some (d, setFur e (fromHop ((afterFirst (fun x => match x with | .word j _ _ => j == i | _ => false) f.hop).getD []) f) s)
    | _, _, _ => none

/-- Row (`t`, `r`) taken by the fetch stage of engine `m` of the yoke of `e` in mc `F`, in the order of `takeWord`; none when it is
missing. -/
def takeRow (e m t r F : Nat) (s : Dev) : Option Dev :=
  let f := getFur s m
  if pathNext f (t, r, false) then (if rowIn F t r (f.path.take 1) then some (setFur m (pathStep (now s) f) s) else none)
  else if rowIn F t r (f.hop.take 1) then some (setFur m (fromHop (f.hop.drop 1) f) s)
  else if (bodyPins (getFur s e) f).any fun p => rowIn F t r p.ents then
    some (setFur m (touchPins (now s) (fun q => q.body && rowIn F t r q.ents) f) s)
  else if rowIn F t r f.hop then
    some (setFur m (fromHop ((afterFirst (fun x => match x with | .row a b _ => a == t && b == r | _ => false) f.hop).getD []) f) s)
  else none

/-- The failure of a tile read again, for the row at which the walk has stopped for it: the last entry of the hopper (R212, R218). -/
def rowBad (e m t r F : Nat) (s : Dev) : Option Nat :=
  let f := getFur s m
  match f.reBad with
  | some (u, c) =>
    if u = t && !pathNext f (t, r, false) && rowIn F t r (f.hop.drop (f.hop.length - 1)) && (takeRow e m t r F s).any (fun s' => (getFur s' m).hop.isEmpty)
    then some c else none
  | none => none

/-- The CAUSE of a starve (R238, R240, Table 07-4): PIN_MISS after a taken branch until the refill reaches the path, but REFILL
for an entry that a serving pin holds and that has not come yet. -/
def starveCause (f : Furrow) (key : Nat × Nat × Bool) : Nat :=
  if f.miss && !(pathNext f key || (bodyPins f f).any fun p => p.ents.any fun x => entKey x == key) then 2 else 1

/-- The walk restarts at a taken branch at `idx` from `k` (R217). Of the branch's target pins the newest whose entries are those that
the walk meets from `k` serves, on every engine, while the hopper refills from the pin's end; without one the path comes
through the hopper alone (R226, R227, R240). -/
def restartWalk (e idx : Nat) (k : Walk) (s : Dev) : Dev :=
  let pin := (getFur s e).pins.reverse.findSome? fun p => if p.owner = idx && !p.body then (followPin s e p.ents k).map fun x => (p.no, x) else none
  let start := fun (m : Nat) (s : Dev) =>
    let f := getFur s m
    let ents := match pin with
      | some (n, _) => (f.pins.filter fun p => p.no == n).flatMap (·.ents)
      | none => []
    setFur m { f with hop := [], want := [], path := ents, srv := if ents.isEmpty then none else pin.map (·.1), reBad := none,
                      walk := if m = e then (match pin with | some (_, x) => x | none => k) else f.walk, miss := true } s
  forAll (yokeEngs s e) start s

end Sys2Proof.Machine
end

