-- ==== Sys2Proof/Machine/Prog.lean ====
section
/-! DEFINITION. Furrow programs: legality and faults of instructions, rows and their sources, control
transfers, branches, waits, loops and calls, and the issue of the next row (Furrow programs). -/
namespace Sys2Proof.Machine

/-! ### Legality (R178, R186, R202) -/

/-- Reserved operand bits of an instruction are 0 (Table 06-5, Table 06-6). -/
def reservedOk (w : BitVec 64) : Bool :=
  match opOf w with
  | 2 => wf w 32 12 == 0
  | 3 => wf w 16 8 == 0
  | 4 => wf w 38 5 == 0
  | 8 | 9 => wf w 24 19 == 0
  | 10 => wf w 32 11 == 0
  | 11 => wf w 24 4 == 0
  | 12 => wf w 39 2 == 0
  | 13 => wf w 0 44 == 0
  | 16 => wf w 40 3 == 0 && wf w 32 4 == 0 &&
      (match wf w 36 4 with
        | 4 => wf w 7 25 == 0
        | 5 | 8 => wf w 0 32 == 0
        | 6 => wf w 20 12 == 0
        | 7 => wf w 6 25 == 0
        | _ => true)
  | 17 => wf w 32 11 == 0
  | 63 => wf w 0 43 == 0
  | _ => true

/-- An opcode of Table 06-4. -/
def opKnown (op : Nat) : Bool := (1 ≤ op && op ≤ 4) || (8 ≤ op && op ≤ 13) || op == 16 || op == 17 || op == 63

/-- END is allowed on the opcode (Table 06-4). -/
def endAllowed (op : Nat) : Bool := op ≤ 4 || op == 16 || op == 17

/-- SEL is in the range that Table 06-8 gives for the condition. -/
def selOk (c sel : Nat) : Bool :=
  if c == 7 || c == 8 then sel < 20 else if c == 9 || c == 10 then sel < 24 else if c == 11 || c == 12 then true
  else if c == 13 || c == 14 then sel < 4 else sel == 0

/-- A legal condition with its SEL and CLR (R186, R191). -/
def condOk (c sel : Nat) (clr : Bool) : Bool :=
  c ≤ 16 && selOk c sel && (!clr || c == 5 || c == 7 || c == 11)

/-- The tile `t` of engine `m`, when it had come by mc `F`. -/
def tileBy (s : Dev) (m t F : Nat) : Option Tile :=
  (tileUnder s (bits (rdAt s F (fa m 0x204)) 0 23) m t).filter fun x => decide (x.since ≤ F)

/-- The code of the fault that instruction `w` raises at fetch or decode on the yoke of `e`, 0 for none
(Table 06-10). -/
def decodeFault (s : Dev) (e : Nat) (w : BitVec 64) : Nat :=
  let f := getFur s e
  let op := opOf w
  if !opKnown op || !reservedOk w || endOf w == 3 || (endOf w != 0 && !endAllowed op) then 1
  else if op = 3 && (yokeEngs s e).any (fun m => gopBad (genRegs s m) (wf w 28 16)) then 1
  else if op = 4 && (gregReserved (wf w 32 6) || gregBad (wf w 32 6) (wf w 0 32)) then 1
  else if op = 16 && wf w 36 4 > 8 then 1
  else if op = 11 && (!condOk (condOf w) (selOf w) (wf w 40 1 == 1) || (wf w 39 1 == 1 && condOf w != 13 && condOf w != 14)) then 1
  else if op = 12 && (!condOk (condOf w) (selOf w) (wf w 41 1 == 1) || immCond (condOf w)) then 1
  else if (op = 2 || op = 10) && wf w 0 32 = 0 then 2
  else if op = 10 && f.loops.length ≥ 8 then 4
  else if endOf w = 1 && f.loops.isEmpty then 5
  else if op = 9 && f.calls.length ≥ 16 then 6
  else if endOf w = 2 && f.calls.isEmpty then 7
  else if op = 11 && !immCond (condOf w) && f.pend.length ≥ 4 then 8
  else if op = 1 then
    match tileBy s e (wf w 22 22) (fetchMc f.tNext) with
    | some x => if x.cause = 0 && wf w 10 12 ≥ x.rows then 11 else 0
    | none => 0
  else 0

/-! ### Faults and ends -/

/-- A program fault takes effect: PFAULT and its companions, IRQ bit 1, the fault source, and the end of
the run (R202). -/
def pfault (e code idx : Nat) (s : Dev) : Dev :=
  let s := wrN (fa e 0xC0) (2 ^ 31 + code) (markSet (fa e 0xC0) (2 ^ 31) s)
  let s := wr64 (fa e 0xC8) (rd64 s (fa e 0xB8)) (wrN (fa e 0xC4) idx s)
  let s := raise (0x34 + e) 0 (irqSet (furPage e) 2 s)
  setFur e { getFur s e with ending := some 3, drain := none } s

/-- Engine `m` has read the bad tile `t` (R213). -/
def badTileOn (m cause t : Nat) (s : Dev) : Dev :=
  let s := if fbit s (fa m 0x220) 31 then s else wrN (fa m 0x220) (2 ^ 31 + cause * 2 ^ 27 + bits t 0 22) s
  raise (0x34 + m) 1 (irqSet (furPage m) 0x80 (hit (fa m 0x21C) 30 s))

/-- A bad tile takes effect on the yoke of lead `e`: the engines that read it, with its causes there (R201, R213). -/
def badTile (e : Nat) (bad : List (Nat × Nat)) (t : Nat) (s : Dev) : Dev :=
  let s := forAll bad (fun x => badTileOn x.1 x.2 t) s
  setFur e { getFur s e with ending := some 4, endBy := bad.map (·.1), drain := none, cur := none } s

/-- A starve of the engines `es` under the abort policy takes effect (R201, R237). -/
def starveEnd (e : Nat) (es : List Nat) (s : Dev) : Dev :=
  setFur e { getFur s e with ending := some 4, endBy := es, drain := none, cur := none } s

/-! ### Control transfers -/

/-- Control passes from index `i` to `tgt`, or an ADDR fault waits at the transfer (R202), by the PROG_LEN that the next row finds (R33). -/
def goTo (e tgt i : Nat) (s : Dev) : Dev :=
  let f := getFur s e
  if tgt < bits (rdAt s (fetchMc f.tNext) (fa e 0x94)) 0 25 then setFur e { f with pc := tgt } s else setFur e { f with xfault := some (3, i) } s

/-- The end code of the finished instruction acts (R197). -/
def doEndCode (e : Nat) (s : Dev) : Dev :=
  let f := getFur s e
  let i := f.pc
  if f.endc = 1 then
    match f.loops with
    | (c, st) :: rest =>
      if c ≠ 1 then goTo e st i (setFur e { f with endc := 0, loops := (c - 1, st) :: rest } s)
      else goTo e (i + 1) i (setFur e { f with endc := 0, loops := rest } s)
    | [] => s
  else if f.endc = 2 then
    match f.calls with
    | r :: rest => goTo e r i (setFur e { f with endc := 0, calls := rest } s)
    | [] => s
  else s

/-- LEND (R197): the end code LEND of the finished instruction acts. -/
def doLend (e : Fin 66) (s : Dev) : Dev :=
  let m := leadOf s e
  if furState s m == 3 && (getFur s m).endc == 1 && (getFur s m).pend.isEmpty then showFur m (doEndCode m s) else s

/-- RET (R197): the end code RET of the finished instruction acts. -/
def doRet (e : Fin 66) (s : Dev) : Dev :=
  let m := leadOf s e
  if furState s m == 3 && (getFur s m).endc == 2 && (getFur s m).pend.isEmpty then showFur m (doEndCode m s) else s

/-! ### Latches (R183, R191) -/

/-- The latch of a condition is cleared at time `w` for settings at time `t` or before. -/
def clearLatch (e c sel t w : Nat) (s : Dev) : Dev :=
  let k := latKey c sel
  if c = 5 || c = 7 || c = 11 then
    if latOn s e k && mget (fun _ => 0) (getFur s e).latAt k ≤ t then
      let a := latBit e k
      fset a.1 a.2 1 0 (latNote e k w false s)
    else s
  else s

/-- The latch of a condition is cleared in the mc that starts at time `t`, for settings before it. -/
def clearBefore (e c sel t : Nat) (s : Dev) : Dev := if t = 0 then s else clearLatch e c sel (t - 1) t s

/-- The latch clears of a SET act in the mc that starts at `t`; a setting in that mc stays (R17, R182, R183). -/
def setClears (e reg v t : Nat) (s : Dev) : Dev :=
  if reg = 5 then clearBefore e 5 0 t s
  else if reg = 6 then forAll ((List.range 20).filter (bit v)) (fun j => clearBefore e 7 j t) s
  else if reg = 7 then forAll (if bit v 31 then List.range 64 else [bits v 0 6]) (fun c => clearBefore e 11 c t) s
  else s

/-- The latch clears of branches and waits that act in mc `t` or before act now (R191). -/
def branchClears (e t : Nat) (s : Dev) : Dev :=
  let f := getFur s e
  forAll (f.clrs.filter fun c => c.1 ≤ t) (fun c => clearLatch e c.2.1 c.2.2.1 c.2.2.2 (c.1 * 1024))
    (setFur e { f with clrs := f.clrs.filter fun c => !decide (c.1 ≤ t) } s)

/-- A latch clear for settings at time `td` or before acts in the mc of the boundary at which the next row starts (R191). -/
def clearAtBoundary (e c sel td : Nat) (s : Dev) : Dev :=
  let f := getFur s e
  setFur e { f with clrs := f.clrs ++ [(f.tNext / 1024, c, sel, td)] } s

/-- Fence output `j` as its consumers saw it at time `t`. -/
def fenceAt (s : Dev) (j t : Nat) : Bool := histAt (mget (fun _ => {}) s.fen j).seenHist (mget (fun _ => {}) s.fen j).seen t

/-- The value of a sampled condition at the decision time of the tested row, none while the row's flags
are still to come (R187). -/
def condValue (s : Dev) (e c sel k td : Nat) : Option Bool :=
  let f := getFur s e
  let row := f.issued.find? fun r => r.k == k
  match c with
  | 1 | 2 | 3 | 4 =>
    match row with
    | some r => if r.flagged then some (if c = 1 then r.rowFail else if c = 2 then !r.rowFail else if c = 3 then r.rowMatch else !r.rowMatch)
                else none
    | none => none
  | 5 | 7 | 11 => some (latWas s e (latKey c sel) td)
  | 6 | 8 | 12 => some (!latWas s e (latKey (c - 1) sel) td)
  | 9 => some (fenceAt s sel td)
  | 10 => some (!fenceAt s sel td)
  | _ => none

/-- The decision time of row `k` for a condition: s_last + 16 mc, or T_k + 16 mc (R187). -/
def decideTime (s : Dev) (e c k t : Nat) : Nat :=
  if 1 ≤ c && c ≤ 4 then
    match (getFur s e).issued.find? (fun r => r.k == k) with
    | some r => r.flagT
    | none => t + 16384
  else t + 16384

/-- Every sampled condition of the yoke of engine `e` whose decision time has come takes its value (R187). -/
def branchDecide (e : Fin 66) (s : Dev) : Dev :=
  let m := leadOf s e
  let f := getFur s m
  let val := fun c sel k td (old : Option Bool) => if old.isNone && td < nowVs s + 1024 then condValue s m c sel k td else old
  let wc := match f.cur with
    | some (w, _, _) => (condOf w, selOf w)
    | none => (0, 0)
  setFur m { f with
    pend := f.pend.map fun p => { p with dec := val p.cond p.sel p.k p.tD p.dec }
    waitRows := f.waitRows.map fun r => (r.1, r.2.1, val wc.1 wc.2 r.1 r.2.1 r.2.2) } s

/-! ### Resolving branches and waits at a boundary -/

/-- Generator registers of the yoke restored from a checkpoint. -/
def restoreGen (e : Nat) (ck : Ckpt) (s : Dev) : Dev := forAll ck.mgen (fun p => genPut p.1 p.2) (genPut e ck.gen s)

/-- A taken branch acts at its decision boundary: CLR, the checkpoint or the target, LINK, and the walk
(R188 to R192, R217). -/
def takeBranch (e : Nat) (p : Pend) (s : Dev) : Dev :=
  let s := onlyIf p.clr (clearAtBoundary e p.cond p.sel p.tD) s
  let f := getFur s e
  let F := fetchMc f.tNext
  let s := setFur e { f with pend := [], cur := none, endc := 0, waitRows := [], drain := none, xfault := none } s
  let s := if p.hold then s else
    let s := restoreGen e p.ck s
    let s := forAll (p.ck.cnt.zipIdx) (fun c => wrAt F (fa e (0xE0 + 4 * c.2)) c.1) s
    let s := fset (fa e 0x84) 14 1 (b2n p.ck.tmo) (wrAt F (fa e 0x3F0) (putBits (rdAt s F (fa e 0x3F0)) 0 7 p.ck.tsb) s)
    setFur e { getFur s e with loops := p.ck.loops, calls := p.ck.calls, tile := p.ck.tile, row := p.ck.row } s
  let f := getFur s e
  if p.link && f.calls.length ≥ 16 then setFur e { f with xfault := some (6, p.idx) } s
  else
    let calls := if p.link then (p.idx + 1) :: f.calls else f.calls
    let s := goTo e p.target p.idx (setFur e { f with calls } s)
    let f := getFur s e
    restartWalk e p.idx { pc := p.target, loops := f.loops, calls := f.calls, cnt := cntList s F e, tile := f.tile, row := f.row,
                          left := 0, stopped := f.xfault.isSome } s

/-- The branch resolves no later than the boundary at which the next row starts (R187). -/
def pendDue (f : Furrow) (p : Pend) : Bool := p.tD + 8192 ≤ f.tNext

/-- Whether the pending branches that resolve by the next boundary leave a decision open: none of them decided to be taken comes
before one that is undecided (R192). -/
def pendOpen (f : Furrow) : List Pend → Bool
  | [] => false
  | p :: ps => pendDue f p && (match p.dec with
    | none => true
    | some true => false
    | some false => pendOpen f ps)

/-- A sampled condition is decided at the next boundary: its row's select stage has to wait for it (R23, R193). -/
def decides (f : Furrow) : Bool := f.pend.any (pendDue f) || f.waitRows.any fun r => r.2.1 + 8192 ≤ f.tNext

/-- The next row of engine `e`, where a decision stands at its start, keeps its place in the pipeline once the decision is made (R23). -/
def noteSel (e : Nat) (s : Dev) : Dev :=
  let f := getFur s e
  if decides f then setFur e { f with selC := some (f.tNext / 1024) } s else s

/-- The oldest pending branches that are due and decided resolve in program order (R192). -/
def resolveGo (e : Nat) : Nat → Dev → Dev
  | 0, s => s
  | n + 1, s =>
    match (getFur s e).pend with
    | p :: ps =>
      if !pendDue (getFur s e) p then s
      else
        match p.dec with
        | none => s
        | some true => takeBranch e p s
        | some false =>
          let f := getFur s e
          let s := setFur e { f with pend := ps } s
          let s := match f.cur with
            | some (_, idx, _) => if p.hold && idx = p.idx then goTo e (idx + 1) idx (setFur e { getFur s e with cur := none } s) else s
            | none => s
          resolveGo e n s
    | [] => s

/-- BRANCH_RESOLVE (R192). -/
def doBranchResolve (e : Fin 66) (s : Dev) : Dev :=
  let m := leadOf s e
  if furState s m == 3 then showFur m (resolveGo m 5 (noteSel m s)) else s

/-- The first row of the WAIT whose true condition is due, by its decision time. -/
def waitHit (f : Furrow) : Option Nat :=
  (f.waitRows.find? fun r => r.2.2 == some true && r.2.1 + 8192 ≤ f.tNext).map (·.2.1)

/-- A row of the WAIT that is due at the next boundary has still to be decided. -/
def waitOpen (f : Furrow) : Bool := f.waitRows.any fun r => r.2.1 + 8192 ≤ f.tNext && r.2.2.isNone

/-- A WAIT ends at a true condition (R195 a), once the branches of the boundary have resolved (R192). -/
def waitEndGo (e : Nat) (s : Dev) : Dev :=
  let f := getFur s e
  match f.cur, waitHit f with
  | some (w, idx, n), some td =>
    if opOf w = 12 && n > 0 && !f.pend.any (pendDue f) then
      let s := onlyIf (wf w 41 1 == 1) (clearAtBoundary e (condOf w) (selOf w) td) s
      goTo e (idx + 1) idx (setFur e { getFur s e with cur := none, waitRows := [] } s)
    else s
  | _, _ => s

/-- A fault found on the issued path: it waits for the pending branches, or takes effect (R194, R202). -/
def progFault (e code idx : Nat) (s : Dev) : Dev :=
  let f := getFur s e
  if f.pend.isEmpty then pfault e code idx (setFur e { f with cur := none } s)
  else setFur e { f with drain := some (.fault code idx) } s

/-- A WAIT has emitted TIMEOUT rows with no true condition (R195 b). -/
def waitTimeoutGo (e : Nat) (s : Dev) : Dev :=
  let f := getFur s e
  match f.cur with
  | some (w, idx, n) =>
    if opOf w = 12 && wf w 0 28 ≠ 0 && n = wf w 0 28 && (waitHit f).isNone && !f.pend.any (pendDue f) && !waitOpen f then
      let s := setFur e { f with cur := none, waitRows := [] } s
      if wf w 42 1 = 1 then progFault e 9 idx s
      else goTo e (idx + 1) idx (irqSet (furPage e) 4 (fset (fa e 0x84) 14 1 1 s))
    else s
  | none => s

/-- WAIT_END (R195). -/
def doWaitEnd (e : Fin 66) (s : Dev) : Dev :=
  let m := leadOf s e
  if furState s m == 3 then showFur m (waitEndGo m (noteSel m s)) else s

/-- WAIT_TIMEOUT (R195). -/
def doWaitTimeout (e : Fin 66) (s : Dev) : Dev :=
  let m := leadOf s e
  if furState s m == 3 then showFur m (waitTimeoutGo m (noteSel m s)) else s

/-! ### Rows -/

/-- Where the symbols of a row come from (R176, R177, R181). -/
inductive SymSrc where
  | stored | prev | agen (gop ovl : Nat) (mix : Bool) | keep
  deriving DecidableEq, Repr

/-- What stands at the cursor for an engine: symbols, a missing row, or a bad tile. -/
inductive Stored where
  | syms (l : List Sym) | missing | bad (cause : Nat)
  deriving DecidableEq, Repr

/-- The stored row (`t`, `r`) for engine `m` of the yoke of `e`: the entry must have been in its hopper or a pin, and its tile read, in
mc `F`. -/
def storedFor (s : Dev) (e m t r F : Nat) : Stored :=
  match tileBy s m t F with
  | none => .missing
  | some x =>
    if x.cause ≠ 0 then .bad x.cause
    else if (takeRow e m t r F s).isNone then .missing
    else
      match rowBad e m t r F s, runRow x.runs r with
      | some c, _ => .bad c
      | none, some l => .syms (padSyms (getFur s m).slots.length l)
      | none, none => .missing

/-- The yoke's good tiles `t` do not all declare the same number of rows (R200). -/
def rowsDiffer (s : Dev) (es : List Nat) (t F : Nat) : Bool :=
  let rows := es.filterMap fun m => ((tileBy s m t F).filter fun x => x.cause == 0).map (·.rows)
  rows.any fun n => n != nth 0 rows 0

/-- Symbol of an idle row of engine `m`, fetched in mc `F` (R233). -/
def idleSym (s : Dev) (F m : Nat) : Sym := if bit (rdAt s F (fa m 0x200)) 30 then 6 else 7

/-- A row of one symbol in every slot of engine `m`. -/
def flatRow (s : Dev) (m : Nat) (x : Sym) : List Sym := (getFur s m).slots.map fun _ => x

/-- The symbols of a row from `src` on engine `m`, with the stored part, the address tag, the data mask
and the generator after the row (R181, R247, R257 to R259). -/
def rowSyms (s : Dev) (m : Nat) (src : SymSrc) (st : List Sym) : List Sym × (Nat × Nat × Nat) × List Nat × List Word :=
  let g := genRegs s m
  let n := (getFur s m).slots.length
  let tag := (gr g 0, gr g 1, gr g 2)
  match src with
  | .stored => (st, tag, [], g)
  | .prev => (padSyms n (getFur s m).prev, tag, [], g)
  | .keep => (flatRow s m 7, tag, [], g)
  | .agen gop ovl mix =>
    let mx := scrMap s m 0x940
    let my := scrMap s m 0x980
    let g1 := genData mx my gop g
    let px := physAddr mx (gr g 0)
    let py := physAddr my (gr g 1)
    let syms := (List.range n).map fun i =>
      match ovlSym (ovlEntry s m ovl i) gop px py (gr g 2) (gr64 g1 14) with
      | some x => x
      | none => if mix then nth 7 st i else 7
    let dm := if bit gop 3 then (List.range n).filter fun i => bits (ovlEntry s m ovl i) 13 3 == 4 else []
    (syms, tag, dm, genAddrStep gop g1)

/-- The row counters, PC, row time and issue bytes after a row (R169, R117). -/
def afterRow (e m idx len : Nat) (counted : Bool) (s : Dev) : Dev :=
  let s := inc64 (fa m 0xB8) 1 (wrN (fa m 0x9C) (2 ^ 31 + (if m = e then idx else fget s (fa e 0x9C) 0 24)) s)
  let s := onlyIf counted (inc64 (fa m 0x240) (imgBytes (getFur s m).slots.length)) s
  setFur m { getFur s m with tNext := (getFur s m).tNext + len } s

/-- An episode of engine `m` ends (R236). -/
def endEpisode (m : Nat) (s : Dev) : Dev := setFur m { getFur s m with epi := none } s

/-- From row `k` on, the records of the yoke are timing-invalid (R235). -/
def markIdle (m k : Nat) (s : Dev) : Dev :=
  forAll (yokeEngs s (leadOf s m)) (fun x s => setFur x { getFur s x with idleK := some ((getFur s x).idleK.getD k) } s) s

/-- An idle row of engine `m` is counted, opening or extending its episode (R234 to R236). -/
def countIdle (m cause idx : Nat) (skip : Bool) (s : Dev) : Dev :=
  let k := rd64 s (fa m 0xB8)
  let s := inc64 (fa m 0x230) 1 (markIdle m k s)
  let f := getFur s m
  match f.epi with
  | some p => setFur m { f with epi := some { p with count := p.count + 1, skip := p.skip || skip } } s
  | none =>
    let s := irqSet (furPage m) 0x40 (incSat (fa m 0x22C) 0 32 1 s)
    let s := onlyIf (cause == 2) (incSat (fa m 0x228) 0 16 1) s
    setFur m { f with epi := some { first := k, count := 1, ts := f.tNext / 1024, cause, idx, skip } } s

/-- The oldest waiting front-end group of each bank that targets furrow `f` takes the row's start as its
target time (R98; DEDUCED, log entry 20). -/
def feaTarget (f t : Nat) (s : Dev) : Dev :=
  forAll (List.range 8) (fun b s =>
    let go := fun (acc : List Group × Bool) (g : Group) =>
      if !acc.2 && g.target == .furrow f && g.time.isNone then (acc.1 ++ [{ g with time := some t }], true) else (acc.1 ++ [g], acc.2)
    let r := (getFec s b).groups.foldl go ([], false)
    if r.2 then setFec b { getFec s b with groups := r.1 } s else s) s

/-- A row without stored data is issued on every engine of the yoke: hold, drain, sync or idle rows. -/
def issueFlat (e : Nat) (kind : RowKind) (x len idx : Nat) (src : Nat → List Sym) (cause : Option (Nat × Nat)) (mkEv rmsk : Nat) (s : Dev) : Dev :=
  let es := yokeEngs s e
  let k := rd64 s (fa e 0xB8)
  let t := (getFur s e).tNext
  let s := forAll es (fun m s =>
    let s := match cause with
      | some (c, i) => countIdle m c i false s
      | none => endEpisode m s
    let s := placeRow m { kind, syms := src m, x, set := effSet s (fetchMc t) e x, len, t, k, idx, mkEv, rmsk, maskAll := kind != .sync,
                          idl := cause.map fun c => (c.1, c.2, false),
                          tag := (gr (genRegs s m) 0, gr (genRegs s m) 1, gr (genRegs s m) 2) } s
    showFur m (afterRow e m idx len (kind == .hold || kind == .sync) s)) s
  setFlagTime es k s

/-- A starve of the engines `es` under the abort policy acts now, or waits for the pending branches (R237). -/
def starveAbort (e idx : Nat) (es : List Nat) (s : Dev) : Dev :=
  let f := getFur s e
  if f.pend.isEmpty then starveEnd e es s else setFur e { f with drain := some (.starve es idx) } s

/-- A row that starved for want of the entry `key`: the substitute under the policy (R232, R233, R237). -/
def starve (e idx : Nat) (key : Nat × Nat × Bool) (s : Dev) : Dev :=
  let f := getFur s e
  let F := nextFetch s e
  if f.policy then starveAbort e idx [e] s
  else
    let x := bits (rdAt s F (fa e 0x200)) 16 7
    issueFlat e .idle x (perLen s F e (effSet s F e x)) idx (fun m => flatRow s m (idleSym s F m)) (some (starveCause f key, idx)) 0 0 s

/-- A drain row, or the effect that was waiting once no branch is pending (R194, R213, R237); a HALT
answers its word and index. -/
def drainRow (e : Nat) (d : Drain) (s : Dev) : Dev :=
  let x := (getFur s e).lastTs
  let cause := match d with
    | .starve _ i => some (3, i)
    | _ => none
  let F := nextFetch s e
  issueFlat e .drain x (perLen s F e (effSet s F e x)) (fget s (fa e 0x9C) 0 24) (fun m => flatRow s m 7) cause 0 0 s

/-- What became of an attempt to issue an instruction's own row. -/
inductive Tried where
  | done | starved | badRow
  deriving DecidableEq, Repr

/-- An own row of the instruction `w` at `idx` from `src` is issued on every engine of the yoke, after `pre`, what GSET and SET do from
the row's start; or it starves, or meets a bad tile (R176, R181, R182, R199 to R201, R213, R232 to R234). `first` is the
instruction's first row. -/
def tryRow (e idx : Nat) (w : BitVec 64) (src : SymSrc) (first : Bool) (clr : Option (Nat × Nat)) (pre : Dev → Dev) (s : Dev) :
    Tried × Dev :=
  let f := getFur s e
  let F := fetchMc f.tNext
  let es := yokeEngs s e
  let needs := match src with
    | .stored => true
    | .agen _ _ mix => mix
    | _ => false
  let st := fun m => if needs then storedFor s e m f.tile f.row F else .syms []
  let bad := es.filterMap fun m => match st m with | .bad c => some (m, c) | _ => none
  let missing := fun m => match st m with | .missing => true | _ => false
  let aborts := es.filter fun m => missing m && (getFur s m).policy
  let cause := starveCause f (f.tile, f.row, false)
  if !bad.isEmpty then
    if f.pend.isEmpty then (.badRow, badTile e bad f.tile s) else (.badRow, setFur e { f with drain := some (.tile bad f.tile) } s)
  else if needs && rowsDiffer s es f.tile F then (.badRow, progFault e 12 idx s)
  else if missing e && es.length = 1 then (.starved, s)
  else if !aborts.isEmpty then (.badRow, starveAbort e idx aborts s)
  else
    let x := wf w 51 7
    let s := pre s
    let set := effSet s F e x
    let len := perLen s F e set
    let k := rd64 s (fa e 0xB8)
    let s2 := forAll es (fun m s =>
      let skip := missing m
      let stl := match st m with
        | .syms l => l
        | _ => []
      let (sy, tag, dm, g) := rowSyms s m src stl
      let s := if needs then (takeRow e m f.tile f.row F s).getD s else s
      let s := if skip then countIdle m cause idx true s else endEpisode m s
      let r : RowReq := { kind := if skip then .idle else .own, syms := if skip then flatRow s m (idleSym s F m) else sy, x, set, len,
                          t := f.tNext, k, idx, mkEv := if first && !skip then wf w 48 2 else 0, rmsk := wf w 46 2, maskAll := skip,
                          dmask := if skip then [] else dm, tag, idl := if skip then some (cause, idx, true) else none,
                          clr := if m = e then clr else none }
      let s := placeRow m r s
      let s := match src with
        | .agen _ _ _ => genPut m g s
        | _ => s
      let s := if skip then s else setFur m { getFur s m with prev := sy } s
      let s := onlyIf (first && !skip && wf w 50 1 == 1) (feaTarget (logical s m) f.tNext) s
      showFur m (afterRow e m idx len (!skip) s)) s
    let s3 := setFlagTime es k s2
    let s4 := if needs then
        let (rows, next) := match tileBy s3 e f.tile F with
          | some x => (x.rows, x.next)
          | none => tileHead s3 e f.tile
        let (t, r) := advance f.tile f.row rows next
        setFur e { getFur s3 e with tile := t, row := r } s3
      else s3
    (.done, setFur e { getFur s4 e with lastTs := x } s4)

/-! ### Instructions -/

/-- A program record of REC for row `k` that starts at time `t`, just issued (R184, Table 06-7). Its TS and the sticky
fail latch are those of the mc in which the row's fetch stage begins (Table 01-2; DEDUCED, log entry 70). -/
def recRecord (e idx k t : Nat) (w : BitVec 64) (s : Dev) : Dev :=
  let g := genRegs s e
  let f := getFur s e
  let m := t / 1024 - 22
  let tinv := f.issued.any fun r => r.k == k && rowTinv s e r
  let info := idx * 256 + b2n tinv * 8 + b2n (fbit s (fa e 0x84) 14) * 4 + b2n (latWas s e 0 (m * 1024 + 1023)) * 2 + b2n (!f.pend.isEmpty)
  let body := leBytes 8 k ++ leBytes 4 (wf w 0 32) ++ leBytes 4 info ++ leBytes 4 (gr g 0) ++ leBytes 4 (gr g 1) ++ leBytes 4 (gr g 2)
    ++ leBytes 4 (rdAt s m (fa e 0xE0))
  match siteOn s (logical s e) with
  | some i => siteRecordAt i 0x08 (b2n tinv * 0x80) f.epoch m body s
  | none => s

/-- The effects of GSET and SET from the start of their carried row (R181, R182, R262). -/
def preEffects (e : Nat) (w : BitVec 64) (s : Dev) : Dev :=
  if opOf w = 4 then forAll (yokeEngs s e) (fun m => wrN (genAddr m (wf w 32 6)) (wf w 0 32)) s
  else if opOf w = 16 then
    let v := wf w 0 32
    let F := nextFetch s e
    match wf w 36 4 with
    | 4 => wrAt F (fa e 0x3F0) (putBits (rdAt s F (fa e 0x3F0)) 0 7 v) s
    | 8 => fset (fa e 0x84) 14 1 0 s
    | n => if n < 4 then wrAt F (fa e (0xE0 + 4 * n)) v s else s
  else s

/-- Where the rows of `w` come from. -/
def srcOf (w : BitVec 64) : SymSrc :=
  if opOf w = 1 then .stored
  else if opOf w = 2 then .prev
  else if opOf w = 3 then .agen (wf w 28 16) (wf w 25 3) (wf w 24 1 == 1)
  else if crOf w then .prev else .stored

/-- The immediate condition of a BR whose carried row was fetched in mc `F` (Table 06-8). -/
def immValue (s : Dev) (F e c sel : Nat) : Bool :=
  if c = 13 then rdAt s F (fa e (0xE0 + 4 * sel)) != 0
  else if c = 14 then rdAt s F (fa e (0xE0 + 4 * sel)) == 0
  else if c = 15 then fbit s (fa e 0x84) 14
  else if c = 16 then !fbit s (fa e 0x84) 14
  else true

/-- A sampled BR joins the pending branches as its carried row `k` is issued (R189, R190). -/
def pushPend (e idx k t : Nat) (w : BitVec 64) (s : Dev) : Dev :=
  let f := getFur s e
  let ck : Ckpt := { pc := targetOf w, loops := f.loops, calls := f.calls, tile := f.tile, row := f.row, cnt := cntList s (fetchMc t) e,
                     tmo := fbit s (fa e 0x84) 14, tsb := tsBase s (fetchMc t) e, gen := genRegs s e,
                     mgen := (yokeMembers s e).map fun m => (m, genRegs s m) }
  let p : Pend := { idx, cond := condOf w, sel := selOf w, clr := wf w 40 1 == 1, hold := wf w 42 1 == 1, link := wf w 41 1 == 1,
                    target := targetOf w, k, tD := decideTime s e (condOf w) k t, ck }
  setFur e { f with pend := f.pend ++ [p] } s

/-- The control effect of an instruction after its last row, which was fetched in mc `F` (R185, R188, R197). -/
def finish (e idx F : Nat) (w : BitVec 64) (s : Dev) : Dev :=
  let s := setFur e { getFur s e with cur := none } s
  let f := getFur s e
  match opOf w with
  | 8 => goTo e (targetOf w) idx s
  | 9 => goTo e (targetOf w) idx (setFur e { f with calls := (idx + 1) :: f.calls } s)
  | 11 =>
    let c := condOf w
    if immCond c then
      let taken := immValue s F e c (selOf w)
      let n := rdAt s F (fa e (0xE0 + 4 * selOf w))
      let s := onlyIf (wf w 39 1 == 1 && n != 0) (wrAt F (fa e (0xE0 + 4 * selOf w)) (n - 1)) s
      if !taken then goTo e (idx + 1) idx s
      else if wf w 41 1 = 1 && f.calls.length ≥ 16 then setFur e { f with xfault := some (6, idx) } s
      else
        let s := goTo e (targetOf w) idx (if wf w 41 1 = 1 then setFur e { f with calls := (idx + 1) :: f.calls } s else s)
        let f := getFur s e
        if c = 15 || c = 16 then
          restartWalk e idx { pc := targetOf w, loops := f.loops, calls := f.calls, cnt := cntList s F e, tile := f.tile, row := f.row,
                              left := 0, stopped := f.xfault.isSome } s
        else s
    else goTo e (idx + 1) idx s
  | 63 => setFur e { f with ending := some 1 } s
  | _ =>
    if endOf w ≠ 0 then setFur e { f with endc := endOf w, pc := idx } s else goTo e (idx + 1) idx s

/-- What follows an own row of `w`, its `n`-th counted from 0, which was row number `k` at time `t`. -/
def rowDone (e idx n k t : Nat) (w : BitVec 64) (s : Dev) : Dev :=
  let s := onlyIf (opOf w == 17) (recRecord e idx k t w) s
  let F := fetchMc t
  match opOf w with
  | 11 =>
    if immCond (condOf w) then finish e idx F w s
    else
      let s := pushPend e idx k t w s
      if wf w 42 1 = 1 then setFur e { getFur s e with cur := some (w, idx, 1) } s else finish e idx F w s
  | 12 =>
    let f := getFur s e
    setFur e { f with cur := some (w, idx, n + 1), waitRows := f.waitRows ++ [(k, decideTime s e (condOf w) k t, none)] } s
  | _ => if n + 1 < rowsOfInstr w then setFur e { getFur s e with cur := some (w, idx, n + 1) } s else finish e idx F w s

/-- Row `n` of instruction `w` at `idx` on the issued path. -/
def ownRow (e idx n : Nat) (w : BitVec 64) (s : Dev) : Dev :=
  let k := rd64 s (fa e 0xB8)
  let t := (getFur s e).tNext
  let clr := if opOf w = 16 && n = 0 then some (wf w 36 4, wf w 0 32) else none
  let src := if opOf w = 12 && n > 0 then .prev else srcOf w
  let s0 := if n = 0 && opOf w = 1 then setFur e { getFur s e with tile := wf w 22 22, row := wf w 10 12 } s else s
  match tryRow e idx w src (n == 0) clr (if n = 0 then preEffects e w else id) s0 with
  | (.done, s') => rowDone e idx n k t w s'
  | (.starved, _) => starve e idx ((getFur s0 e).tile, (getFur s0 e).row, false)
      (setFur e { getFur s e with cur := if n = 0 then some (w, idx, 0) else (getFur s e).cur } s)
  | (.badRow, s') => s'

/-- A row of SYNC: from the boundary to the first whole mc at least 1 mc later, then 1 mc each (R196). -/
def syncRow (e idx n : Nat) (w : BitVec 64) (s : Dev) : Dev :=
  let f := getFur s e
  let len := if n = 0 then cdiv (f.tNext + 1024) 1024 * 1024 - f.tNext else 1024
  let x := wf w 51 7
  let s := if n = 0 then setFur e { f with syncT := f.tNext } s else s
  let s := onlyIf (n == 0 && wf w 50 1 == 1) (fun s => forAll (yokeEngs s e) (fun m => feaTarget (logical s m) f.tNext) s) s
  let s := forAll (yokeEngs s e) (fun m => endEpisode m) s
  let s := issueFlat e .sync x len idx (fun m => flatRow s m 7) none (if n = 0 then wf w 48 2 else 0) (wf w 46 2) s
  setFur e { getFur s e with cur := some (w, idx, n + 1), lastTs := x } s

/-- The sync event that ends a SYNC begun at `T` at the boundary `b` (R196, R645). -/
def syncHit (s : Dev) (T b : Nat) : Bool :=
  match s.syncEv with
  | some (a, q) => q * 1024 == b && T + 2048 ≤ q * 1024 && a + 22 ≤ q
  | none => false

/-- The instruction `w` at index `idx` begins: a fault, a HALT that waits for pending branches, or its
first row (R178, R194, R202). -/
def beginInstr (e idx : Nat) (w : BitVec 64) (s : Dev) : Dev :=
  let f := getFur s e
  let code := decodeFault s e w
  if code ≠ 0 then progFault e code idx s
  else if opOf w = 63 && !f.pend.isEmpty then setFur e { f with drain := some (.halt w idx) } s
  else if opOf w = 13 then syncRow e idx 0 w s
  else
    let s := if opOf w = 10 then setFur e { f with loops := (wf w 0 32, idx + 1) :: f.loops } s else s
    if opOf w = 10 then
      -- the loop entry is pushed with the carried row; a starved LOOP has pushed nothing
      match tryRow e idx w (srcOf w) true none id s with
      | (.done, s') => goTo e (idx + 1) idx (setFur e { getFur s' e with cur := none } s')
      | (.starved, _) => starve e idx (f.tile, f.row, false) (setFur e { f with cur := some (w, idx, 0) } s)
      | (.badRow, s') => s'
    else ownRow e idx 0 w s

/-- The next row of the path, once branches, waits and end codes of the boundary have acted. -/
def issueGo (e : Nat) (s : Dev) : Dev :=
  let f := getFur s e
  let F := nextFetch s e
  match f.drain with
  | some d =>
    if !f.pend.isEmpty then drainRow e d s
    else
      let s := setFur e { f with drain := none } s
      match d with
      | .fault code idx => pfault e code idx (setFur e { getFur s e with cur := none } s)
      | .halt w idx => ownRow e idx 0 w s
      | .tile bad t => badTile e bad t s
      | .starve es _ => starveEnd e es s
  | none =>
    match f.xfault with
    | some (code, idx) => progFault e code idx (setFur e { f with xfault := none } s)
    | none =>
      match f.cur with
      | some (w, idx, n) =>
        if opOf w = 11 && n = 1 then
          issueFlat e .hold (wf w 51 7) (perLen s F e (effSet s F e (wf w 51 7))) idx (fun m => (getFur s m).prev) none 0 (wf w 46 2) s
        else if opOf w = 13 then syncRow e idx n w s
        else if n = 0 then beginInstr e idx w s
        else ownRow e idx n w s
      | none =>
        match takeWord e f.pc F s with
        | none => starve e f.pc (f.pc, 0, true) s
        | some ((w, err), s') => if err then progFault e 10 f.pc s' else beginInstr e f.pc w s'

/-- A drain row follows at once where a fault, HALT, bad tile or starve has begun to wait. -/
def issueDrain (e : Nat) (rows : Nat) (s : Dev) : Dev :=
  match (getFur s e).drain with
  | some d => if !(getFur s e).pend.isEmpty && rd64 s (fa e 0xB8) = rows then drainRow e d s else s
  | none => s

/-- A SYNC ends at the sync-qualified mc (R196). -/
def syncEndGo (e : Nat) (s : Dev) : Dev :=
  let f := getFur s e
  match f.cur with
  | some (w, idx, n) => if opOf w = 13 && n > 0 && syncHit s f.syncT f.tNext then goTo e (idx + 1) idx (setFur e { f with cur := none } s) else s
  | none => s

/-- Branches, waits and end codes due at the boundary act, in the order of R192. -/
def boundary (e : Nat) (s : Dev) : Dev :=
  let s := resolveGo e 5 (noteSel e s)
  let s := waitTimeoutGo e (waitEndGo e s)
  let s := syncEndGo e s
  if (getFur s e).endc = 0 then s else doEndCode e s

/-- A decision that the boundary needs has not been made yet. -/
def undecided (f : Furrow) : Bool :=
  pendOpen f f.pend || (waitOpen f && !f.pend.any fun p => pendDue f p && p.dec == some true)

/-- The row that starts in mc `c` may have waited for a decision: its own, or one that came at or after its fetch stage began, in the
select stage of a row before it (R23, R193). -/
def lateRow (f : Furrow) (c : Nat) : Bool := decides f || f.selC.any fun d => decide (c ≤ d + 15)

/-- The stop request of any engine of the yoke: the mc of the earliest (R170, R201). -/
def yokeStopMc (s : Dev) (e : Nat) : Option Nat :=
  ((yokeEngs s e).filterMap fun m => (getFur s m).stop.map (·.1)).foldl (fun a b => some (match a with | some x => min x b | none => b)) none

/-- The row at the next boundary may be issued now: the furrow runs, this is the mc in which its fetch stage begins, or the row waits or
has waited for a decision and has its select stage still to come (R22, R23), no stop shuts it out (R170) and no decision is missing.
What such a row reads is what its fetch stage found (`rdAt`, R33). -/
def mayIssue (s : Dev) (e : Nat) : Bool :=
  let f := getFur s e
  let c := f.tNext / 1024
  furState s e == 3 && f.ending.isNone && (c == now s + 22 || (lateRow f c && decide (c ≤ now s + 22) && decide (now s + 7 ≤ c))) && !undecided f
    && (match yokeStopMc s e with | some m => decide (c ≤ m + 22) | none => true)

/-- The next row of engine `e` is issued, its instruction being `w` when one is given (R22, R185). -/
def issueNext (e : Nat) (given : Option (BitVec 64)) (s : Dev) : Dev :=
  if !mayIssue s e then s
  else
    let s := boundary e s
    let rows := rd64 s (fa e 0xB8)
    let f := getFur s e
    let s := if f.ending.isSome then s else
      match given, f.cur, f.drain, f.xfault with
      | some w, none, none, none => beginInstr e f.pc w (match takeWord e f.pc (nextFetch s e) s with | some (_, s') => s' | none => s)
      | _, _, _, _ => issueGo e s
    let s := issueDrain e rows s
    forAll (yokeEngs s e) (fun m => showFur m) s

/-- ROW_ISSUE (R22). -/
def doRowIssue (e : Fin 66) (s : Dev) : Dev := issueNext (leadOf s e) none s

/-- Word `w` with opcode `op`. -/
def opWord (op : Nat) (w : BitVec 64) : BitVec 64 := BitVec.ofNat 64 (putBits w.toNat 58 6 op)

/-- An instruction of opcode `op` reaches the issue stage of engine `e`: the word `w` stands for the word
that the fetch stage read, with OP as the command names it. -/
def doInstr (op : Nat) (e : Fin 66) (w : BitVec 64) (s : Dev) : Dev :=
  issueNext (leadOf s e) (some (opWord op w)) s

/-- EMIT (R179). -/
def doEmit : Fin 66 → BitVec 64 → Dev → Dev := doInstr 1
/-- RPT (R180). -/
def doRpt : Fin 66 → BitVec 64 → Dev → Dev := doInstr 2
/-- AGEN (R181). -/
def doAgen : Fin 66 → BitVec 64 → Dev → Dev := doInstr 3
/-- GSET (R181). -/
def doGset : Fin 66 → BitVec 64 → Dev → Dev := doInstr 4
/-- JMP (R185). -/
def doJmp : Fin 66 → BitVec 64 → Dev → Dev := doInstr 8
/-- CALL (R197). -/
def doCall : Fin 66 → BitVec 64 → Dev → Dev := doInstr 9
/-- LOOP (R197). -/
def doLoop : Fin 66 → BitVec 64 → Dev → Dev := doInstr 10
/-- BR (R188). -/
def doBr : Fin 66 → BitVec 64 → Dev → Dev := doInstr 11
/-- WAIT (R195). -/
def doWait : Fin 66 → BitVec 64 → Dev → Dev := doInstr 12
/-- SYNC (R196). -/
def doSync : Fin 66 → BitVec 64 → Dev → Dev := doInstr 13
/-- SET (R182). -/
def doSetReg : Fin 66 → BitVec 64 → Dev → Dev := doInstr 16
/-- REC (R184). -/
def doRecWrite : Fin 66 → BitVec 64 → Dev → Dev := doInstr 17
/-- HALT (R178). -/
def doHalt : Fin 66 → BitVec 64 → Dev → Dev := doInstr 63

end Sys2Proof.Machine
end

