-- ==== Sys2Proof/Machine/Reflex.lean ====
section
/-! DEFINITION. Reflex rules: firing, drive, holds and the writes of their registers (Formats, compare and
reflex rules: R154 to R163). -/
namespace Sys2Proof.Machine

/-- RFX_CFG of rule `r` of bank `b`. -/
def rfxCfg (b r : Nat) : Nat := A (rfxPage b) (0x100 + 16 * r)

/-- The three enables of R154, with both pages powered and active. -/
def ruleOn (s : Dev) (b r : Nat) : Bool :=
  fbit s (rfxCfg b r) 31 && blkEn s (cfgPage b) && blkActive s (cfgPage b) && blkEn s (rfxPage b) && blkActive s (rfxPage b)
    && domOn s (4 + b)

/-- A reported state is the one that S selects: 0 L, 1 M, 2 H, 3 V (H or L). -/
def inState (sel : Nat) (x : SState) : Bool :=
  match x with
  | .l => sel == 0 || sel == 3
  | .m => sel == 1
  | .h => sel == 2 || sel == 3

/-- A change of the reported state from `old` to `new` is an entry under S (R154). -/
def isEntry (sel : Nat) (old new : SState) : Bool :=
  old != new && inState sel new && (sel != 3 || old == .m)

/-- The targets on which a rule of bank `b` acts when trigger lane `l` fires it (R155). -/
def ruleTargets (s : Dev) (b r l : Nat) : List Nat :=
  (bankLanes b).filter fun x => fbit s (A (rfxPage b) (0x108 + 16 * r + 4 * (x % 64 / 32))) (x % 32)
    && (fbit s (rfxCfg b r) 30 || owner s x == owner s l)

/-- The evidence of a firing in mc `m` (R162). The decoders report in order of time (`senseAdvance`). -/
def fireEvidence (b r m : Nat) (s : Dev) : Dev :=
  let pg := rfxPage b
  let s := incSat (A pg (0x200 + 4 * r)) 0 32 1 s
  let s := hit (A pg 0x88) (16 + r) (onlyIf (!fbit s (A pg 0x88) (16 + r)) (irqSet pg 1) s)
  if fbit s (A pg 0x94) 31 && rd64 s (A pg 0x98) = m && fget s (A pg 0x94) 0 4 < r then s
  else wr64 (A pg 0x98) m (wrN (A pg 0x94) (2 ^ 31 + r) s)

/-- The hold that follows `h` in its rule: that of the next firing that starts one of its own. -/
def holdNext (h : Hold) : Hold :=
  match h.queue with
  | (m, n, lanes) :: q => { active := true, m, n, start := m + 14, lanes, mode := h.mode, d := h.d, len := h.len, queue := q }
  | [] => {}

/-- A hold that has ended lets its lanes go at the start of mc `t` (R158, R159). -/
def endHold (b r t : Nat) (s : Dev) : Dev :=
  let h := getHold s (16 * b + r)
  let s := forAll h.lanes (fun l => laneEvents l (t * 1024 + 1)) s
  let s := fset (A (rfxPage b) 0x88) r 1 0 (setHold (16 * b + r) (holdNext h) s)
  onlyIf h.begun (forAll h.lanes (fun l => settle l (t * 1024))) s

/-- A pending hold of rule `r` of bank `b` begins at its start (R156). -/
def beginHold (b r : Nat) (s : Dev) : Dev :=
  let h := getHold s (16 * b + r)
  let s := forAll h.lanes (fun l => laneEvents l (h.start * 1024)) s
  let s := setHold (16 * b + r) { h with begun := true } s
  let s := onlyIf (!h.lanes.isEmpty) (fset (A (rfxPage b) 0x88) r 1 1) s
  forAll h.lanes (fun l => settle l (h.start * 1024)) s

/-- A firing with entry in mc `m` and targets `lanes` while hold `h` is pending or in force (R157): one that comes during
the hold, or before the hold it would start has ended, is the hold's latest entry, and in LATCHED changes nothing; one whose
own hold would begin after the end of the last hold starts that hold (DEDUCED, log entry 36). -/
def fireAgain (h : Hold) (m : Nat) (lanes : List Nat) : Hold :=
  match h.queue.getLast? with
  | some (m', n, lanes') =>
    match natEnd h.mode h.len m' n with
    | some e => if e < m + 14 then { h with queue := h.queue ++ [(m, none, lanes)] } else { h with queue := h.queue.dropLast ++ [(m, none, lanes')] }
    | none => h
  | none =>
    if h.mode = 2 && h.endAt.isNone then h
    else if h.start ≤ m then (if h.endAt.isSome then h else { h with m, n := none })
    else match holdEnd h with
      | some e => if e < m + 14 then { h with queue := [(m, none, lanes)] } else { h with m, n := none }
      | none => { h with m, n := none }

/-- Rule `r` of bank `b` fires on trigger lane `l` in mc `m`: a new pending hold, or a firing while one is pending or in
force (R155 to R157, R162). A hold that has ended by then is over. -/
def fireRule (b r l m : Nat) (s : Dev) : Dev :=
  let s := fireEvidence b r m s
  let h := getHold s (16 * b + r)
  let s := match holdEnd h with
    | some e => if h.active && h.begun && e ≤ m then endHold b r e s else s
    | none => s
  let h := getHold s (16 * b + r)
  let lanes := ruleTargets s b r l
  let c := rdN s (rfxCfg b r)
  setHold (16 * b + r) (if h.active then fireAgain h m lanes else
    { active := true, m, start := m + 14, lanes, mode := bits c 28 2, d := bits c 26 2, len := rdN s (rfxCfg b r + 4) }) s

/-- The trigger lane of an active hold leaves the state in mc `m`: it does so after the rule's latest entry (R157). -/
def leaveRule (b r m : Nat) (old new : SState) (s : Dev) : Dev :=
  let h := getHold s (16 * b + r)
  let sel := fget s (rfxCfg b r) 24 2
  if !(h.active && inState sel old && !inState sel new) then s
  else match h.queue.getLast? with
    | some (m', n, lanes) => if n.isNone then setHold (16 * b + r) { h with queue := h.queue.dropLast ++ [(m', some m, lanes)] } s else s
    | none => if h.n.isNone then setHold (16 * b + r) { h with n := some m } s else s

/-- The reported state of lane `l` changes from `old` to `new`, counted in mc `m`: the rules it triggers act. -/
def reflexChange (l m : Nat) (old new : SState) (s : Dev) : Dev :=
  let b := l / 64
  forAll ((List.range 16).filter fun r => fget s (rfxCfg b r) 0 6 == l % 64) (fun r s =>
    let s := leaveRule b r m old new s
    if ruleOn s b r && isEntry (fget s (rfxCfg b r) 24 2) old new && health s l != 5 && health s l != 4 && health s l != 6
    then fireRule b r l m s else s) s

/-- REFLEX_DRIVE (R156): the hold begins; one that ends at or before its start never does. -/
def doReflexDrive (b : Bank) (r : Fin 16) (s : Dev) : Dev :=
  let h := getHold s (16 * b.toNat + r.toNat)
  if !h.active || h.begun || now s < h.start then s
  else if holdOver h h.start then setHold (16 * b.toNat + r.toNat) (holdNext h) s
  else beginHold b r s

/-- REFLEX_HOLD_END (R157). -/
def doReflexHoldEnd (b : Bank) (r : Fin 16) (s : Dev) : Dev :=
  let h := getHold s (16 * b.toNat + r.toNat)
  match holdEnd h with
  | some t => if h.active && t ≤ now s && (h.begun || t ≤ h.start) then endHold b r t s else s
  | none => s

/-- The hold of rule `r` ends at the start of the next mc, whatever its mode, and firings that wait behind it are dropped
(R157). -/
def endHoldNext (b r : Nat) (s : Dev) : Dev :=
  let h := getHold s (16 * b + r)
  if h.active then setHold (16 * b + r) { h with endAt := some (match h.endAt with | some t => t | none => now s + 1), queue := [] } s else s

/-- Every hold of bank `b` ends and every pending firing is dropped (R112, R163). -/
def endBankHolds (b : Nat) (s : Dev) : Dev := forAll (List.range 16) (endHoldNext b) s

/-- The mc of the next thing that happens to a hold by itself: its start, or its end. -/
def holdMc (h : Hold) : Option Nat :=
  if !h.active then none
  else match holdEnd h with
    | some e => if e ≤ h.start || h.begun then some e else some h.start
    | none => if h.begun then none else some h.start

/-- What happens to hold `i` at mc `t`. -/
def holdAct (i t : Nat) (s : Dev) : Dev :=
  let h := getHold s i
  if h.begun || holdOver h h.start then endHold (i / 16) (i % 16) t s else beginHold (i / 16) (i % 16) s

/-- At most `n` starts and ends of holds that come before time `lim`, in order of time. -/
def holdActs (lim : Nat) : Nat → Dev → Dev
  | 0, s => s
  | n + 1, s =>
    match sortOn (·.2) (s.holds.filterMap fun x => (holdMc x.2).map fun t => (x.1, t)) with
    | (i, t) :: _ => if t * 1024 < lim then holdActs lim n (holdAct i t s) else s
    | [] => s

/-- The starts and ends of holds that have come before time `lim` (R156, R157): those that no command has brought in their
own mc. -/
def holdsUntil (lim : Nat) (s : Dev) : Dev := holdActs lim (s.holds.foldl (fun n x => n + 2 * (x.2.queue.length + 1)) 0) s

/-- A refused write recorded in RFX_ERR, with IRQ bit 1. -/
def rfxErr (b r cause : Nat) (s : Dev) : Dev := irqSet (rfxPage b) 2 (recordErr (A (rfxPage b) 0x90) cause r s)

/-- RFX_CLR. -/
def doRfxClr (p : Path) (b : Bank) (v : Word) (s : Dev) : Dev :=
  onWrite p (A (rfxPage b) 0x8C) (forAll ((List.range 16).filter fun r => v.getLsbD r) (endHoldNext b)) s

/-- A write of `v` to RFX_CFG of rule `r` (R160, R161). -/
def writeRfxCfg (b r v : Nat) (s : Dev) : Dev :=
  let a := rfxCfg b r
  let new := v &&& 0xFF00003F
  let old := rdN s a
  if bit old 31 then
    let s := onlyIf (decide (new % 2 ^ 31 ≠ old % 2 ^ 31)) (rfxErr b r 2) s
    if bit v 31 then s else endHoldNext b r (fset a 31 1 0 s)
  else if bit v 31 && (bits v 28 2 = 3 || bits v 26 2 = 3) then rfxErr b r 3 s
  else if bit v 31 && bits v 28 2 = 1 && rdN s (a + 4) = 0 then rfxErr b r 4 s
  else wrN a new s

/-- RFX_CFG_WRITE. -/
def doRfxCfgWrite (p : Path) (b : Bank) (r : Fin 16) (v : Word) (s : Dev) : Dev :=
  onWrite p (rfxCfg b r) (writeRfxCfg b r v.toNat) s

/-- A write of RFX_HOLD, or of the RFX_MASK pair under R57 (R160). -/
def writeRfxReg (p : Path) (b r : Nat) (reg : RfxReg) (v : Nat) (s : Dev) : Dev :=
  let a := rfxCfg b r
  if fbit s a 31 then rfxErr b r 1 s
  else match reg with
    | .hold => wrN (a + 4) v s
    | .maskLo => stageLo p (a + 8) v s
    | .maskHi => commitHi p (a + 8) v s

/-- The BAR0 offset that RFX_HOLD_WRITE names. -/
def rfxRegAddr (b r : Nat) : RfxReg → Nat
  | .hold => rfxCfg b r + 4
  | .maskLo => rfxCfg b r + 8
  | .maskHi => rfxCfg b r + 12

/-- RFX_HOLD_WRITE. -/
def doRfxHoldWrite (p : Path) (b : Bank) (r : Fin 16) (reg : RfxReg) (v : Word) (s : Dev) : Dev :=
  onWrite p (rfxRegAddr b r reg) (writeRfxReg p b r reg v.toNat) s

end Sys2Proof.Machine
end

