-- ==== Sys2Proof/Machine/Run.lean ====
section
/-! DEFINITION. A furrow's run: start and its checks, admission, priming, stop, compare results and row
flags, and the writes of the generator registers (Furrow programs; Stored rows and streaming; Formats,
compare and reflex rules; Algorithmic generation). -/
namespace Sys2Proof.Machine

/-! ### Admission (R229 to R231) -/

/-- A DDR-5 channel is mapped out. -/
def anyMappedOut (s : Dev) : Bool := (List.range 8).any fun k => fget s (A (0x188 + k) 0x84) 30 2 == 3

/-- FUR.ADM_LIMIT (R230). -/
def admLimit (s : Dev) : Nat := if anyMappedOut s then 224000 else 256000

/-- FUR.ADM_TOTAL: the demands of all furrows in PRIMING, ARMED or RUNNING (R231). -/
def admTotal (s : Dev) : Nat := (s.fur.map fun x => if furActive s x.1 then x.2.demand else 0).foldl (· + ·) 0

/-- The demand of a furrow of `n` slots (R229). -/
def admDemand (n per exp : Nat) : Nat := cdiv ((3 * n + 7) / 8 * 1600 * 1024 * 256) (per * exp)

/-- The slots that engine `m` takes at a START: the lanes its furrow owns, at most 128 (R174). -/
def slotsFor (s : Dev) (m : Nat) : List Nat := (ownedLanes s (logical s m)).take 128

/-- The demand of engine `m` at a START. -/
def demandOf (s : Dev) (m : Nat) : Nat := admDemand (slotsFor s m).length (rdN s (fa m 0x20C)) (fget s (fa m 0x208) 0 16)

/-- A declaration that admission refuses by itself (R230). -/
def admBad (s : Dev) (m : Nat) : Bool :=
  fget s (fa m 0x208) 0 16 == 0 || rdN s (fa m 0x20C) < 1024 || fget s (fa m 0x200) 0 9 == 0 || fget s (fa m 0x200) 0 9 > 256

/-! ### Start (R167, R168) -/

/-- FUR.MAP.MAPOUT. -/
def engMapout (s : Dev) (e : Nat) : Bool := fbit s (fa e 0x90) 31

/-- The engine may run: EN, READY and a logical furrow (Table 06-2). -/
def engReady (s : Dev) (e : Nat) : Bool := blkEn s (furPage e) && blkReady s (furPage e) && blkActive s (furPage e) && logical s e != 0x7F

/-- The yoke of lead `e` is inconsistent (R198). -/
def yokeBad (s : Dev) (e : Nat) : Bool :=
  let ms := yokeNamed s e
  (ms.length > 0 && yokeRole s e != 1) || ms.length > 3 || ms.any (fun m => yokePos s m == 0)
    || ms.any (fun m => (ms.filter fun x => yokePos s x == yokePos s m).length > 1)
    || ms.any (fun m => !engStopped s m || !blkEn s (furPage m) || !blkReady s (furPage m) || engMapout s m)

/-- The SERR code that refuses a START with `mode`, 0 for none; the lowest that holds (Table 06-2, R644). -/
def startErr (s : Dev) (e mode : Nat) : Nat :=
  let es := yokeEngs s e
  if !engStopped s e then 1
  else if !engReady s e then 2
  else if progLen s e = 0 || progLen s e > 0x1000000 || fget s (fa e 0x98) 0 24 ≥ progLen s e then 3
  else if yokeRole s e ≠ 2 && yokeBad s e then 4
  else if yokeRole s e = 2 then 5
  else if es.any (admBad s) || admTotal s + (es.map (demandOf s)).foldl (· + ·) 0 > admLimit s then 6
  else if mode = 3 then 7
  else 0

/-- A START or MAP write is refused with code `c` (R167). -/
def serr (e c : Nat) (s : Dev) : Dev := irqSet (furPage e) 0x20 (fset (fa e 0x84) 24 4 c (hit (fa e 0x84) 30 s))

/-- An accepted START initialises engine `m` of the yoke of `e` into PRIMING (R167, R174, R228, R241). -/
def startInit (e mode m : Nat) (s : Dev) : Dev :=
  let slots := slotsFor s m
  let d := demandOf s m
  let s := wr64 (fa m 0xB8) 0 (wrN (fa m 0xD0) 0 (wrN (fa m 0xD4) 0 (wrN (fa m 0xD8) 0 s)))
  let s := wr64 (fa m 0x230) 0 (wr64 (fa m 0x238) 0 (wr64 (fa m 0x240) 0 (wrN (fa m 0x9C) 0 s)))
  let s := wrN (fa m 0x210) d (fset (fa m 0x84) 14 2 0 (fset (fa m 0x84) 16 3 1 s))
  putFur m { slots, prev := slots.map fun _ => 7, pc := fget s (fa e 0x98) 0 24, mode,
             epoch := (siteOn s (logical s e)).elim 0 (siteEpoch s), lcCfg := rdN s (fa m 0x224), policy := fbit s (fa m 0x200) 31, demand := d,
             walk := { pc := fget s (fa e 0x98) 0 24, cnt := cntList s (now s + 1) e, stopped := decide (m ≠ e) } } s

/-- A START with `mode` on engine `e` but for what its Gleaner slices copy: refused, or initialised (R167). -/
def furStart (e mode : Nat) (s : Dev) : Dev :=
  let c := startErr s e mode
  if c ≠ 0 then
    let s := if c = 6 then forAll (yokeEngs s e) (fun m s => wrN (fa m 0x210) (if fget s (fa m 0x208) 0 16 = 0 then 0 else demandOf s m) s) s else s
    serr e c s
  else forAll (yokeEngs s e) (startInit e mode) s

/-- Every stored row of a pin has its tile (R220). -/
def pinFilled (s : Dev) (e : Nat) (p : Pin) : Bool :=
  p.ents.all fun x => match x with | .row t _ _ => (tileOf s e t).isSome | _ => true

/-- Engine `m` of the yoke of `e` may leave PRIMING: its hopper is filled to PRIME, or the walk has ended and it has every row that
the walk requested; and its pins are filled (R220, R223). -/
def primedOn (s : Dev) (e m : Nat) : Bool :=
  let f := getFur s m
  let k := (getFur s e).walk
  (decide (entsBytes f f.hop ≥ fget s (fa m 0x200) 0 9 * 1024) || (k.stopped && k.left == 0 && f.want.isEmpty)) && f.pins.all (pinFilled s m)

/-- A furrow in PRIMING may leave it, with every member of its yoke (R220, R223). -/
def primed (s : Dev) (e : Nat) : Bool := (yokeEngs s e).all (primedOn s e)

/-- A sync event cannot be used by a furrow that entered ARMED in mc `armed` (R168, R645). -/
def syncUnusable (armed a q : Nat) : Bool := q < armed + 64 || q < a + 22

/-- LATE of a furrow: the flag and IRQ bit 4 (R168). -/
def furLate (e : Nat) (s : Dev) : Dev := irqSet (furPage e) 0x10 (hit (fa e 0x84) 31 s)

/-- PRIME_COMPLETE: the furrow and its members enter ARMED, and an AT_TS start finds whether it is late
(R168, R220). -/
def doPrimeComplete (e : Fin 66) (s : Dev) : Dev :=
  let e := e.toNat
  if furState s e = 1 && yokeRole s e ≠ 2 && primed s e then
    let t := now s
    let s := forAll (yokeEngs s e) (fun m s => fset (fa m 0x84) 16 3 2 (setFur m { getFur s m with armed := t } s)) s
    let f := getFur s e
    let mode := f.mode
    let ts := rd64 s (fa e 0xB0)
    if mode = 0 then setFur e { f with startMc := some (t + 64) } s
    else if mode = 1 then
      if t + 64 ≤ ts then setFur e { f with startMc := some ts } s else furLate e (setFur e { f with startMc := some (t + 64) } s)
    else
      match s.syncEv with
      | some (a, q) => if t ≤ q && syncUnusable t a q then furLate e s else s
      | none => s
  else s

/-- The start mc of an ARMED furrow, once it is known (R168). -/
def startTime (s : Dev) (e : Nat) : Option Nat :=
  let f := getFur s e
  match f.startMc with
  | some t => some t
  | none =>
    match s.syncEv with
    | some (a, q) => if f.mode = 2 && !syncUnusable f.armed a q then some q else none
    | none => none

/-- RUN_START: in the mc 22 mc before the start the furrows of the yoke issue row 0 (R168, R199). -/
def furRunStart (e : Nat) (s : Dev) : Dev :=
  match startTime s e with
  | some t =>
    if furState s e = 2 && yokeRole s e ≠ 2 && t = now s + 22 then
      let s := forAll (yokeEngs s e) (fun m s => fset (fa m 0x84) 16 3 3 (setFur m { getFur s m with tNext := t * 1024 } s)) s
      let s := issueNext e none s
      if rd64 s (fa e 0xB8) = 0 then s else forAll (yokeEngs s e) (fun m => irqSet (furPage m) 8) s
    else s
  | none => s

/-! ### Stop (R170, R171, R201, R222) -/

/-- The engines of lane owner `e` have stopped: swaps no longer wait for its rows, and a SUSPECT slice is replaced (R107, R108, R136,
R137, R139). -/
def lanesFree (slots : List Nat) (s : Dev) : Dev :=
  let over' := fun (b j : Nat) => (sliceLane s b j).any slots.contains
  let s := { s with adj := mdrop (fun l => slots.contains l) s.adj
                    cal := s.cal.map fun c => (c.1, { c.2 with swapRow := mdrop (over' c.1) c.2.swapRow }) }
  forAll slots spareAtStop s

/-- Engine `e` enters a stopped state: its hopper and loop cache empty, its demand leaves the sum, and
after a run with HALT_PARK its lanes park (R171, R222, R231). Its loop and call stacks stay until the next START (R167). -/
def enterStopped (e state cause : Nat) (ran : Bool) (s : Dev) : Dev :=
  let f := getFur s e
  let s := irqSet (furPage e) 1 (fset (fa e 0x84) 20 3 cause (fset (fa e 0x84) 16 3 state s))
  let s := endEpisode e s
  let s := forAll (getFur s e).clrs (fun c => clearLatch e c.2.1 c.2.2.1 c.2.2.2 (c.1 * 1024)) s
  let s := putFur e { getFur s e with hop := [], want := [], asked := [], tiles := [], pins := [], walk := {}, cur := none, endc := 0, pend := [], clrs := [],
                                      waitRows := [], drain := none, xfault := none, stop := none, ending := none, endBy := [], startMc := none, srv := none,
                                      path := [], wtile := none, reBad := none, selC := none, miss := false } s
  let s := forAll f.slots (fun l => parksDue l f.tNext none) s
  let s := lanesFree f.slots s
  onlyIf (ran && fbit s (fa e 0x88) 0 && !f.halted) (fun s => forAll f.slots (fun l s =>
    haltPark l f.tNext s) s) s

/-- A stop of engine `e` with CAUSE `c`: at once from PRIMING and ARMED, else after the rows whose fetch
stage has begun; a yoke stops together (R170, R201). -/
def furStop (e c : Nat) (s : Dev) : Dev :=
  let l := leadOf s e
  let es := yokeEngs s l
  if furState s e = 1 || furState s e = 2 then
    forAll es (fun m s => enterStopped m 4 (if m = e then c else 5) false s) s
  else if furState s e = 3 then
    let f := getFur s e
    let s := setFur e { f with stop := match f.stop with | some x => some x | none => some (now s, c) } s
    setFur l { getFur (noteSel l s) l with pend := [], drain := none } s
  else s

/-- No event that a row of engine `m` placed is still to come after the current mc (R128). -/
def eventsOver (s : Dev) (m : Nat) : Bool := (getFur s m).slots.all fun l => (getLane s l).evs.all fun v => decide (v.t < nextMcVs s)

/-- No further row of lead `l` comes: it ends, or a STOP shuts out the next row (R170, R202). -/
def lastRow (s : Dev) (l : Nat) : Bool :=
  (getFur s l).ending.isSome || (match yokeStopMc s l with | some m => decide (m + 22 < (getFur s l).tNext / 1024) | none => false)

/-- The lanes of the furrows with HALT_PARK whose last row has ended by time `lim` park at its end (R171). -/
def haltParks (lim : Nat) (s : Dev) : Dev :=
  let past := fun (x : Nat × Furrow) => furState s x.1 == 3 && !x.2.halted && fbit s (fa x.1 0x88) 0
    && lastRow s (leadOf s x.1) && decide ((getFur s (leadOf s x.1)).tNext ≤ lim)
  forAll (sortOn (fun m => (getFur s m).tNext) ((s.fur.filter past).map (·.1))) (fun m s =>
    let f := getFur s m
    setFur m { getFur s m with halted := true } (forAll f.slots (fun l => haltPark l f.tNext) (holdsUntil f.tNext s))) s

/-- What the drive lanes have done by the start of the current mc: a Quench that has reached them, the parks of HALT_PARK, the
starts and ends of reflex holds, and the placed events. -/
def laneAdvance (s : Dev) : Dev :=
  let due := s.flt.quenchPend && (!s.clk || decide (s.flt.quenchMc ≤ now s))
  let t := if s.clk then s.flt.quenchMc * 1024 else nowVs s
  let s := if due then quenchPark t (holdsUntil t (haltParks t s)) else s
  lanesUntil (nowVs s) (holdsUntil (nowVs s) (haltParks (nowVs s) s))

/-- Every issued row of the yoke has delivered its results, and no further row comes; after a STOP, the spilled events
have come too (R170), but where HALT_PARK ends them with the last row (R171). -/
def runOver (s : Dev) (l : Nat) : Bool :=
  let f := getFur s l
  furState s l == 3
    && lastRow s l
    && decide (f.tNext ≤ nowVs s + 1023) && (yokeEngs s l).all fun m => (getFur s m).issued.all (·.flagged) && (f.ending.isSome || fbit s (fa m 0x88) 0 || eventsOver s m)

/-- The state and CAUSE in which engine `m` of the yoke of `l` ends (R201, R202). -/
def endState (s : Dev) (l m : Nat) : Nat × Nat :=
  match (getFur s m).stop, (getFur s l).ending with
  | some (_, c), none => (4, c)
  | _, some 3 => (5, 3)
  | _, some c => if m = l && (getFur s l).endBy.isEmpty || (getFur s l).endBy.contains m then (4, c) else (4, 5)
  | none, none => (4, 5)

/-- The furrows of the yoke of lead `l` enter their stopped states. -/
def furStopped' (l : Nat) (s : Dev) : Dev :=
  let ends := (yokeEngs s l).map fun m => (m, endState s l m)
  forAll ends (fun p s =>
    enterStopped p.1 p.2.1 p.2.2 true s) s

/-! ### Compare results and row flags (R26, R150 to R153, R186) -/

/-- Lane `l` carries P for a park condition at some time from `a` to `b` (R111, Table 05-6). -/
def parkedIn (ln : Lane) (a b : Nat) : Bool :=
  histAt ln.parkHist ln.parked a || ln.parkHist.any fun x => x.2 && decide (a < x.1) && decide (x.1 ≤ b)

/-- A strobe's result once it is due: the sample, and its judgement unless masked, a window's by a park at any time from its S0 to
its S1 (R148 to R152). -/
def judge (s : Dev) (sts : List Strobe) (k : Nat) (x : Strobe) : Strobe :=
  if x.smp.isSome || !x.placed then x
  else
    let ln := getLane s x.lane
    let sup := fun w t => stSuppressed (stOf (getLane s x.lane) w) t k
    let smp := senseAt s x.lane x.t
    let other := sts.find? fun y => y.lane == x.lane && y.which != x.which
    let winMask := x.cmp == 2 && (match other with | some y => !y.placed || sup y.which y.t | none => true)
    let t0 := match other with
      | some y => min y.t x.t
      | none => x.t
    let masked := x.masked || sup x.which x.t || winMask || parkedIn ln (if x.cmp = 2 then t0 else x.t) x.t
      || (quenchParks s && decide (s.flt.quenchMc * 1024 ≤ x.t))
    let x := { x with smp := some smp, masked }
    if masked then x
    else if x.cmp = 2 then
      if x.which = 0 then x
      else
        let bad := !passes x.sym (senseAt s x.lane t0) || !passes x.sym smp
          || (senseBetween s x.lane t0 x.t).any fun y => !passes x.sym y
        { x with fail := some bad }
    else { x with fail := some (!passes x.sym smp) }

/-- The results of engine `m` that are available by the end of the current mc. -/
def judgeRows (m : Nat) (s : Dev) : Dev :=
  let f := getFur s m
  let due := fun (x : Strobe) => x.t + 16384 < nowVs s + 1024
  let newly := f.issued.flatMap fun r => (r.strobes.filter fun x => due x && x.smp.isNone && x.placed
    && stSuppressed (stOf (getLane s x.lane) x.which) x.t r.k).map fun x => (x.lane, r.k)
  let s' := setFur m { f with issued := f.issued.map fun r =>
    { r with strobes := r.strobes.map fun x => if due x then judge s r.strobes r.k x else x } } s
  forAll newly (fun p => dropEvent p.1 p.2 0x90) s'

/-- Every strobe that counts in s_last of the row has its result. -/
def rowJudged (r : Row) : Bool := r.strobes.all fun x => x.smp.isSome || !x.counted

/-- ROW_FAIL and ROW_MATCH of row `k` over the engines `es` (R153). -/
def rowFlags (s : Dev) (es : List Nat) (k : Nat) : Bool × Bool :=
  let sts := es.flatMap fun m => (getFur s m).issued.flatMap fun r => if r.k = k then r.strobes else []
  let fail := sts.any fun x => x.fail == some true
  (fail, !fail && sts.any fun x => x.fail == some false)

/-- The sticky fail latch of engine `m` sets at time `t` while it is RUNNING (R186). -/
def setSfail (m t : Nat) (s : Dev) : Dev :=
  if furState s m = 3 then latSet m 0 t s else s

/-- The flags of the rows of lead `l` that are due are delivered, in row order (R153). -/
def deliverFlags (l : Nat) (s : Dev) : Dev :=
  let es := yokeEngs s l
  let due := (getFur s l).issued.filter fun r => !r.flagged && r.flagT < nowVs s + 1024
    && es.all fun m => (getFur s m).issued.all fun x => x.k != r.k || rowJudged x
  forAll due (fun r s =>
    let (fail, mat) := rowFlags s es r.k
    let own := fun m => (rowFlags s [m] r.k).1
    let s := forAll es (fun m s =>
      let f := getFur s m
      setFur m { f with issued := f.issued.map fun x => if x.k = r.k then { x with flagged := true, rowFail := fail, rowMatch := mat } else x } s) s
    forAll es (fun m => onlyIf (if m = l then fail else own m) (setSfail m r.flagT)) s) s

/-- COMPARE_RESULT (R26): results and flags that have become available reach the furrow. -/
def doCompareResult (e : Fin 66) (s : Dev) : Dev :=
  let l := leadOf s e
  deliverFlags l (forAll (yokeEngs s l) judgeRows s)

/-! ### Generator writes (R244, R250, R256) -/

/-- A refused write recorded in GEN_ERR, with IRQ bit 8 (R244). -/
def genErr (e cause off : Nat) (s : Dev) : Dev := irqSet (furPage e) 0x100 (recordErr (fa e 0x900) cause off s)

/-- The cause that refuses a write of `v` at page offset `o` of engine `e`, 0 for none (Table 08-8). -/
def genWriteErr (s : Dev) (e o v : Nat) : Nat :=
  if !engStopped s e then 1
  else if o < 0x900 then
    (if gregBad ((o - 0x800) / 4) v then 2 else if gregReserved ((o - 0x800) / 4) then 3 else 0)
  else if o < 0xA00 then (if scrBad (bits v 0 16) || scrBad (bits v 16 16) then 2 else 0)
  else if ovlBad (bits v 0 16) || ovlBad (bits v 16 16) then 2 else 0

/-- A write of FUR.GEN, SCR_X, SCR_Y or OVL_ENT (R244). -/
def genWrite (e o v : Nat) (s : Dev) : Dev :=
  let c := genWriteErr s e o v
  if c ≠ 0 then genErr e c o s
  else if o < 0xA00 then wrN (fa e o) v s
  else { s with ovl := mset (fun _ => 0) ((e * 8 + fget s (fa e 0x904) 0 3) * 64 + (o - 0xA00) / 4) (w32 v) s.ovl }

/-- The offsets of the generator's own registers. -/
def isGenOff (o : Nat) : Bool :=
  o % 4 == 0 && ((0x800 ≤ o && o < 0x900) || (0x940 ≤ o && o < 0x9C0) || (0xA00 ≤ o && o < 0xB00))

/-- GENERATOR_WRITE (R244). -/
def doGeneratorWrite (p : Path) (e : Fin 66) (off : BitVec 12) (v : Word) (s : Dev) : Dev :=
  if isGenOff off.toNat then onWrite p (fa e off.toNat) (genWrite e off.toNat v.toNat) s else s

end Sys2Proof.Machine
end

