-- ==== Sys2Proof/Machine/Gleaner.lean ====
section
/-! DEFINITION. The Gleaner's slices: record buffers with their loss episodes, codeword windows, statistics
units, histograms, transition capture and the run summary (The Gleaner: fail and transition reduction). -/
namespace Sys2Proof.Machine

/-! ### Addresses and state -/

/-- The GLN page of slice `f` (R264). -/
def glnPage (f : Nat) : Nat := 0x100 + f / 2
/-- A register of slice `f`'s window (R264). -/
def ga (f o : Nat) : Nat := A (glnPage f) (0x100 + 0x400 * (f % 2) + o)

def getSl (s : Dev) (f : Nat) : Slice := mget (fun _ => {}) s.gln.slices f
def setSl (f : Nat) (x : Slice) (s : Dev) : Dev := { s with gln := { s.gln with slices := mset (fun _ => {}) f x s.gln.slices } }

/-- A setting in force since the last START: 0 CFG, 1 LOG_LIMIT, 2 WIN_CFG, 3 WIN_MIN, 4 WIN_THR, 5 CAP_CFG,
6 to 9 CAP_MASK, 10 + 3u STAT_CFG, STAT_NTGT and STAT_SEL of unit u (R268). -/
def eff (s : Dev) (f i : Nat) : Nat := nth 0 (getSl s f).eff i

/-- The settings as the registers hold them. -/
def glnRegs (s : Dev) (f : Nat) : List Nat :=
  ([0x000, 0x008, 0x010, 0x014, 0x018, 0x01C, 0x020, 0x024, 0x028, 0x02C].map fun o => rdN s (ga f o))
  ++ (List.range 4).flatMap fun u => [0, 4, 8].map fun o => rdN s (ga f (0x100 + 0x40 * u + o))

/-- The page of slice `f` takes rows: ACTIVE and not DRAINING (R265). -/
def glnOn (s : Dev) (f : Nat) : Bool := running s (glnPage f)

/-- SSTAT's live fields (Table 09-10). -/
def showSl (f : Nat) (s : Dev) : Dev :=
  let x := getSl s f
  let bytes := (x.buf.map fun r => 16 + r.body.length).foldl (· + ·) 0
  let v := b2n x.win.isSome * 2 ^ 29 + b2n (!x.loss.isEmpty) * 2 ^ 28 + sat (cdiv bytes 64) 256 * 2 ^ 16 + sat x.stage.length 2048
  let a := ga f 4
  wrN a (bits (rdN s a) 30 2 * 2 ^ 30 + v) s

/-- The logical furrow that leads the yoke of furrow `f`, and `f`'s position in it. -/
def leadFur (s : Dev) (f : Nat) : Nat :=
  match engOf s f with
  | some e => logical s (leadOf s e)
  | none => f

/-- Position of furrow `f` in its yoke, 0 for the lead or a solo furrow. -/
def posFur (s : Dev) (f : Nat) : Nat :=
  match engOf s f with
  | some e => if yokeRole s e = 2 then yokePos s e else 0
  | none => 0

/-- The furrow is a yoke member: the lead's slice has its windows and summary (R267). -/
def isMember (s : Dev) (f : Nat) : Bool := leadFur s f != f

/-! ### Record buffer and losses (R291 to R295) -/

/-- Records leave the slice's buffer for the Granary while it takes them (R291, R293, R438); those of the current mc wait for
its end, since more records that go before them may close in it (R295). -/
def pumpSl (f : Nat) : Nat → Dev → Dev
  | 0, s => s
  | n + 1, s =>
    let x := getSl s f
    match x.buf with
    | [] => s
    | r :: rs =>
      if r.ts = now s then s
      else match siteOn s (leadFur s f) with
      | none => pumpSl f n (setSl f { x with buf := rs } s)
      | some i =>
        let o : Offer := { q := siteQueue s i, typ := r.typ, flags := r.flags, epoch := r.epoch, sys := false, len := 16 + r.body.length,
                           ts := r.ts, body := r.body, whole := true, tag := 0 }
        if grnRoom o s then pumpSl f n (offer o (setSl f { x with buf := rs } s)) else s

/-- Every buffer's waiting records are offered again. -/
def pumpAll (s : Dev) : Dev := forAll (s.gln.slices.map (·.1)) (fun f s => showSl f (pumpSl f 300 s)) s

/-- Bytes in the record buffer. -/
def bufBytes (x : Slice) : Nat := (x.buf.map fun r => 16 + r.body.length).foldl (· + ·) 0

/-- The place of a record type among the records that close in one mc: fail-log, transition, window, statistics,
histogram, gap, summary (R295). -/
def recRank (typ : Nat) : Nat :=
  if typ = 0x10 then 0 else if typ = 0x12 then 1 else if typ = 0x11 then 2 else if typ = 0x13 then 3 else if typ = 0x14 then 4
  else if typ = 0x15 then 6 else 5

/-- A record placed behind those of earlier mc and those of its own mc that it does not go before (R295). -/
def insRec (r : BufRec) : List BufRec → List BufRec
  | [] => [r]
  | x :: xs => if x.ts = r.ts && recRank r.typ < recRank x.typ then r :: x :: xs else x :: insRec r xs

/-- A record that closes in the current mc enters the buffer. -/
def pushBuf (f typ : Nat) (tinv : Bool) (body : List Byte) (s : Dev) : Dev :=
  let x := getSl s f
  let tinv := tinv || ((engOf s f).any (idleNow s))
  setSl f { x with buf := insRec { typ, flags := b2n tinv * 0x80, epoch := x.epoch, ts := now s, body } x.buf } s

/-- The number of the row most recently taken. -/
def lastTaken (s : Dev) (f : Nat) : Nat := (getSl s f).last

/-- A loss, of a record or entry that is timing-invalid with `tinv`: the first of an episode sets SSTAT.LOSS and IRQ bit h, and
every one is counted in `ctr` (R291, R294). -/
def lossOne (f c ctr : Nat) (tinv : Bool) (s : Dev) : Dev :=
  let x := getSl s f
  let s := inc64 (ga f ctr) 1 s
  match mget (fun _ => none) x.loss c with
  | some ep => setSl f { x with loss := mset (fun _ => none) c (some { ep with count := ep.count + 1, tinv := ep.tinv || tinv }) x.loss } s
  | none =>
    let s := setSl f { x with loss := mset (fun _ => none) c (some { row := x.last, count := 1, ts := now s, tinv }) x.loss } s
    irqSet (glnPage f) (2 ^ (f % 2)) (hit (ga f 4) 31 s)

/-- The loss episode of cause 0x10 + `c` ends with its gap record (R292). -/
def endLoss (f c : Nat) (opn : Bool) (s : Dev) : Dev :=
  let x := getSl s f
  match mget (fun _ => none) x.loss c with
  | none => s
  | some ep =>
    let s := setSl f { x with loss := mset (fun _ => none) c none x.loss, lossRun := true } s
    pushBuf f 4 ep.tinv (gapBody ep.row ep.count ep.ts ((0x10 + c) * 2 ^ 24) (b2n opn * 2 ^ 30 + f)) s

/-- A record of loss cause `c` is accepted by the buffer, which ends an open episode, or is lost (R291, R292). -/
def glnRecord (f c typ : Nat) (tinv : Bool) (body : List Byte) (s : Dev) : Dev :=
  if bufBytes (getSl s f) + 16 + body.length > 16384 - 512 then lossOne f c 0x50 tinv s
  else endLoss f c false (pushBuf f typ tinv body s)

/-! ### Statistics and histograms (R283 to R289) -/

def getSet (s : Dev) (f u : Nat) : StatSet := mget (fun _ => {}) (getSl s f).sets u
def putSet (f u : Nat) (x : StatSet) (s : Dev) : Dev :=
  setSl f { getSl s f with sets := mset (fun _ => {}) u x (getSl s f).sets } s

/-- A register of statistics unit `u`. -/
def sa (f u o : Nat) : Nat := ga f (0x100 + 0x40 * u + o)

/-- The unit's registers show the open set. -/
def showSet (f u : Nat) (s : Dev) : Dev :=
  let x := getSet s f u
  let s := wrN (sa f u 0x18) x.mx (wrN (sa f u 0x14) x.mn (wr64 (sa f u 0x0C) x.n s))
  wrN (sa f u 0x2C) (x.s2 / 2 ^ 64) (wr64 (sa f u 0x24) x.s2 (wr64 (sa f u 0x1C) x.s1 s))

/-- MEAN of a set, with 16 fractional bits, halves rounded up (R287). -/
def statMean (n s1 : Nat) : Nat := (s1 * 131072 + n) / (n * 2)

/-- SD of a set: the integer r with (r − 1/2)² ≤ num × 2^32 ÷ den < (r + 1/2)² (R287). -/
def statSd (n s1 s2 : Nat) : Nat := if n < 2 then 0 else (isqrt ((n * s2 - s1 * s1) * 2 ^ 34 / (n * (n - 1))) + 1) / 2

/-- The histogram units that take statistics unit `u` of slice `f` (R288). -/
def histUnits (s : Dev) (f u : Nat) : List Nat :=
  (List.range 16).filter fun k => fbit s (A (0x100 + k) 0x900) 31 && fget s (A (0x100 + k) 0x900) 0 6 == f
    && fget s (A (0x100 + k) 0x900) 8 2 == u && pageOn s (0x100 + k) && blkActive s (0x100 + k)

/-- A histogram unit's counts cleared. -/
def clearHist (k : Nat) (s : Dev) : Dev :=
  { s with regs := mdrop (fun a => a / 0x1000 == 0x100 + k && (0xA00 ≤ a % 0x1000 || (0x908 ≤ a % 0x1000 && a % 0x1000 < 0x910))) s.regs }

/-- One value binned by unit `k` (R288). -/
def histValue (k v : Nat) (s : Dev) : Dev :=
  let pg := 0x100 + k
  let base := rdN s (A pg 0x904)
  if v < base then incSat (A pg 0x908) 0 32 1 s
  else
    let j := (v - base) >>> fget s (A pg 0x900) 24 5
    if j < 256 then incSat (A pg (0xA00 + 4 * j)) 0 32 1 s else incSat (A pg 0x90C) 0 32 1 s

/-- The histogram record of unit `k` at the close of its set (R289, Table 09-7). -/
def histRecord (f u k cause : Nat) (tinv : Bool) (s : Dev) : Dev :=
  let pg := 0x100 + k
  let info := cause * 2 ^ 28 + fget s (A pg 0x900) 24 5 * 2 ^ 23 + k * 2 ^ 16 + u * 2 ^ 6 + f
  let body := leBytes 4 (rdN s (A pg 0x908)) ++ leBytes 4 (rdN s (A pg 0x90C)) ++ leBytes 4 (rdN s (A pg 0x904)) ++ leBytes 4 info
    ++ (List.range 256).flatMap fun j => leBytes 4 (rdN s (A pg (0xA00 + 4 * j)))
  clearHist k (glnRecord f 3 0x14 tinv body s)

/-- The open set of unit `u` closes with `cause`: its statistics record (R286, R287, Table 09-6). -/
def closeStat (f u cause : Nat) (s : Dev) : Dev :=
  let x := getSet s f u
  if x.n = 0 then s
  else
    let mean := statMean x.n x.s1
    let sd := statSd x.n x.s1 x.s2
    let info := cause * 2 ^ 28 + b2n x.saturated * 2 ^ 27 + b2n (x.n < 2) * 2 ^ 26 + u * 2 ^ 24 + bits (eff s f (10 + 3 * u)) 27 3 * 2 ^ 21 + f
    let body := leBytes 8 x.n ++ leBytes 8 x.s1 ++ leBytes 16 x.s2 ++ leBytes 4 x.mn ++ leBytes 4 x.mx ++ leBytes 8 mean ++ leBytes 8 sd
      ++ leBytes 8 x.row ++ leBytes 4 x.z ++ leBytes 4 info ++ zeros 8
    let s := wr64 (sa f u 0x38) sd (wr64 (sa f u 0x30) mean s)
    let s := glnRecord f 3 0x13 x.tinv body (putSet f u {} s)
    let s := logQ { kind := 2, unit := 4 * f + u, t := now s, n := x.n, mean := mean, sd, mn := x.mn, mx := x.mx, warm0 := warm0 s } s
    showSet f u s

/-- The open sets of units `us` close with `cause`: their statistics records, then those of their histograms (R289,
R295). -/
def closeSets (f cause : Nat) (us : List Nat) (s : Dev) : Dev :=
  let open' := us.filter fun u => (getSet s f u).n != 0
  let tinv := open'.map fun u => (u, (getSet s f u).tinv)
  let s := forAll open' (fun u => closeStat f u cause) s
  forAll tinv (fun p s => forAll (histUnits s f p.1) (fun k => histRecord f p.1 k cause p.2) s) s

/-- The open set of unit `u` closes with `cause`. -/
def closeSet (f u cause : Nat) (s : Dev) : Dev := closeSets f cause [u] s

/-- The open set of unit `u` is discarded with its histograms (R286, R289). -/
def dropSet (f u : Nat) (s : Dev) : Dev := forAll (histUnits s f u) clearHist (showSet f u (putSet f u {} s))

/-- Unit `u` runs with source `src` (Table 09-5). -/
def unitSrc (s : Dev) (f u src : Nat) : Bool := bit (eff s f (10 + 3 * u)) 30 && bits (eff s f (10 + 3 * u)) 27 3 == src

/-- A value enters unit `u` of slice `f` (R283, R285, R286); it comes from the reference-plane times `sp`, which the set keeps
while a row of them can still be marked (R294). -/
def statValue (f u v row z : Nat) (tinv : Bool) (sp : List (Nat × Nat)) (s : Dev) : Dev :=
  let c := eff s f (10 + 3 * u)
  let s := onlyIf (bit c 25 && bits c 27 3 == 1 && (getSet s f u).n != 0 && (getSet s f u).z != z) (closeSet f u 2) s
  let x := getSet s f u
  let w := sat v m32
  let x := { x with n := x.n + 1, s1 := x.s1 + w, s2 := x.s2 + w * w, mn := min x.mn w, mx := max x.mx w,
                    saturated := x.saturated || decide (v > m32), tinv := x.tinv || tinv,
                    spans := sp ++ x.spans.filter fun p => decide (nowVs s < p.2 + 2 ^ 17),
                    row := if x.n = 0 then row else x.row, z := if x.n = 0 then z else x.z }
  let s := showSet f u (putSet f u x s)
  let s := forAll (histUnits s f u) (fun k => histValue k w) s
  let tgt := eff s f (11 + 3 * u)
  onlyIf (x.n = (if tgt = 0 then 2 ^ 32 else tgt)) (closeSet f u 1) s

/-- The pending interval of unit `u`. -/
def pendIv (s : Dev) (f u : Nat) : Option (Nat × Bool × Nat) := mget (fun _ => none) (getSl s f).ivs u
/-- The pending interval of unit `u` replaced. -/
def setIv (f u : Nat) (x : Option (Nat × Bool × Nat)) (s : Dev) : Dev :=
  setSl f { getSl s f with ivs := mset (fun _ => none) u x (getSl s f).ivs } s

/-- An event at `t` of an interval source, at `at'` at the reference plane: it ends the pending interval when it is the stop
event, with the value that `val` gives, and begins one when it is the start event (R284). -/
def ivEvent (f u t at' : Nat) (tinv isStart isStop : Bool) (val : Nat → Nat) (s : Dev) : Dev :=
  let s := match pendIv s f u with
    | some (a, ti, ra) =>
      if isStop then statValue f u (val a) (lastTaken s f) 0 (tinv || ti) [(ra, ra + 1), (at', at' + 1)] (setIv f u none s) else s
    | none => s
  if isStart then setIv f u (some (t, tinv, at')) s else s

/-! ### Codeword windows (R274 to R277) -/

/-- The open window closes with `cause` (R277, Table 09-3); its ERRORS feed the WINERR units. -/
def closeWin (f cause : Nat) (s : Dev) : Dev :=
  let x := getSl s f
  match x.win with
  | none => s
  | some w =>
    let s := incSat (ga f 0x30) 0 32 1 (setSl f { x with win := none } s)
    let s := onlyIf (w.errors > eff s f 4) (incSat (ga f 0x34) 0 32 1) s
    let rec' := bits (eff s f 2) 27 2
    let body := leBytes 8 w.first ++ leBytes 4 w.x ++ leBytes 4 w.y ++ leBytes 4 (cause * 2 ^ 28 + b2n w.cont * 2 ^ 27 + w.z % 2 ^ 24)
      ++ leBytes 4 w.rows ++ leBytes 4 w.bits ++ leBytes 4 w.errors
    let s := onlyIf (rec' == 1 || (rec' == 2 && w.errors ≥ eff s f 3)) (glnRecord f 2 0x11 w.tinv body) s
    forAll ((List.range 4).filter fun u => unitSrc s f u 1) (fun u => statValue f u w.errors w.first w.z w.tinv [(w.t0 + planeDly s, w.t1 + planeDly s)]) s

/-! ### Transition capture (R278 to R282) -/

/-- Captured tags are gated: the latest GMK_ON row that starts, at the reference plane, at or before the tag
has no later GMK_OFF row that does (R280). -/
def gateOpen (s : Dev) (f tag : Nat) : Bool :=
  let c := eff s f 5
  if !bit c 29 then true
  else
    let rows := (match engOf s f with
      | some e => (getFur s e).issued.filterMap fun r => if r.mkEv ≠ 0 then some (r.t, r.mkEv) else none
      | none => []) ++ (getSl s f).marks
    let due := rows.filter fun r => (r.1 + planeDly s) / 128 ≤ tag
    let on := (due.filter fun r => r.2 == bits c 27 2).map (·.1)
    let t := on.foldl max 0
    !on.isEmpty && !due.any fun r => r.2 == bits c 25 2 && r.1 > t

/-- An entry that comes in mc `m` is staged, or lost beyond the 16th of that mc or when the buffer is full (R280, R282). -/
def stageEntry (f kind tag slot st : Nat) (tinv : Bool) (m : Nat) (s : Dev) : Dev :=
  let c := eff s f 5
  if !bit c (31 - kind) || !bit (eff s f (6 + slot / 32)) (slot % 32) || !gateOpen s f tag then s
  else
    let x := getSl s f
    let n := match x.inMc.find? fun y => y.1 == m with
      | some y => y.2
      | none => 0
    let inMc := (m, n + 1) :: x.inMc.filter fun y => y.1 != m && m < y.1 + 64
    if x.stage.length ≥ 2048 || n ≥ 16 then lossOne f 0 0x58 tinv (setSl f { x with inMc } s)
    else endLoss f 0 false (setSl f { x with stage := x.stage ++ [{ kind, tag, slot, st, row := x.last, tinv }], inMc } s)

/-- The open transition record of a kind. -/
def openRec (x : Slice) (kind : Nat) : Option TRec := if kind = 0 then x.rec0 else x.rec1
/-- The open transition record of a kind replaced. -/
def setRec (x : Slice) (kind : Nat) (r : Option TRec) : Slice := if kind = 0 then { x with rec0 := r } else { x with rec1 := r }

/-- Order of entries in a record (R280). -/
def entBefore (a b : TEnt) : Bool := a.tag < b.tag || (a.tag == b.tag && a.slot < b.slot)
/-- An entry placed in that order. -/
def insEnt (e : TEnt) : List TEnt → List TEnt
  | [] => [e]
  | x :: xs => if entBefore e x then e :: x :: xs else x :: insEnt e xs

/-- An entry's 4 bytes (R280). -/
def entWord (base : Nat) (e : TEnt) : List Byte := leBytes 4 ((e.tag - 8 * base) * 2 ^ 10 + e.slot * 2 ^ 3 + e.st * 2)

/-- The open transition record of a kind closes (R281, Table 09-4). -/
def closeTrans (f kind : Nat) (s : Dev) : Dev :=
  let x := getSl s f
  match openRec x kind with
  | none => s
  | some r =>
    let info := kind * 2 ^ 24 + r.ents.length * 2 ^ 16 + posFur s f * 2 ^ 6 + f
    let body := leBytes 8 r.base ++ leBytes 8 r.row ++ leBytes 4 info ++ zeros 4
      ++ (let es := r.ents.flatMap (entWord r.base); es ++ zeros (88 - es.length))
    glnRecord f 0 0x12 (r.ents.any (·.tinv)) body (setSl f (setRec x kind none) s)

/-- An entry joins the open record of its kind, or opens the next; true when a record closed (R281). -/
def recEntry (f : Nat) (e : TEnt) (s : Dev) : Dev × Bool :=
  let fits := match openRec (getSl s f) e.kind with
    | some r => decide (8 * r.base ≤ e.tag) && decide (e.tag - 8 * r.base < 2 ^ 22)
    | none => true
  let s' := if fits then s else closeTrans f e.kind s
  let x := getSl s' f
  let r : TRec := match openRec x e.kind with
    | some r => { r with ents := insEnt e r.ents }
    | none => { base := e.tag / 8, row := e.row, ents := [e] }
  let s' := setSl f (setRec x e.kind (some r)) s'
  if r.ents.length ≥ 22 then (closeTrans f e.kind s', true) else (s', !fits)

/-- Staged entries move to records until one closes, or all have moved; the count moved. -/
def drainGo (f : Nat) (whole : Bool) : List TEnt → Nat → Dev → Nat × Dev
  | [], n, s => (n, setSl f { getSl s f with stage := [] } s)
  | e :: es, n, s =>
    let (s, closed) := recEntry f e s
    if closed && !whole then (n + 1, setSl f { getSl s f with stage := es } s) else drainGo f whole es (n + 1) s

/-- The staging buffer of slice `f` drains to records, by one record or whole. -/
def drainStage (f : Nat) (whole : Bool) (s : Dev) : Nat × Dev := drainGo f whole (getSl s f).stage 0 s

/-- TRANSITION_DRAIN (R282): the next slice that holds entries, in ascending order, drains one record's worth, at
no more than 2 G entries/s (5 entries in 4 mc). The back end is clocked by the fabric clock: it acts at a rising edge, in an mc
whose TS is even, and is free again at one (R28, Table 01-3). -/
def doTransitionDrain (s : Dev) : Dev :=
  let have' := (s.gln.slices.filter fun x => !x.2.stage.isEmpty).map (·.1)
  if now s < s.gln.freeAt || now s % 2 = 1 then s
  else
    match (have'.filter (· ≥ s.gln.next)) ++ have' with
    | [] => s
    | f :: _ =>
      let (n, s) := drainStage f false s
      showSl f { s with gln := { s.gln with next := f + 1, freeAt := now s + 2 * cdiv (2 * n) 5 } }

/-- TRANSITION_RECORD_AGE (R281). -/
def doTransitionRecordAge (f : Fin 64) (kind : Fin 2) (s : Dev) : Dev :=
  let c := bits (eff s f 5) 0 20
  match openRec (getSl s f) kind with
  | some r => if c ≠ 0 && r.base + c ≤ now s then showSl f (closeTrans f kind s) else s
  | none => s

/-- The code of a reported state in entries and STAT_SEL. -/
def stCode : SState → Nat
  | .l => 0 | .m => 1 | .h => 2

/-- The transition that a step has ended with is captured, and fed to the INTERVAL units (R278, R280, R283, R284). -/
def glnEntry (f : Nat) (p : GSense) (s : Dev) : Dev :=
  let s := stageEntry f 0 p.tag p.slot p.st p.tinv p.m s
  forAll ((List.range 4).filter fun u => unitSrc s f u 3) (fun u s =>
    let c := eff s f (12 + 3 * u)
    let isA := bits c 30 2 == p.st && bits c 23 7 == p.slot
    let isB := bits c 21 2 == p.st && bits c 14 7 == p.slot
    ivEvent f u p.tag (p.tag * 128) p.tinv isA isB (fun a => p.tag - a) s) s

/-- The transitions that have come to slice `f` are staged, in tag order (R278, R282). -/
def glnFlush (f : Nat) (s : Dev) : Dev :=
  let x := getSl s f
  if x.pend.isEmpty then s
  else forAll (sortOn (fun (p : GSense) => p.tag * 128 + p.slot) x.pend) (glnEntry f) (setSl f { x with pend := [] } s)

/-- The sample adjustment of lane `l` at time `t` at the balls: that of the latest row of its owner that has begun there (R126,
R137). -/
def sampleAdj (s : Dev) (l t : Nat) : Nat :=
  let own := (engOf s (owner s l)).bind fun e => ((getFur s e).slots.idxOf? l).bind fun i =>
    ((getFur s e).issued.filterMap fun r => r.adjs[i]?.bind fun ab => if r.t + ab.2 ≤ t then some ab.2 else none).getLast?
  own.getD (adjOf s (now s + 1) l).2

/-- A report of lane `l`, which the decoder makes once for a 1/8 mc step, of state `st` from time `t`, reaches its owner's slice
while the furrow is RUNNING; it counts as occurring in mc `m` (R278). -/
def glnSense (l t m : Nat) (st : SState) (s : Dev) : Dev :=
  let f := owner s l
  match engOf s f with
  | none => s
  | some e =>
    match (getFur s e).slots.idxOf? l with
    | none => s
    | some slot =>
      if f ≥ 64 || furState s e ≠ 3 || !glnOn s f then s
      else
        let tag := (t + planeDly s - sampleAdj s l t) / 128
        let ref := tag * 128 - planeDly s
        let tinv := (getFur s e).issued.any fun r => rowTinv s e r && r.t ≤ ref && ref < r.t + r.len
        setSl f { getSl s f with pend := (getSl s f).pend ++ [{ slot, tag, st := stCode st, tinv, m }] } s

/-- What the slices have by the start of the current mc: the transitions of earlier mc, staged, and the records of earlier mc,
offered to the Granary. -/
def glnAdvance (s : Dev) : Dev :=
  forAll ((s.gln.slices.filter fun x => !x.2.pend.isEmpty || !x.2.buf.isEmpty).map (·.1))
    (fun f s => showSl f (pumpSl f 300 (glnFlush f s))) s

/-! ### Taking a row (R265 to R277) -/

/-- The result code of slot `i` in a row: 0 NONE, 1 PASS, 2 FAIL, 3 MASKED (R151). -/
def resultOf (r : Row) (i : Nat) : Nat :=
  let sts := r.strobes.filter fun x => x.slot == i
  if sts.isEmpty then 0 else if sts.any (fun x => x.fail == some true) then 2 else if sts.any (fun x => x.fail == some false) then 1 else 3

/-- Result codes of every slot of engine `m` for its issued row `k`, with that row's data mask. -/
def rowResults (s : Dev) (m k : Nat) : List Nat × List Nat :=
  match (getFur s m).issued.find? fun r => r.k == k with
  | some r => ((List.range (getFur s m).slots.length).map (resultOf r), r.dmask)
  | none => ([], [])

/-- How many entries of a list satisfy a test. -/
def countP (p : Nat → Bool) (l : List Nat) : Nat := (l.filter p).length

/-- Bits of failing slots. -/
def failBits (res : List Nat) : Nat := res.zipIdx.foldl (fun a x => if x.1 = 2 then a + 2 ^ x.2 else a) 0

/-- FIRST or LAST of slice `f` loads row `r` (R270): `o` is the capture's offset, `m` its mask's. -/
def loadCapture (f o m : Nat) (r : Row) (mask : Nat) (s : Dev) : Dev :=
  let s := wr64 (ga f o) (2 ^ 63 + r.k % 2 ^ 63) s
  let s := wrN (ga f (o + 16)) (r.z % 2 ^ 24) (wrN (ga f (o + 12)) r.y (wrN (ga f (o + 8)) r.x s))
  forAll (List.range 4) (fun w => wrN (ga f (m + 4 * w)) (bits mask (32 * w) 32)) s

/-- The run counters, slot counters and captures take a row's results (R269, R270, R273). -/
def takeCounts (f : Nat) (r : Row) (res : List Nat) (s : Dev) : Dev :=
  let nf := countP (· == 2) res
  let s := inc64 (ga f 0x48) (countP (fun c => c == 1 || c == 2) res) s
  if nf = 0 then s
  else
    let s := inc64 (ga f 0x40) nf (inc64 (ga f 0x38) 1 s)
    let s := forAll ((List.range res.length).filter fun i => nth 0 res i == 2) (fun i => incSat (ga f (0x200 + 4 * i)) 0 32 1) s
    let s := if fbit s (ga f 0x6C) 31 then s else loadCapture f 0x68 0xA0 r (failBits res) s
    loadCapture f 0x80 0xB0 r (failBits res) s

/-- The first row of the codeword window to which row `r` of lead `f` belongs: the row itself where it opens one (R274,
R276). -/
def winFirst (s : Dev) (f : Nat) (r : Row) (nbits : Nat) : Option Nat :=
  let c := eff s f 2
  if !bit c 31 then none
  else if r.mkEv ≠ 0 && r.mkEv = bits c 29 2 then some r.k
  else (getSl s f).win.map fun w => if w.bits + nbits > 2 ^ 24 then r.k else w.first

/-- The fail log for a row with failing slots in the codeword window that `w` names (R271, R272, Table 09-2). -/
def takeLog (f : Nat) (r : Row) (res : List Nat) (w : Option Nat) (s : Dev) : Dev :=
  let x := getSl s f
  let mode := bits (eff s f 0) 28 2
  let nf := countP (· == 2) res
  let due := mode == 1 || (mode == 2 && w.isSome && x.logWin != w)
  if nf = 0 || !due then s
  else
    let s := setSl f { x with logWin := w } s
    let lim := eff s f 1
    if lim ≠ 0 && x.logN ≥ lim then
      let s := if rdN s (ga f 0x0C) = 0 then irqSet (glnPage f) (4 * 2 ^ (f % 2)) (hit (ga f 4) 30 s) else s
      incSat (ga f 0x0C) 0 32 1 s
    else
      let body := leBytes 8 r.k ++ leBytes 4 r.x ++ leBytes 4 r.y ++ leBytes 4 (r.z % 2 ^ 24)
        ++ leBytes 4 (nf * 2 ^ 24 + posFur s f * 2 ^ 6 + f) ++ leBytes 16 (failBits res) ++ zeros 8
      let ok := bufBytes (getSl s f) + 16 + body.length ≤ 16384 - 512
      let s := glnRecord f 1 0x10 r.tinv body s
      onlyIf ok (fun s => setSl f { getSl s f with logN := (getSl s f).logN + 1 } s) s

/-- A window opens at row `r` (R274, R276). -/
def openWin (f : Nat) (r : Row) (tag : Nat × Nat × Nat) (cont : Bool) (s : Dev) : Dev :=
  setSl f { getSl s f with win := some { first := r.k, x := tag.1, y := tag.2.1, z := tag.2.2, cont, t0 := r.t, t1 := r.t } } s

/-- Windows before the row is added: a marker row closes and opens; a row that would pass 2^24 bits closes and
continues (R274, R276). -/
def winBefore (f : Nat) (r : Row) (nbits : Nat) (s : Dev) : Dev :=
  let c := eff s f 2
  if !bit c 31 then s
  else if r.mkEv ≠ 0 && r.mkEv = bits c 29 2 then openWin f r (r.x, r.y, r.z) false (closeWin f 1 s)
  else
    match (getSl s f).win with
    | some w => if w.bits + nbits > 2 ^ 24 then openWin f r (w.x, w.y, w.z) true (closeWin f 2 s) else s
    | none => s

/-- The row adds to the open window (R275). -/
def winAdd (f nbits nerr : Nat) (r : Row) (s : Dev) : Dev :=
  let x := getSl s f
  match x.win with
  | some w => setSl f { x with win := some { w with rows := w.rows + 1, bits := w.bits + nbits, errors := w.errors + nerr, tinv := w.tinv || r.tinv, t1 := r.t + r.len } } s
  | none => s

/-- A starvation episode's gap record (R236, Table 07-4). -/
def gapRecord (f : Nat) (opn : Bool) (s : Dev) : Dev :=
  let x := getSl s f
  match x.gap with
  | none => s
  | some g =>
    pushBuf f 4 true (gapBody g.first g.count g.ts (g.cause * 2 ^ 24 + g.idx % 2 ^ 24) (b2n g.skip * 2 ^ 31 + b2n opn * 2 ^ 30 + f))
      (setSl f { x with gap := none } s)

/-- The starvation episode takes the row: an idle row opens or extends it, another row ends it (R236). -/
def takeGap (f : Nat) (r : Row) (s : Dev) : Dev :=
  let x := getSl s f
  match r.idl, x.gap with
  | some (_, _, sk), some g => setSl f { x with gap := some { g with count := g.count + 1, skip := g.skip || sk } } s
  | some (c, i, sk), none => setSl f { x with gap := some { first := r.k, count := 1, ts := r.t / 1024, cause := c, idx := i, skip := sk } } s
  | none, some _ => gapRecord f false s
  | none, none => s

/-- Fail-state changes of a row taken (R279). -/
def takeFstate (f : Nat) (r : Row) (res : List Nat) (s : Dev) : Dev :=
  let old := (getSl s f).fst
  let new := res.zipIdx.foldl (fun a x => if x.1 = 2 then a ||| 2 ^ x.2 else if x.1 = 1 then a ^^^ (a &&& 2 ^ x.2) else a) old
  let tag := (r.t + planeDly s) / 128
  let s := setSl f { getSl s f with fst := new } s
  forAll ((List.range res.length).filter fun i => bit old i != bit new i)
    (fun i => stageEntry f 1 tag i (b2n (bit new i)) r.tinv (now s)) s

/-- Values of the row's own sources, then sets closed by its marker (R283, R286). -/
def takeStats (f : Nat) (r : Row) (all : List Nat) (lead : Bool) (s : Dev) : Dev :=
  let s := if lead && all.any (fun c => c == 1 || c == 2) then
      forAll ((List.range 4).filter fun u => unitSrc s f u 2) (fun u => statValue f u (countP (· == 2) all) r.k 0 r.tinv
        [(r.t + planeDly s, r.t + r.len + planeDly s)]) s
    else s
  let s := if r.mkEv = 0 then s else
    forAll ((List.range 4).filter fun u => unitSrc s f u 4) (fun u s =>
      let c := eff s f (12 + 3 * u)
      ivEvent f u r.t (r.t + planeDly s) r.tinv (bits c 12 2 == r.mkEv) (bits c 10 2 == r.mkEv) (fun a => (r.t - a) * 8 / 1024) s) s
  closeSets f 3 ((List.range 4).filter fun u => r.mkEv != 0 && bits (eff s f (10 + 3 * u)) 23 2 == r.mkEv && bit (eff s f (10 + 3 * u)) 30) s

/-- Slice `f` takes row `r` of engine `e` (R265 to R286). The fail log comes first: its record goes before the others of the
mc (R295). -/
def takeRowSl (f e : Nat) (r : Row) (s : Dev) : Dev :=
  let lead := !isMember s f
  let (res, _) := rowResults s e r.k
  let es := if lead then yokeEngs s e else [e]
  let all := es.flatMap fun m => (rowResults s m r.k).1
  let masked := es.flatMap fun m => let (a, d) := rowResults s m r.k; d.map fun i => nth 0 a i
  let nbits := countP (fun c => c == 1 || c == 2) masked
  let w := if lead then winFirst s f r nbits else (getSl s (leadFur s f)).win.map (·.first)
  let x := getSl s f
  let s := takeCounts f r res (setSl f { x with last := r.k, runTinv := x.runTinv || r.tinv } s)
  let s := takeFstate f r res (takeLog f r res w s)
  let s := onlyIf lead (fun s => winAdd f nbits (countP (· == 2) masked) r (winBefore f r nbits s)) s
  takeGap f r (takeStats f r all lead s)

/-- The marker rows that the gate can still need once row `r` has come: the recent ones, and the newest of either event of
CAP_CFG before them (R280). -/
def keepMarks (s : Dev) (f : Nat) (r : Row) : List (Nat × Nat) :=
  let c := eff s f 5
  let ms := if r.mkEv = 0 then (getSl s f).marks else (r.t, r.mkEv) :: (getSl s f).marks
  let old := ms.filter fun m => m.1 + 65536 ≤ nowVs s
  ms.filter (fun m => nowVs s < m.1 + 65536) ++ ((old.find? fun m => m.2 == bits c 27 2).toList ++ (old.find? fun m => m.2 == bits c 25 2).toList)

/-- The field snapshot of slice `f` is copied (R298). -/
def snapSl (f : Nat) (s : Dev) : Dev :=
  let s := wr64 (ga f 0xD0) (rd64 s (ga f 0x48)) (wr64 (ga f 0xC8) (rd64 s (ga f 0x40)) (wr64 (ga f 0xC0) (rd64 s (ga f 0x38)) s))
  let fs := [rdN s (ga f 0x0C), b2n (fbit s (ga f 0x6C) 31)] ++ (List.range 128).map fun k => rdN s (ga f (0x200 + 4 * k))
  wrN (ga f 0xD8) (rdN s (ga f 0x34)) (setSl f { getSl s f with fs } s)

/-- Each snapshot of slice `f` is copied once the slice has taken, or left, every row that it covers (R37). -/
def snapDue (f taken : Nat) (s : Dev) : Dev :=
  let x := getSl s f
  if x.snapK.any (· ≤ taken) then snapSl f (setSl f { x with snapK := x.snapK.filter fun k => taken < k } s) else s

/-! ### End of a run, drain and summary (R290, R296) -/

/-- The engines' slices of the yoke of `f`. -/
def yokeFurs (s : Dev) (f : Nat) : List Nat :=
  match engOf s f with
  | some e => (yokeEngs s e).map (logical s)
  | none => [f]

/-- The summary record of lead slice `f` over its yoke (R290, Table 09-8). -/
def summary (f : Nat) (unseenNow : Bool) (s : Dev) : Dev :=
  let fs := yokeFurs s f
  let sum := fun o => sat ((fs.map fun g => rd64 s (ga g o)).foldl (· + ·) 0) (2 ^ 64 - 1)
  let sum32 := fun o => sat ((fs.map fun g => rdN s (ga g o)).foldl (· + ·) 0) m32
  let caps := fun o => (fs.filter fun g => fbit s (ga g (o + 4)) 31).map fun g => rd64 s (ga g o) % 2 ^ 63
  let firsts := caps 0x68
  let rows := match engOf s f with
    | some e => rd64 s (furPage e * 0x1000 + 0xB8)
    | none => 0
  let unseen := unseenNow || fs.any fun g => rd64 s (ga g 0x60) != 0
  let info := b2n (!firsts.isEmpty) * 2 ^ 31 + b2n (sum32 0x0C != 0) * 2 ^ 30 + b2n (fs.any fun g => (getSl s g).lossRun) * 2 ^ 29
    + b2n unseen * 2 ^ 28 + f
  let body := leBytes 8 rows ++ leBytes 8 (sum 0x38) ++ leBytes 8 (sum 0x40) ++ leBytes 8 (sum 0x48)
    ++ leBytes 8 (firsts.foldl min (2 ^ 64 - 1)) ++ leBytes 8 (if firsts.isEmpty then 2 ^ 64 - 1 else (caps 0x80).foldl max 0)
    ++ leBytes 4 (sum32 0x30) ++ leBytes 4 (sum32 0x34) ++ leBytes 4 (sum32 0x0C) ++ leBytes 4 info
  let s := logQ { kind := 1, unit := f, t := now s, warm0 := warm0 s } s
  irqSet (glnPage f) (16 * 2 ^ (f % 2)) (pushBuf f 0x15 (fs.any fun g => (getSl s g).runTinv) body s)

/-- Everything open in slice `f` closes: `cause` for windows, `scause` for the sets of `us` (R274, R281, R286, R292). -/
def closeAll (f cause scause : Nat) (us : List Nat) (s : Dev) : Dev :=
  let s := (drainStage f true (glnFlush f s)).2
  let s := closeTrans f 1 (closeTrans f 0 s)
  let s := closeWin f cause s
  let s := closeSets f scause us s
  let s := forAll (List.range 4) (fun c => endLoss f c true) s
  gapRecord f true s

/-- Units of slice `f` whose sets close at the end of a run. -/
def endUnits (s : Dev) (f : Nat) : List Nat := (List.range 4).filter fun u => bit (eff s f (10 + 3 * u)) 26

/-- The run of slice `f` ends: its records close, and with the last slice of the yoke the lead's summary follows, where the
lead's page is ACTIVE (R290, R292, R296). -/
def endRunSl (f : Nat) (s : Dev) : Dev :=
  let x := getSl s f
  if !x.run || x.done then s
  else
    let s := if blkActive s (glnPage f) then closeAll f 3 4 (endUnits s f) s else s
    let s := setSl f { getSl s f with run := false, done := true } s
    let l := leadFur s f
    let s := if (yokeFurs s l).all (fun g => (getSl s g).done) && blkActive s (glnPage l) && bit (eff s l 0) 27 then summary l false s else s
    showSl f s

/-- What setting `i` of a unit, its STAT_CFG or its STAT_SEL, says of its intervals: the source, or the events (Tables 09-5,
09-11). -/
def ivKey (i v : Nat) : Nat := if i % 3 = 1 then bits v 27 3 + 8 * b2n (bit v 30) else v

/-- START copies the settings and clears the run's counters, whatever the page's state; an interval that pends under other
settings is given up (R268, R269, R273, R284, R286). -/
def glnStart (f : Nat) (s : Dev) : Dev :=
  if f ≥ 64 then s
  else
    let e := glnRegs s f
    let x := getSl s f
    let clr := fun (o n : Nat) (s : Dev) => forAll (List.range n) (fun i => wrN (ga f (o + 4 * i)) 0) s
    let s := clr 0x68 5 (clr 0x80 5 (clr 0xA0 8 (clr 0x30 14 (clr 0x0C 1 s))))
    let s := if bit (nth 0 e 0) 31 then clr 0x200 128 s else s
    let s := if bit (nth 0 e 0) 30 then forAll (List.range 4) (dropSet f) s else s
    let epoch := (siteOn s (leadFur s f)).elim 0 (siteEpoch s)
    let kept := x.ivs.filter fun p => [10 + 3 * p.1, 12 + 3 * p.1].all fun i => ivKey i (nth 0 x.eff i) == ivKey i (nth 0 e i)
    showSl f (setSl f { eff := e, epoch, sets := (getSl s f).sets, ivs := kept, fs := x.fs, buf := x.buf, stage := x.stage, rec0 := x.rec0, rec1 := x.rec1 } s)

/-- A run of slice `f` begins with row 0 (R290). -/
def glnRunBegin (f : Nat) (s : Dev) : Dev := if f ≥ 64 then s else setSl f { getSl s f with run := true, done := false } s

/-- The rows that the events of a lane came from that come too close after the one kept before them, of a lane gated on to drill
`clk` when `gate`, in order (R127, R147). -/
def crowded : Option Nat → Bool → Nat → List Ev → List Nat
  | _, _, _, [] => []
  | last, gate, clk, x :: xs =>
    let off := match x.act with
      | .drill d _ _ => !gate || clk != d
      | _ => false
    if off then crowded last gate clk xs
    else if (match last with | some u => decide (x.t < u + 410) | none => false) then x.row :: crowded last gate clk xs
    else match x.act with
      | .gateOn d _ => crowded (some x.t) true d xs
      | .drill _ _ _ => crowded (some x.t) gate clk xs
      | _ => crowded (some x.t) false clk xs

/-- An event or strobe of row `k` on lane `l` that is still to come will be suppressed (R127, R130). -/
def willDrop (s : Dev) (k l : Nat) : Bool :=
  let x := getLane s l
  (crowded x.lastEv x.gate x.clk x.evs).contains k
    || [x.st0, x.st1].any fun ss => ss.any fun y => y.2 == k && stSuppressed ss y.1 k

/-- Row `k` of a yoke is marked before its records are made when an event of it is to be dropped after that (R130). -/
def markEarly (e k : Nat) (s : Dev) : Dev :=
  onlyIf ((yokeEngs s (leadOf s e)).any fun m => (getFur s m).slots.any (willDrop s k)) (markTinv e k) s

/-- The next row of slice `f`, whose results are complete before time `lim`: it is taken, or left when `on` is false; the
furrow lets it go (R265, R266). -/
def takeNext (f lim : Nat) (on : Bool) (s : Dev) : Dev :=
  match engOf s f with
  | none => s
  | some e =>
    let x := getFur s e
    match x.issued.find? fun r => r.k == x.taken with
    | none => s
    | some r =>
      if !r.flagged || lim ≤ r.flagT then s
      else
        let s := markEarly e r.k (setSl f { getSl s f with marks := keepMarks s f r } s)
        let r := ((getFur s e).issued.find? fun z => z.k == r.k).getD r
        let s := if on then takeRowSl f e { r with tinv := rowTinv s e r } s else inc64 (ga f 0x60) 1 s
        let y := getFur s e
        snapDue f (y.taken + 1) (setFur e { y with taken := y.taken + 1, issued := y.issued.filter fun z => y.taken < z.k + 64 } s)

/-- The rows that slice `f` has taken or left. -/
def takenBy (s : Dev) (f : Nat) : Nat := match engOf s f with
  | some e => (getFur s e).taken
  | none => 0

/-- Slice `g`, which takes rows when `on`, comes to its next row when it has not taken row `k`, if its results are complete
before `lim`. -/
def catchUp (k lim : Nat) (on : Bool) (g : Nat) (s : Dev) : Dev := if takenBy s g ≤ k then takeNext g lim on s else s

/-- ROW_TAKE (R265, R266): the slice takes the next row in row order once its results are complete; a page that
is not ACTIVE or is DRAINING leaves it untaken. The slices of a yoke take a row in one mc, the lead's before the members',
which see its codeword windows (R267, R271). -/
def doRowTake (f : Fin 64) (s : Dev) : Dev :=
  let k := takenBy s f
  let l := leadFur s f
  let s := forAll (yokeFurs s f) (fun g s => if k = 0 then s else catchUp (k - 1) (nextMcVs s) (glnOn s g) g s) s
  let s := if l = f then s else catchUp k (nextMcVs s) (glnOn s l) l s
  showSl f (takeNext f (nextMcVs s) (glnOn s f) s)

/-- The rows of the yoke of lead slice `l` whose results were complete before the current mc are taken row by row, at most `n` of
them; the slices of page `p` take them still. -/
def takeEarlier (p l : Nat) : Nat → Dev → Dev
  | 0, s => s
  | n + 1, s =>
    let k := (yokeFurs s l).foldl (fun a g => min a (takenBy s g)) (takenBy s l)
    takeEarlier p l n (forAll (yokeFurs s l) (fun g s => catchUp k (nowVs s) (glnPage g == p || glnOn s g) g s) s)

/-- The most rows that a slice of the yoke of lead slice `l` has still to take. -/
def rowsLeft (s : Dev) (l : Nat) : Nat := match engOf s l with
  | some e => (yokeEngs s e).foldl (fun a m => max a (getFur s m).issued.length) 0
  | none => 0

/-- EN of GLN page `p` goes from 1 to 0 (R296): rows whose results are complete by then are still taken; then everything open on
both slices closes, and the summaries follow. -/
def glnDrain (p : Nat) (s : Dev) : Dev :=
  let fs := [2 * (p - 0x100), 2 * (p - 0x100) + 1]
  let s := forAll (fs.map (leadFur s)) (fun l s => takeEarlier p l (rowsLeft s l) s) s
  let s := forAll fs (fun f => closeAll f 4 5 (List.range 4)) s
  let s := forAll fs (fun f s => onlyIf ((getSl s f).run && !(getSl s f).done && !isMember s f && bit (eff s f 0) 27) (summary f true) s) s
  forAll fs showSl s

/-- The record buffers of GLN page `p` are empty (R296). -/
def glnIdle (s : Dev) (p : Nat) : Bool := (getSl s (2 * (p - 0x100))).buf.isEmpty && (getSl s (2 * (p - 0x100) + 1)).buf.isEmpty

/-- A block reset of GLN page `p` discards what its slices hold (R297). -/
def glnReset (p : Nat) (s : Dev) : Dev :=
  forAll [2 * (p - 0x100), 2 * (p - 0x100) + 1] (fun f s =>
    let x := getSl s f
    setSl f { eff := x.eff, epoch := x.epoch, run := x.run, done := x.done, last := x.last } s) s

/-- The field tick's snapshot of slice `f` covers the rows whose tick fell by now, and is copied once the slice has taken them
(R37, R298). -/
def glnField (f : Nat) (s : Dev) : Dev :=
  match engOf s f with
  | some e =>
    let k := rd64 s (fa e 0xB8) - ((getFur s e).issued.filter fun r => nextMcVs s ≤ r.t).length
    if (getFur s e).issued.any fun r => (getFur s e).taken ≤ r.k && r.k < k then setSl f { getSl s f with snapK := (getSl s f).snapK ++ [k] } s
    else snapSl f (setSl f { getSl s f with snapK := [] } s)
  | none => snapSl f (setSl f { getSl s f with snapK := [] } s)

/-! ### Register writes (R268, R286, R289, R299) -/

/-- A refused write recorded in GLN.CFG_ERR, with IRQ bit 6. -/
def glnErr (p cause off : Nat) (s : Dev) : Dev := irqSet p 0x40 (recordErr (A p 0x80) cause off s)

/-- A write of STAT_CFG with FLUSH closes the set of unit `u` at once (R286). -/
def flushSet (f u : Nat) (s : Dev) : Dev := onlyIf (glnOn s f) (fun s => showSl f (closeSet f u 5 s)) s

/-- The cause that refuses a write of `v` to the slice register at window offset `w`, 0 for none (Tables 09-10, 09-11). -/
def glnWriteErr (w v : Nat) : Nat :=
  if w = 0 then (if bits v 28 2 = 3 then 1 else 0)
  else if w = 0x10 then (if bits v 27 2 = 3 then 1 else if bit v 31 && bits v 29 2 = 0 then 2 else 0)
  else if w = 0x14 || w = 0x18 then (if bits v 0 25 > 2 ^ 24 then 2 else 0)
  else if 0x100 ≤ w && w < 0x200 then
    (if w % 0x40 = 0 then (if bits v 27 3 ≥ 5 then 1 else 0)
     else if w % 0x40 = 8 then (if bits v 30 2 = 3 || bits v 21 2 = 3 then 1 else 0) else 0)
  else 0

/-- A write of `v` to page offset `o` of GLN page `p`. -/
def writeGln (p o v : Nat) (s : Dev) : Dev :=
  if o = 0x900 || o = 0x904 then
    if fbit s (A p 0x900) 31 && !(o == 0x900 && (v &&& 0x9F00033F) == rdN s (A p 0x900) % 2 ^ 31) then glnErr p 3 o s
    else plainWrite (A p o) v s
  else if 0x100 ≤ o && o < 0x900 then
    let w := (o - 0x100) % 0x400
    let f := 2 * (p - 0x100) + (o - 0x100) / 0x400
    let c := glnWriteErr w v
    if c ≠ 0 then glnErr p c o s
    else
      let s := plainWrite (A p o) v s
      if 0x100 ≤ w && w < 0x200 && w % 0x40 = 0 && bit v 31 then flushSet f ((w - 0x100) / 0x40) s else s
  else plainWrite (A p o) v s

/-- STAT_FLUSH (R286). -/
def doStatFlush (p : Path) (f : Fin 64) (u : Fin 4) (v : Word) (s : Dev) : Dev :=
  onWrite p (sa f u 0) (writeGln (glnPage f) (sa f u 0 % 0x1000) (v.toNat ||| 0x80000000)) s

/-- HIST_CFG_WRITE (R289): HIST_BASE when `base`, else HIST_CFG. -/
def doHistCfgWrite (p : Path) (k : Fin 16) (base : Bool) (v : Word) (s : Dev) : Dev :=
  onWrite p (A (0x100 + k) (if base then 0x904 else 0x900)) (writeGln (0x100 + k) (if base then 0x904 else 0x900) v.toNat) s

end Sys2Proof.Machine
end

