-- ==== Sys2Proof/Machine/Tim.lean ====
section
/-! DEFINITION. Time-interval meter channels: event selection, measurements, differences, statistics sets and
records (Time-interval meters). -/
namespace Sys2Proof.Machine

/-- The page of channel `k` (R341). -/
def timPage (k : Nat) : Nat := 0x140 + k
/-- A register of channel `k`. -/
def ta (k o : Nat) : Nat := A (timPage k) o
def getTim (s : Dev) (k : Nat) : Tim := mget (fun _ => {}) s.tim.chans k
def setTim (k : Nat) (x : Tim) (s : Dev) : Dev := { s with tim := { s.tim with chans := mset (fun _ => {}) k x s.tim.chans } }

/-- STAT.STATE (Table 11-2). -/
def timState (s : Dev) (k : Nat) : Nat := fget s (ta k 0x84) 16 3
def setTimState (k v : Nat) (s : Dev) : Dev := fset (ta k 0x84) 16 3 v s

/-- A field of a setting taken at ARM: 0 CFG, 1 SRC, 2 COUNT, 3 TIMEOUT, 4 STAT_N, 5 REF (R365). -/
def tf (x : Tim) (i lo w : Nat) : Nat := bits (nth 0 x.eff i) lo w
/-- The settings as the registers hold them. -/
def timRegs (s : Dev) (k : Nat) : List Nat :=
  [rdN s (ta k 0x88), rdN s (ta k 0x8C), rdN s (ta k 0x90), rd64 s (ta k 0x94), rdN s (ta k 0x9C), rd64 s (ta k 0xA0)]

/-- The channel reports differences: an odd channel with DIFF (R355). -/
def isDiff (k : Nat) (x : Tim) : Bool := k % 2 == 1 && tf x 0 31 1 == 1

/-- CAL_LOCK: both loops locked and both tables built (R361). -/
def calLock (x : Tim) : Bool := x.cal == 3

/-! ### Events (R342 to R346) -/

/-- Events in ascending order of time, a start first on equal times (R344). -/
def insTim (e : TimEv) : List TimEv → List TimEv
  | [] => [e]
  | y :: ys => if e.t < y.t || (e.t == y.t && e.start && !y.start) then e :: y :: ys else y :: insTim e ys

/-- Whether a 16-bit selector takes an event of `kind` and `idx` whose EDGE codes satisfy `edge` (Table 11-1). -/
def selects (sel kind idx : Nat) (edge : Nat → Bool) : Bool :=
  bits sel 13 3 == kind && bits sel 0 9 == idx && edge (bits sel 10 3)

/-- The event `r` waits at channel `k` if the channel, armed or in the dead time of its arm's last measurement, selects
it (R342, R344, R351, R361). -/
def timTake (k : Nat) (r : TimRaw) (s : Dev) : Dev :=
  let x := getTim s k
  let st := timState s k
  if x.eff.isEmpty || !(st == 1 || st == 2 || st == 3 || (st == 4 && decide (r.t < x.dead))) || !running s (timPage k) then s
  else
    let a := selects (tf x 1 16 16) r.kind r.idx r.edges.contains
    let b := selects (tf x 1 0 16) r.kind r.idx r.edges.contains
    let same := tf x 1 16 16 == tf x 1 0 16
    let mark := r.tinv || !calLock x
    let evs := if a && b && same then insTim { t := r.t, start := true, stop := true, tinv := mark, src := r.src } x.evs
      else
        let evs := if a then insTim { t := r.t, start := true, stop := false, tinv := mark, src := r.src } x.evs else x.evs
        if b then insTim { t := r.t, start := false, stop := true, tinv := mark, src := r.src } evs else evs
    setTim k { x with evs } s

/-- An event of a source, at event time `t`, of a row time of `src` if a SENSE event, reaches every channel; one whose time has not come also reaches a channel
armed by then (R342, R344, R348). -/
def timEvent (kind idx : Nat) (edge : Nat → Bool) (t : Int) (tinv : Bool) (src : Option (Nat × Int)) (s : Dev) : Dev :=
  let r : TimRaw := { kind, idx, edges := (List.range 8).filter edge, t, tinv, src }
  let old := s.tim.ahead.filter fun q => decide ((nowVs s : Int) ≤ q.t)
  let s := { s with tim := { s.tim with ahead := if (nowVs s : Int) ≤ t then old ++ [r] else old } }
  forAll (List.range 16) (fun k => timTake k r) s

/-- The EDGE codes of Table 11-1 that a change of a sense lane from `old` to `new` satisfies. -/
def senseEdge (old new : SState) (c : Nat) : Bool :=
  c == 4 || (c == 0 && new == .l) || (c == 1 && new == .m) || (c == 2 && new == .h) || (c == 3 && old == .m && new != .m)

/-- A reported change of lane `l`, whose threshold crossing was at `t`, is an event; the row it lies in is the one that
holds its row time, t − b_k (R126, R342, R343, R362). -/
def timSense (l t : Nat) (old new : SState) (s : Dev) : Dev :=
  if health s l == 5 || health s l == 4 || health s l == 6 then s
  else
    let u : Int := (t : Int) - sampleAdj s l t
    let tinv := (match engOf s (owner s l) with
      | some e => (getFur s e).issued.any fun r => (r.tinv || engTinv s e) && inRow (owner s l) r.t (r.t + r.len) (owner s l, u)
      | none => false)
    timEvent 1 l (senseEdge old new) (u + planeDly s) tinv (some (owner s l, u)) s

/-- Marker event `ev` of furrow `f` at row start `t` (Table 11-1). -/
def timMarker (f ev t : Nat) (s : Dev) : Dev := timEvent 5 (4 * f + ev) (· == 0) ((t : Int) + planeDly s) false none s

/-- Ring line `i` is applied in mc `m`. -/
def timRing (i m : Nat) (s : Dev) : Dev := timEvent 4 i (· == 0) (1024 * m) false none s

/-- The filtered output of fence `j` changes in mc `m`. -/
def timFence (j m : Nat) (up : Bool) (s : Dev) : Dev := timEvent 3 j (fun c => c == b2n (!up)) (1024 * m) false none s

/-- An edge of input `i` at `vs` of the current mc comes within 1,600 mc of a write of its TIN_CFG (R347). -/
def tinInvalid (s : Dev) (i vs : Nat) : Bool :=
  match mget (fun _ => none) s.tim.tin i with
  | some w => decide (w * 1024 ≤ nowVs s + vs) && decide (nowVs s + vs ≤ (w + 1600) * 1024)
  | none => false

/-- TIM_IN_EDGE (R346, R347): input `i` crosses its threshold at `vs` of the current mc. -/
def doTimInEdge (i : Fin 4) (vs : BitVec 10) (rising : Bool) (s : Dev) : Dev :=
  let a := ta 0 (0x200 + 8 * i)
  if !domOn s 19 || !fbit s a 31 then s
  else
    let t : Int := (nowVs s + vs.toNat : Nat) - sgn (rdN s (a + 4)) 32
    timEvent 2 i (fun c => c == 2 || c == b2n (!rising)) t (tinInvalid s i vs.toNat) none s

/-! ### Records (R359, R360) -/

/-- The channel's waiting records are offered to the Granary. -/
def pumpTim (k : Nat) : Nat → Dev → Dev
  | 0, s => s
  | n + 1, s =>
    let x := getTim s k
    match x.buf with
    | [] => s
    | r :: rs =>
      let o : Offer := { q := siteQueue s r.site, typ := r.typ, flags := r.flags, epoch := r.epoch, sys := false,
                         len := 16 + r.body.length, ts := r.ts, body := r.body, whole := true, tag := 0 }
      if grnRoom o s then pumpTim k n (offer o (setTim k { x with buf := rs } s)) else s

/-- A record of channel `k` for its site's current queue (R235, R360). -/
def timRecord (k typ : Nat) (tinv : Bool) (body : List Byte) (s : Dev) : Dev :=
  let x := getTim s k
  let site := tf x 0 22 6
  let flags := b2n (tinv || siteTinv s site) * 0x80
  pumpTim k 300 (setTim k { x with buf := x.buf ++ [{ typ, flags, epoch := x.epoch, ts := now s, body, site }] } s)

/-- Payload of a result record (Table 11-3). -/
def resultBody (k m ign : Nat) (diff : Bool) (x : TimMeas) : List Byte :=
  let fl := b2n x.tmo * 2 ^ 31 + b2n x.ovr * 2 ^ 30 + b2n x.under * 2 ^ 29 + b2n x.order * 2 ^ 28 + b2n x.warm0 * 2 ^ 27
    + b2n x.tinv * 2 ^ 26 + b2n diff * 2 ^ 25 + b2n x.ptmo * 2 ^ 24 + k
  leBytes 8 (uns (fdiv x.t0 1024) 64) ++ leBytes 4 (uns x.t0 10) ++ leBytes 4 fl ++ leBytes 8 (uns (x.v.getD 0) 64)
    ++ leBytes 4 m ++ leBytes 4 (sat ign (2 ^ 32 - 1))

/-- MEAN and SD of a set in 1/256 vs (R359). -/
def timMean (x : TimSet) : Int := fdiv (x.s1 * 512 + x.n) (2 * x.n)
def timSd (x : TimSet) : Nat :=
  if x.n < 2 then 0 else (isqrt (((x.n * x.s2 : Nat) - x.s1 * x.s1).toNat * 2 ^ 18 / (x.n * (x.n - 1))) + 1) / 2

/-- REF, signed 48 bits (R357). -/
def refOf (x : Tim) : Int := sgn (nth 0 x.eff 5) 48

/-- Payload of a statistics record (Table 11-4). -/
def statBody (k cause : Nat) (diff : Bool) (x : Tim) : List Byte :=
  let t := x.set
  leBytes 8 t.n ++ leBytes 16 (uns t.s1 128) ++ leBytes 16 t.s2 ++ leBytes 8 (uns t.mn 64) ++ leBytes 8 (uns t.mx 64)
    ++ leBytes 8 (uns (timMean t) 64) ++ leBytes 8 (timSd t) ++ leBytes 4 t.noval ++ leBytes 4 t.under ++ leBytes 4 t.first
    ++ leBytes 4 (cause * 2 ^ 28 + b2n t.saturated * 2 ^ 27 + b2n t.warm0 * 2 ^ 26 + b2n t.tinv * 2 ^ 25 + b2n diff * 2 ^ 24 + k)
    ++ leBytes 8 (uns (refOf x) 64)

/-- The open set closes with `cause`; one without values writes no record (R358, R359). -/
def closeTimSet (k cause : Nat) (s : Dev) : Dev :=
  let x := getTim s k
  let s := if x.set.n = 0 then onlyIf (x.set.noval != 0) (logQ { kind := 3, unit := k, t := now s, noval := x.set.noval }) s else
    let s := wr64 (ta k 0xD0) (timSd x.set) (wr64 (ta k 0xC8) (uns (timMean x.set) 64) s)
    let s := logQ { kind := 3, unit := k, t := now s, n := x.set.n, noval := x.set.noval, mean := timMean x.set, sd := timSd x.set,
                    mn := x.set.mn, mx := x.set.mx, warm0 := warm0 s } s
    irqSet (timPage k) 4 (timRecord k 0x29 x.set.tinv (statBody k cause (isDiff k x) x) s)
  setTim k { getTim s k with set := {} } s

/-- A value enters the set, clamped to 48 signed bits (R357). -/
def addTim (m : Nat) (under : Bool) (v : Int) (t : TimSet) : TimSet :=
  let lo : Int := -(2 ^ 47 : Nat)
  let hi : Int := (2 ^ 47 : Nat) - 1
  let w := if v < lo then lo else if v > hi then hi else v
  { t with n := t.n + 1, s1 := t.s1 + w, s2 := t.s2 + (w * w).toNat, mn := if t.n = 0 || w < t.mn then w else t.mn,
           mx := if t.n = 0 || w > t.mx then w else t.mx, saturated := t.saturated || w != v, under := t.under + b2n under,
           first := if t.n = 0 then m else t.first }

/-! ### A measurement ends (R349 to R358) -/

/-- COUNT of the arm has been reached at `n` (R354). -/
def atCount (x : Tim) (n : Nat) : Bool := tf x 2 0 32 != 0 && n == tf x 2 0 32

/-- A measurement of channel `k`, or a difference, is reported: LAST, its record, its value into the set, and
with the last of the arm the set's close with END (R354, R357, R358, R360). -/
def report (k : Nat) (r : TimMeas) (s : Dev) : Dev :=
  let x := getTim s k
  let m := x.m
  let s := wr64 (ta k 0xC0) (uns (fdiv r.t1 1024) 64) (wr64 (ta k 0xB8) (uns (r.v.getD 0) 64) s)
  let s := if r.order then hit (ta k 0x84) 30 s else s
  let out := tf x 0 28 2
  let s := if out = 1 then setTim k { x with m := m + 1 } s
    else timRecord k 0x28 r.tinv (resultBody k m x.ign (isDiff k x) r) (setTim k { x with m := m + 1, ign := 0 } s)
  let s := if out = 0 then s else
    let y := getTim s k
    let t := { y.set with warm0 := y.set.warm0 || r.warm0, tinv := y.set.tinv || r.tinv }
    match r.v with
    | none => setTim k { y with set := { t with noval := t.noval + 1 } } s
    | some v =>
      let t := addTim m r.under (v - refOf y) t
      let s := setTim k { y with set := t } s
      let goal := if tf y 4 0 32 = 0 then 2 ^ 32 else tf y 4 0 32
      if t.n = goal then closeTimSet k 1 s else s
  if atCount x (m + 1) then closeTimSet k 2 s else s

/-- The difference of two measurements (R355, R356). -/
def diffOf (a b : TimMeas) : TimMeas :=
  let v := match a.v, b.v with
    | some x, some y => some (x - y)
    | _, _ => none
  let small := match v with
    | some d => decide (-4 < d) && decide (d < 4)
    | none => false
  { a with v := if small then some 0 else v, under := a.under || b.under || small, order := a.order || b.order,
           warm0 := a.warm0 || b.warm0, tinv := a.tinv || b.tinv, src := a.src ++ b.src, ptmo := v.isNone, t1 := if a.t1 < b.t1 then b.t1 else a.t1 }

/-- A partner's measurement that will never come: it has no value. -/
def noMeas (a : TimMeas) : TimMeas := { a with v := none, under := false, order := false, warm0 := false, tinv := false, src := [] }

/-- The channel is armed: WAIT_FIRST, WAIT_SECOND or DEAD (Table 11-2). -/
def timArmed (s : Dev) (k : Nat) : Bool := timState s k == 1 || timState s k == 2 || timState s k == 3

/-- The channel takes no further measurement in its arm. -/
def timDone (s : Dev) (k : Nat) : Bool := (getTim s k).ended || !timArmed s k

/-- The differences of DIFF channel `k` whose two measurements have ended are reported (R355). -/
def formDiffs (k : Nat) : Nat → Dev → Dev
  | 0, s => s
  | n + 1, s =>
    let x := getTim s k
    match x.mine, x.theirs with
    | a :: as, b :: bs => formDiffs k n (report k (diffOf a b) (setTim k { x with mine := as, theirs := bs } s))
    | a :: as, [] =>
      if timDone s (k - 1) then formDiffs k n (report k (diffOf a (noMeas a)) (setTim k { x with mine := as } s)) else s
    | [], _ => s

/-- A measurement of channel `k` ends (R351 to R356): the counts, the dead time, the end of the arm at COUNT, and its
report or its part in a difference. -/
def endMeas (k : Nat) (r : TimMeas) (s : Dev) : Dev :=
  let x := getTim s k
  let s := setTim k { x with first := none, early := false, dead := r.t1 + 32 * 1024 } s
  let meas := rdN s (ta k 0xAC) + 1
  let s := setTimState k 3 (wrN (ta k 0xAC) meas (setTim k { getTim s k with ended := atCount x meas } s))
  let s := if r.v.isNone then irqSet (timPage k) 2 (hit (ta k 0x84) 31 (incSat (ta k 0xB4) 0 32 1 s)) else s
  let s := if isDiff k x then setTim k { getTim s k with mine := (getTim s k).mine ++ [r] } s else report k r s
  let o := k / 2 * 2 + 1
  if isDiff o (getTim s o) && timArmed s o then
    let s := if k % 2 = 0 then setTim o { getTim s o with theirs := (getTim s o).theirs ++ [r] } s else s
    formDiffs o 300 s
  else s

/-- The measurement that `f` began ends with the event at `t` (R349, R350, R353, R362, R363). -/
def endWith (k : Nat) (f : TimFirst) (e : TimEv) (s : Dev) : Dev :=
  let v := if f.isStart then e.t - f.t else f.t - e.t
  let small := decide (-4 < v) && decide (v < 4)
  endMeas k { t0 := f.t, t1 := e.t, v := some (if small then 0 else v), tmo := false, ovr := false, under := small,
              order := f.order || !f.isStart, warm0 := coldIn s f.t e.t, tinv := f.tinv || e.tinv,
              src := f.src.toList ++ e.src.toList } s

/-- When the measurement that `f` began ends without an ending event (R352). -/
def limitOf (x : Tim) (f : TimFirst) : Int := f.t + 1024 * ((if nth 0 x.eff 3 = 0 then 2 ^ 48 else nth 0 x.eff 3 : Nat) : Int)

/-- The measurement that `f` began ends without a value (R352). -/
def endNone (k : Nat) (f : TimFirst) (s : Dev) : Dev :=
  let x := getTim s k
  let t1 := limitOf x f
  endMeas k { t0 := f.t, t1, v := none, tmo := nth 0 x.eff 3 != 0, ovr := nth 0 x.eff 3 == 0, under := false,
              order := f.order || !f.isStart, warm0 := coldIn s f.t t1, tinv := f.tinv, src := f.src.toList } s

/-- Channel `k` enters DONE; events of its dead time still count as ignored (R351, R354). -/
def timFinish (k : Nat) (s : Dev) : Dev :=
  let x := getTim s k
  irqSet (timPage k) 1 (setTimState k 4 (setTim k { x with ended := true, first := none, evs := x.evs.filter fun e => e.t < x.dead } s))

/-- The arm of channel `k`, whose partner of a pair with DIFF ends with it, ends in state DONE: a measurement of the
partner in progress has no value (R355, R356), the differences left are formed, and the sets close with END. -/
def pairFinish (k : Nat) (s : Dev) : Dev :=
  let s := onlyIf (timArmed s (k - 1)) (fun s => timFinish (k - 1) (closeTimSet (k - 1) 2 s)) s
  timFinish k (formDiffs k 300 s)

/-- The dead time of channel `k` ends: WAIT_FIRST, or DONE after the arm's end (R351, R354, R355). -/
def endDead (k : Nat) (s : Dev) : Dev :=
  if timState s k ≠ 3 then s
  else if (getTim s k).ended then (if isDiff k (getTim s k) then pairFinish k s else timFinish k s)
  else setTimState k 1 s

/-- An event is ignored and counted (R349, R351). -/
def ignoreEv (k : Nat) (s : Dev) : Dev :=
  setTim k { getTim s k with ign := (getTim s k).ign + 1 } (incSat (ta k 0xB0) 0 32 1 s)

/-- What the channel does with an event, once the timeout and the dead time that come before it have ended. An event of a time before
that of the measurement's first ends none (R349). -/
def takeEvent (k : Nat) (e : TimEv) (s : Dev) : Dev :=
  let x := getTim s k
  let st := timState s k
  if e.t < 1024 * x.ea then s
  else if (st = 1 || st = 3 || st = 4) && e.t < x.dead then ignoreEv k s
  else if st = 1 then
    if e.start then setTimState k 2 (setTim k { x with first := some { isStart := true, t := e.t, tinv := e.tinv, order := x.early, src := e.src } } s)
    else if tf x 0 30 1 = 1 then
      setTimState k 2 (setTim k { x with first := some { isStart := false, t := e.t, tinv := e.tinv, order := true, src := e.src } } s)
    else
      let s := ignoreEv k s
      setTim k { getTim s k with early := true } s
  else if st = 2 then
    match x.first with
    | none => s
    | some f => if f.t ≤ e.t && (if f.isStart then e.stop else e.start) then endWith k f e s else ignoreEv k s
  else s

/-- A measurement of channel `k`, seen as `x`, whose limit lies before the event `e` has ended without a value (R352). -/
def limitBefore (k : Nat) (x : Tim) (e : TimEv) (s : Dev) : Dev :=
  match x.first with
  | some f => if timState s k = 2 && limitOf x f < e.t then endNone k f s else s
  | none => s

/-- A dead time that ends by the event `e` has ended (R351). -/
def deadBefore (k : Nat) (e : TimEv) (s : Dev) : Dev := if (getTim s k).dead ≤ e.t then endDead k s else s

/-- TIM_EVENT (R344): the earliest waiting event is decided at its event time plus 48 mc. -/
def doTimEvent (k : Fin 16) (s : Dev) : Dev :=
  let x := getTim s k
  match x.evs with
  | [] => s
  | e :: es =>
    if e.t + 48 * 1024 > nowVs s + 1023 || !running s (timPage k) then s
    else takeEvent k e (deadBefore k e (limitBefore k x e (setTim k { x with evs := es } s)))

/-- TIM_TIMEOUT (R352): no ending event has come by the limit, and every event up to it has been decided. -/
def doTimTimeout (k : Fin 16) (s : Dev) : Dev :=
  let x := getTim s k
  match x.first with
  | none => s
  | some f =>
    if timState s k ≠ 2 || !running s (timPage k) || limitOf x f + 48 * 1024 > nowVs s + 1023 || x.evs.any (fun e => decide (e.t ≤ limitOf x f))
    then s else endNone k f s

/-- DEAD_TIME_END (R351). -/
def doDeadTimeEnd (k : Fin 16) (s : Dev) : Dev :=
  if (getTim s k).dead ≤ nowVs s + 1023 && running s (timPage k) then endDead k s else s

/-! ### Arming and stopping (R348, R354, R355, R366) -/

/-- A refused write recorded in TIM.CFG_ERR, with IRQ bit 3 (R365). -/
def timErr (k cause o : Nat) (s : Dev) : Dev := irqSet (timPage k) 8 (recordErr (ta k 0xA8) cause o s)

/-- ARM of channel `k` alone is possible (R348). -/
def canArm (s : Dev) (k : Nat) : Bool :=
  blkEn s (timPage k) && !fbit s (ta k 0x84) 29
    && (timState s k == 0 || timState s k == 4 || timState s k == 5)

/-- Channel `k` is armed in the current mc; events raised before whose time has not come reach it (R348). -/
def armOne (k : Nat) (s : Dev) : Dev :=
  let e := timRegs s k
  let x := getTim s k
  let s := setTim k { eff := e, epoch := siteEpoch s (bits (nth 0 e 0) 22 6), ea := now s, cal := x.cal, buf := x.buf } s
  let s := setTimState k 1 (wrN (ta k 0xAC) 0 s)
  forAll s.tim.ahead (timTake k) s

/-- ARM (R348, R355): an odd channel with DIFF arms both of its pair. -/
def armTim (k : Nat) (s : Dev) : Dev :=
  let o := k / 2 * 2 + 1
  let diff := fbit s (ta o 0x88) 31
  if k % 2 = 1 && diff then if canArm s k && canArm s (k - 1) then armOne (k - 1) (armOne k s) else timErr k 3 0x80 s
  else if diff || !canArm s k then timErr k 3 0x80 s
  else armOne k s

/-- TIM_ARM. -/
def doTimArm (p : Path) (k : Fin 16) (s : Dev) : Dev := onWrite p (ta k 0x80) (armTim k) s

/-- The arm of channel `k` ends at once, its open set with `cause`; a DIFF channel's partner ends with it
(R354, R355, R366). -/
def stopTim1 (k cause : Nat) (s : Dev) : Dev :=
  let st := timState s k
  if (st = 1 || st = 2 || st = 3) && !fbit s (ta k 0x84) 29 then
    let s := closeTimSet k cause s
    setTimState k 5 (setTim k { getTim s k with first := none, evs := [], mine := [], theirs := [] } s)
  else s

/-- STOP or a drain of channel `k`: the partner of a channel with DIFF ends with it, and the differences whose measurement of
channel `k` has ended are reported first (R355, R356, R360). -/
def stopTim (k cause : Nat) (s : Dev) : Dev :=
  let both := isDiff k (getTim s k) && timArmed s k
  let s := if both then formDiffs k 300 (stopTim1 (k - 1) 2 s) else s
  let s := stopTim1 k cause s
  let o := k / 2 * 2 + 1
  if k % 2 = 0 && isDiff o (getTim s o) && timArmed s o then formDiffs o 300 s else s

/-- TIM_STOP. -/
def doTimStop (p : Path) (k : Fin 16) (s : Dev) : Dev := onWrite p (ta k 0x80) (stopTim k 2) s

/-- TIM_FLUSH (R358). -/
def doTimFlush (p : Path) (k : Fin 16) (s : Dev) : Dev := onWrite p (ta k 0x80) (closeTimSet k 3) s

/-- Every record of channel `k` has been handed to the Granary (R366). -/
def timIdle (s : Dev) (p : Nat) : Bool := (getTim s (p - 0x140)).buf.isEmpty

/-- EN of a TIM page goes from 1 to 0 (R366). -/
def timDrain (p : Nat) (s : Dev) : Dev := stopTim (p - 0x140) 3 s

/-- STAT.CAL_LOCK shows the loops and tables. -/
def showCal (k : Nat) (s : Dev) : Dev := fset (ta k 0x84) 28 1 (b2n (calLock (getTim s k))) s

/-- A block reset of a TIM page (R366); the interpolators' tables stand (R361). The arm of the partner of a channel with
DIFF ends with it, in IDLE (R355). -/
def timReset (p : Nat) (s : Dev) : Dev :=
  let k := p - 0x140
  let both := isDiff k (getTim s k) && timArmed s k && timArmed s (k - 1)
  let s := onlyIf both (fun s => setTimState (k - 1) 0 (stopTim1 (k - 1) 2 s)) s
  let s := setTimState k 0 (setTim k { cal := (getTim s k).cal } s)
  if k % 2 = 0 && isDiff (k + 1) (getTim s (k + 1)) && timArmed s (k + 1) then formDiffs (k + 1) 300 s else s

/-- Field snapshots of channel `k` (R367). -/
def timField (k : Nat) (s : Dev) : Dev := wrN (ta k 0xE4) (rdN s (ta k 0xB4)) (wrN (ta k 0xE0) (rdN s (ta k 0xAC)) s)

/-! ### Interpolators (R361) -/

/-- BIN_TABLE_BUILT: interpolator `stop` of channel `k` has a new table, which shows that its loop is locked. -/
def doBinTableBuilt (k : Fin 16) (stop : Bool) (s : Dev) : Dev :=
  let x := getTim s k
  onlyIf (domOn s 19) (fun s => showCal k (setTim k { x with cal := (if stop then putBits (putBits x.cal 1 1 1) 3 1 0
    else putBits (putBits x.cal 0 1 1) 2 1 0) } s)) s

/-- CAL_LOCK_LOSS: a loop of channel `k` loses lock. -/
def doCalLockLoss (k : Fin 16) (stop : Bool) (s : Dev) : Dev :=
  let x := getTim s k
  if !domOn s 19 then s
  else
    let was := calLock x
    let s := showCal k (setTim k { x with cal := putBits x.cal (if stop then 3 else 2) 1 1 } s)
    if was then raise (0xBA + k) 0 (irqSet (timPage k) 0x10 s) else s

/-! ### Register writes (R347, R365) -/

/-- The cause that refuses a source selector, 0 for none (Table 11-1). -/
def selErr (v : Nat) : Nat :=
  let edge := bits v 10 3
  let idx := bits v 0 9
  match bits v 13 3 with
  | 0 => if edge ≠ 0 || idx ≠ 0 then 2 else 0
  | 1 => if edge > 4 then 1 else 0
  | 2 => if edge > 2 then 1 else if idx > 3 then 2 else 0
  | 3 => if edge > 1 then 1 else if idx > 23 then 2 else 0
  | 4 => if edge ≠ 0 then 1 else if idx > 15 then 2 else 0
  | 5 => if edge ≠ 0 then 1 else if idx > 255 || idx % 4 = 0 then 2 else 0
  | _ => 1

/-- The cause that refuses a write of `v` to page offset `o` of channel `k`, 0 for none (R356, R365). -/
def timWriteErr (s : Dev) (p : Path) (k o v : Nat) : Nat :=
  if o = 0x88 then (if bits v 28 2 = 3 then 1 else if k % 2 = 0 && bit v 31 then 2 else 0)
  else if o = 0x8C then (if selErr (bits v 16 16) = 1 || selErr (bits v 0 16) = 1 then 1 else if selErr (bits v 16 16) = 2 || selErr (bits v 0 16) = 2 then 2 else 0)
  else if o = 0x98 then
    (if bits v 0 9 * 2 ^ 32 + (match stagedLo s p (ta k 0x94) with | some lo => lo | none => rdN s (ta k 0x94)) > 2 ^ 40 then 2 else 0)
  else 0

/-- A write of TIN_CFG of input `i` takes effect at once (R347). -/
def writeTin (i v : Nat) (s : Dev) : Dev :=
  let s := plainWrite (ta 0 (0x200 + 8 * i)) v s
  { s with tim := { s.tim with tin := mset (fun _ => none) i (some (now s)) s.tim.tin } }

/-- TIN_CFG_WRITE. -/
def doTinCfgWrite (p : Path) (i : Fin 4) (v : Word) (s : Dev) : Dev := onWrite p (ta 0 (0x200 + 8 * i)) (writeTin i v.toNat) s

/-- A write of `v` on path `p` to page offset `o` of channel `k`: STOP before ARM, then FLUSH. -/
def writeTim (p : Path) (k o v : Nat) (s : Dev) : Dev :=
  if o = 0x80 then
    let s := if bit v 30 then stopTim k 2 s else s
    let s := if bit v 31 then armTim k s else s
    if bit v 29 then closeTimSet k 3 s else s
  else
    let e := timWriteErr s p k o v
    if e ≠ 0 then timErr k e o s
    else if o = 0x94 || o = 0xA0 then stageLo p (ta k o) v s
    else if o = 0x98 || o = 0xA4 then commitHi p (ta k (o - 4)) v s
    else if 0x200 ≤ o && o % 8 = 0 then writeTin ((o - 0x200) / 8) v s
    else plainWrite (ta k o) v s

end Sys2Proof.Machine
end

