-- ==== Sys2Proof/Machine/Trig.lean ====
section
/-! DEFINITION. What raises ring lines and TRIG_OUT pulses: the Headland state, express queues and the low-level
operations of the trigger page (Headland ring, time and growth limits). -/
namespace Sys2Proof.Machine

/-- The ring page and the trigger page. -/
def ringPage : Nat := 0x180
def trgPage : Nat := 0x183
/-- The page of port `i`, 0 HE and 1 HW. -/
def portPage (i : Nat) : Nat := 0x181 + i

def getPort (s : Dev) (i : Nat) : HPort := mget (fun _ => {}) s.hdl.ports i
def setPort (i : Nat) (x : HPort) (s : Dev) : Dev := { s with hdl := { s.hdl with ports := mset (fun _ => {}) i x s.hdl.ports } }
def getTout (s : Dev) (i : Nat) : TrigOut := mget (fun _ => {}) s.hdl.touts i
def setTout (i : Nat) (x : TrigOut) (s : Dev) : Dev := { s with hdl := { s.hdl with touts := mset (fun _ => {}) i x s.hdl.touts } }

/-- The device ID in force, and whether the device takes part (R486). -/
def hdlId (s : Dev) : Nat := fget s (A ringPage 0x84) 0 10
def hdlMember (s : Dev) : Bool := hdlId s != 0 && !fbit s (A ringPage 0x84) 31
/-- Chain mode is in force (R484). -/
def hdlChain (s : Dev) : Bool := fbit s (A ringPage 0x8C) 31
/-- PORT_STAT.STATE: 0 DOWN, 1 TRAIN, 2 UP4, 3 UP2. -/
def portState (s : Dev) (i : Nat) : Nat := fget s (A (portPage i) 0x84) 29 3
def portUp (s : Dev) (i : Nat) : Bool := portState s i ≥ 2 && domOn s 18
/-- A lost word or frame is counted (R479, R481). -/
def portLost (i : Nat) (s : Dev) : Dev := incSat (A (portPage i) 0x8C) 0 16 1 s

/-- Order of take: mc, then SYNC, TRIGGER, TIME, forwarded words first (R481). -/
def expBefore (a b : ExpWord) : Bool :=
  a.take < b.take || (a.take == b.take && (a.kind < b.kind || (a.kind == b.kind && a.fwd && !b.fwd)))
def insExp (x : ExpWord) : List ExpWord → List ExpWord
  | [] => [x]
  | y :: ys => if expBefore x y then x :: y :: ys else y :: insExp x ys

/-- A word is taken at port `i` in its place, or lost when the port is not up; of 17 words the one taken last is lost (R479,
R481). -/
def queueExp (i : Nat) (w : ExpWord) (s : Dev) : Dev :=
  let x := getPort s i
  if !portUp s i then portLost i s
  else onlyIf (decide (x.txq.length ≥ 16)) (portLost i) (setPort i { x with txq := (insExp w x.txq).take 16 } s)

/-- A word originated here goes to HE, or to both ports in chain mode (Table 16-4). -/
def sendExp (w : ExpWord) (s : Dev) : Dev := if hdlChain s then queueExp 1 w (queueExp 0 w s) else queueExp 0 w s

/-- Whether an unsent TRIGGER word originated here was taken in mc `r`. -/
def isRaise (r : Nat) (w : ExpWord) : Bool := w.kind == 2 && !w.fwd && w.take == r

/-- The lines `mask`, raised in mc `r`, go out on port `i`: with the lines already raised in that mc while their word waits. -/
def raisePort (mask r i : Nat) (s : Dev) : Dev :=
  let x := getPort s i
  if x.txq.any (isRaise r) then
    setPort i { x with txq := x.txq.map fun w => if isRaise r w then { w with data := w.data ||| mask } else w } s
  else queueExp i { kind := 2, origin := hdlId s, data := mask, take := r } s

/-- The lines `mask` are raised here in mc `r`: RAISED, one TRIGGER word for the mc, and the device's own
application TRIG_COMP mc later (R499, R500). -/
def raiseLines (mask r : Nat) (s : Dev) : Dev :=
  if mask = 0 || !hdlMember s || !running s trgPage then s
  else
    let s := orReg (A trgPage 0x144) (mask * 2 ^ 16) s
    let s := { s with hdl := { s.hdl with apps := s.hdl.apps ++ [(mask, r + fget s (A ringPage 0x90) 0 16, false)] } }
    forAll (if hdlChain s then [0, 1] else [0]) (raisePort mask r) s

/-- The lines whose LINE_SRC has KIND `kind` and fields that `p` accepts, as a mask. -/
def linesOf (s : Dev) (kind : Nat) (p : Nat → Bool) : Nat :=
  ((List.range 16).map fun j =>
    let c := rdN s (A trgPage (0x100 + 4 * j))
    if bit c 31 && bits c 28 3 == kind && p c then 2 ^ j else 0).foldl (· + ·) 0

/-- Lines with a source of KIND `kind` are raised in mc `r`. -/
def raiseBy (kind r : Nat) (p : Nat → Bool) (s : Dev) : Dev := raiseLines (linesOf s kind p) r s

/-- TOUT_CFG of output `i`, and its output level under EN and INV (R505, R510). -/
def toutCfg (s : Dev) (i : Nat) : Nat := rdN s (A trgPage (0xC0 + 4 * i))
def toutOn (s : Dev) (i : Nat) : Bool := bit (toutCfg s i) 31 && running s trgPage
/-- Output `i` takes level `v` before INV at time `t`. -/
def toutLevel (i t : Nat) (v : Bool) (s : Dev) : Dev :=
  let x := getTout s i
  if x.lvl = v then s else onlyIf (toutOn s i) (emit (.trigOut i t (v != bit (toutCfg s i) 30))) (setTout i { x with lvl := v } s)

/-- A pulse of output `i` that has run out ends (R505). -/
def toutEnd (i m : Nat) (s : Dev) : Dev :=
  match (getTout s i).stop with
  | some e => if e ≤ m then toutLevel i (e * 1024) false (setTout i { getTout s i with stop := none } s) else s
  | none => s

/-- An event of output `i` in mc `m`: the pulse rises at mc m + 4, or the pulse in progress is extended to the event's own
end (R505). -/
def toutPulse (i m : Nat) (s : Dev) : Dev :=
  if !toutOn s i then s
  else
    let s := toutLevel i ((m + 4) * 1024) true (toutEnd i (m + 3) s)
    setTout i { getTout s i with stop := some (max ((getTout s i).stop.getD 0) (m + 4 + fget s (A trgPage (0xC0 + 4 * i)) 0 12)) } s

/-- The outputs of KIND `kind` with fields that `p` accepts have an event in mc `m`. -/
def toutBy (kind m : Nat) (p : Nat → Bool) (s : Dev) : Dev :=
  forAll (List.range 4) (fun i s => let c := toutCfg s i; if bits c 27 3 == kind && p c then toutPulse i m s else s) s

end Sys2Proof.Machine
end

