-- ==== Sys2Proof/Machine/Fence.lean ====
section
/-! DEFINITION. Fence monitors: ramps, comparators, the majority filter, the consumers of its output, and the
wake page (Fence monitors). -/
namespace Sys2Proof.Machine

/-- The time base of fences: TS, or AON oscillator cycles while the master clock is off (R386). -/
def fenT (s : Dev) : Nat := if s.clk then now s else s.aonT

/-! ### Ramps (R380, R381) -/

def rmpPage (r : Nat) : Nat := 0x158 + r
def getRmp (s : Dev) (r : Nat) : Ramp := mget (fun _ => {}) s.rmp r
def setRmp (r : Nat) (x : Ramp) (s : Dev) : Dev := { s with rmp := mset (fun _ => {}) r x s.rmp }
/-- RMP.VALUE.STATE: 0 IDLE, 1 RUN, 2 HELD. -/
def rmpState (s : Dev) (r : Nat) : Nat := fget s (A (rmpPage r) 0x94) 29 3
/-- VALUE, 20 bits. -/
def rmpValue (s : Dev) (r : Nat) : Nat := fget s (A (rmpPage r) 0x94) 0 20
/-- START_CODE × 256 and END_CODE × 256. -/
def rmpStart (s : Dev) (r : Nat) : Nat := fget s (A (rmpPage r) 0x88) 0 12 * 256
def rmpEnd (s : Dev) (r : Nat) : Nat := fget s (A (rmpPage r) 0x88) 16 12 * 256
def rmpStep (s : Dev) (r : Nat) : Int := sgn (rdN s (A (rmpPage r) 0x8C)) 16
def rmpDiv (s : Dev) (r : Nat) : Nat := fget s (A (rmpPage r) 0x90) 0 16

/-- Additions from VALUE `v` until one reaches or passes `e` in the direction of `d`. -/
def rmpReach (v e : Nat) (d : Int) : Nat :=
  let gap : Int := if d > 0 then (e : Int) - v else (v : Int) - e
  if gap ≤ 0 then 1 else cdiv gap.toNat d.natAbs

/-- A ramp repeats: END is REPEAT, and additions move it. -/
def rmpRepeats (s : Dev) (r : Nat) : Bool := fget s (A (rmpPage r) 0x84) 27 2 ≥ 2 && rmpStep s r != 0 && rmpDiv s r != 0

/-- The stretch of history that begins at time `t` with state `st` and VALUE `v`; a ramp holds its VALUE while the master
clock is off (R386). -/
def rmpSeg (s : Dev) (r t st v : Nat) : RSeg :=
  { t, v, step := rmpStep s r, div := rmpDiv s r, run := st == 1 && s.clk, fin := if fget s (A (rmpPage r) 0x84) 27 2 = 0 then rmpEnd s r else rmpStart s r, k0 := rmpReach v (rmpEnd s r) (rmpStep s r)
    k1 := if rmpRepeats s r then rmpReach (rmpStart s r) (rmpEnd s r) (rmpStep s r) else 0, start := rmpStart s r }

/-- A ramp takes a state and VALUE from time `t` on, in the fences' time base. -/
def rmpPut (r t st v : Nat) (s : Dev) : Dev :=
  let x := getRmp s r
  let past := x.segs.filter fun g => g.t < t
  let x := { x with segs := rmpSeg s r t st v :: past.take ((past.filter fun g => t < g.t + 2100000).length + 1) }
  wrN (A (rmpPage r) 0x94) (st * 2 ^ 29 + v) (setRmp r (if st = 1 then { x with m0 := t, n := 0 } else x) s)

/-- VALUE in stretch `g` after `n` additions: one that reaches END_CODE acts under END (R380). -/
def segValue (g : RSeg) (n : Nat) : Nat :=
  if !g.run || g.step = 0 || g.div = 0 then g.v
  else if n < g.k0 then (g.v + g.step * (n : Int)).toNat
  else if g.k1 = 0 then g.fin
  else (g.start + g.step * (((n - g.k0) % g.k1 : Nat) : Int)).toNat

/-- How often END_CODE has been reached after `n` additions of a repeating stretch `g`. -/
def segEnds (g : RSeg) (n : Nat) : Nat := if n < g.k0 then 0 else 1 + (n - g.k0) / g.k1

/-- VALUE as it stood at time `m` (R382); before any stretch START_CODE has its reset value 0. -/
def rmpAt (s : Dev) (r m : Nat) : Nat :=
  match (getRmp s r).segs.find? (fun g => g.t ≤ m) with
  | some g => segValue g ((m - g.t) / g.div)
  | none => 0

/-- The ramp is in RUN at time `m`. -/
def rmpRunsAt (s : Dev) (r m : Nat) : Bool :=
  match (getRmp s r).segs.find? (fun g => g.t ≤ m) with
  | some g => g.run && (g.step = 0 || g.div = 0 || g.k1 != 0 || decide ((m - g.t) / g.div < g.k0))
  | none => false

/-- A running ramp makes the additions that have come by mc `t`, and acts under END (R380). -/
def rmpAdvance (r t : Nat) (s : Dev) : Dev :=
  let x := getRmp s r
  let d := rmpStep s r
  let total := (t - x.m0) / rmpDiv s r
  if rmpState s r ≠ 1 || rmpDiv s r = 0 || d = 0 || t < x.m0 || total ≤ x.n then s
  else if rmpRepeats s r then
    match x.segs with
    | g :: _ => fset (A (rmpPage r) 0x94) 0 20 (segValue g total)
        (onlyIf (decide (segEnds g x.n < segEnds g total)) (irqSet (rmpPage r) 1) (setRmp r { x with n := total } s))
    | [] => s
  else
    let v := rmpValue s r
    let k := rmpReach v (rmpEnd s r) d
    if x.n + k > total then fset (A (rmpPage r) 0x94) 0 20 (v + d * (total - x.n : Nat)).toNat (setRmp r { x with n := total } s)
    else if fget s (A (rmpPage r) 0x84) 27 2 = 0 then rmpPut r (x.m0 + (x.n + k) * rmpDiv s r) 2 (rmpEnd s r) (irqSet (rmpPage r) 1 s)
    else rmpPut r (x.m0 + (x.n + k) * rmpDiv s r) 0 (rmpStart s r) (irqSet (rmpPage r) 1 s)

/-- CTL.STOP at time `t`: a running ramp is held at the VALUE that it has then (R381, R382, R386). -/
def rmpStopAt (r t : Nat) (s : Dev) : Dev :=
  if !s.clk then (if rmpState s r = 1 then rmpPut r t 2 (rmpValue s r) s else s)
  else
    let s := rmpAdvance r t s
    if rmpRunsAt s r t then rmpPut r t 2 (rmpAt s r t) s else s

/-! ### Fences: addresses -/

def getFen (s : Dev) (f : Nat) : Fence := mget (fun _ => {}) s.fen f
def setFen (f : Nat) (x : Fence) (s : Dev) : Dev := { s with fen := mset (fun _ => {}) f x s.fen }
def fenPage (f : Nat) : Nat := 0x150 + f / 3
/-- A register of fence `f`'s window (R370). -/
def na (f o : Nat) : Nat := A (fenPage f) (0x100 + 0x100 * (f % 3) + o)
/-- A bit of the page's IRQ_STAT for fence `f` from bit `b` on. -/
def fenIrq (f b : Nat) (s : Dev) : Dev := irqSet (fenPage f) (2 ^ (b + f % 3)) s

/-- The fence is on (R385). -/
def fenOn (s : Dev) (f : Nat) : Bool := fbit s (na f 0) 31 && running s (fenPage f)

/-- One of the two comparators. -/
def fcmp (x : Fence) (u : Bool) : Cmp := if u then x.up else x.lo
def putCmp (u : Bool) (c : Cmp) (x : Fence) : Fence := if u then { x with up := c } else { x with lo := c }

/-- MODE, SRC, enable and PU of a comparator. -/
def cmpMode (s : Dev) (f : Nat) (u : Bool) : Nat := fget s (na f 0) (if u then 26 else 24) 2
def cmpSrc (s : Dev) (f : Nat) (u : Bool) : Nat := fget s (na f 0) (if u then 19 else 16) 3
def cmpEn (s : Dev) (f : Nat) (u : Bool) : Bool := fbit s (na f 0) (if u then 23 else 22)
def cmpPu (s : Dev) (f : Nat) (u : Bool) : Bool := fbit s (na f 0) (if u then 15 else 14)

/-- Response time in mc (Table 12-1). -/
def respMc (mode : Nat) : Nat := nth 0 [5, 64, 1600, 32000] mode

/-- Response time in the fences' time base: mc, or whole cycles of 64 mc of the AON oscillator (Table 12-1, R386). -/
def respT (s : Dev) (mode : Nat) : Nat := if s.clk then respMc mode else cdiv (respMc mode) 64

/-! ### Latches and raw output (R371 to R375, R383) -/

/-- The threshold code that a comparator uses at time `m` (R374, R381). -/
def cmpCode (s : Dev) (f : Nat) (u : Bool) (m : Nat) : Nat :=
  let src := cmpSrc s f u
  if src = 0 then (fcmp (getFen s f) u).code else rmpAt s (src - 1) m / 256

/-- Where the comparator's input stands at time `m`: the external input's side, or with TIE the reference's side, three
times its code being 2,048, 6,144 or 10,240; SWAP exchanges the sides (R371, R383). -/
def cmpPos (s : Dev) (f : Nat) (u : Bool) (m : Nat) : Nat :=
  let c := fcmp (getFen s f) u
  let tie := fget s (na f 0x10) 0 2
  let code := cmpCode s f u m
  let r3 := nth 0 [0, 2048, 6144, 10240] tie
  let p := if tie = 0 then c.pos
    else if r3 > 3 * sat (code + c.hyst) 4095 then (if u then 1 else 2)
    else if r3 < 3 * (code - c.hyst) then (if u then 2 else 1)
    else 0
  if fbit s (na f 0x10) 2 then (if p = 1 then 2 else if p = 2 then 1 else 0) else p

/-- The raw output of two latches (R375). -/
def rawOf (s : Dev) (f : Nat) (x : Fence) : Bool :=
  let u := x.up.on && x.up.latch
  let l := x.lo.on && x.lo.latch
  match fget s (na f 0) 28 2 with
  | 0 => u || l
  | 1 => u
  | 2 => l
  | _ => !u && !l && (x.up.on || x.lo.on)

/-- STAT shows the fence (Table 12-5). -/
def showFen (f : Nat) (s : Dev) : Dev :=
  let x := getFen s f
  let held := fget s (na f 0x10) 0 3 != 0
  wrN (na f 0x14) (b2n x.out * 2 ^ 31 + b2n (rawOf s f x) * 2 ^ 30 + b2n (x.up.on && x.up.latch) * 2 ^ 29
    + b2n (x.lo.on && x.lo.latch) * 2 ^ 28 + b2n (x.up.hold.isSome || x.lo.hold.isSome) * 2 ^ 27 + b2n held * 2 ^ 26) s

/-- A change of raw output or latches at time `m` is kept for the filter. -/
def logRaw (f m : Nat) (s : Dev) : Dev :=
  let x := getFen s f
  let e : RawEv := { t := m, raw := rawOf s f x, u := x.up.on && x.up.latch, l := x.lo.on && x.lo.latch }
  let same := match x.log with
    | h :: _ => h.raw == e.raw && h.u == e.u && h.l == e.l
    | [] => false
  showFen f (if same then s else setFen f { x with log := e :: x.log } s)

/-- A comparator's latch follows its input, as it is at time `m`, unless it is held (R371 to R373). -/
def follow (f : Nat) (u : Bool) (m : Nat) (s : Dev) : Dev :=
  let x := getFen s f
  let c := fcmp x u
  if !c.on || c.hold.isSome then s
  else
    let p := cmpPos s f u m
    setFen f (putCmp u { c with latch := if p = 1 then true else if p = 2 then false else c.latch } x) s

/-- Both latches follow their inputs at time `m` and the raw output forms. -/
def refreshAt (f m : Nat) (s : Dev) : Dev := logRaw f m (follow f false m (follow f true m s))

/-- Both latches follow their inputs now. -/
def refreshFen (f : Nat) (s : Dev) : Dev := refreshAt f (fenT s) s

/-- A comparator of fence `f` is tied to a reference and takes its threshold from a ramp, so that its latch can move with the
ramp (R381, R383). -/
def tiedToRamp (s : Dev) (f : Nat) : Bool := fget s (na f 0x10) 0 2 != 0 && (cmpSrc s f true != 0 || cmpSrc s f false != 0)

/-! ### Consumers (R378, R379, R382, R390) -/

/-- The condition of the fence's fault source (Table 18-1). -/
def fenLive (s : Dev) (f : Nat) : Bool := (getFen s f).seen && fbit s (na f 0) 30

/-- A fence assert in standby requests wake (R390, R599). -/
def fenWake (f t : Nat) (s : Dev) : Dev :=
  if s.standby = 0 || !fbit s (A 0x15C 0x80) f then s
  else
    let a := A 0x15C 0x84
    let s := { s with wakeReq := some (s.wakeReq.getD 0) }
    if !fbit s a 31 then { wrN a (2 ^ 31 + f) s with wakeT := some t }
    else if s.wakeT = some t then fset a 30 1 1 (fset a 0 5 (if f < fget s a 0 5 then f else fget s a 0 5) s)
    else s

/-- The consumers see the filtered output `v` from mc `t` on (Table 12-2). -/
def setSeen (f t : Nat) (v : Bool) (s : Dev) : Dev :=
  let was := fenLive s f
  let x := getFen s f
  let s := setFen f { x with seen := v, seenHist := if x.seen = v then x.seenHist else (t * 1024, v) :: x.seenHist } s
  if fenLive s f && !was then raiseAt t (0xCA + f) (f % 3) s else s

/-- TRIP and the ramp stop at an assert in mc `t` (R382). -/
def fenTrip (f t : Nat) (s : Dev) : Dev :=
  let x := getFen s f
  let div := fget s (na f 0xC) 0 16
  let i := (x.hist.zipIdx.filter (·.1)).foldl (fun _ e => e.2) 0
  let ms := t - i * div
  let ev := x.log.find? fun e => e.t + 2 ≤ ms
  let sel := fget s (na f 0) 28 2
  let cu := match ev with
    | some e => if sel = 3 then x.up.on else sel != 2 && e.u
    | none => false
  let cl := match ev with
    | some e => if sel = 3 then x.lo.on else sel != 1 && e.l
    | none => false
  let pick := if cu && cmpSrc s f true != 0 then some true else if cl && cmpSrc s f false != 0 then some false else none
  match pick with
  | none => s
  | some u =>
    let r := cmpSrc s f u - 1
    let held := fget s (na f 0x10) 0 3 != 0
    let v := rmpAt s r (ms - respT s (cmpMode s f u) - 2)
    let s := if held || fbit s (na f 0x18) 31 then s else
      let s := wrN (na f 0x18) (2 ^ 31 + b2n u * 2 ^ 30 + r * 2 ^ 20 + v) s
      fenIrq f 6 (if s.clk then wr64 (na f 0x1C) t s else s)
    if fbit s (na f 0) 13 then rmpStopAt r t s else s

/-- The filtered output changes to `v` in mc `t` (R377, R378, R499). -/
def fenChange (f t : Nat) (v : Bool) (s : Dev) : Dev :=
  let s := setFen f { getFen s f with out := v } s
  let s := if s.clk then wr64 (na f 0x24) t s else s
  let s := fenIrq f (if v then 0 else 3) (if v then incSat (na f 0x2C) 0 32 1 s else s)
  let s := if fget s (na f 0x10) 0 3 ≠ 0 then s
    else
      let s := if s.clk then timFence f t v s else s
      let s := if v && s.clk then raiseBy 4 t (fun c => bits c 16 5 == f) s else s
      setSeen f t v (if v then fenWake f t s else s)
  showFen f (if v then fenTrip f t s else s)

/-! ### The majority filter (R376) -/

/-- The raw output in force at time `t`. -/
def rawAt (x : Fence) (t : Nat) : Bool := match x.log.find? (fun e => e.t ≤ t) with
  | some e => e.raw
  | none => false

/-- One sample at time `t`. -/
def fenSample (f t : Nat) (s : Dev) : Dev :=
  let x := getFen s f
  let n := fget s (na f 0xC) 24 5
  let k := fget s (na f 0xC) 16 5
  let h := (rawAt x (t - 2) :: x.hist).take n
  let s := setFen f { x with hist := h, last := t } s
  if !x.out && (h.filter id).length ≥ k then fenChange f t true s
  else if x.out && (h.filter not).length ≥ k then fenChange f t false s
  else s

/-- The samples that have come by time `lim` are taken in order; a run of samples that change nothing is passed over. -/
def fenRun (f lim : Nat) : Nat → Dev → Dev
  | 0, s => s
  | fuel + 1, s =>
    let x := getFen s f
    let d := fget s (na f 0xC) 0 16
    let d := if d = 0 then 1 else d
    let t := (x.last / d + 1) * d
    if t > lim then s
    else if x.hist.all (· == x.out) && rawAt x (t - 2) == x.out then
      match (x.log.filter fun e => e.t + 2 > t && e.raw != x.out).getLast? with
      | none => setFen f { x with last := lim / d * d } s
      | some e => let u := cdiv (e.t + 2) d * d
                  if u > lim then setFen f { x with last := lim / d * d } s
                  else fenRun f lim fuel (fenSample f u s)
    else fenRun f lim fuel (fenSample f t s)

/-- Changes of the raw output that no sample can need any more are forgotten. -/
def trimLog (f : Nat) (s : Dev) : Dev :=
  let x := getFen s f
  let back := 31 * fget s (na f 0xC) 0 16 + 4
  let new := x.log.filter fun e => fenT s < e.t + back
  setFen f { x with log := new ++ (x.log.drop new.length).take 1 } s

/-- Fence `f` up to time `lim`: latches that move with a ramp follow it mc by mc (R381), and the samples are taken. -/
def fenUpTo (f lim : Nat) (s : Dev) : Dev :=
  if !fenOn s f then s
  else
    let from' := (getFen s f).tieT
    let s := if tiedToRamp s f then forAll ((List.range (lim + 1 - from')).map (from' + ·)) (fun m s => fenRun f m 4096 (refreshAt f m s)) s
      else fenRun f lim 4096 s
    setFen f { getFen s f with tieT := max from' lim } s

/-- Fence `f` up to now. -/
def fenNow (f : Nat) (s : Dev) : Dev := if fenOn s f then trimLog f (fenUpTo f (fenT s) s) else s

/-! ### Ramps under command and trigger (R380 to R382) -/

/-- The fences whose assert may stop ramp `r`. -/
def stopFences (s : Dev) (r : Nat) : List Nat :=
  (List.range 24).filter fun f => fbit s (na f 0) 13 && (cmpSrc s f true == r + 1 || cmpSrc s f false == r + 1)

/-- A ramp up to now, and first the fences that may stop it; it holds its VALUE while the master clock is off (R382, R386). -/
def rmpNow (r : Nat) (s : Dev) : Dev :=
  let s := forAll (stopFences s r) fenNow s
  if s.clk then rmpAdvance r (now s) s else s

/-- A trigger whose mc is `m` (R381). -/
def rmpTrigger (r m : Nat) (s : Dev) : Dev :=
  let s := rmpNow r s
  if rmpState s r = 0 && running s (rmpPage r) then incSat (A (rmpPage r) 0x98) 0 32 1 (rmpPut r m 1 (rmpStart s r) s) else s

/-- CTL.STOP: a running ramp is held at its VALUE. -/
def rmpStop (r : Nat) (s : Dev) : Dev :=
  let s := rmpNow r s
  if rmpState s r = 1 then rmpPut r (fenT s) 2 (rmpValue s r) s else s

/-- CTL.REARM: a held ramp returns to IDLE. -/
def rmpRearm (r : Nat) (s : Dev) : Dev :=
  let s := rmpNow r s
  if rmpState s r = 2 then rmpPut r (fenT s) 0 (rmpStart s r) s else s

/-- The ramps whose CFG word `p` accepts and whose trigger is `trig` start in mc `m` (R381). -/
def rmpTrigs (trig m : Nat) (p : Nat → Bool) (s : Dev) : Dev :=
  forAll (List.range 4) (fun r s =>
    let c := rdN s (A (rmpPage r) 0x84)
    if bits c 29 3 == trig && p c then rmpTrigger r m s else s) s

/-- Every stored sample is set to the filtered output (R376). -/
def fenInit (f : Nat) (s : Dev) : Dev :=
  let x := getFen s f
  setFen f { x with hist := List.replicate (fget s (na f 0xC) 24 5) x.out, last := fenT s } s

/-! ### Turning on and off (R372, R385) -/

/-- A comparator is turned on: its latch takes PU and holds it for the response time (R372). -/
def cmpOn (f : Nat) (u : Bool) (s : Dev) : Dev :=
  let x := getFen s f
  setFen f (putCmp u { fcmp x u with on := true, latch := cmpPu s f u, hold := some (fenT s + respT s (cmpMode s f u), false) } x) s

/-- A comparator is turned off. -/
def cmpOff (f : Nat) (u : Bool) (s : Dev) : Dev :=
  let x := getFen s f
  setFen f (putCmp u { fcmp x u with on := false, latch := false, hold := none } x) s

/-- The comparators follow the enables. -/
def cmpEnables (f : Nat) (s : Dev) : Dev :=
  forAll [true, false] (fun u s =>
    let want := fenOn s f && cmpEn s f u
    let on := (fcmp (getFen s f) u).on
    if want && !on then cmpOn f u s else if !want && on then cmpOff f u s else s) s

/-- The fence turns on: the filter starts from the released output. -/
def fenTurnOn (f : Nat) (s : Dev) : Dev :=
  logRaw f (fenT s) (cmpEnables f (fenInit f (setFen f { getFen s f with log := [], tieT := fenT s } s)))

/-- The fence turns off: its filtered output reads released from the next mc, and no consumer is told (R385). -/
def fenTurnOff (f : Nat) (s : Dev) : Dev :=
  let x := getFen s f
  showFen f (setFen f { x with out := false, seen := false, log := [], hist := [], outAt := if x.out then some (fenT s) else x.outAt,
                               seenHist := if x.seen then ((now s + 1) * 1024, false) :: x.seenHist else x.seenHist } (cmpOff f false (cmpOff f true s)))

/-- BLK_CTL.EN of a FEN page rises. -/
def fenEnable (p : Nat) (s : Dev) : Dev :=
  forAll (List.range 3) (fun j s => let f := 3 * (p - 0x150) + j; if fbit s (na f 0) 31 then fenTurnOn f s else s) s

/-- BLK_CTL.EN of a FEN page falls. -/
def fenDisable (p : Nat) (s : Dev) : Dev := forAll (List.range 3) (fun j s => fenTurnOff (3 * (p - 0x150) + j) s) s

/-- A block reset of a FEN page clears what R385 lists; the DAC stays where it has settled. -/
def fenReset (p : Nat) (s : Dev) : Dev :=
  forAll (List.range 3) (fun j s =>
    let f := 3 * (p - 0x150) + j
    let x := getFen s f
    setFen f { seenHist := if x.seen then (now s * 1024, false) :: x.seenHist else x.seenHist,
               up := { pos := x.up.pos, code := x.up.code, hyst := x.up.hyst }, lo := { pos := x.lo.pos, code := x.lo.code, hyst := x.lo.hyst } } s) s

/-- A block reset of a ramp page puts the ramp in IDLE (R385). -/
def rmpReset (p : Nat) (s : Dev) : Dev := rmpPut (p - 0x158) (fenT s) 0 (rmpStart s (p - 0x158)) s

/-- The master clock stops, starts or restarts: samples count from the new time base, and a response time or hold in
progress lasts as long as it would have, to a whole cycle of the new base; `left` gives what is left of one (R372,
R373, R386, R602). What consumers saw and a ramp's VALUE keep no time before the new base. -/
def fenRebase (left : Nat → Nat) (s : Dev) : Dev :=
  let s := forAll (List.range 24) (fun f s =>
    let x := getFen s f
    let log := match x.log with
      | e :: _ => [{ e with t := 0 }]
      | [] => []
    setFen f { x with log, last := 0, tieT := 0, outAt := none, seenHist := [(0, x.seen)], up := { x.up with hold := x.up.hold.map fun h => (left h.1, h.2) },
                      lo := { x.lo with hold := x.lo.hold.map fun h => (left h.1, h.2) } } s) s
  forAll (List.range 4) (fun r s => rmpPut r 0 (rmpState s r) (rmpValue s r) (setRmp r {} s)) { s with wakeT := none }

/-! ### Commands -/

/-- FENCE_CROSSING (R371): the external input of a comparator crosses a band edge to `pos`. -/
def doFenceCrossing (f : Fin 24) (u : Bool) (pos : Fin 3) (s : Dev) : Dev :=
  let s := fenNow f s
  let x := getFen s f
  refreshFen f (setFen f (putCmp u { fcmp x u with pos := pos } x) s)

/-- FENCE_FILTER_SAMPLE (R376): the samples that have come by now. -/
def doFenceFilterSample (f : Fin 24) (s : Dev) : Dev := fenNow f s

/-- BRANCH_DECIDE (R187): the fences are brought up to now, and what is due is decided. -/
def doBranchDecide (e : Fin 66) (s : Dev) : Dev := branchDecide e (forAll (List.range 24) fenNow s)

/-- MODE_HOLD_END (R373, R376). -/
def doModeHoldEnd (f : Fin 24) (u : Bool) (s : Dev) : Dev :=
  let s := fenNow f s
  let c := fcmp (getFen s f) u
  match c.hold with
  | some (t, true) => if fenT s < t then s else fenInit f (refreshFen f (setFen f (putCmp u { c with hold := none } (getFen s f)) s))
  | _ => s

/-- POWER_UP_RESPONSE_END (R372). -/
def doPowerUpResponseEnd (f : Fin 24) (u : Bool) (s : Dev) : Dev :=
  let s := fenNow f s
  let c := fcmp (getFen s f) u
  match c.hold with
  | some (t, false) => if fenT s < t then s else refreshFen f (setFen f (putCmp u { c with hold := none } (getFen s f)) s)
  | _ => s

/-- DAC_SETTLE (R384): the written code and hysteresis of a comparator take effect. -/
def doDacSettle (f : Fin 24) (u : Bool) (s : Dev) : Dev :=
  let s := fenNow f s
  let v := rdN s (na f (if u then 4 else 8))
  let x := getFen s f
  refreshFen f (setFen f (putCmp u { fcmp x u with code := bits v 0 12, hyst := bits v 16 6 } x) s)

/-- A refused write recorded in FEN.CFG_ERR, with IRQ bit 9 (R384). -/
def fenErr (f cause o : Nat) (s : Dev) : Dev := irqSet (fenPage f) 0x200 (recordErr (A (fenPage f) 0x80) cause (na f o % 0x1000) s)

/-- The cause that refuses a write of `v` to window offset `o`, 0 for none (R376, R384). -/
def fenWriteErr (o v : Nat) : Nat :=
  if o = 0 then (if bits v 19 3 > 4 || bits v 16 3 > 4 then 1 else 0)
  else if o = 0xC then
    (if bits v 24 5 = 0 || bits v 16 5 = 0 || bits v 16 5 > bits v 24 5 || 2 * bits v 16 5 ≤ bits v 24 5 || bits v 0 16 = 0 then 2 else 0)
  else 0

/-- A mode change of a running comparator holds its latch (R373). -/
def modeHold (f old : Nat) (u : Bool) (s : Dev) : Dev :=
  let x := getFen s f
  let c := fcmp x u
  if c.on && cmpMode s f u ≠ old then setFen f (putCmp u { c with hold := some (fenT s + respT s (cmpMode s f u), true) } x) s else s

/-- A write of CFG (R372, R373, R384, R385). -/
def writeFenCfg (f v : Nat) (s : Dev) : Dev :=
  let was := fenOn s f
  let mu := cmpMode s f true
  let ml := cmpMode s f false
  let q := fenLive s f
  let s := plainWrite (na f 0) v s
  let s := if fenLive s f && !q then raise (0xCA + f) (f % 3) s else s
  if !was && fenOn s f then fenTurnOn f s
  else if was && !fenOn s f then fenTurnOff f s
  else refreshFen f (cmpEnables f (modeHold f ml false (modeHold f mu true s)))

/-- What the consumers of fence `f` saw in the mc before now (R383). -/
def seenBefore (s : Dev) (f : Nat) : Bool := histAt (getFen s f).seenHist (getFen s f).seen (now s * 1024 - 1)

/-- A write of TEST that ties or swaps: the consumers keep what they saw in the mc before it until both fields are 0 again
(R383). -/
def writeFenTest (f v : Nat) (s : Dev) : Dev :=
  let held := fget s (na f 0x10) 0 3 != 0
  let b := seenBefore s f
  let s := fenNow f (plainWrite (na f 0x10) v s)
  let s := if !held && s.clk && fget s (na f 0x10) 0 3 ≠ 0 && (getFen s f).seen != b then
      setFen f { getFen s f with seen := b, seenHist := (getFen s f).seenHist.dropWhile fun e => now s * 1024 ≤ e.1 } s
    else s
  if held && fget s (na f 0x10) 0 3 = 0 then
    let s := fenInit f (refreshFen f s)
    showFen f (setSeen f (fenT s) (getFen s f).out s)
  else refreshFen f s

/-- A write of `v` to window offset `o` of fence `f` (R384). -/
def writeFence (f o v : Nat) (s : Dev) : Dev :=
  let s := if o = 0x10 then fenUpTo f (fenT s - 1) s else fenNow f s
  let e := fenWriteErr o v
  if e ≠ 0 then fenErr f e o s
  else if o = 0 then writeFenCfg f v s
  else if o = 0xC then fenInit f (plainWrite (na f 0xC) v s)
  else if o = 0x10 then writeFenTest f v s
  else plainWrite (na f o) v s

/-- The writable registers of a fence window. -/
def fenOff (r : Fin 5) : Nat := nth 0 [0, 4, 8, 0xC, 0x10] r

/-- FENCE_WINDOW_WRITE. -/
def doFenceWindowWrite (p : Path) (f : Fin 24) (r : Fin 5) (v : Word) (s : Dev) : Dev :=
  onWrite p (na f (fenOff r)) (writeFence f (fenOff r) v.toNat) s

/-- FENCE_TEST_WRITE (R383). -/
def doFenceTestWrite (p : Path) (f : Fin 24) (v : Word) (s : Dev) : Dev := onWrite p (na f 0x10) (writeFence f 0x10 v.toNat) s

/-- RAMP_START. -/
def doRampStart (p : Path) (r : Fin 4) (s : Dev) : Dev := onWrite p (A (rmpPage r) 0x80) (fun s => rmpTrigger r (fenT s) s) s
/-- RAMP_STOP. -/
def doRampStop (p : Path) (r : Fin 4) (s : Dev) : Dev := onWrite p (A (rmpPage r) 0x80) (rmpStop r) s
/-- RAMP_REARM. -/
def doRampRearm (p : Path) (r : Fin 4) (s : Dev) : Dev := onWrite p (A (rmpPage r) 0x80) (rmpRearm r) s
/-- RAMP_STEP (R380). -/
def doRampStep (r : Fin 4) (s : Dev) : Dev := rmpNow r s

/-- The cause that refuses a write of `v` to page offset `o` of ramp `r`, 0 for none (R389). -/
def rmpWriteErr (s : Dev) (r o v : Nat) : Nat :=
  if o = 0x84 && (bits v 29 3 > 3 || bits v 27 2 = 3) then 1
  else if (o = 0x84 && bits v 12 2 = 0) || (o = 0x90 && bits v 0 16 = 0) then 2
  else if [0x84, 0x88, 0x8C, 0x90].contains o && rmpState s r ≠ 0 then 3
  else 0

/-- A write of `v` to page offset `o` of ramp `r`: STOP, then REARM, then START. -/
def writeRmp (r o v : Nat) (s : Dev) : Dev :=
  let s := rmpNow r s
  if o = 0x80 then
    let s := if bit v 30 then rmpStop r s else s
    let s := if bit v 29 then rmpRearm r s else s
    if bit v 31 then rmpTrigger r (fenT s) s else s
  else
    let e := rmpWriteErr s r o v
    if e ≠ 0 then irqSet (rmpPage r) 2 (recordErr (A (rmpPage r) 0xA0) e o s)
    else if o = 0x88 then
      let s := plainWrite (A (rmpPage r) o) v s
      rmpPut r (fenT s) 0 (rmpStart s r) s
    else plainWrite (A (rmpPage r) o) v s

end Sys2Proof.Machine
end

