-- ==== Sys2Proof/Machine/Jes.lean ====
section
/-! DEFINITION. JESD204C links and acquisition channels (Converter acquisition). -/
namespace Sys2Proof.Machine

/-! ### Event log -/

/-- An event that a sample interval may be searched for (R312, R313); events older than 2^22 mc can lie in no
interval still to be processed. -/
def logEv (kind idx t : Nat) (s : Dev) : Dev :=
  { s with acq := { s.acq with log := { kind, idx, t } :: s.acq.log.filter fun x => nowVs s < x.t + 2 ^ 32 } }

/-! ### Links (R300 to R309) -/

/-- The JES page of link `k`. -/
def jesPage (k : Nat) : Nat := 0x1A0 + k
def getJes (s : Dev) (k : Nat) : Jes := mget (fun _ => {}) s.acq.links k
def setJes (k : Nat) (x : Jes) (s : Dev) : Dev := { s with acq := { s.acq with links := mset (fun _ => {}) k x s.acq.links } }

/-- A field of the link's settings taken at EN: register number 0 CFG, 1 SPER, 2 ALIGN, 3 ADC_LAT, 4 SYSREF_CFG,
5 SYSREF_DLY. -/
def jf (x : Jes) (r lo w : Nat) : Nat := bits (nth 0 x.par r) lo w
/-- Lanes of the link; 8 stands for the reserved code. -/
def jL (x : Jes) : Nat := nth 8 [1, 2, 4] (jf x 0 0 2)
/-- Converters of the link. -/
def jM (x : Jes) : Nat := jf x 0 8 4 + 1
def jNum (x : Jes) : Nat := jf x 1 16 16
def jDen (x : Jes) : Nat := jf x 1 0 16
def jAlign (x : Jes) : Nat := jf x 2 0 10
def jLat (x : Jes) : Int := sgn (jf x 3 0 32) 32
/-- LEMC_MC times M × DEN (R302). -/
def lemcNum (x : Jes) : Nat := jf x 0 24 8 * 128 * jL x * jNum x
def lemc (x : Jes) : Nat := lemcNum x / (jM x * jDen x)

/-- The settings as the page's registers hold them. -/
def jesRegs (s : Dev) (k : Nat) : List Nat := [0x80, 0x84, 0x88, 0x8C, 0x90, 0x94].map fun o => rdN s (A (jesPage k) o)

/-- The cause that refuses EN = 1, 0 for none (R302). -/
def jesErr (x : Jes) : Nat :=
  if jL x = 8 || 2 * jM x % jL x ≠ 0 || 2 * jM x < jL x then 1
  else if 264 * jM x * jDen x < 60 * jL x * jNum x || 264 * jM x * jDen x > 165 * jL x * jNum x || jNum x = 0 || jDen x = 0 then 2
  else if lemcNum x = 0 || lemcNum x % (jM x * jDen x) ≠ 0 then 3
  else if jAlign x < 32 || (jAlign x : Int) * 1024 + jLat x < 32768 then 4
  else if jf x 4 30 2 = 0 || jf x 4 30 2 = 3 || jf x 4 0 8 = 0 || jf x 4 16 8 = 0 || jf x 4 8 8 = 0 then 5
  else 0

/-- JES.STAT.STATE of link `k`. -/
def jesState (s : Dev) (k : Nat) : Nat := fget s (A (jesPage k) 0x98) 29 3

/-- The settings that EN = 1 would take. -/
def jesWould (s : Dev) (k : Nat) : Jes := { par := jesRegs s k }

/-- EN of link `k` goes to 1: its settings are taken and training begins; a SYSREF pulse in progress goes on (R302 to R304,
R339). -/
def jesEnable (k : Nat) (s : Dev) : Dev :=
  let x := jesWould s k
  wrN (A (jesPage k) 0x9C) (lemc x) (setJes k { x with burst := jf x 4 16 8, sysHigh := (getJes s k).sysHigh } s)

/-- The link is enabled, powered and ACTIVE. -/
def jesOn (s : Dev) (k : Nat) : Bool := running s (jesPage k)

/-- SYSREF_PULSE_END (R303): a pulse ends PW mc after it began. -/
def doSysrefPulseEnd (k : Fin 4) (s : Dev) : Dev :=
  let x := getJes s k
  match x.sysHigh with
  | some (_, e, d) => if e ≤ now s then emit (.sysref k (e * 1024 + d) false) (setJes k { x with sysHigh := none } s) else s
  | none => s

/-- SYSREF_PULSE (R303): a pulse begins at a TS that is a multiple of K × LEMC_MC; one that begins while SYSREF is
still high lengthens the high time. -/
def doSysrefPulse (k : Fin 4) (s : Dev) : Dev :=
  let x := getJes s k
  let p := jf x 4 0 8 * lemc x
  if !jesOn s k || p = 0 || now s % p ≠ 0 || x.sysHigh.any (·.1 == now s) || (jf x 4 30 2 = 2 && x.burst = 0) then s
  else
    let s := doSysrefPulseEnd k s
    let x := getJes s k
    let s' := setJes k { x with sysHigh := some (now s, now s + jf x 4 8 8, jf x 5 0 13), burst := x.burst - 1 } s
    if x.sysHigh.isSome then s' else emit (.sysref k (nowVs s + jf x 5 0 13) true) s'

/-- JES_BLOCK_LOCK (R304). -/
def doJesBlockLock (k : Fin 4) (s : Dev) : Dev :=
  if jesOn s k && jesState s k = 0 then
    fset (A (jesPage k) 0x98) 24 4 (2 ^ jL (getJes s k) - 1) (fset (A (jesPage k) 0x98) 29 3 1 s) else s

/-- JES_EMB_LOCK (R304). -/
def doJesEmbLock (k : Fin 4) (s : Dev) : Dev :=
  if jesOn s k && jesState s k = 1 then fset (A (jesPage k) 0x98) 29 3 2 (setJes k { getJes s k with elastic := [] } s) else s

/-- Words of a multiblock (Table 10-1). -/
def mbWords (x : Jes) : Nat := 128 * jL x

/-- The last sample whose frame a multiblock that begins at word `w` completes. -/
def mbLast (x : Jes) (w : Nat) : Nat := (w + mbWords x) / jM x - 1

/-- The release mc of sample `n`'s frame (R304). -/
def releaseMc (x : Jes) (n : Nat) : Nat := x.b0 + jAlign x + n * jNum x / jDen x

/-- The smallest lead of arrival over release (R305). -/
def marginIs (k lead : Nat) (s : Dev) : Dev :=
  let a := A (jesPage k) 0x98
  let s := if sat lead 1023 < fget s a 0 10 then fset a 0 10 lead s else s
  onlyIf (lead < 8) (irqSet (jesPage k) 8) s

/-- A multiblock joins the released ones, in order (R304 to R306). -/
def mbAccept (k : Nat) (b : MBlk) (s : Dev) : Dev :=
  let x := getJes s k
  let s := setJes k { x with next := x.next + mbWords x, blocks := (x.blocks ++ [(x.next, b)]).filter fun y => now s < releaseMc x (mbLast x y.1) + 65536 } s
  let s := marginIs k (releaseMc x (mbLast x x.next) - b.arr) s
  if b.ok then s else irqSet (jesPage k) 4 (incSat (A (jesPage k) 0xA0) 16 16 1 s)

/-! ### Sample time (R308 to R310) -/

/-- t(n) × DEN, in vs (R308). -/
def sampT (x : Jes) (n : Int) : Int := ((x.b0 : Int) * 1024 - jLat x) * jDen x + n * 1024 * jNum x

/-- P(n) (R309). -/
def procMc (x : Jes) (n : Nat) : Nat :=
  let a := sampT x n + (jLat x + jAlign x * 1024) * jDen x
  ((a + (1024 * jDen x - 1)) / (1024 * jDen x)).toNat + 2

/-- Sample `n` of converter `c` as received, with whether its multiblock failed its CRC. -/
def sampleAt (x : Jes) (c n : Nat) : Option (BitVec 16 × Bool) :=
  x.blocks.findSome? fun b =>
    if b.1 ≤ n * jM x + c && c < jM x then (b.2.data[n * jM x + c - b.1]?).map fun v => (v, !b.2.ok) else none

/-! ### Channels: addresses and settings (R321, R336, R340) -/

/-- The ACQ page of channel `c`. -/
def acqPage (c : Nat) : Nat := 0x120 + c / 2
/-- A register of channel `c`'s window. -/
def aa (c o : Nat) : Nat := A (acqPage c) (0x100 + 0x400 * (c % 2) + o)
def getAcq (s : Dev) (c : Nat) : Acq := mget (fun _ => {}) s.acq.chans c
/-- Samples of the segment that are not handed to the Granary yet (R327). -/
def unwritten (g : Seg) : Nat := g.first + g.samples.length - (g.n - g.preA) - g.handed

/-- Samples of record `r` of segment `g` that are still to be handed over (R327). -/
def recLeft (g : Seg) (r : AcqRec) : Nat := min r.cnt (r.first + r.cnt - (g.n - g.preA + g.handed))

/-- STAT.FILL (R340): the samples in the ring, those of a segment that are still to be written among them (R327). -/
def acqFill (x : Acq) : Nat :=
  sat (match x.seg with
    | some g => unwritten g + ((x.closing.filter fun r => r.n != g.n).map (·.left)).foldl (· + ·) 0
    | none => x.ring.length + (x.closing.map (·.left)).foldl (· + ·) 0) 4096
def setAcq (c : Nat) (x : Acq) (s : Dev) : Dev :=
  fset (aa c 4) 0 13 (acqFill x) { s with acq := { s.acq with chans := mset (fun _ => {}) c x s.acq.chans } }

/-- The settings as the registers hold them: 0 SRC, 1 CH_DLY, 2 SEG_CFG, 3 POST, 4 SEGS, 5 TRG_CFG, 6 TRG_SEL,
7 LEVEL, 8 SLOPE, 9 WIN, 10 MASK_CFG. -/
def acqRegs (s : Dev) (c : Nat) : List Nat :=
  [0x08, 0x0C, 0x10, 0x14, 0x18, 0x1C, 0x20, 0x24, 0x28, 0x2C, 0x30].map fun o => rdN s (aa c o)

/-- A field of the settings in force. -/
def af (x : Acq) (r lo w : Nat) : Nat := bits (nth 0 x.eff r) lo w
/-- The channel's state (Table 10-3). -/
def acqState (s : Dev) (c : Nat) : Nat := fget s (aa c 4) 16 3
def setAcqState (c v : Nat) (s : Dev) : Dev := fset (aa c 4) 16 3 v s

/-- The channel's link is ALIGNED and carries its converter (R311). -/
def acqLinked (s : Dev) (x : Acq) : Bool :=
  jesState s (af x 0 30 2) == 3 && decide (af x 0 26 4 < jM (getJes s (af x 0 30 2)))

/-- A marker output marked in MARK asserts, CH_DLY after its reference-plane time, in (t(n − 1), t(n)] (R312, R409). -/
def markIn (s : Dev) (j : Jes) (mask n : Nat) (dly : Int) : Bool :=
  s.acq.log.any fun e => e.kind == 7 && bit mask e.idx && decide (sampT j (n - 1) < (e.t + dly) * jDen j)
    && decide ((e.t + dly) * jDen j ≤ sampT j n)

/-- Sample `n` as the channel treats it (R311, R312), with its CRC mark. -/
def chanSample (s : Dev) (x : Acq) (n : Nat) : Option (BitVec 16 × Bool) :=
  let j := getJes s (af x 0 30 2)
  (sampleAt j (af x 0 26 4) n).map fun v =>
    let b := if af x 0 25 1 = 1 then v.1 ^^^ 0x8000 else v.1
    let b := if af x 0 24 1 = 1 then (b &&& 0xFFFE) ||| (if markIn s j (af x 0 0 16) n (sgn (af x 1 0 32) 32) then 1 else 0) else b
    (b, v.2)

/-- A sample as a signed number. -/
def sv (b : BitVec 16) : Int := b.toInt

/-! ### Triggers and placement (R313 to R320) -/

/-- FRAC of the linear form (R317): k − 1 for the smallest k with 256 |V − y0| ≤ k |y1 − y0|. -/
def linFrac (y0 y1 v : Int) : Nat :=
  let d := (y1 - y0).natAbs
  if d = 0 then 0 else (max 1 (cdiv (256 * (v - y0).natAbs) d)) - 1

/-- The cubic of R318 at k ÷ 256, times 2 × 256³. -/
def cubicAt (x0 x1 x2 x3 : Int) (k : Int) : Int :=
  2 * x1 * 16777216 + k * 65536 * (x2 - x0) + k * k * 256 * (2 * x0 - 5 * x1 + 4 * x2 - x3) + k * k * k * (3 * x1 - x0 - 3 * x2 + x3)

/-- The smallest k from `k` on at which the cubic has reached `v` in the direction of the crossing. -/
def cubicFind (x0 x1 x2 x3 v : Int) (up : Bool) : Nat → Nat → Nat
  | 0, k => k
  | fuel + 1, k =>
    let y := cubicAt x0 x1 x2 x3 k
    if (if up then decide (v * 33554432 ≤ y) else decide (y ≤ v * 33554432)) then k else cubicFind x0 x1 x2 x3 v up fuel (k + 1)

/-- The first event of a kind in the interval of sample `n`. -/
def firstEv (s : Dev) (j : Jes) (kind idx n : Nat) : Option Nat :=
  let es := s.acq.log.filter fun e => e.kind == kind && e.idx == idx && decide (sampT j (n - 1) < e.t * jDen j)
    && decide ((e.t * jDen j : Int) ≤ sampT j n)
  match es.map (·.t) with
  | [] => none
  | t :: ts => some (ts.foldl min t)

/-- FRAC of an event at `t` in the interval of sample `n` (R317). -/
def evFrac (j : Jes) (n t : Nat) : Nat :=
  let d := (256 * (t * jDen j - sampT j (n - 1))).toNat
  cdiv d (1024 * jNum j) - 1

/-- One direction pair of LEVEL or SLOPE at value `y` (R314): rising and falling fire, and the primed bits after. -/
def levelStep (y v : Int) (h : Nat) (up dn : Bool) (dir : Nat) : (Bool × Bool) × (Bool × Bool) :=
  let rUp := up && decide (v ≤ y)
  let rDn := dn && decide (y ≤ v)
  let up' := (up && !rUp) || decide (y < v - h)
  let dn' := (dn && !rDn) || decide (v + h < y)
  ((rUp && (dir == 0 || dir == 2), rDn && (dir == 1 || dir == 2)), (up', dn'))

/-- WINDOW at sample `y` after `y0` (R316): whether it fires, the crossed threshold if one was passed, and the
state after. -/
def windowStep (y0 : Option Int) (y lo hi : Int) (h : Nat) (ins : Bool) (leave : Bool) : Bool × Option Int × Bool :=
  let isIn := lo ≤ y && y ≤ hi
  let isOut := y < lo - h || y > hi + h
  let ins' := if isIn then true else if isOut then false else ins
  let enter := !ins && ins'
  let exit := ins && !ins'
  let fires := if leave then exit else enter
  let cand := match y0 with
    | none => none
    | some z =>
      if ins' then (if z < lo then some lo else if z > hi then some hi else none)
      else (if y < lo - h && z ≥ lo - h then some (lo - h) else if y > hi + h && z ≤ hi + h then some (hi + h) else none)
  (fires, cand, ins')

/-- The firing at sample `n`, if any, with the channel's trigger state after it (R313 to R320). A crossing for
which no threshold was passed takes a free FRAC. -/
def fireAt (s : Dev) (x : Acq) (n : Nat) (y : Int) : Option Fire × Acq :=
  let j := getJes s (af x 0 30 2)
  let en := af x 5 16 7
  let at' := fun i => if i ≤ n then (chanSample s x (n - i)).map fun v => sv v.1 else none
  let prev := at' 1
  let v := sgn (af x 7 0 16) 16
  let h := af x 7 16 16
  let (l, lp) := levelStep y v h x.lUp x.lDn (af x 5 12 2)
  let sv' := sgn (af x 8 0 16) 16
  let d := (at' (af x 5 0 4 + 1)).map fun z => y - z
  let d0 := match prev, (if n = 0 then none else at' (af x 5 0 4 + 2)) with
    | some a, some b => some (a - b)
    | _, _ => none
  let (sl, sp) := match d with
    | some dy => levelStep dy sv' (af x 8 16 16) x.sUp x.sDn (af x 5 10 2)
    | none => ((false, false), (x.sUp, x.sDn))
  let (w, wv, ins) := windowStep prev y (sgn (af x 9 0 16) 16) (sgn (af x 9 16 16) 16) h x.inside (af x 5 9 1 == 1)
  let pin := firstEv s j 3 (af x 6 30 2) n
  let ring := firstEv s j 4 (af x 6 26 4) n
  let mk := firstEv s j 5 (4 * af x 6 16 6 + af x 6 12 2) n
  let force := firstEv s j 6 (x.recN / 2 ^ 32) n
  let x' := { x with lUp := lp.1, lDn := lp.2, sUp := sp.1, sDn := sp.2, inside := ins }
  let sats := (if bit en 0 && (l.1 || l.2) then [0] else []) ++ (if bit en 1 && (sl.1 || sl.2) then [1] else [])
    ++ (if bit en 2 && w then [2] else []) ++ (if bit en 3 && pin.isSome then [3] else []) ++ (if bit en 4 && ring.isSome then [4] else [])
    ++ (if bit en 5 && mk.isSome then [5] else []) ++ (if bit en 6 && force.isSome then [6] else [])
  let causes := sats.foldl (fun a i => a + 2 ^ i) 0
  let free := bits (Config.freeWord s.freeCtr).toNat 0 8
  let lin := fun (a : Option Int) (b t : Int) => match a with
    | some z => if z = b then free else linFrac z b t
    | none => free
  match sats with
  | [] => (none, x')
  | 0 :: _ => (some { n, causes, attr := 0, frac := lin prev y v, cubic := some (v, l.1) }, x')
  | 1 :: _ => (some { n, causes, attr := 1, frac := lin d0 (d.getD 0) sv', cubic := none }, x')
  | 2 :: _ =>
    (some { n, causes, attr := 2, frac := match wv with | some t => lin prev y t | none => free,
            cubic := match wv, prev with | some t, some z => some (t, z < y) | _, _ => none }, x')
  | 3 :: _ => (some { n, causes, attr := 3, frac := evFrac j n (pin.getD 0), cubic := none }, x')
  | 4 :: _ => (some { n, causes, attr := 4, frac := evFrac j n (ring.getD 0), cubic := none }, x')
  | 5 :: _ => (some { n, causes, attr := 5, frac := evFrac j n (mk.getD 0), cubic := none }, x')
  | _ :: _ => (some { n, causes, attr := 6, frac := evFrac j n (force.getD 0), cubic := none }, x')

/-- Whether the channel decides one sample later (R319). -/
def deferred (x : Acq) : Bool := af x 5 8 1 == 1 && (af x 5 16 1 == 1 || af x 5 18 1 == 1)

/-- The firing with the cubic form's FRAC, where R318 gives it. -/
def cubicFire (s : Dev) (x : Acq) (f : Fire) : Fire :=
  match f.cubic with
  | none => f
  | some (v, up) =>
    let at' := fun (i : Nat) => (chanSample s x i).map fun z => sv z.1
    match (if f.n < 2 then none else at' (f.n - 2)), (if f.n < 1 then none else at' (f.n - 1)), at' f.n, at' (f.n + 1) with
    | some x0, some x1, some x2, some x3 => { f with frac := cubicFind x0 x1 x2 x3 v up 255 1 - 1 }
    | _, _, _, _ => f

/-- The trigger time at the reference plane in vs, to the nearest, halves up (R310, R317). -/
def trigTime (x : Acq) (j : Jes) (f : Fire) : Int :=
  let den : Int := 256 * jDen j
  let num := sampT j ((f.n : Int) - 1) * 256 + f.frac * 1024 * jNum j - sgn (af x 1 0 32) 32 * den
  Int.fdiv (2 * num + den) (2 * den)

/-! ### Records (R327, R332 to R335) -/

/-- The timing-invalid flag of a record that site `i` makes now (R106, R235). -/
def idleFlag (s : Dev) (i : Nat) : Nat := b2n (siteTinv s i) * 0x80

/-- The channel's producer tag for its `i`-th record. -/
def acqTag (c i : Nat) : Nat := 2 ^ 80 + c * 2 ^ 64 + i

/-- Offers that wait are tried again: those the Granary had no room for, and those behind a gap record still to be
written (R335). -/
def retryOpen (c : Nat) : Nat → Dev → Dev
  | 0, s => s
  | k + 1, s =>
    match (getAcq s c).unopened with
    | o :: os => if grnRoom o s && (getAcq s c).closing.all (·.gap.isNone) then retryOpen c k (offer o (setAcq c { getAcq s c with unopened := os } s)) else s
    | [] => s

/-- A record has not reached the Granary's ring yet. -/
def recWaits (s : Dev) (c tag : Nat) : Bool := (getAcq s c).unopened.any (·.tag == tag) || s.grn.intake.any (·.tag == tag)

/-- Samples of one record at most (R333). -/
def recMax : Nat := 1048576

/-- A record of the segment opens for at most `left` samples (R333, R422). -/
def openRecAcq (c left : Nat) (s : Dev) : Dev × Nat :=
  let x := getAcq s c
  let tag := acqTag c (x.recN % 2 ^ 32)
  let o : Offer := { q := siteQueue s (af x 0 16 6), typ := 0x20, flags := idleFlag s (af x 0 16 6), epoch := x.epoch, sys := false,
                     len := 16 * cdiv (64 + 2 * min left recMax) 16, ts := now s, body := [], whole := false, tag }
  (retryOpen c 8 (setAcq c { x with recN := x.recN / 2 ^ 32 * 2 ^ 32 + (x.recN + 1) % 2 ^ 32, unopened := x.unopened ++ [o] } s), tag)

/-- The bytes after the header of the segment's current record, padded to whole units (Table 10-4, R333). -/
def segBody (s : Dev) (c : Nat) (x : Acq) (g : Seg) (trunc last more : Bool) : List Byte :=
  let j := getJes s (af x 0 30 2)
  let t := trigTime x j g.fire
  let agen := fget s (A (jesPage (af x 0 30 2)) 0x98) 16 8
  let w1 := g.fire.attr * 2 ^ 25 + g.fire.causes * 2 ^ 18 + g.fire.frac * 2 ^ 10 + (t % 1024).toNat
  let w2 := b2n trunc * 2 ^ 31 + b2n g.cont * 2 ^ 30 + b2n g.shortPre * 2 ^ 29 + b2n (decide (g.viol ≠ 0)) * 2 ^ 28 + b2n g.crc * 2 ^ 27
    + b2n g.cold * 2 ^ 26 + b2n last * 2 ^ 25 + b2n more * 2 ^ 24 + agen * 2 ^ 16 + c
  leBytes 8 (uns (Int.fdiv t 1024) 64) ++ leBytes 4 w1 ++ leBytes 4 w2 ++ leBytes 8 (if g.cont then g.first else g.n)
    ++ leBytes 4 (if g.cont then 0 else g.preA) ++ leBytes 4 g.samples.length ++ leBytes 4 x.segN ++ leBytes 4 g.missed
    ++ leBytes 4 g.viol ++ leBytes 4 (g.firstV.getD m32) ++ (g.samples.reverse.flatMap fun v => leBytes 2 v.toNat)
    ++ zeros (16 * cdiv (2 * g.samples.length) 16 - 2 * g.samples.length)

/-- The segment's current record is complete and waits for its close. -/
def completeRec (c : Nat) (g : Seg) (trunc last more : Bool) (s : Dev) : Dev :=
  let x := getAcq s c
  let s := logQ { kind := 4, unit := c, t := now s, n := b2n (!more), mean := g.viol, warm0 := warm0 s } s
  setAcq c { x with closing := x.closing ++ [{ tag := g.tag, body := segBody s c x g trunc last more, site := af x 0 16 6, epoch := x.epoch,
                                               n := g.n, first := g.first, cnt := g.samples.length, left := 0 }] } s

/-- The gap record that waits behind the closed record `r` goes out, for the site and epoch of its arm (R334, R335). -/
def gapAfter (r : AcqRec) (s : Dev) : Dev :=
  match r.gap with
  | some b => siteRecord r.site 4 (idleFlag s r.site) r.epoch b s
  | none => s

/-- Record `r` has been written whole: its samples have left the ring (R327). -/
def recHanded (r : AcqRec) (x : Acq) : Acq :=
  { x with seg := x.seg.map fun g => if g.n = r.n then { g with handed := max g.handed (r.first + r.cnt - (g.n - g.preA)) } else g }

/-- SEGMENT_RECORD_CLOSE (R333, R335): the oldest complete record closes; its gap record follows it. -/
def doSegmentRecordClose (c : Fin 64) (s : Dev) : Dev :=
  let s := retryOpen c 8 s
  let x := getAcq s c
  match x.closing with
  | [] => s
  | r :: rest =>
    if recWaits s c r.tag then s
    else gapAfter r (closeTag r.tag r.body (flagTag r.tag (idleFlag s r.site) (setAcq c (recHanded r { x with closing := rest, closedAt := now s }) s)))

/-- The bytes of a gap record of the channel; its TS holds the first sample's reference-plane time (R334, R310). -/
def acqGap (s : Dev) (c : Nat) (x : Acq) (first count cause : Nat) : List Byte :=
  let j := getJes s (af x 0 30 2)
  gapBody first count (uns (Int.fdiv (sampT j first - sgn (af x 1 0 32) 32 * jDen j) (1024 * jDen j)) 64) (cause * 2 ^ 24) c

/-- The segment is the arm's last (R326, R331). -/
def lastSeg (x : Acq) (g : Seg) : Bool :=
  decide (x.segN + 1 = (if nth 0 x.eff 4 = 0 then 2 ^ 32 else nth 0 x.eff 4)) || (g.anyV && af x 10 30 1 == 1 && af x 10 31 1 == 1)

/-- Segment `g` ends: each of its records that is still to be written keeps its samples in the ring (R327). -/
def leaveRing (g : Seg) (rs : List AcqRec) : List AcqRec := rs.map fun r => if r.n = g.n then { r with left := recLeft g r } else r

/-- The segment has ended; its nominal last sample is processed in mc `p` (R325). -/
def segOver (c p : Nat) (g : Seg) (s : Dev) : Dev :=
  let x := getAcq s c
  setAcqState c 3 (wrN (aa c 0x3C) (x.segN + 1)
    (setAcq c { x with seg := none, closing := leaveRing g x.closing, segN := x.segN + 1, endP := p, ring := [], stop := g.anyV && af x 10 30 1 == 1 && af x 10 31 1 == 1 } s))

/-- Segments of the arm (R326). -/
def segsOf (x : Acq) : Nat := if nth 0 x.eff 4 = 0 then 2 ^ 32 else nth 0 x.eff 4

/-- The arm has taken its last segment (R326, R331). -/
def armEnds (x : Acq) : Bool := x.stop || x.segN == segsOf x

/-! ### Mask tests (R329 to R331) -/

/-- Envelope point `j` of channel `c`. -/
def envPoint (s : Dev) (c : Nat) (upper : Bool) (j : Nat) : Int := sv (mget (fun _ => 0) s.acq.env (c * 8192 + b2n upper * 4096 + j))

/-- The latches and flags that a violation of channel `c` sets in mc `m` (R330). -/
def violSet (m c : Nat) (s : Dev) : Dev :=
  let s := forAll ((List.range 66).filter fun e => furState s e == 3) (fun e s => latSet e (21 + c) (m * 1024) s) s
  irqSet (acqPage c) (4 * 2 ^ (c % 2)) (hit (aa c 4) 31 s)

/-- A violation of the sample processed in mc `p`, of a segment decided in mc `d`, acts in mc max(p, d) + 2 (R330). -/
def violate (c d p : Nat) (s : Dev) : Dev :=
  if max p d + 2 ≤ now s then violSet (max p d + 2) c s
  else { s with acq := { s.acq with viols := s.acq.viols ++ [(max p d + 2, c)] } }

/-- The violations whose mc has come (R330). -/
def violAdvance (s : Dev) : Dev :=
  let due := sortOn (·.1) (s.acq.viols.filter fun v => v.1 ≤ now s)
  forAll due (fun v s => violSet v.1 v.2 s) { s with acq := { s.acq with viols := s.acq.viols.filter fun v => now s < v.1 } }

/-- Sample `v` of index `i`, processed in mc `p`, joins the segment `g` of channel `c` and is tested (R329). -/
def segSample (c i p : Nat) (v : BitVec 16) (crc cold : Bool) (g : Seg) (s : Dev) : Dev × Seg :=
  let x := getAcq s c
  let j : Int := (i : Int) - g.n - sgn (af x 10 0 16) 16
  let tested := af x 10 31 1 == 1 && decide (0 ≤ j) && decide (j < af x 10 16 13)
  let bad := tested && (decide (envPoint s c true j.toNat < sv v) || decide (sv v < envPoint s c false j.toNat))
  let g := { g with samples := v :: g.samples, crc := g.crc || crc, cold := g.cold || cold }
  if bad then
    (violate c g.dec p s, { g with viol := g.viol + 1, anyV := true, firstV := match g.firstV with | some k => some k | none => some j.toNat })
  else (s, g)

/-! ### Processing samples (R309 to R328) -/

/-- MISSED gains 1 (R324). -/
def missOne (c : Nat) (s : Dev) : Dev :=
  let s := logQ { kind := 4, unit := c, t := now s, sd := 1 } s
  incSat (aa c 0x40) 0 32 1 (setAcq c { getAcq s c with missed := sat ((getAcq s c).missed + 1) m32 } s)

/-- The mc R of a segment that has ended, once its records have closed (R325). -/
def rearmMc (x : Acq) : Option Nat :=
  if x.closing.isEmpty && x.unopened.isEmpty then some (max (x.endP + 640) (x.closedAt + 1)) else none

/-- The channel leaves REARM by mc `m`, or LINKWAIT where the arm has taken its last segment (R325, R326, R328,
R331). -/
def rearm (c m : Nat) (s : Dev) : Dev :=
  let x := getAcq s c
  match rearmMc x with
  | none => s
  | some r =>
    if !(acqState s c == 3 || (acqState s c == 6 && armEnds x)) || m < r then s
    else if x.stop then setAcqState c 5 s
    else if x.segN = segsOf x then irqSet (acqPage c) (2 ^ (c % 2)) (setAcqState c 4 s)
    else setAcqState c 1 (setAcq c { x with armedAt := r } s)

/-- ACQ_REARM (R325). -/
def doAcqRearm (c : Fin 64) (s : Dev) : Dev := rearm c (now s) s

/-- The samples of a segment's record so far fill it: it completes with MORE and the next one opens (R333). -/
def splitRec (c : Nat) (g : Seg) (left : Nat) (s : Dev) : Dev × Seg :=
  if g.samples.length < recMax || left = 0 then (s, g)
  else
    let s := completeRec c g false (lastSeg (getAcq s c) g) true s
    let (s, tag) := openRecAcq c left s
    (s, { g with tag, cont := true, first := g.first + g.samples.length, samples := [], viol := 0, crc := false, cold := false })

/-- The samples `old` of index `i` on join the segment, processed in mc `p`. -/
def segSamples (c p : Nat) : Nat → List (BitVec 16 × Bool × Bool) → Seg → Dev → Dev × Seg
  | _, [], g, s => (s, g)
  | i, v :: vs, g, s =>
    let r := segSample c i p v.1 v.2.1 v.2.2 g s
    segSamples c p (i + 1) vs r.2 r.1

/-- The segment has its nominal last sample, processed in mc `p`: its record completes, and it is over. -/
def segDone (c p : Nat) (g : Seg) (s : Dev) : Dev := segOver c p g (completeRec c g false (lastSeg (getAcq s c) g) false s)

/-- A firing decided in mc `d` is taken, or counted as missed (R322 to R324): `before` is the ring, newest first, of
the samples before the trigger sample, and `from'` holds the trigger sample and, where R319 decides later, the one
after it. The samples that the segment does not take enter the ring. -/
def decide' (c d : Nat) (f : Fire) (before from' : List (BitVec 16 × Bool × Bool)) (s : Dev) : Dev :=
  let x := getAcq s c
  let post := nth 0 x.eff 3
  let preA := min (af x 2 0 13) before.length
  let short := preA < af x 2 0 13
  if acqState s c ≠ 1 || d < x.armedAt || (short && af x 2 31 1 == 1) then missOne c s
  else
    let j := getJes s (af x 0 30 2)
    let s := wr64 (aa c 0x4C) (uns (Int.fdiv (trigTime x j f) 1024) 64) s
    let (s, tag) := openRecAcq c (preA + post) s
    let g : Seg := { n := f.n, preA, shortPre := short, fire := f, dec := d, missed := x.missed, handed := 0, first := f.n - preA, cont := false, samples := [],
                     tag, crc := false, cold := false, viol := 0, firstV := none, anyV := false, lostFrom := none }
    let s := setAcqState c 2 (setAcq c { getAcq s c with missed := 0, ring := [], held := none } s)
    let (s, g) := segSamples c d (f.n - preA) ((before.take preA).reverse ++ from'.take post) g s
    if post ≤ from'.length then
      let s := segDone c (procMc j (f.n + post - 1)) g s
      let left := from'.drop post
      setAcq c (if deferred x then { getAcq s c with held := left.head? } else { getAcq s c with ring := left }) s
    else setAcq c { getAcq s c with seg := some g } s

/-- The gap record of a truncated segment waits behind its record, or goes out when that has closed (R335). -/
def gapBehind (c : Nat) (x : Acq) (g : Seg) (gap : List Byte) (s : Dev) : Dev :=
  let y := getAcq s c
  if y.closing.any (·.tag == g.tag) then
    setAcq c { y with closing := y.closing.map fun r => if r.tag == g.tag then { r with gap := some gap } else r } s
  else siteRecord (af x 0 16 6) 4 (idleFlag s (af x 0 16 6)) x.epoch gap s

/-- Between two samples memory takes as many of the unwritten samples as it can: a free number of them, none while
the segment's record waits for its place (R327; the spec bounds no rate). -/
def handOver (c : Nat) (g : Seg) (s : Dev) : Seg × Dev :=
  let r := freshWord s
  if recWaits s c g.tag then (g, r.2)
  else
    let base := g.n - g.preA + g.handed
    let k := min (unwritten g) r.1.toNat
    let from' := max base g.first - g.first
    let new := (g.samples.reverse.drop from').take (base + k - max base g.first)
    ({ g with handed := g.handed + k }, if new.isEmpty then r.2 else streamTag g.tag (64 + 2 * from') (new.flatMap fun v => leBytes 2 v.toNat) r.2)

/-- Sample `n` goes to the segment in CAPTURE, which may lose it, split its record, or end (R322, R327). -/
def captureSample (c n p : Nat) (v : BitVec 16) (crc cold : Bool) (s : Dev) : Dev :=
  let x := getAcq s c
  match x.seg with
  | none => s
  | some g =>
    let lastN := g.n + nth 0 x.eff 3 - 1
    match g.lostFrom with
    | some l =>
      let s := inc64 (aa c 0x44) 1 s
      if n = lastN then segOver c p g (gapBehind c x g (acqGap s c x l (n - l + 1) 0x20) s) else s
    | none =>
      let (g, s) := handOver c g s
      if unwritten g ≥ 4096 then
        let s := completeRec c g true (lastSeg x g) false s
        let s := irqSet (acqPage c) (16 * 2 ^ (c % 2)) (hit (aa c 4) 30 (inc64 (aa c 0x44) 1 s))
        if n = lastN then segOver c p g (gapBehind c x g (acqGap s c x n 1 0x20) s)
        else setAcq c { getAcq s c with seg := some { g with lostFrom := some n } } s
      else
        let (s, g) := segSample c n p v crc cold g s
        if n = lastN then segDone c p g s
        else
          let (s, g) := splitRec c g (lastN - n) s
          setAcq c { getAcq s c with seg := some g } s

/-- A sample enters the ring of 4,096 (R322). -/
def toRing (v : BitVec 16 × Bool × Bool) (r : List (BitVec 16 × Bool × Bool)) : List (BitVec 16 × Bool × Bool) := (v :: r).take 4096

/-- Channel `c` outside CAPTURE takes the sample `v`, processed in mc `p`; `due` is the firing decided now. With R319's
later decision a sample enters the ring once its own interval is decided (R319, R322). -/
def ringSample (c p : Nat) (v : BitVec 16 × Bool × Bool) (due : Option Fire) (s : Dev) : Dev :=
  let x := getAcq s c
  let after := if deferred x then { x with ring := (match x.held with | some h => toRing h x.ring | none => x.ring), held := some v }
    else { x with ring := toRing v x.ring }
  match due with
  | none => setAcq c after s
  | some f =>
    let s := setAcq c after s
    decide' c p f x.ring (if deferred x then x.held.toList ++ [v] else [v]) s

/-- Channel `c`, seen as `x` at the start of the command, takes its sample `n` of value `v`, whose processing mc is `p`
(R309 to R327). A channel whose arm has ended by then takes none (R322). -/
def takeSample (c n p : Nat) (v : BitVec 16) (crc : Bool) (x : Acq) (s : Dev) : Dev :=
  let s := rearm c p s
  if acqState s c = 4 || acqState s c = 5 then s
  else
    let j := getJes s (af x 0 30 2)
    let t := Int.fdiv (sampT j n) (jDen j)
    let cold := coldIn s t t
    let (f, x') := fireAt s (getAcq s c) n (sv v)
    let s := if f.isSome then (freshWord s).2 else s
    let due := if deferred x then x.wait.map (cubicFire s x) else f
    let s := setAcq c { x' with next := n + 1, wait := if deferred x then f else none } s
    if acqState s c = 2 then
      let s := captureSample c n p v crc cold s
      if due.isSome then missOne c s else s
    else ringSample c p (v, crc, cold) due s

/-- The channel processes samples: its page is powered and ACTIVE, its state is ARMED, CAPTURE or REARM, and its link
carries its converter (R309, R311). -/
def acqTakes (s : Dev) (c : Nat) : Bool :=
  pageOn s (acqPage c) && blkActive s (acqPage c) && (acqState s c == 1 || acqState s c == 2 || acqState s c == 3) && acqLinked s (getAcq s c)

/-- SAMPLE_PROCESS (R309): the channel processes its next sample once P(n) has come. -/
def doSampleProcess (c : Fin 64) (s : Dev) : Dev :=
  let s := retryOpen c 8 s
  let x := getAcq s c
  if !acqTakes s c then s
  else
    match chanSample s x x.next with
    | none => s
    | some (v, crc) =>
      if now s < procMc (getJes s (af x 0 30 2)) x.next then s
      else takeSample c x.next (procMc (getJes s (af x 0 30 2)) x.next) v crc x s

/-! ### Link loss (R307, R328) -/

/-- The channel's link goes down: a segment in CAPTURE ends with a gap record of cause LINK, and the channel waits for
the link (R328). -/
def acqLinkDown (c : Nat) (s : Dev) : Dev :=
  let x := getAcq s c
  let st := acqState s c
  if !(st == 1 || st == 2 || st == 3) then s
  else
    let s := match x.seg with
      | some g =>
        let lastN := g.n + nth 0 x.eff 3 - 1
        let first := g.lostFrom.getD x.next
        let gap := acqGap s c x first (lastN + 1 - first) 0x21
        let s := irqSet (acqPage c) (16 * 2 ^ (c % 2)) (hit (aa c 4) 30 (inc64 (aa c 0x44) (lastN + 1 - x.next) s))
        let s := if g.lostFrom.isNone then completeRec c g true (lastSeg x g) false s else s
        segOver c (procMc (getJes s (af x 0 30 2)) lastN) g (gapBehind c x g gap s)
      | none => s
    let s := irqSet (acqPage c) (64 * 2 ^ (c % 2)) s
    setAcqState c 6 (setAcq c { getAcq s c with ring := [], held := none, lUp := false, lDn := false, sUp := false, sDn := false, inside := false, wait := none } s)

/-- Link `k` goes down (R307). -/
def jesDown (k : Nat) (s : Dev) : Dev :=
  let s := fset (A (jesPage k) 0x98) 24 8 0 (incSat (A (jesPage k) 0xA0) 8 8 1 s)
  let s := fset (A (jesPage k) 0x98) 24 4 0 (fset (A (jesPage k) 0x98) 29 3 0 s)
  let s := irqSet (jesPage k) 2 (setJes k { getJes s k with elastic := [], blocks := [], next := 0 } s)
  forAll ((s.acq.chans.filter fun x => af x.2 0 30 2 == k).map (·.1)) acqLinkDown s

/-- JES_LINK_DOWN (R307): a used lane loses lock. -/
def doJesLinkDown (k : Fin 4) (s : Dev) : Dev :=
  if jesOn s k && jesState s k ≠ 0 then raise (0xB6 + k) 0 (jesDown k s) else s

/-- JES_MULTIBLOCK (R304 to R306): a multiblock of 128 × L words has arrived; before ALIGNED it waits in the elastic
buffer, from the first of an EMB on. The mc of its arrival counts for each frame that it completes. -/
def doJesMultiblock (k : Fin 4) (first ok : Bool) (data : List (BitVec 16)) (s : Dev) : Dev :=
  let x := getJes s k
  let b : MBlk := { arr := now s, ok, data }
  if !jesOn s k || data.length ≠ mbWords x then s
  else if jesState s k = 2 then (if first || !x.elastic.isEmpty then setJes k { x with elastic := x.elastic ++ [b] } s else s)
  else if jesState s k = 3 then
    if releaseMc x (mbLast x x.next) < now s then raise (0xB6 + k) 1 (raise (0xB6 + k) 0 (jesDown k s)) else mbAccept k b s
  else s

/-- The first sample that channel `x` processes after mc `m`. -/
def nextSample (j : Jes) (m : Nat) : Nat :=
  let n := ((m - 2 - j.b0 - jAlign j) * jDen j) / jNum j
  if m < 2 + j.b0 + jAlign j then 0
  else match (List.range 4).find? fun i => m < procMc j (n - 1 + i) with
    | some i => n - 1 + i
    | none => n + 3

/-- A channel that waits for its link is armed again once the link carries its converter, unless its arm has taken its
last segment (R326, R328). -/
def rearmLinked (c : Nat) (s : Dev) : Dev :=
  let x := getAcq s c
  if acqLinked s x && !(armEnds x) then
    setAcqState c 1 (setAcq c { x with next := 0, ring := [], held := none, armedAt := now s } s) else s

/-- JES_ALIGNED (R304): the EMB begun at the boundary ALIGN mc ago is released, and waiting channels are armed
again (R328). -/
def doJesAligned (k : Fin 4) (s : Dev) : Dev :=
  let x := getJes s k
  if !jesOn s k || jesState s k ≠ 2 || now s < jAlign x || lemc x = 0 || (now s - jAlign x) % lemc x ≠ 0 then s
  else
    let a := A (jesPage k) 0x98
    let b := now s - jAlign x
    let s := fset a 0 10 1023 (fset a 16 8 (fget s a 16 8 + 1) (fset a 29 3 3 s))
    let s := wr64 (A (jesPage k) 0xA4) b (irqSet (jesPage k) 1 s)
    let s := setJes k { x with b0 := b, next := 0, elastic := [], blocks := [] } s
    let s := forAll x.elastic (mbAccept k) s
    forAll ((s.acq.chans.filter fun y => af y.2 0 30 2 == k.toNat && acqState s y.1 == 6).map (·.1)) rearmLinked s

/-! ### Channel control (R321, R326, R336, R337) -/

/-- A refused write recorded in ACQ.CFG_ERR, with IRQ bit 8. -/
def acqErr (c cause o : Nat) (s : Dev) : Dev := irqSet (acqPage c) 0x100 (recordErr (A (acqPage c) 0x80) cause (aa c o % 0x1000) s)

/-- Channel `c` as ARM leaves it: the settings latched, and the next sample to process (R321). -/
def armedAcq (s : Dev) (c : Nat) : Acq :=
  let x := getAcq s c
  let e := acqRegs s c
  { eff := e, recN := c * 2 ^ 32 + x.recN % 2 ^ 32, unopened := x.unopened, closing := x.closing, closedAt := x.closedAt,
    epoch := siteEpoch s (bits (nth 0 e 0) 16 6), next := nextSample (getJes s (bits (nth 0 e 0) 30 2)) (now s) }

/-- ARM (R321). -/
def armAcq (c : Nat) (s : Dev) : Dev :=
  let st := acqState s c
  if !(st == 0 || st == 4 || st == 5) || !blkEn s (acqPage c) then acqErr c 3 0 s
  else
    let y := armedAcq s c
    let s := wr64 (aa c 0x44) 0 (wrN (aa c 0x3C) 0 (wrN (aa c 0x40) 0 (setAcq c y s)))
    setAcqState c (if acqLinked s y then 1 else 6) s

/-- ACQ_ARM. -/
def doAcqArm (p : Path) (c : Fin 64) (s : Dev) : Dev := onWrite p (aa c 0) (armAcq c) s

/-- STOP (R326). -/
def stopAcq (c : Nat) (s : Dev) : Dev :=
  let x := getAcq s c
  let st := acqState s c
  if st == 0 || st == 4 || st == 5 then s
  else
    let s := match x.seg with
      | some g => wrN (aa c 0x3C) (x.segN + 1) (if g.lostFrom.isNone then completeRec c g true true false s else s)
      | none => s
    let left := match x.seg with
      | some g => leaveRing g (getAcq s c).closing
      | none => (getAcq s c).closing
    setAcqState c 5 (setAcq c { getAcq s c with seg := none, closing := left, wait := none, ring := [], held := none } s)

/-- ACQ_STOP. -/
def doAcqStop (p : Path) (c : Fin 64) (s : Dev) : Dev := onWrite p (aa c 0) (stopAcq c) s

/-- ACQ_FORCE (R313). -/
def doAcqForce (p : Path) (c : Fin 64) (s : Dev) : Dev := onWrite p (aa c 0) (fun s => logEv 6 c (nowVs s) s) s

/-- ENV_ADDR.POINT advances (Table 10-6). -/
def envNext (c : Nat) (s : Dev) : Dev := fset (aa c 0x34) 0 12 (fget s (aa c 0x34) 0 12 + 1) s
/-- The envelope point that ENV_ADDR names. -/
def envKey (s : Dev) (c : Nat) : Nat := c * 8192 + fget s (aa c 0x34) 0 13

/-- A write of ENV_DATA (R336). -/
def writeEnv (c v : Nat) (s : Dev) : Dev :=
  let st := acqState s c
  if st == 1 || st == 2 || st == 3 || st == 6 then acqErr c 3 0x38 s
  else envNext c { s with acq := { s.acq with env := mset (fun _ => 0) (envKey s c) (BitVec.ofNat 16 v) s.acq.env } }

/-- A read of ENV_DATA: the point's value, and the state with POINT advanced. -/
def readEnv (c : Nat) (s : Dev) : Word × Dev := ((mget (fun _ => 0) s.acq.env (envKey s c)).setWidth 32, envNext c s)

/-- The cause that refuses a write of `v` to the channel register at window offset `o`, 0 for none (R336). -/
def acqWriteErr (o v : Nat) : Nat :=
  if o = 0x10 then (if bits v 0 13 > 4096 then 2 else 0)
  else if o = 0x14 then (if v = 0 then 2 else 0)
  else if o = 0x1C then (if bits v 12 2 = 3 || bits v 10 2 = 3 then 1 else 0)
  else if o = 0x20 then (if bits v 12 2 = 0 then 2 else 0)
  else if o = 0x24 || o = 0x28 then (if bits v 16 16 > 32767 then 2 else 0)
  else if o = 0x2C then (if sgn (bits v 0 16) 16 > sgn (bits v 16 16) 16 then 2 else 0)
  else if o = 0x30 then (if bits v 16 13 = 0 || bits v 16 13 > 4096 then 2 else 0)
  else 0

/-- A write of `v` to page offset `o` of ACQ page `p`: STOP before ARM and FORCE when several are written. -/
def writeAcq (p o v : Nat) (s : Dev) : Dev :=
  if o < 0x100 then plainWrite (A p o) v s
  else
    let w := (o - 0x100) % 0x400
    let c := 2 * (p - 0x120) + (o - 0x100) / 0x400
    if w = 0 then
      let s := if bit v 30 then stopAcq c s else s
      let s := if bit v 31 then armAcq c s else s
      if bit v 29 then logEv 6 c (nowVs s) s else s
    else if w = 0x38 then writeEnv c (bits v 0 16) s
    else
      let e := acqWriteErr w v
      if e ≠ 0 then acqErr c e w s else plainWrite (A p o) v s

/-- The channels of an ACQ page have handed every sample to the Granary (R337). -/
def acqIdle (s : Dev) (p : Nat) : Bool :=
  [2 * (p - 0x120), 2 * (p - 0x120) + 1].all fun c => (getAcq s c).closing.isEmpty && (getAcq s c).unopened.isEmpty

/-- EN of an ACQ page goes from 1 to 0 (R337). -/
def acqDrain (p : Nat) (s : Dev) : Dev := stopAcq (2 * (p - 0x120) + 1) (stopAcq (2 * (p - 0x120)) s)

/-- The channel's records are forgotten without a further write: none is offered or closed any more. A place already
reserved in a queue stays open until the queue's EN is cleared (R337, R444). -/
def dropOpens (c : Nat) (s : Dev) : Dev :=
  let own : Nat → Bool := fun tag => tag / 2 ^ 64 == 2 ^ 16 + c
  { s with grn := { s.grn with opens := s.grn.opens.filter fun e => !own e.1
                               intake := s.grn.intake.filter fun o => !own o.tag } }

/-- A block reset of an ACQ page discards samples, open records and violations still to act (R337). -/
def acqReset (p : Nat) (s : Dev) : Dev :=
  forAll [2 * (p - 0x120), 2 * (p - 0x120) + 1] (fun c s =>
    setAcq c { recN := (getAcq s c).recN } (dropOpens c { s with acq := { s.acq with viols := s.acq.viols.filter (·.2 ≠ c) } })) s

/-- Field snapshots of channel `c` (R338). -/
def acqField (c : Nat) (s : Dev) : Dev :=
  wr64 (aa c 0x5C) (rd64 s (aa c 0x44)) (wrN (aa c 0x58) (rdN s (aa c 0x40)) (wrN (aa c 0x54) (rdN s (aa c 0x3C)) s))

end Sys2Proof.Machine
end

