-- ==== Sys2Proof/Machine/Drill.lean ====
section
/-! DEFINITION. Drills, marker outputs and sync events (Drills, markers and generator alignment). -/
namespace Sys2Proof.Machine

/-! ### Addresses and state -/

def drlPage (d : Nat) : Nat := 0x160 + d
/-- A register of drill page `d`. -/
def da (d o : Nat) : Nat := A (drlPage d) o
def getDrl (s : Dev) (d : Nat) : Drill := mget (fun _ => {}) s.drl d
def setDrl (d : Nat) (x : Drill) (s : Dev) : Dev := { s with drl := mset (fun _ => {}) d x s.drl }
def getMk (s : Dev) (i : Nat) : Marker := mget (fun _ => {}) s.mks i
def setMk (i : Nat) (x : Marker) (s : Dev) : Dev := { s with mks := mset (fun _ => {}) i x s.mks }
/-- STAT.STATE: 0 IDLE, 1 ARMED, 2 RUNNING, 3 DONE, 4 STOPPED. -/
def drlState (s : Dev) (d : Nat) : Nat := fget s (da d 0x84) 16 3
def setDrlState (d v : Nat) (s : Dev) : Dev := fset (da d 0x84) 16 3 v s
/-- Word `w` of list entry `i` (R394). -/
def listWord (s : Dev) (d i w : Nat) : Nat := (mget (fun _ => 0) s.lists ((d * 4096 + i) * 4 + w)).toNat
/-- FIRST, LAST and REPEAT. -/
def drlFirst (s : Dev) (d : Nat) : Nat := fget s (da d 0x8C) 0 12
def drlLast (s : Dev) (d : Nat) : Nat := fget s (da d 0x8C) 16 12
def drlRepeat (s : Dev) (d : Nat) : Bool := fbit s (da d 0x88) 31
/-- UNIT is ROWS (R396). -/
def inRows (s : Dev) (d : Nat) : Bool := !fbit s (da d 0x88) 30
/-- The frequency word of an entry. -/
def entFreq (s : Dev) (d i : Nat) : Nat := listWord s d i 0 + bits (listWord s d i 1) 0 17 * 2 ^ 32
/-- The amplitude code of an entry. -/
def entAmp (s : Dev) (d i : Nat) : Nat := bits (listWord s d i 2) 8 8

/-! ### Marker outputs (R406 to R409) -/

/-- A marker change at event time `t` at the balls; an assertion is logged for the acquisition channels
(R407 to R409, R312). A drive event less than 410 vs after the one before is suppressed (R127). -/
def mkDrive (i t : Nat) (v : Bool) (s : Dev) : Dev :=
  let x := getMk s i
  if x.lvl = v || (match x.lastDrv with | some u => decide (t < u + 410) | none => false) then s
  else
    let s := setMk i { x with lvl := v, lastDrv := some t } s
    let s := if v then logEv 7 i (t + planeDly s) s else s
    let c := rdN s (da i 0x100)
    onlyIf (bit c 31) (emit (.marker i (t + planeDly s - fget s (da i 0x108) 0 14) (v != bit c 30))) s

/-- The marker's assertion that has ended by time `t` is released (R407). -/
def mkRelease (i t : Nat) (s : Dev) : Dev :=
  let x := getMk s i
  if x.lvl && !x.tog && x.stop ≤ t then mkDrive i x.stop false s else s

/-- The level that the MARK balls show: the marker, held deasserted with OE at 0, by INV's polarity (R409). -/
def mkBall (s : Dev) (i : Nat) : Bool := (fbit s (da i 0x100) 31 && (getMk s i).lvl) != fbit s (da i 0x100) 30

/-- A register of a DRL page as an event finds it: one of a row whose fetch stage begins in mc `F` as that row does (R33). -/
def mkReg (s : Dev) (F : Option Nat) (a : Nat) : Nat := match F with
  | some F => rdAt s F a
  | none => rdN s a

/-- An event of marker output `i` at time `t`, of a row fetched in mc `F` if of a row; events at the same time count as one, and
one at the very end of the assertion extends it (R407, R409). -/
def mkEvent (F : Option Nat) (i t : Nat) (s : Dev) : Dev :=
  let x := getMk s i
  if !running s (drlPage i) || x.lastEv = some t then s
  else
    let s := incSat (da i 0x10C) 0 32 1 (setMk i { x with lastEv := some t } s)
    if bit (mkReg s F (da i 0x100)) 29 then
      let s := mkDrive i t (!x.lvl) s
      setMk i { getMk s i with tog := true } s
    else
      let s := mkDrive i t true (mkRelease i (t - 1) s)
      setMk i { getMk s i with tog := false, stop := t + bits (mkReg s F (da i 0x104)) 0 20 } s

/-- The outputs of KIND `kind` with fields that `p` accepts have an event at time `t` (R406). -/
def mkBy (kind : Nat) (F : Option Nat) (t : Nat) (p : Nat → Bool) (s : Dev) : Dev :=
  forAll (List.range 16) (fun i s => let c := mkReg s F (da i 0x100); if bits c 22 2 == kind && p c then mkEvent F i t s else s) s

/-- EV of MK_CFG names marker event `ev`, 1 to 3. -/
def evIn (c ev : Nat) : Bool := ev != 0 && bit c (23 + ev)

/-- MARKER_RELEASE (R407). -/
def doMarkerRelease (i : Fin 16) (s : Dev) : Dev := mkRelease i (nowVs s + 1023) s

/-- A write of MK_DLY (R408). -/
def writeMkDly (i v : Nat) (s : Dev) : Dev :=
  if markOk (planeDly s) (bits v 0 14) then plainWrite (da i 0x108) v s else drlErr i 2 0x108 s

/-- MK_DLY_WRITE. -/
def doMkDlyWrite (p : Path) (i : Fin 16) (v : Word) (s : Dev) : Dev := onWrite p (da i 0x108) (writeMkDly i v.toNat) s

/-- A write of MK_CFG: the level of a marker with TOGGLE, before the write or by it, returns to deasserted; the balls follow OE and
INV (R407, R409). -/
def writeMkCfg (i v : Nat) (s : Dev) : Dev :=
  if bits v 22 2 = 2 && bits v 20 2 ≠ 0 then drlErr i 2 0x100 s
  else
    let was := mkBall s i
    let s := plainWrite (da i 0x100) v s
    let s := if bit v 29 || (getMk s i).tog then setMk i { getMk s i with lvl := false, tog := false } s else s
    onlyIf (was != mkBall s i) (fun s => emit (.marker i (nowVs s) (mkBall s i)) s) s

/-! ### Drill edges (R391 to R393, R401) -/

/-- The row of lane `l`'s owner that runs at time `t`, and the lane's launch adjustment in it: that of the row's own events (R40,
R137). -/
def rowAt (s : Dev) (l t : Nat) : Nat × Nat :=
  match rowOf s l t with
  | some r => (r.k, match (engOf s (owner s l)).bind fun e => ((getFur s e).slots.idxOf? l).bind fun i => r.adjs[i]? with
    | some ab => ab.1
    | none => (adjOf s (fetchMc r.t) l).1)
  | none => (0, (adjOf s (now s + 1) l).1)

/-- A drill edge to level `v` at drill time `t`: the lanes gated on to the drill follow at t + a (R401). -/
def drlEdge (d t : Nat) (v : Bool) (s : Dev) : Dev :=
  let s := setDrl d { getDrl s d with lvl := v } s
  forAll ((s.lanes.filter fun x => followsDrill d x.2).map (·.1)) (fun l s =>
    let r := rowAt s l t
    setLane l { getLane s l with evs := insEv { t := t + r.2, row := r.1, act := .drill d t (dOf v) } (getLane s l).evs } s) s

/-- Distance in vs from the step's start to half-cycle crossing `m`, as a fraction over F: R391's exact time. -/
def crossNum (g : DSeg) (m : Nat) : Nat := m * 2 ^ 57 - g.phi

/-- The next crossing of the step in progress: its time rounded to the nearest vs, when it lies before the
step's end (R391). -/
def nextCross (x : Drill) : Option Nat :=
  match x.segs with
  | [] => none
  | g :: _ =>
    if g.f = 0 then none
    else
      let n := crossNum g x.half
      let overs := match x.endAt with
        | some e => decide (g.f * (e - g.t) ≤ n)
        | none => false
      if overs then none else some (g.t + (2 * n + g.f) / (2 * g.f))

/-- The crossings that come before time `limit` are made. -/
def drlEdges (d limit : Nat) : Nat → Dev → Dev
  | 0, s => s
  | fuel + 1, s =>
    let x := getDrl s d
    match nextCross x with
    | some t =>
      if drlState s d = 2 && t < limit then
        drlEdges d limit fuel (drlEdge d t (x.half % 2 == 0) (setDrl d { x with half := x.half + 1 } s))
      else s
    | none => s

/-- DRILL_EDGE (R391): the next half-cycle crossing that has come. -/
def doDrillEdge (d : Fin 16) (s : Dev) : Dev := drlEdges d (nextMcVs s) 1 s

/-! ### Amplitude groups (R402 to R405) -/

/-- The banks that can carry a drill's groups. -/
def ampBanks (s : Dev) (d : Nat) : List Nat :=
  (List.range 8).filter fun b => fecTakes s b && (bankLanes b).any fun l => clkSel s l == d

/-- The frames of an amplitude group in bank `b` (R402). -/
def ampFrames (s : Dev) (d b amp : Nat) : List FecCmd :=
  let c := rdN s (da d 0x98)
  ((bankLanes b).filter fun l => clkSel s l == d).map fun l =>
    { chip := l % 64 / 8, kind := 1, addr := l % 8 * 64 + bits c 20 6, data := (amp * 2 ^ bits c 16 4 + bits c 0 16) % 65536, src := 1 }

/-- A group is closed into bank `b`'s queue, or held (R402, R403). -/
def ampClose (d b : Nat) (g : Group) (s : Dev) : Dev :=
  if (getFec s b).groups.length ≥ 8 || (getDrl s d).held.any (·.1 == b) then
    setDrl d { getDrl s d with held := (getDrl s d).held ++ [(b, g)] } s
  else checkDone b (putFec b { getFec s b with groups := (getFec s b).groups ++ [g] } s)

/-- The group for list entry `i` in bank `b`, with its target time once it is known. -/
def ampGroup (s : Dev) (d b i : Nat) (time : Option Nat) : Group :=
  { frames := ampFrames s d b (entAmp s d i), target := .drill d, time, amp := some d }

/-- A group for entry `i` is built and closed in bank `b`. -/
def ampBuild (d b i : Nat) (time : Option Nat) (s : Dev) : Dev :=
  let g := ampGroup s d b i time
  let x := getDrl s d
  ampClose d b g (setDrl d { x with ahead := mset (fun _ => none) b (some i) x.ahead } s)

/-- The entry that follows the step of entry `i`, whose STOP was 0 at its start (R395, R397). -/
def stepNext (s : Dev) (d i : Nat) : Option Nat :=
  if i = drlLast s d then (if drlRepeat s d then some (drlFirst s d) else none) else some ((i + 1) % 4096)

/-- The entry after `i` in a run, when there is one (R397). -/
def entNext (s : Dev) (d i : Nat) : Option Nat :=
  if bit (listWord s d i 2) 2 then none else stepNext s d i

/-- The next entry after `i` whose AMP differs from the one before it. -/
def ampNext (s : Dev) (d : Nat) : Nat → Nat → Option Nat
  | 0, _ => none
  | n + 1, i =>
    match entNext s d i with
    | some j => if entAmp s d j ≠ entAmp s d i then some j else ampNext s d n j
    | none => none

/-- The group belongs to drill `d`'s amplitude steps. -/
def isAmp (d : Nat) (g : Group) : Bool := g.amp == some d

/-- AMP_GROUP_CLOSE (R402, R403): the drill's previous group in bank `b` has been applied; a held group, or the
group of the next amplitude step, is closed. -/
def doAmpGroupClose (d : Fin 16) (b : Bank) (s : Dev) : Dev :=
  let x := getDrl s d
  if !fecTakes s b || (getFec s b).groups.any (isAmp d) then s
  else if x.held.any (·.1 == b.toNat) then ampRefill b s
  else if !fbit s (da d 0x98) 31 || !(drlState s d == 1 || drlState s d == 2) then s
  else
    match (mget (fun _ => none) x.ahead b).bind (ampNext s d 4097) with
    | some j => ampBuild d b j none s
    | none => s

/-- The first group of drill `d` that waits for its target takes time `t`; whether there was one, and whether
it was complete by then (R404). -/
def ampTarget (d t : Nat) : List Group → List Group × Option Bool
  | [] => ([], none)
  | g :: gs =>
    if isAmp d g && g.time.isNone then ({ g with time := some t } :: gs, some (g.done.any fun d => d * 1024 ≤ t))
    else let r := ampTarget d t gs; (g :: r.1, r.2)

/-- An amplitude step of entry `i` starts at time `t`: its group in each bank has its target, and is late when
it is not complete (R402, R404). -/
def ampStep (d i t : Nat) (s : Dev) : Dev :=
  forAll (ampBanks s d) (fun b s =>
    let r := ampTarget d t (getFec s b).groups
    let late := fun (s : Dev) => irqSet (drlPage d) 2 (hit (da d 0x84) 30 s)
    match r.2 with
    | some ok =>
      let s := setFec b { getFec s b with groups := r.1 } s
      if ok then s else late s
    | none =>
      let x := getDrl s d
      let h := ampTarget d t ((x.held.filter (·.1 == b)).map (·.2))
      match h.2 with
      | some _ => late (setDrl d { x with held := x.held.filter (·.1 != b) ++ h.1.map fun g => (b, g) } s)
      | none => late (ampBuild d b i (some t) s)) s

/-- The drill's groups that have not been applied leave the queues; a bank whose head group had begun to be sent
issues a bus reset (R405). -/
def ampRemove (d : Nat) (s : Dev) : Dev :=
  let s := setDrl d { getDrl s d with held := [], ahead := [] } s
  forAll ((List.range 8).filter fun b => (getFec s b).groups.any (isAmp d)) (fun b s =>
    let x := getFec s b
    let sent := match x.groups with
      | g :: _ => isAmp d g && g.frames.any (·.sent)
      | [] => false
    let s := putFec b { x with groups := x.groups.filter fun g => !isAmp d g } s
    ampRefill b (if sent then busReset b s else s)) s

/-- Every software group that names drill `d` and waits takes the step's start as its target (R96, Table 13-1). -/
def drlFea (d t : Nat) (s : Dev) : Dev :=
  let waits := fun (g : Group) => g.target == .drill d && g.amp.isNone && g.time.isNone
  forAll ((List.range 8).filter fun b => (getFec s b).groups.any waits) (fun b s =>
    setFec b { getFec s b with groups := (getFec s b).groups.map fun g => if waits g then { g with time := some t } else g } s) s

/-! ### Steps (R392, R396 to R398) -/

/-- The step of entry `i` starts at time `t`, in ROWS unit at row `k` (R392, R396, R397). -/
def beginStep (d i t k : Nat) (first : Bool) (s : Dev) : Dev :=
  let s := drlEdges d t 4096 s
  let x := getDrl s d
  let w2 := listWord s d i 2
  let ofs := bits w2 16 16 * 2 ^ 42
  let phi := if first || bit w2 7 then ofs else (phaseAt x t + ofs) % 2 ^ 58
  let v := decide (phi < 2 ^ 57)
  let dwell := listWord s d i 3
  let amp := bits w2 8 8
  let change := fbit s (da d 0x98) 31 && (first || amp != x.amp)
  let s := setDrl d { x with segs := { t, phi, f := entFreq s d i } :: x.segs.take 63, half := phi / 2 ^ 57 + 1, amp, start := none,
                             endAt := if inRows s d then none else some (t + dwell * 1024),
                             endRow := if inRows s d then some (k + dwell) else none,
                             last := bit w2 2 } s
  let s := fset (da d 0x84) 0 12 i (setDrlState d 2 s)
  let s := if x.lvl = v then s else drlEdge d t v s
  let s := if bit w2 6 then drlFea d t s else s
  let s := if change then ampStep d i t s else s
  forAll [1, 2, 3] (fun ev s => onlyIf (bit w2 (2 + ev)) (mkBy 2 none t (fun c => bits c 16 4 == d && evIn c ev)) s) s

/-- The drill's level once its edges before time `t` have been made: high in the even half cycles (R391). -/
def lvlBefore (x : Drill) (t : Nat) : Bool := match x.segs with
  | g :: _ => max (g.phi / 2 ^ 57) (cdiv (2 * g.phi + g.f * (2 * (t - g.t) - 1)) (2 ^ 58) - 1) % 2 == 0
  | [] => false

/-- Edges of drill `d` from time `t` on that a lane has still to make are not driven. -/
def dropEdges (d t : Nat) (x : Lane) : Lane :=
  { x with evs := x.evs.filter fun v => match v.act with
    | .drill d' td _ => !(d' == d && decide (t ≤ td))
    | _ => true }

/-- The drill leaves its run at time `t`, or as its last step begins where that is later, into state `st`: its level is low and it
makes no edges from then on (R393, R397, R400). -/
def drlEnd (d st t : Nat) (s : Dev) : Dev :=
  let t := match (getDrl s d).segs with
    | g :: _ => if drlState s d = 2 then max t g.t else t
    | [] => t
  let s := drlEdges d t 4096 s
  let high := drlState s d == 2 && lvlBefore (getDrl s d) t
  let s := { s with lanes := s.lanes.map fun x => (x.1, if followsDrill d x.2 then dropEdges d t x.2 else x.2) }
  let s := if high then drlEdge d t false s else setDrl d { getDrl s d with lvl := false } s
  let s := setDrl d { getDrl s d with segs := { t, phi := 2 ^ 57, f := 0 } :: (getDrl s d).segs.take 63, start := none, endAt := none,
                                      endRow := none, haltAt := none } s
  let s := ampRemove d (setDrlState d st s)
  onlyIf (st == 3) (irqSet (drlPage d) 1) s

/-- The step in progress ends at time `t`, at row `k` (R396, R397). -/
def endStep (d t k : Nat) (s : Dev) : Dev :=
  let i := fget s (da d 0x84) 0 12
  let x := getDrl s d
  let s := if i = drlLast s d then incSat (da d 0x9C) 0 32 1 s else s
  if x.last then drlEnd d 3 t s
  else
    match stepNext s d i with
    | some j => beginStep d j t k false s
    | none => drlEnd d 3 t s

/-- The drill's next step starts, or its run ends, when its time has come by time `lim` (R396, R397). -/
def drlAdvance (lim d : Nat) (s : Dev) : Dev :=
  let x := getDrl s d
  if drlState s d = 1 then
    match x.start with
    | some t => if t ≤ lim then beginStep d (drlFirst s d) t 0 true s else s
    | none => s
  else if drlState s d = 2 then
    match x.endAt with
    | some t => if t ≤ lim then endStep d t (x.endRow.getD 0) s else s
    | none => s
  else s

/-- DRILL_STEP (R396). -/
def doDrillStep (d : Fin 16) (s : Dev) : Dev := drlAdvance (nowVs s + 1023) d s

/-- Drill `d` counts the rows of logical furrow `f` by its CFG value `c`. -/
def countsRows (f c : Nat) : Bool := !bit c 30 && bits c 0 6 == f

/-- Row `k` of logical furrow `f` starts at time `t`: drills in ROWS unit that name the furrow, by the CFG that the row finds, count
it (R33, R396, R399). -/
def drlRow (f k t : Nat) (s : Dev) : Dev :=
  forAll ((List.range 16).filter fun d => countsRows f (rdAt s (fetchMc t) (da d 0x88))) (fun d s =>
    let s := drlAdvance (nowVs s + 1023) d s
    let x := getDrl s d
    if drlState s d = 1 && k = 0 && x.mode = 3 then setDrl d { x with start := some t } s
    else if drlState s d = 2 && x.endRow = some k then setDrl d { x with endAt := some t } s
    else s) s

/-- Logical furrow `f` stops after a last row that ends at time `t`: the drills that count its rows end their runs there, at once
or when that time comes (R398). -/
def drlFurStopped (f t : Nat) (s : Dev) : Dev :=
  forAll ((List.range 16).filter fun d => countsRows f (rdN s (da d 0x88))) (fun d s =>
    let s := drlAdvance (min t (nowVs s)) d s
    if drlState s d ≠ 2 then s else if t ≤ nowVs s then drlEnd d 3 t s else setDrl d { getDrl s d with haltAt := some t } s) s

/-- The furrows whose last row has ended by now, and the drills whose furrow was cut off, end their drills' runs (R398). -/
def drlHalts (s : Dev) : Dev :=
  let due := fun (x : Nat × Furrow) => furState s x.1 == 3 && lastRow s (leadOf s x.1) && decide ((getFur s (leadOf s x.1)).tNext ≤ nowVs s)
  let cut := (s.drl.filter fun x => x.2.haltAt.any (· ≤ nowVs s)).map fun x => (x.1, x.2.haltAt.getD 0)
  let s := forAll ((s.fur.filter due).map (·.1)) (fun m s => drlFurStopped (logical s m) (getFur s (leadOf s m)).tNext s) s
  forAll cut (fun x s => onlyIf (drlState s x.1 == 2 && (getDrl s x.1).haltAt.isSome) (drlEnd x.1 3 x.2) s) s

/-! ### Starting and stopping (R399, R400) -/

/-- A START with `mode` is refused (R399). -/
def drlRefused (s : Dev) (d mode : Nat) : Bool :=
  let st := drlState s d
  !blkEn s (drlPage d) || !blkReady s (drlPage d) || !running s (drlPage d) || !(st == 0 || st == 3 || st == 4)
    || (mode == 3) != inRows s d

/-- A START at a TS that comes too soon (R399). -/
def startIsLate (s : Dev) (d mode : Nat) : Bool := mode == 1 && decide (rd64 s (da d 0x90) < now s + 64)

/-- The mc in which a START with `mode` begins, once it is known (R399, R645). -/
def drlStart (s : Dev) (d mode : Nat) : Option Nat :=
  if mode = 0 then some (now s + 64)
  else if mode = 1 then some (if startIsLate s d mode then now s + 64 else rd64 s (da d 0x90))
  else if mode = 2 then
    match s.syncEv with
    | some (a, q) => if now s + 64 ≤ q && a + 22 ≤ q then some q else none
    | none => none
  else none

/-- START of drill `d` with `mode`, which the write has put into CTL (R399, R402). -/
def startDrl (d mode : Nat) (s : Dev) : Dev :=
  if drlRefused s d mode then irqSet (drlPage d) 4 (hit (da d 0x84) 29 s)
  else
    let late := startIsLate s d mode
    let start := drlStart s d mode
    let armed := now s
    let s := onlyIf late (hit (da d 0x84) 31) s
    let s := setDrl d { armed, mode, start := start.map (· * 1024), segs := (getDrl s d).segs } s
    let s := setDrlState d 1 (fset (da d 0x84) 0 12 (drlFirst s d) s)
    if fbit s (da d 0x98) 31 then forAll (ampBanks s d) (fun b => ampBuild d b (drlFirst s d) none) s else s

/-- DRILL_START; the write carries MODE. -/
def doDrillStart (p : Path) (d : Fin 16) (mode : Fin 4) (s : Dev) : Dev := onWrite p (da d 0x80) (fun s => startDrl d mode (fset (da d 0x80) 28 2 mode s)) s

/-- STOP (R400). -/
def stopDrl (d : Nat) (s : Dev) : Dev :=
  if drlState s d = 1 || drlState s d = 2 then drlEnd d 4 (nowVs s) (drlAdvance (nowVs s) d s) else s

/-- DRILL_STOP. -/
def doDrillStop (p : Path) (d : Fin 16) (s : Dev) : Dev := onWrite p (da d 0x80) (stopDrl d) s

/-- A block reset of a DRL page; the marker output is released (R70, R400). -/
def drlReset (p : Nat) (s : Dev) : Dev :=
  let d := p - 0x160
  let s := if drlState s d = 1 || drlState s d = 2 then drlEnd d 4 (nowVs s) s else s
  let was := mkBall s d
  let s := setMk d {} (setDrl d { segs := (getDrl s d).segs } s)
  onlyIf (was != mkBall s d) (fun s => emit (.marker d (nowVs s) (mkBall s d)) s) s

/-! ### The list (R395) -/

/-- A write of LIST_W[0] to LIST_W[2] is staged on the path. -/
def stageList (p : Path) (d w v : Nat) (s : Dev) : Dev :=
  let x := getPath s p
  setPath p { x with list := (d * 4 + w, w32 v) :: x.list.filter fun e => e.1 != d * 4 + w } s

/-- LIST_STAGE. -/
def doListStage (p : Path) (d : Fin 16) (w : Fin 3) (v : Word) (s : Dev) : Dev :=
  onWrite p (da d (0xB4 + 4 * w)) (stageList p d w v.toNat) s

/-- The cause that refuses an entry of words `w`, 0 for none (R395). -/
def listErr (w : Nat → Nat) : Nat :=
  if bits (w 1) 17 15 ≠ 0 || bits (w 2) 0 2 ≠ 0 then 1
  else if w 0 + bits (w 1) 0 17 * 2 ^ 32 > 2 ^ 48 || w 3 = 0 then 2
  else 0

/-- A write of LIST_W[3] commits the entry that LIST_SEL names (R395). -/
def commitList (p : Path) (d v : Nat) (s : Dev) : Dev :=
  let i := fget s (da d 0xB0) 0 12
  let st := (getPath s p).list
  let w := fun j => if j = 3 then v else match st.find? (fun e => e.1 == d * 4 + j) with
    | some e => e.2.toNat
    | none => listWord s d i j
  let s := setPath p { getPath s p with list := st.filter fun e => e.1 / 4 != d } s
  if listErr w ≠ 0 then drlErr d (listErr w) 0xC0 s
  else forAll [0, 1, 2, 3] (fun j s => { s with lists := mset (fun _ => 0) ((d * 4096 + i) * 4 + j) (w32 (w j)) s.lists }) s

/-- LIST_COMMIT. -/
def doListCommit (p : Path) (d : Fin 16) (v : Word) (s : Dev) : Dev := onWrite p (da d 0xC0) (commitList p d v.toNat) s

/-- A write of `v` on path `p` to page offset `o` of DRL page `d`: STOP before START. -/
def writeDrl (p : Path) (d o v : Nat) (s : Dev) : Dev :=
  let s := noteRow (da d o) s
  if o = 0x80 then
    let s := if bit v 30 then stopDrl d s else s
    onlyIf (bit v 31) (startDrl d (bits v 28 2)) (plainWrite (da d o) v s)
  else if o = 0x90 then stageLo p (da d o) v s
  else if o = 0x94 then commitHi p (da d 0x90) v s
  else if 0xB4 ≤ o && o < 0xC0 then stageList p d ((o - 0xB4) / 4) v s
  else if o = 0xC0 then commitList p d v s
  else if o = 0x100 then writeMkCfg d v s
  else if o = 0x104 then (if bits v 0 20 < 410 then drlErr d 2 o s else plainWrite (da d o) v s)
  else if o = 0x108 then writeMkDly d v s
  else plainWrite (da d o) v s

/-! ### Sync events (R410 to R412, R645) -/

/-- Furrows and drills that wait in SYNC mode pass over an event that they cannot use (R168, R399, R645). -/
def syncLate (a q : Nat) (s : Dev) : Dev :=
  let s := forAll (List.range 66) (fun e s =>
    if furState s e = 2 && yokeRole s e ≠ 2 && (getFur s e).mode = 2 && (getFur s e).startMc.isNone
        && syncUnusable (getFur s e).armed a q then furLate e s else s) s
  forAll (List.range 16) (fun d s =>
    let x := getDrl s d
    if drlState s d = 1 && x.mode = 2 && x.start.isNone then
      if q < a + 22 then hit (da d 0x84) 31 s
      else if x.armed + 64 ≤ q then setDrl d { x with start := some (q * 1024) } s
      else s
    else s) s

/-- The mc Q for which a sync event that arrives in mc `a` qualifies: the compensation less the distance later, at the
next multiple of the grid (R411). -/
def syncQ (s : Dev) (a : Nat) : Nat :=
  let comp := fget s (A 1 0x104) 0 16
  let dist := fget s (A 1 0x108) 0 16
  let g := if fget s (A 1 0x100) 0 16 = 0 then 1 else fget s (A 1 0x100) 0 16
  cdiv (if comp < dist then a else a + comp - dist) g * g

/-- Q of the pending sync event has come; markers and TRIG_OUT show it (R411). -/
def syncDone (s : Dev) : Dev :=
  let st := A 1 0x10C
  match s.syncEv with
  | some (_, q) =>
    if fbit s st 29 && q ≤ now s then
      let s := fset st 29 1 0 (fset st 0 29 (fget s st 0 29 + 1) (wr64 (A 1 0x110) q s))
      toutBy 5 q (fun _ => true) (mkBy 3 none (q * 1024) (fun _ => true) s)
    else s
  | none => s

/-- SYNC_OUT falls 8 mc after it was driven high (R412). -/
def syncOutEnd (s : Dev) : Dev :=
  match s.syncOut with
  | some a => if a + 8 ≤ now s then { emit (.pin .syncOut false) s with syncOut := none } else s
  | none => s

/-- A sync event arrives in mc `a`; one from SYNC_IN or FIRE is `own` (R410 to R412, R503). -/
def syncArrive (a : Nat) (own : Bool) (s : Dev) : Dev :=
  let st := A 1 0x10C
  let s := syncDone (syncOutEnd s)
  let s := if own && fbit s (A 1 0x100) 29 then { onlyIf s.syncOut.isNone (emit (.pin .syncOut true)) s with syncOut := some a } else s
  let s := if own && fbit s (A ringPage 0x80) 26 && hdlMember s then sendExp { kind := 1, origin := hdlId s, data := 0, take := a } s else s
  if fbit s st 29 then irqSet 1 0x100 (hit st 31 s)
  else
    let s := onlyIf (decide (fget s (A 1 0x104) 0 16 < fget s (A 1 0x108) 0 16)) (hit st 30) s
    let q := syncQ s a
    syncLate a q { fset st 29 1 1 s with syncEv := some (a, q) }

/-- SYNC_IN_PULSE (R410). -/
def doSyncInPulse (s : Dev) : Dev := if running s 1 && fget s (A 1 0x100) 30 2 = 1 then syncArrive (now s) true s else s

/-- A write of FIRE: a sync event, while the page takes new work (R67, R410). -/
def syncFire (s : Dev) : Dev := onlyIf (running s 1) (syncArrive (now s) true) s

/-- FIRE (R410). -/
def doFire (p : Path) (s : Dev) : Dev := onWrite p (A 1 0x100) syncFire s

/-- SYNC_QUALIFIED (R411). -/
def doSyncQualified (s : Dev) : Dev := syncDone s

/-- SYNC_OUT_PULSE_END (R412). -/
def doSyncOutPulseEnd (s : Dev) : Dev := syncOutEnd s

end Sys2Proof.Machine
end

