-- ==== Sys2Proof/Machine/Queue.lean ====
section
/-! DEFINITION. The Granary's commands and registers: QCMD, doorbells, pop ports, notice rings, the descriptor
cache, enabling and reset (Result queues: the Granary). -/
namespace Sys2Proof.Machine

/-- A register of the Granary page. -/
def gna (o : Nat) : Nat := A grnPage o

/-- Producers offer again the records that a full intake has left with them (R443). -/
def pumpKept (s : Dev) : Dev := forAll s.grn.kept offer { s with grn := { s.grn with kept := [] } }

/-- Producers offer again what waits in their own buffers. -/
def pumpProducers (s : Dev) : Dev := forAll (List.range 16) (fun k => pumpTim k 300) (pumpAll (pumpKept s))

/-! ### Records (R422 to R425, R443) -/

/-- RECORD_OPEN (R422): a producer opens a record for a site's current queue and keeps it open under `tag`. -/
def doRecordOpen (site : Fin 64) (typ flags epoch : BitVec 8) (len tag : Nat) (s : Dev) : Dev :=
  if !domOn s 2 || len < 16 || len % 16 ≠ 0 then s
  else offer { q := siteQueue s site, typ := typ.toNat % 128, flags := flags.toNat &&& 0x80, epoch := epoch.toNat, sys := false, len, ts := now s,
               body := [], whole := false, tag := tag % 2 ^ 80 } s

/-- The record a producer knows by `t` closes while it still waits for its place: it is placed whole. -/
def closeWaiting (t : Nat) (body : List Byte) (o : Offer) : Offer :=
  if o.tag = t && !o.whole then { o with whole := true, body := body.take (o.len - 16) } else o

/-- RECORD_CLOSE (R423, R425): the producer closes it with its bytes, at most those it has reserved. -/
def doRecordClose (tag : Nat) (body : List Byte) (s : Dev) : Dev :=
  let t := tag % 2 ^ 80
  match s.grn.opens.find? (·.1 == t) with
  | some (_, q, pos) =>
    match (getQ s q).recs.find? (fun r => r.pos == pos && r.opn) with
    | some r => closeTag t (body.take (16 * r.units - 16)) s
    | none => s
  | none => { s with grn := { s.grn with intake := s.grn.intake.map (closeWaiting t body), kept := s.grn.kept.map (closeWaiting t body) } }

/-- COMMIT_ADVANCE (R425). -/
def doCommitAdvance (q : BitVec 20) (s : Dev) : Dev := if domOn s 2 then commitQ q.toNat s else s

/-- The offers of queue `q` that wait in the intake are placed in order. -/
def placeIntake (q : Nat) (s : Dev) : Dev :=
  let w := s.grn.intake.filter (·.q == q)
  forAll w placeOffer { s with grn := { s.grn with intake := s.grn.intake.filter (·.q != q) } }

/-- CACHE_FILL (R443): the descriptor that waiting records need has been read. -/
def doCacheFill (q : BitVec 20) (s : Dev) : Dev :=
  if !domOn s 2 || !s.grn.intake.any (·.q == q.toNat) then s
  else
    let s := cacheLoad q.toNat s
    if qCached s q.toNat then pumpProducers (placeIntake q.toNat s) else s

/-- SEAL_PLACE (R439). -/
def doSealPlace (q : BitVec 20) (e : BitVec 8) (s : Dev) : Dev := if domOn s 2 && !grnClosed s then placeSeal q.toNat e.toNat s else s

/-! ### QCMD (R418, R419, R431 to R433, R439, R444, R448) -/

/-- A refusal recorded in QERR, with IRQ bit 2. -/
def qErr (cause : Nat) (s : Dev) : Dev := irqSet grnPage 4 (recordErr (gna 0x90) cause (fget s (gna 0x88) 0 20) s)

/-- A command is in progress. -/
def qBusy (s : Dev) : Bool := s.grn.busy.isSome

/-- A word of the staged window. -/
def winWord (s : Dev) (i : Nat) : Nat := nth 0 s.grn.win i

/-- The window is loaded with the selected queue's descriptor. -/
def loadWin (s : Dev) : Dev :=
  let q := fget s (gna 0x88) 0 20
  if blkReady s grnPage then
    let s := cacheGet q s
    { s with grn := { s.grn with win := qWords (getQ s q) } }
  else { s with grn := { s.grn with win := List.replicate 8 0 } }

/-- A write of QSEL (R448). -/
def writeQsel (v : Nat) (s : Dev) : Dev := if qBusy s then qErr 5 s else loadWin (plainWrite (gna 0x88) v s)

/-- QSEL_WRITE. -/
def doQselWrite (p : Path) (v : Word) (s : Dev) : Dev := onWrite p (gna 0x88) (writeQsel v.toNat) s

/-- A write of QDESC[i] stages its RW bits (R448). -/
def writeQdesc (i v : Nat) (s : Dev) : Dev :=
  if qBusy s then qErr 5 s
  else
    let rw := if i = 0 then 0xFFFFF000 else if i = 1 then m32 else if i = 7 then 0x80FF0000 else 0
    let old := winWord s i
    let win := if s.grn.win.isEmpty then List.replicate 8 0 else s.grn.win
    { s with grn := { s.grn with win := setNth win i ((old ^^^ (old &&& rw)) ||| (v &&& rw)) } }

/-- The cause that refuses operation `op`, 0 for none; the lowest that holds (R419, R432, R448, R644). -/
def qcmdErr (s : Dev) (op : Nat) : Nat :=
  let x := getQ s (fget s (gna 0x88) 0 20)
  let w0 := winWord s 0
  let w1 := winWord s 1
  let y : Queue := { w0, w1 }
  if !blkReady s grnPage && 1 ≤ op && op ≤ 9 then 4
  else if op = 2 && x.en && (w0 != x.w0 || w1 != x.w1) then 1
  else if op = 0 || op > 9 || (op = 2 && (bits w1 11 5 > 20 || bits w1 9 2 = 3 || qBase y % (16 * qUnits y) ≠ 0)) then 2
  else if op = 5 && !x.markValid then 3
  else if qBusy s then 5
  else 0

/-- WRITE commits the staged words; a seal in force holds on (R418, R439, R444, R448). A queue that is turned on starts with no record
in fragments. -/
def qWrite (q : Nat) (s : Dev) : Dev :=
  let en := bit (winWord s 7) 31
  let wm := bits (winWord s 7) 16 8
  let s := if (getQ s q).en && !en then cutQueue q s else s
  let s := if en && !(getQ s q).en then { s with eth := { s.eth with frags := s.eth.frags.filter (·.1 != q) } } else s
  let x := getQ s q
  let x := { x with w0 := winWord s 0, w1 := winWord s 1, wm, en }
  setQ q (if en && !(getQ s q).en then { w0 := x.w0, w1 := x.w1, wm, en, armed := true, sealed := x.sealed } else x) s

/-- A DATA notice at once when RD is below COMMIT (R441). -/
def armNotice (q : Nat) (s : Dev) : Dev := if (getQ s q).rdp ≠ (getQ s q).commit then dataNotice q s else s

/-- CLR_WM (R431). -/
def clearWm (q : Nat) (s : Dev) : Dev :=
  let x := getQ s q
  let f := qFill x
  let again := x.wm ≠ 0 && f * 256 ≥ x.wm * qUnits x
  let s := setQ q { x with wmHit := again, peak := cdiv (f * 256) (qUnits x) } s
  if again then noticeIf q 2 2 s else s

/-- The effect of operation `op` on the selected queue. -/
def qcmdDo (op e : Nat) (s : Dev) : Dev :=
  let q := fget s (gna 0x88) 0 20
  let s := cacheGet q s
  let x := getQ s q
  match op with
  | 1 => loadWin s
  | 2 => qWrite q s
  | 3 => setQ q { x with mark := x.rdp, markValid := true, markLost := false } s
  | 4 => setQ q { x with markValid := false, markLost := false } s
  | 5 => armNotice q (setQ q { x with rdp := x.mark, armed := true } s)
  | 6 => clearWm q s
  | 7 => setQ q { x with ovf := false, under := false, drops := 0 } s
  | 8 => setQ q { x with sealReq := x.sealReq.filter (· ≠ e) ++ [e] } s
  | _ => forAll s.grn.cache qWriteBack s

/-- Operation `op` on queue `q` has been taken: BUSY until it completes (R448). -/
def qcmdTaken (op q e : Nat) (s : Dev) : Dev := fset (gna 0x8C) 27 1 1 { s with grn := { s.grn with busy := some (op, q, e) } }

/-- A write of QCMD with `op` and EPOCH `e`: refused, or carried out with BUSY until it completes (R448). -/
def writeQcmd (op e : Nat) (s : Dev) : Dev :=
  let c := qcmdErr s op
  if c ≠ 0 then qErr c s
  else
    qcmdTaken op (fget s (gna 0x88) 0 20) e (cacheSettle (fget s (gna 0x88) 0 20) (qcmdDo op e s))

/-- QCMD LOAD. -/
def doLoad (p : Path) (s : Dev) : Dev := onWrite p (gna 0x8C) (writeQcmd 1 0) s
/-- QCMD WRITE. -/
def doWrite (p : Path) (s : Dev) : Dev := onWrite p (gna 0x8C) (writeQcmd 2 0) s
/-- QCMD SET_MARK. -/
def doSetMark (p : Path) (s : Dev) : Dev := onWrite p (gna 0x8C) (writeQcmd 3 0) s
/-- QCMD CLR_MARK. -/
def doClrMark (p : Path) (s : Dev) : Dev := onWrite p (gna 0x8C) (writeQcmd 4 0) s
/-- QCMD REWIND. -/
def doRewind (p : Path) (s : Dev) : Dev := onWrite p (gna 0x8C) (writeQcmd 5 0) s
/-- QCMD CLR_WM. -/
def doClrWm (p : Path) (s : Dev) : Dev := onWrite p (gna 0x8C) (writeQcmd 6 0) s
/-- QCMD CLR_FLAGS. -/
def doClrFlags (p : Path) (s : Dev) : Dev := onWrite p (gna 0x8C) (writeQcmd 7 0) s
/-- QCMD SEAL. -/
def doSeal (p : Path) (e : BitVec 8) (s : Dev) : Dev := onWrite p (gna 0x8C) (writeQcmd 8 e.toNat) s
/-- QCMD FLUSH_CACHE. -/
def doFlushCache (p : Path) (s : Dev) : Dev := onWrite p (gna 0x8C) (writeQcmd 9 0) s
/-- QCMD_DONE. -/
def doQcmdDone (s : Dev) : Dev :=
  if qBusy s then fset (gna 0x8C) 27 1 0 { s with grn := { s.grn with busy := none } } else s

/-! ### Doorbells and pop ports (R427, R428) -/

/-- A write of position `r` to the doorbell of queue `q` (R427, R441). -/
def doorbell (q r : Nat) (s : Dev) : Dev :=
  if !domOn s 2 then s
  else
    let s := if blkReady s grnPage then cacheGet q s else s
    let x := getQ s q
    if !x.en || qClass x ≠ 0 || posSub r x.rdp > posSub x.commit x.rdp then
      irqSet grnPage 2 (if fbit s (gna 0x94) 31 then s else wrN (gna 0x94) (2 ^ 31 + q) s)
    else cacheSettle q (armNotice q (setQ q { x with rdp := r, armed := true } s))

/-- The host reaches BAR2: the link is up and the host-port domain on. -/
def hostOn (s : Dev) : Bool := domOn s 3 && fbit s (A 0x190 0x80) 0

/-- DOORBELL_WRITE: a host write to BAR2. -/
def doDoorbellWrite (q : BitVec 20) (v : Word) (s : Dev) : Dev := if hostOn s then doorbell q.toNat v.toNat s else s

/-- TYPE and LEN of the record at position `r` of queue `q`, as a read of its header returns them. -/
def recAt (q r : Nat) (s : Dev) : Nat × Nat × Dev :=
  let (bs, s) := memRead .granary (posAddr (getQ s q) r) 16 s
  (leNat ((bs.drop 7).take 1) % 128, leNat (bs.take 4), s)

/-- RD passes every PAD in front of it (R428). -/
def skipPads (q : Nat) : Nat → Dev → Dev
  | 0, s => s
  | n + 1, s =>
    let x := getQ s q
    if x.rdp = x.commit then s
    else
      let (t, len, s) := recAt q x.rdp s
      if t = 1 && len ≠ 0 then skipPads q n (setQ q { getQ s q with rdp := (x.rdp + len / 16) % posM } s) else s

/-- A write of POP_SEL claims queue `q` for the path (R428). -/
def popSel (p : Path) (q : Nat) (s : Dev) : Dev :=
  let s := if blkReady s grnPage then cacheGet q s else s
  let other := s.paths.any fun e => e.1 != pathNum p && e.2.claim == some q
  let x := getPath s p
  if qClass (getQ s q) ≠ 0 || other then setPath p { x with popRefused := true, refusedMc := now s } s
  else setPath p { x with claim := some q, popWord := 0 } s

/-- POP_SEL. -/
def doPopSel (p : Path) (v : Word) (s : Dev) : Dev := onWrite p (A 0x171 0x80) (popSel p (bits v.toNat 0 20)) s

/-- The path's claim ends. -/
def popRelease (p : Path) (s : Dev) : Dev := setPath p { getPath s p with claim := none, popWord := 0 } s

/-- POP_RELEASE. -/
def doPopRelease (p : Path) (s : Dev) : Dev := onWrite p (A 0x171 0x80) (popRelease p) s

/-- What a read of POP_DATA on path `p` returns, and what it does (R428). -/
def popRead (p : Path) (s : Dev) : Word × Dev :=
  let x := getPath s p
  match x.claim with
  | none => (0, s)
  | some q =>
    if s.frozen.contains 0x171 then (0, s)
    else
      let s := if x.popWord = 0 then skipPads q 64 s else s
      let y := getQ s q
      if y.rdp = y.commit then (x.popLast, setPath p { x with popUnder := true, underMc := now s } (setQ q { y with under := true } s))
      else
        let (_, len, s) := if x.popWord = 0 then recAt q y.rdp s else (0, x.popLen, s)
        let (n, s) := memReadNat .granary (posAddr y y.rdp + 4 * x.popWord) 4 s
        let w := w32 n
        if len ≤ 4 * (x.popWord + 1) then
          (w, setPath p { x with popWord := 0, popLast := w } (cacheSettle q (skipPads q 64 (setQ q { y with rdp := (y.rdp + len / 16) % posM } s))))
        else (w, setPath p { x with popWord := x.popWord + 1, popLen := len, popLast := w } s)

/-- What the pop port's other registers show on path `p` (Table 14-6). -/
def popReg (s : Dev) (p : Path) (o : Nat) : Nat :=
  let x := getPath s p
  if o = 0x80 then b2n x.claim.isSome * 2 ^ 30 + x.claim.getD 0
  else b2n x.popUnder * 2 ^ 31 + b2n x.popRefused * 2 ^ 30 + b2n (x.popWord != 0) * 2 ^ 29 + x.popWord % 2 ^ 18

/-- A write of `v` to page offset `o` of the pop page on path `p`; a flag set in the same mc stays (R17). -/
def writePop (p : Path) (o v : Nat) (s : Dev) : Dev :=
  if o = 0x80 then (if bit v 31 then popRelease p s else popSel p (bits v 0 20) s)
  else if o = 0x88 then
    let x := getPath s p
    setPath p { x with popUnder := x.popUnder && (!bit v 31 || x.underMc == now s), popRefused := x.popRefused && (!bit v 30 || x.refusedMc == now s) } s
  else s

/-! ### Notice rings and the table (R440 to R442, R446) -/

/-- A write of NR_RD[n] (R442). -/
def writeNrRd (n v : Nat) (s : Dev) : Dev :=
  let s := fset (gna (0x108 + 16 * n)) 29 1 1 (wrN (gna (0x200 + 4 * n)) v s)
  if v % posM ≠ rdN s (gna (0x240 + 4 * n)) then nrMessage n s else s

/-- NR_RD_WRITE. -/
def doNrRdWrite (p : Path) (n : Fin 16) (v : Word) (s : Dev) : Dev := onWrite p (gna (0x200 + 4 * n)) (writeNrRd n v.toNat) s

/-- A write of NR_BASE_HI[n] on path `p`: the ring starts afresh (Table 14-5). -/
def writeNrBase (p : Path) (n v : Nat) (s : Dev) : Dev :=
  wrN (gna (0x240 + 4 * n)) 0 (wrN (gna (0x200 + 4 * n)) 0 (commitHi p (gna (0x100 + 16 * n)) v s))

/-- NR_BASE_HI_WRITE. -/
def doNrBaseHiWrite (p : Path) (n : Fin 16) (v : Word) (s : Dev) : Dev :=
  onWrite p (gna (0x104 + 16 * n)) (writeNrBase p n v.toNat) s

/-- A write of DESC_BASE_HI on path `p`: refused while EN is 1, else the table's initialisation starts (R446). -/
def writeDescBase (p : Path) (v : Nat) (s : Dev) : Dev :=
  if blkEn s grnPage then refused p (gna 0x84) s
  else fset (A grnPage 0xC) 2 1 0 { commitHi p (gna 0x80) v s with grn := { s.grn with initing := true } }

/-- DESC_BASE_HI_WRITE. -/
def doDescBaseHiWrite (p : Path) (v : Word) (s : Dev) : Dev := onWrite p (gna 0x84) (writeDescBase p v.toNat) s

/-- DESC_INIT_DONE (R446): every descriptor of the table is 0; READY rises, and the Granary starts when EN is 1 (R66). -/
def doDescInitDone (s : Dev) : Dev :=
  if !s.grn.initing || !domOn s 2 then s
  else
    let b := descBase s
    let s := { s with mem := s.mem.filter fun e => !(b ≤ e.1 && e.1 < b + 32 * 2 ^ 20 && memGood s e.1),
                      grn := { s.grn with initing := false, queues := [], cache := [] } }
    let s := onlyIf (blkEn s grnPage && !s.resetting.contains grnPage) (fset (A grnPage 0xC) 0 1 1) s
    irqSet grnPage 8 (fset (A grnPage 0xC) 2 1 1 s)

/-- A write of SITE_CUR: records of the new epoch open again after their seal (R438, R439). -/
def writeSiteCur (i v : Nat) (s : Dev) : Dev :=
  let old := siteEpoch s i
  let s := plainWrite (gna (0x300 + 4 * i)) v s
  let e := siteEpoch s i
  if e = old then s
  else
    let f := fun (x : Nat × Queue) => if qSite x.1 = i then (x.1, { x.2 with sealed := x.2.sealed.filter (· ≠ e) }) else x
    { s with grn := { s.grn with queues := s.grn.queues.map f } }

/-- SITE_CUR_WRITE. -/
def doSiteCurWrite (p : Path) (site : Fin 64) (v : Word) (s : Dev) : Dev := onWrite p (gna (0x300 + 4 * site)) (writeSiteCur site v.toNat) s

/-- A write of `v` on path `p` to page offset `o` of the Granary page. -/
def writeGrn (p : Path) (o v : Nat) (s : Dev) : Dev :=
  if o = 0x80 then (if blkEn s grnPage then refused p (gna o) s else stageLo p (gna o) v s)
  else if o = 0x84 then writeDescBase p v s
  else if o = 0x88 then writeQsel v s
  else if o = 0x8C then writeQcmd (bits v 28 4) (bits v 8 8) s
  else if 0xA0 ≤ o && o < 0xC0 then writeQdesc ((o - 0xA0) / 4) v s
  else if 0x100 ≤ o && o < 0x200 then
    let n := (o - 0x100) / 16
    if o % 16 = 0 then stageLo p (gna o) v s
    else if o % 16 = 4 then writeNrBase p n v s
    else if o % 16 = 8 && (bits v 0 5 < 6 || bits v 0 5 > 20) then refused p (gna o) s
    else plainWrite (gna o) v s
  else if 0x200 ≤ o && o < 0x240 then writeNrRd ((o - 0x200) / 4) v s
  else if 0x300 ≤ o && o < 0x400 then writeSiteCur ((o - 0x300) / 4) v s
  else plainWrite (gna o) v s

/-- CACHE_STAT.HELD (R443). -/
def heldEntries (s : Dev) : Nat := (s.grn.cache.filter fun q => (getQ s q).recs.any (·.opn) || qClaimed s q).length

/-! ### Disabling and reset (R445, R446) -/

/-- EN goes from 1 to 0: open records close with CUT, and the records that wait in the intake are placed, and cut where still
open (R445). What producers still hold is offered and refused (R437). -/
def grnDrain (s : Dev) : Dev :=
  let s := forAll (s.grn.queues.map (·.1)) cutQueue s
  pumpProducers (forAll (s.grn.intake.map (·.q)).eraseDups (fun q s => cacheSettle q (cutQueue q (placeIntake q (cacheLoad q s)))) s)

/-- The drain ends: the descriptor cache has been written back (R445). -/
def grnDrained (s : Dev) : Dev := forAll s.grn.cache qWriteBack s

/-- A block reset of page 0x170 or 0x171 (R446): the page's own part. Records left with their
producers meanwhile were offered to a Granary that takes none, and are gone as accepted (R437). -/
def grnReset (s : Dev) : Dev :=
  { s with grn := {}, eth := { s.eth with frags := [] }, paths := s.paths.map fun e => (e.1, { e.2 with claim := none, popWord := 0 }) }

end Sys2Proof.Machine
end

