-- ==== Sys2Proof/Machine/Site.lean ====
section
/-! DEFINITION. Furrow control writes as they reach the Gleaner and the drills, and the service layer: sites,
flows, verdicts, migration and the mailbox (Furrow programs; Sites, flows and binning). -/
namespace Sys2Proof.Machine

/-! ### FUR.CTL (R167, R170) -/

/-- A START with `mode` on engine `e`: an accepted one also starts the slices of its yoke (R167, R268). -/
def startAll (e mode : Nat) (s : Dev) : Dev :=
  let ok := startErr s e mode == 0
  let fs := (yokeEngs s e).map (logical s)
  onlyIf ok (forAll fs glnStart) (furStart e mode s)

/-- A write of `v` to FUR.CTL: STOP acts before START (R167). -/
def writeFurCtl (e v : Nat) (s : Dev) : Dev :=
  let s := if bit v 30 then furStop e 2 s else s
  let s := fset (fa e 0x80) 28 2 (bits v 28 2) s
  if bit v 31 then startAll e (bits v 28 2) s else s

/-- FURROW_START. -/
def doFurrowStart (p : Path) (e : Fin 66) (v : Word) (s : Dev) : Dev := onWrite p (fa e 0x80) (writeFurCtl e (v.toNat ||| 0x80000000)) s
/-- FURROW_STOP. -/
def doFurrowStop (p : Path) (e : Fin 66) (v : Word) (s : Dev) : Dev := onWrite p (fa e 0x80) (writeFurCtl e (v.toNat ||| 0x40000000)) s

/-- RUN_START: row 0 is issued and the slices' run begins (R168, R290). -/
def doRunStart (e : Fin 66) (s : Dev) : Dev :=
  let fs := (yokeEngs s e).map (logical s)
  let s' := furRunStart e s
  if furState s e = 2 && furState s' e = 3 then forAll fs glnRunBegin s' else s'

/-- Every row that the yoke of `l` has issued has been taken, or left untaken, by its slices (R265). -/
def allTaken (s : Dev) (l : Nat) : Bool := (yokeEngs s l).all fun m => logical s m == 0x7F || (getFur s m).taken == rd64 s (fa m 0xB8)

/-- FURROW_STOPPED (R170, R290, R398): the run is over and its rows are taken; the slices close what they still hold of the run
(R235), the furrows stop, and the drills that follow them hear of it. -/
def doFurrowStopped (e : Fin 66) (s : Dev) : Dev :=
  let l := leadOf s e
  if runOver s l && allTaken s l then
    let es := yokeEngs s l
    let t := (getFur s l).tNext
    let s := furStopped' l (forAll (es.map (logical s)) (fun f => onlyIf (f < 64) (endRunSl f)) s)
    forAll (es.map (logical s)) (fun f => drlFurStopped f t) s
  else s

/-! ### Sites (R449, R450) -/

/-- A register of the FLW control page. -/
def fw (o : Nat) : Nat := A 0x178 o
/-- A register of site `i`'s window. -/
def sw (i o : Nat) : Nat := A 0x179 (0x800 + 32 * i + o)

def getSite (s : Dev) (i : Nat) : Site := mget (fun _ => {}) s.flw.sites i
def setSite (i : Nat) (x : Site) (s : Dev) : Dev := { s with flw := { s.flw with sites := mset (fun _ => {}) i x s.flw.sites } }

/-- SITE_STAT.STATE (R450). -/
def siteState (s : Dev) (i : Nat) : Nat := fget s (siteStat i) 29 3
def setSiteState (i v : Nat) (s : Dev) : Dev := fset (siteStat i) 29 3 v s

/-- The site whose furrows include `f`. -/
def siteOfFur (s : Dev) (f : Nat) : Option Nat := s.flw.sites.findSome? fun x => if x.2.furs.contains f then some x.1 else none

/-- The furrow `g` has been promised to a site by a MIGRATE that is still to be carried out; the site. -/
def promised (s : Dev) (g : Nat) : Option Nat := s.flw.sites.findSome? fun x => match x.2.mig with
  | some (gs, _) => if gs.contains g then some x.1 else none
  | none => none

/-- Another site than `i` has the furrow `g`, or is to have it (R449, R468; DEDUCED, log entry 108). -/
def takenBySite (s : Dev) (i g : Nat) : Bool := [siteOfFur s g, promised s g].any fun x => x.any (· != i)

/-- The furrows that a site placed on lead `f` takes: those that name it as their lead as well, by position (R449). -/
def siteFurs (s : Dev) (f : Nat) : List Nat := match engOf s f with
  | some e => logical s e :: (if yokeRole s e = 1 then (sortOn (yokePos s) (yokeNamed s e)).map (logical s) else [])
  | none => [f]

/-- The yoke position of furrow `f` of a site with lead `l` (R198). -/
def sitePos (s : Dev) (l f : Nat) : Nat := if f = l then 0 else (engOf s f).elim 0 (yokePos s)

/-- The engine of the site's lead. -/
def siteEng (s : Dev) (i : Nat) : Option Nat := engOf s (nth 0x7F (getSite s i).furs 0)

/-- The site's lanes (R449). -/
def siteLanes (s : Dev) (i : Nat) : List Nat := (getSite s i).furs.flatMap (ownedLanes s)

/-- The first lane of the site whose HEALTH is FAILED_SLICE or FAILED_IO (R459). -/
def lostLane (s : Dev) (i : Nat) : Option Nat := (siteLanes s i).find? fun l => health s l == 3 || health s l == 4

/-- Field ticks since chip reset. -/
def fieldCount (s : Dev) : Nat := rd64 s (A 0 0x84)

/-- The capacity C (R462). -/
def flowCap (s : Dev) : Nat := max 3 (3 * fget s (A 0 0x80) 16 7)

/-- A write of the service layer's own. -/
def svcWrite (a v : Nat) (s : Dev) : Dev := onWrite .svc0 a (plainWrite a v) s
/-- A 64-bit pair written by the service layer. -/
def svcPair (a v : Nat) (s : Dev) : Dev := svcWrite (a + 4) (v / 2 ^ 32) (svcWrite a (v % 2 ^ 32) s)

/-! ### Flow records (R464 to R467) -/

/-- A datalog copy joins the backlog, or is dropped beyond 4,096 (R462, R467). -/
def dlogCopy (o : Offer) (s : Dev) : Dev :=
  if s.flw.dlog.length ≥ 4096 then irqSet 0x178 16 (incSat (fw 0x98) 0 32 1 s)
  else { s with flw := { s.flw with dlog := s.flw.dlog ++ [o] } }

/-- A flow record in the site's current queue, with its datalog copy when `copy` (R106, R235, R464, R467). -/
def flowRecord (i typ flags : Nat) (copy : Bool) (body : List Byte) (s : Dev) : Dev :=
  let flags := flags ||| b2n (siteTinv s i) * 0x80
  let o : Offer := { q := siteQueue s i, typ, flags, epoch := siteEpoch s i, sys := false, len := 16 + body.length, ts := now s, body,
                     whole := true, tag := 0 }
  let c := { o with flags := flags ||| (if warm0 s then 0x40 else 0), site := some i }
  onlyIf (copy && fbit s (fw 0x94) 31) (dlogCopy c) (offer o s)

/-- A SITE_EVENT (Table 15-8). -/
def siteEvent (i code b w : Nat) (s : Dev) : Dev :=
  irqSet 0x178 8 (flowRecord i 0x32 0 false
    (leBytes 4 (code * 2 ^ 24 + b * 2 ^ 16 + fget s (siteStat i) 0 14) ++ leBytes 4 w ++ leBytes 8 (now s)) s)

/-- The yield entry of site `i` and bin `b` (R461). -/
def yieldAddr (s : Dev) (i b : Nat) : Nat := rd64 s (fw 0x8C) + 4 * (256 * i + b)

/-- The flow of site `i` ends in bin `b` (R461). -/
def flowEnd (i b : Nat) (s : Dev) : Dev :=
  let x := getSite s i
  let a := yieldAddr s i b
  let s := if !rangeGood s a 4 then raise 0xEE 0 s else memWrite .service a (leBytes 4 (sat (memNat s a 4 + 1) m32)) s
  let good := fbit s (fw (0xC0 + 4 * (b / 32))) (b % 32)
  let s := onlyIf good (incSat (sw i 0x18) 0 32 1) (incSat (sw i 0x14) 0 32 1 s)
  let body := leBytes 8 x.tFlow ++ leBytes 8 (now s) ++ leBytes 4 (b2n good * 256 + b) ++ leBytes 4 x.steps ++ leBytes 4 (rdN s (sw i 0x1C))
    ++ leBytes 4 (x.flow.getD 0)
  let s := irqSet 0x178 2 (flowRecord i 0x31 0 true body (wrN (sw i 0x10) b s))
  let s := setSiteState i 1 (setSite i { x with busy := false, queued := none, limit := false, startPend := false } s)
  if flowRuns s then s else { s with flw := { s.flw with log := [] } }

/-! ### Flow steps (R451 to R455) -/

/-- Address of step `n` of site `i`. -/
def stepAddr (s : Dev) (i n : Nat) : Nat := rd64 s (sw i 0) + 64 * n
/-- Field of `k` bytes at offset `o` of step `n`. -/
def stepF (s : Dev) (i n o k : Nat) : Nat := memNat s (stepAddr s i n + o) k
/-- Address of pattern entry `p`. -/
def patAddr (s : Dev) (p : Nat) : Nat := rd64 s (fw 0x80) + 48 * p
/-- Field of `k` bytes at offset `o` of pattern entry `p`. -/
def patF (s : Dev) (p o k : Nat) : Nat := memNat s (patAddr s p + o) k

/-- LIM word of limit `j`. -/
def limWord (s : Dev) (i n j : Nat) : Nat := stepF s i n (16 + 12 * j) 4

/-- A LIM word with a reserved bit, KIND or QTY (R455, Table 15-3). -/
def limBad (w : Nat) : Bool :=
  let q := bits w 17 4
  bits w 0 8 != 0 || bits w 28 4 > 5 || (match bits w 28 4 with
    | 1 => q > 4
    | 2 => q > 4
    | 3 => q > 5
    | 4 => q > 2
    | 5 => q > 1
    | _ => false)

/-- A bad step (R455). -/
def badStep (s : Dev) (i n : Nat) : Bool :=
  let cnt := fget s (sw i 8) 0 15
  let nx := fun o => stepF s i n o 2 != 0xFFFF && stepF s i n o 2 ≥ cnt
  n ≥ cnt || stepF s i n 0 2 ≥ fget s (fw 0x88) 0 17 || nx 4 || nx 6 || stepF s i n 8 1 > 250 || stepF s i n 9 1 > 250
    || stepF s i n 2 1 > 127 || bits (stepF s i n 3 1) 0 5 != 0 || stepF s i n 10 2 != 0 || (List.range 4).any fun j => limBad (limWord s i n j)

/-- A table read of the step, or of its pattern entry, meets bytes that cannot be read. -/
def stepPoison (s : Dev) (i n : Nat) : Bool :=
  !rangeGood s (stepAddr s i n) 64 || (stepF s i n 0 2 < fget s (fw 0x88) 0 17 && !rangeGood s (patAddr s (stepF s i n 0 2)) 48)

/-! ### Starting a step (R456, R457, R459) -/

/-- The pattern entry and TS_BASE written to the furrows of the site (R451, R456). -/
def writePattern (i n p : Nat) (s : Dev) : Dev :=
  let l := nth 0 (getSite s i).furs 0
  forAll (getSite s i).furs (fun f s => match engOf s f with
    | none => s
    | some e =>
      let s := svcPair (fa e 0xA0) (patF s p 0 8) s
      let s := svcPair (fa e 0xA8) (patF s p 8 8 + sitePos s l f * patF s p 40 8) s
      let s := svcWrite (fa e 0x98) (patF s p 20 4) (svcWrite (fa e 0x94) (patF s p 16 4) s)
      let s := svcWrite (fa e 0x20C) (patF s p 32 4) (svcWrite (fa e 0x208) (patF s p 28 2) (svcWrite (fa e 0x204) (patF s p 24 4) s))
      svcWrite (fa e 0x3F0) (stepF s i n 2 1) (svcWrite (fa e 0x200) (patF s p 36 4) s)) s

/-- The TIM channels (k) and acquisition channels (16 + c) of site `i` (R456). -/
def siteChans (s : Dev) (i : Nat) : List Nat :=
  ((List.range 16).filter fun k => fget s (ta k 0x88) 22 6 == i && pageOn s (timPage k))
  ++ ((List.range 64).filter fun c => fget s (aa c 8) 16 6 == i && pageOn s (acqPage c)).map (· + 16)

/-- CTL.ARM to a channel. -/
def armChan (n : Nat) (s : Dev) : Dev :=
  if n < 16 then onWrite .svc0 (ta n 0x80) (armTim n) s else onWrite .svc0 (aa (n - 16) 0) (armAcq (n - 16)) s
/-- CTL.STOP to a channel. -/
def stopChan (n : Nat) (s : Dev) : Dev :=
  if n < 16 then onWrite .svc0 (ta n 0x80) (stopTim n 2) s else onWrite .svc0 (aa (n - 16) 0) (stopAcq (n - 16)) s
/-- The channel is armed. -/
def chanArmed (s : Dev) (n : Nat) : Bool :=
  if n < 16 then timState s n == 1 || timState s n == 2 || timState s n == 3
  else !(acqState s (n - 16) == 0 || acqState s (n - 16) == 4 || acqState s (n - 16) == 5)
/-- The channel has handed its records to the Granary (R456). -/
def chanHanded (s : Dev) (n : Nat) : Bool :=
  if n < 16 then (getTim s n).buf.isEmpty else (getAcq s (n - 16)).closing.isEmpty && (getAcq s (n - 16)).unopened.isEmpty

/-- CTL.START to the site's lead, with MODE SYNC when SMODE is 1; a refusal for admission is retried, any other
ends the flow (R456, R457). -/
def startSite (i : Nat) (s : Dev) : Dev :=
  let mode := if fbit s (sw i 8) 28 then 2 else 0
  match siteEng s i with
  | none => flowEnd i 252 (siteEvent i 2 2 0 s)
  | some e =>
    let c := startErr s e mode
    let x := getSite s i
    let s := onWrite .svc0 (fa e 0x80) (startAll e mode) s
    if c = 0 then setSite i { getSite s i with startPend := false, started := true } s
    else if c = 6 then setSite i { x with startPend := true, retry := true } s
    else flowEnd i 252 (siteEvent i 2 c 0 s)

/-- Step `n` of site `i` is reached: a bad step or a lost lane ends the flow, else the step starts (R455, R456, R459). -/
def startStep (i n : Nat) (s : Dev) : Dev :=
  let s := tagPass .service (stepAddr s i n) 64 (fset (siteStat i) 0 14 n s)
  if n < fget s (sw i 8) 0 15 && stepPoison s i n then
    flowEnd i 252 (siteEvent i 3 0 0 (raise 0xEE 0 (outCount (stepAddr s i n) 64 s)))
  else if badStep s i n then flowEnd i 252 (siteEvent i 3 0 0 s)
  else match lostLane s i with
  | some l => flowEnd i 251 (siteEvent i 1 0 l s)
  | none =>
    let p := stepF s i n 0 2
    let s := onWrite .svc0 (gna (0x300 + 4 * i)) (writeSiteCur i (putBits (rdN s (gna (0x300 + 4 * i))) 0 14 n)) s
    let s := writePattern i n p s
    let arm := if bit (stepF s i n 3 1) 7 then siteChans s i else []
    let idle := arm.filter fun c => !chanArmed s c
    let s := forAll arm armChan (setSiteState i 2 s)
    let s := setSite i { getSite s i with pat := p, t0 := now s, tick0 := fieldCount s, startPend := false, retry := false, tmoed := false,
                                          aborted := false, lost := none, armed := idle.filter (chanArmed s), defer := 0,
                                          started := false, log0 := s.flw.log.length } s
    startSite i s

/-! ### Settling (R456) -/

/-- The running step of site `i` has settled: its lead is stopped, and its slice has written its summary or writes
none. The settle is an event of the furrow and its slice, whose TS the step's record carries; what the service layer does after it
waits for a field tick. -/
def stepSettled (s : Dev) (i : Nat) : Bool := match siteEng s i with
  | none => true
  | some e =>
    let l := nth 0 (getSite s i).furs 0
    engStopped s e && ((getSl s l).done || bits (eff s l 0) 27 1 == 0 || rd64 s (fa e 0xB8) == 0 || !blkActive s (glnPage l))

/-- A site in STEP is watched for lost lanes and for its settle (R456, R459). -/
def watchStep (i : Nat) (s : Dev) : Dev :=
  let x := getSite s i
  let x := { x with lost := match x.lost with
    | some l => some l
    | none => lostLane s i }
  if !x.startPend && stepSettled s i then setSiteState i 3 (setSite i { x with settle := now s } s) else setSite i x s

/-! ### Limits (R453, R454) -/

/-- The quantities of `kind` and `unit` logged since the site's step started (R454). -/
def logOf (s : Dev) (x : Site) (kind unit : Nat) : List FlowQ := (s.flw.log.drop x.log0).filter fun q => q.kind == kind && q.unit == unit

/-- The closed sets that supply quantity `q`: all of them a sum, those with values an extreme, the last of these MEAN and SD
(R454). -/
def setsFor (l : List FlowQ) (q : Nat) : List FlowQ :=
  let vs := l.filter (·.n != 0)
  if q = 0 || q ≥ 5 then l else if q < 3 then vs.getLast?.toList else vs

/-- MEAN, SD, MIN, MAX, n and the count without a value of closed sets (R454). -/
def setQty (l : List FlowQ) (q : Nat) : Option Int :=
  match setsFor l q with
  | [] => none
  | z :: zs => some (match q with
    | 0 => (((z :: zs).map (·.n)).foldl (· + ·) 0 : Nat)
    | 1 => z.mean
    | 2 => (z.sd : Int)
    | 3 => zs.foldl (fun a y => if y.mn < a then y.mn else a) z.mn
    | 4 => zs.foldl (fun a y => if a < y.mx then y.mx else a) z.mx
    | _ => (((z :: zs).map (·.noval)).foldl (· + ·) 0 : Nat))

/-- The run of the step gave its slices' counters (Table 15-3: RUN, SLOT). -/
def runCounted (s : Dev) (x : Site) : Bool :=
  let l := nth 0 x.furs 0
  match engOf s l with
  | some e => x.started && rd64 s (fa e 0xF0) != 0 && blkActive s (glnPage l) && x.t0 ≤ x.settle
  | none => false

/-- The quantity of a limit word, none when its source produced none (Table 15-3). What runs at pin rate is read as the field
tick has copied it (R37): the verdict is made in the tick's own mc, and the rows of a settled step have all been taken. -/
def quantity (s : Dev) (x : Site) (w : Nat) : Option Int :=
  let l := nth 0 x.furs 0
  let idx := bits w 21 7
  let q := bits w 17 4
  let sum := fun (o : Nat) => (x.furs.map fun f => rd64 s (ga f o)).foldl (· + ·) 0
  let sum32 := fun (v : Nat → Nat) => (x.furs.map v).foldl (· + ·) 0
  let fs := fun (f j : Nat) => nth 0 (getSl s f).fs j
  match bits w 28 4 with
  | 1 => if idx ≠ 0 || !runCounted s x then none
    else some (match q with
      | 0 => (sat (sum 0xC0) (2 ^ 64 - 1) : Nat)
      | 1 => (sat (sum 0xC8) (2 ^ 64 - 1) : Nat)
      | 2 => (sat (sum32 fun f => rdN s (ga f 0xD8)) m32 : Nat)
      | 3 => (sat (sum32 fun f => fs f 0) m32 : Nat)
      | _ => (b2n (x.furs.any fun f => fs f 1 != 0) : Nat))
  | 2 => if idx < 4 then setQty (logOf s x 2 (4 * l + idx)) q else none
  | 3 => if idx < 16 then setQty (logOf s x 3 idx) q else none
  | 4 =>
    let es := logOf s x 4 idx
    if idx ≥ 64 || (es.isEmpty && !x.armed.contains (16 + idx)) then none
    else some (match q with
      | 0 => ((es.map (·.n)).foldl (· + ·) 0 : Nat)
      | 1 => es.foldl (fun a y => a + y.mean) 0
      | _ => ((es.map (·.sd)).foldl (· + ·) 0 : Nat))
  | 5 => if !runCounted s x then none
    else some (match q with
      | 0 => (fs l (2 + idx) : Nat)
      | _ => ((List.range 128).foldl (fun a k => max a (fs l (2 + k))) 0 : Nat))
  | _ => none

/-- The value of a limit: the quantity as 64 bits, shifted right arithmetically (R453). -/
def limValue (q : Int) (w : Nat) : Int := fdiv (sgn (uns q 64) 64) (2 ^ bits w 9 6)

/-- Whether the value passes the limit's bounds (R453). -/
def limPass (v : Int) (w lo hi : Nat) : Bool :=
  let x : Int := if bit w 8 then v else (uns v 64 : Nat)
  let l : Int := if bit w 8 then sgn lo 32 else (lo : Nat)
  let h : Int := if bit w 8 then sgn hi 32 else (hi : Nat)
  (!bit w 15 || decide (x ≤ h)) && (!bit w 16 || decide (l ≤ x))

/-- The outcome of limit `j`: whether it fails, whether NOVAL, its value, and whether its source carried WARM0. -/
def judgeLim (s : Dev) (i n j : Nat) : Bool × Bool × Int × Bool :=
  let x := getSite s i
  let w := limWord s i n j
  if bits w 28 4 = 0 then (false, false, 0, false)
  else match quantity s x w with
    | none => (true, true, 0, false)
    | some q =>
      let v := limValue q w
      let k := bits w 28 4
      let l := nth 0 x.furs 0
      let src := if k = 1 || k = 5 then (1, l) else if k = 2 then (2, 4 * l + bits w 21 7) else (k, bits w 21 7)
      let sets := logOf s x src.1 src.2
      let warm := (if k = 2 || k = 3 then setsFor sets (bits w 17 4) else sets).any (·.warm0)
      (!limPass v w (stepF s i n (20 + 12 * j) 4) (stepF s i n (24 + 12 * j) 4), false, v, warm)

/-! ### Verdicts (R456, R458, R460) -/

/-- The verdict of a settled step: 1 PASS, 2 FAIL, 3 ABORT, 4 TIMEOUT, with the bin that ends the flow for the last two. A step whose
START has never been accepted has no CAUSE of its own: its TLIMIT has run out, or EN has given it up (R457, R458, R473). -/
def verdict (s : Dev) (i n : Nat) (js : List (Bool × Bool × Int × Bool)) (tinv : Bool) : Nat × Nat :=
  let x := getSite s i
  let (cause, sf) := match siteEng s i with
    | some e => (fget s (fa e 0xF8) 20 3, fbit s (fa e 0xF8) 15)
    | none => (0, false)
  let fl := stepF s i n 3 1
  if x.aborted then (3, 255)
  else if !x.started then (if x.tmoed then (4, 254) else (3, 255))
  else if cause = 3 || cause = 5 then (3, 252)
  else if cause = 4 then (3, 253)
  else if cause = 6 then (3, 255)
  else if x.tmoed then (4, 254)
  else if js.any (·.1) || (bit fl 6 && sf) || (bit fl 5 && tinv) then (2, 0)
  else (1, 0)

/-- Bits of a list, the first element lowest. -/
def boolBits (l : List Bool) : Nat := l.zipIdx.foldl (fun a x => if x.1 then a + 2 ^ x.2 else a) 0

/-- The STEP_RESULT payload (Table 15-7). -/
def stepBody (s : Dev) (i n v bin next : Nat) (js : List (Bool × Bool × Int × Bool)) (tinv : Bool) : List Byte :=
  let x := getSite s i
  let (rows, cause, sf) := match siteEng s i with
    | some e => (rd64 s (fa e 0xF0), fget s (fa e 0xF8) 20 3, fbit s (fa e 0xF8) 15)
    | none => (0, 0, false)
  leBytes 8 rows ++ leBytes 8 x.settle ++ leBytes 4 (bin * 2 ^ 24 + v * 2 ^ 21 + cause * 2 ^ 18 + n)
    ++ leBytes 4 (boolBits (js.map (·.1)) * 2 ^ 28 + boolBits (js.map (·.2.1)) * 2 ^ 24 + b2n tinv * 2 ^ 23 + b2n sf * 2 ^ 22
        + b2n x.lost.isSome * 2 ^ 21 + b2n x.retry * 2 ^ 20 + sat x.defer 16383 * 64 + nth 0 x.furs 0 % 64)
    ++ leBytes 4 (next * 2 ^ 16 + x.pat) ++ leBytes 4 (x.flow.getD 0) ++ (js.flatMap fun j => leBytes 8 (uns j.2.2.1 64)) ++ zeros 16

/-- The service layer takes no new step: the page's EN is 0. -/
def flwClosing (s : Dev) : Bool := !(blkEn s 0x178) || blkDraining s 0x178 || !blkActive s 0x178

/-! ### Migration (R468 to R471) -/

/-- The offsets of the FUR registers that a migration copies: those that a block reset keeps, read-only ones too, but for YOKE and
MAP, and every register of Table 08-1 (R470). -/
def movedOffs : List Nat :=
  (rowsFur.flatMap fun r => if r.kept && r.off != 0x8C && r.off != 0x90 then (List.range r.n).map fun i => r.off + r.stride * i else [])
  ++ (List.range 64).map fun i => 0x800 + 4 * i

/-- The registers of a slice window that R297 keeps. -/
def slcOffs : List Nat :=
  [0x000, 0x008, 0x010, 0x014, 0x018, 0x01C, 0x020, 0x024, 0x028, 0x02C] ++ (List.range 4).flatMap fun u => [0x100 + 0x40 * u, 0x104 + 0x40 * u, 0x108 + 0x40 * u]

/-- The configuration of furrow `f` copied to furrow `g`, with its slice's (R470). -/
def copyFurrow (f g : Nat) (s : Dev) : Dev :=
  match engOf s f, engOf s g with
  | some a, some b =>
    let s := forAll movedOffs (fun o => wr (fa b o) (rd s (fa a o))) s
    let s := forAll (List.range 512) (fun k s => { s with ovl := mset (fun _ => 0) (b * 512 + k) (mget (fun _ => 0) s.ovl (a * 512 + k)) s.ovl }) s
    forAll slcOffs (fun o => wr (ga g o) (rd s (ga f o))) s
  | _, _ => s

/-- References to the old lead `f` rewritten to the new lead `g` (R470). -/
def moveRefs (f g : Nat) (s : Dev) : Dev :=
  let fix := fun (a : Nat) (cond : Dev → Bool) (lo : Nat) (s : Dev) => if fget s a lo 6 = f && cond s then fset a lo 6 g s else s
  let s := forAll (List.range 16) (fun k => fix (A (0x100 + k) 0x900) (fun _ => true) 0) s
  let s := forAll (List.range 16) (fun d s => fix (A (0x160 + d) 0x100) (fun s => fget s (A (0x160 + d) 0x100) 22 2 == 1) 16
    (fix (A (0x160 + d) 0x88) (fun _ => true) 0 s)) s
  let s := forAll (List.range 64) (fun c => fix (aa c 0x20) (fun _ => true) 16) s
  let s := forAll (List.range 4) (fun r => fix (A (0x158 + r) 0x84) (fun _ => true) 16) s
  forAll (List.range 16) (fun k s =>
    fix (ta k 0x8C) (fun s => fget s (ta k 0x8C) 13 3 == 5 && fget s (ta k 0x8C) 8 2 == 0) 2
      (fix (ta k 0x8C) (fun s => fget s (ta k 0x8C) 29 3 == 5 && fget s (ta k 0x8C) 24 2 == 0) 18 s)) s

/-- The migration of site `i` to furrows `gs` begins (R470, steps 1 to 5); `next` is the step to start after it. -/
def moveBegin (i : Nat) (gs : List Nat) (next : Option Nat) (s : Dev) : Dev :=
  let x := getSite s i
  let q := siteQueue s i
  let e := siteEpoch s i
  let chans := siteChans s i
  let armed := chans.filter (chanArmed s)
  let s := setSiteState i 4 (forAll chans stopChan s)
  let s := onWrite .svc0 (gna (0x300 + 4 * i)) (writeSiteCur i (putBits (rdN s (gna (0x300 + 4 * i))) 24 8 (e + 1))) s
  let moves := (x.furs.zip gs).flatMap fun p => (ownedLanes s p.1).map fun l => (l, p.2)
  let s := forAll moves (fun m s => repark m.1 (fset (laneCfg m.1) 0 7 m.2 s)) s
  let s := forAll (x.furs.zip gs) (fun p => copyFurrow p.1 p.2) s
  let s := moveRefs (nth 0 x.furs 0) (nth 0 gs 0) s
  let s := forAll armed armChan s
  fset (siteStat i) 16 7 (nth 0 gs 0) (setSite i { x with furs := gs, mig := none, moving := some (x.furs, q * 256 + e, armed, next) } s)

/-- The migration's end, once the old slices' buffers are empty and the stopped channels have handed their records:
the SEAL of the old epoch, the SITE_EVENT, and the successor's start (R470, steps 6 and 7). -/
def moveEnd (i : Nat) (s : Dev) : Dev :=
  let x := getSite s i
  match x.moving with
  | none => s
  | some (old, qe, _, next) =>
    if siteState s i ≠ 4 || !(old.all fun f => (getSl s f).buf.isEmpty) || !(siteChans s i).all (chanHanded s) then s
    else
      let q := qe / 256
      let e := qe % 256
      let s := cacheLoad q s
      let y := getQ s q
      let s := setQ q { y with sealReq := y.sealReq.filter (· ≠ e) ++ [e] } s
      let s := siteEvent i 4 (nth 0 old 0) (nth 0 x.furs 0) (setSiteState i 1 (setSite i { x with moving := none } s))
      match next with
      | none => s
      | some n => if flwClosing s then flowEnd i 255 s else startStep i n s

/-! ### Flow items (R462) -/

/-- What follows the verdict of site `i`: the flow's end, SLIMIT, a migration, or the successor's start (R458 to R460, R469). -/
def afterVerdict (i v bin next : Nat) (s : Dev) : Dev :=
  let x := getSite s i
  let lim := fget s (sw i 8) 16 8
  let s := onlyIf x.aborted (siteEvent i 5 0 0) s
  match x.lost with
  | some l => flowEnd i 251 (siteEvent i 1 0 l s)
  | none =>
    if flwClosing s then flowEnd i 255 s
    else if v ≥ 3 then flowEnd i bin s
    else if next = 0xFFFF then
      let s := flowEnd i x.bin s
      match x.mig with
      | some (gs, _) => moveBegin i gs none s
      | none => s
    else if lim ≠ 0 && x.steps ≥ lim * 1024 then setSite i { x with limit := true } s
    else match x.mig with
      | some (gs, _) => moveBegin i gs (some next) s
      | none => startStep i next s

/-- The verdict of site `i` with the start of its successor; it waits while stopped channels still hold records (R456). -/
def verdictItem (i : Nat) (s : Dev) : Dev × Bool :=
  let s := forAll (getSite s i).armed stopChan s
  if !(getSite s i).armed.all (chanHanded s) then (s, false)
  else
    let n := fget s (siteStat i) 0 14
    let x := getSite s i
    let js := (List.range 4).map (judgeLim s i n)
    let tinv := runCounted s x && bits (eff s (nth 0 x.furs 0) 0) 27 1 == 1 && x.furs.any fun f => (getSl s f).runTinv
    let (v, eb) := verdict s i n js tinv
    let bin := if v = 1 then stepF s i n 8 1 else if v = 2 then stepF s i n 9 1 else eb
    let next := if v = 1 then stepF s i n 4 2 else if v = 2 then stepF s i n 6 2 else 0xFFFF
    let shown := if v ≥ 3 || x.lost.isSome || flwClosing s then 0xFFFF else next
    let flags := b2n tinv * 0x80 ||| (if js.any (·.2.2.2) then 0x40 else 0)
    let s := flowRecord i 0x30 flags (fbit s (fw 0x94) 30) (stepBody s i n v bin shown js tinv) s
    let s := setSite i { x with bin := if v < 3 && bin ≠ 0 then bin else x.bin, steps := x.steps + 1 } s
    (afterVerdict i v bin next s, true)

/-- A first step of a flow starts. -/
def firstItem (i : Nat) (s : Dev) : Dev :=
  let x := getSite s i
  match x.queued with
  | some (n, _) => startStep i n (setSite i { x with queued := none } s)
  | none => s

/-- Site `i` has a flow item due: a first step, a verdict, or the migration of an idle site. -/
def itemDue (s : Dev) (i : Nat) : Option Nat :=
  let x := getSite s i
  if siteState s i = 3 && !x.limit then some x.settle
  else if siteState s i = 1 then match x.queued, x.mig with
    | some (_, t), _ => some t
    | none, some (_, t) => some t
    | none, none => none
  else none

/-- One flow item of site `i` is worked; the answer tells whether it is done. -/
def workItem (i : Nat) (s : Dev) : Dev × Bool :=
  let x := getSite s i
  if siteState s i = 3 then verdictItem i s
  else if x.queued.isSome then (if flwClosing s then flowEnd i 255 s else firstItem i s, true)
  else match x.mig with
    | some (gs, _) => (moveBegin i gs none s, true)
    | none => (s, true)

/-- A site placed in order of settle time, then of number. -/
def insDue (x : Nat × Nat) : List (Nat × Nat) → List (Nat × Nat)
  | [] => [x]
  | y :: ys => if x.1 < y.1 || (x.1 == y.1 && x.2 < y.2) then x :: y :: ys else y :: insDue x ys

/-- The flow items waiting at a tick: those carried, then the new ones in order (R462). -/
def flowItems (s : Dev) : List Nat :=
  let old := s.flw.wait.filter fun i => (itemDue s i).isSome
  let new := (s.flw.sites.map (·.1)).filterMap fun i => if old.contains i then none else (itemDue s i).map fun t => (t, i)
  old ++ (new.foldl (fun a x => insDue x a) []).map (·.2)

/-- Items are worked up to `n`; the rest are carried (R462). The answer tells also whether that was for want of time. -/
def workItems : Nat → List Nat → List Nat → Dev → List Nat × Bool × Dev
  | _, [], kept, s => (kept, false, s)
  | 0, is, kept, s => (kept ++ is, true, s)
  | n + 1, i :: is, kept, s =>
    let (s, ok) := workItem i s
    workItems n is (if ok then kept else kept ++ [i]) s

/-! ### The mailbox (R472) -/

/-- A site of a 64-bit mask. -/
def inMask (lo hi i : Nat) : Bool := if i < 32 then bit lo i else bit hi (i - 32)

/-- MB_ARG[n] as the waiting command was queued with it (R472). -/
def mbArg (s : Dev) (n : Nat) : Nat := nth 0 s.flw.args n

/-- A mailbox command completes with `result` and response words. -/
def mbDone (result : Nat) (rsp : List Nat) (s : Dev) : Dev :=
  let s := forAll (List.range 4) (fun n => wrN (fw (0x118 + 4 * n)) (nth 0 rsp n)) s
  irqSet 0x178 1 (fset (fw 0x114) 0 8 result (fset (fw 0x114) 31 1 0 <| hit (fw 0x114) 30 { s with flw := { s.flw with cmd := none, cmdOld := false } }))

/-- The site is idle: placed, with no flow in progress and no migration to come. -/
def siteIdle (s : Dev) (i : Nat) : Bool := siteState s i == 1 && !(getSite s i).busy && (getSite s i).mig.isNone

/-- FLW page 0x178 is ACTIVE and takes commands. -/
def flwReady (s : Dev) : Bool := !flwClosing s

/-- SITE_SET (R449, R450). -/
def mbSiteSet (s : Dev) : Dev :=
  let i := bits (mbArg s 0) 16 6
  let f := bits (mbArg s 0) 0 7
  let role := (engOf s f).elim 0 (yokeRole s)
  let other := (siteFurs s f).any (takenBySite s i)
  if f > 63 then mbDone 1 [] s
  else if siteState s i ≠ 0 && !siteIdle s i then mbDone 2 [] s
  else if role = 2 || other then mbDone 3 [] s
  else if !flwReady s then mbDone 5 [] s
  else mbDone 0 [] (setSiteState i 1 (fset (siteStat i) 16 7 f (setSite i { getSite s i with furs := siteFurs s f } s)))

/-- SITE_CLEAR (R450). -/
def mbSiteClear (s : Dev) : Dev :=
  let i := bits (mbArg s 0) 16 6
  if !siteIdle s i then mbDone 2 [] s
  else if !flwReady s then mbDone 5 [] s
  else mbDone 0 [] (setSiteState i 0 (fset (siteStat i) 16 7 0x7F (setSite i { getSite s i with furs := [] } s)))

/-- Site `i` is in the mask of the waiting command. -/
def mbMasked (s : Dev) (i : Nat) : Bool := inMask (mbArg s 0) (mbArg s 1) i

/-- FLOW_START starts site `i`: masked, idle, and with a flow table. -/
def mbStarts (s : Dev) (i : Nat) : Bool := mbMasked s i && siteIdle s i && rd64 s (sw i 0) != 0

/-- A started site queues the flow's first step. -/
def startFlow (i : Nat) (s : Dev) : Dev :=
  wrN (sw i 0x1C) (mbArg s 3 + i) (setSite i { getSite s i with busy := true, flow := some (rdN s (sw i 0x14)), tFlow := now s, bin := 0,
                                                                steps := 0, queued := some (bits (mbArg s 2) 0 14, now s) } s)

/-- FLOW_START (R472): the masked idle sites with a flow table queue their first steps. -/
def mbFlowStart (s : Dev) : Dev :=
  let ready := flwReady s && rd64 s (fw 0x80) != 0 && rd64 s (fw 0x8C) != 0
  let code := if !(List.range 64).any (mbStarts s) then 2 else if !ready then 5 else 0
  let on := fun i => code == 0 && mbStarts s i
  let rest := (List.range 64).map fun i => mbMasked s i && !on i
  mbDone code [boolBits (rest.take 32), boolBits (rest.drop 32)] (forAll ((List.range 64).filter on) startFlow s)

/-- A running step of site `i` is stopped: CTL.STOP to its lead, or its waiting START is given up. -/
def stopStep (i : Nat) (s : Dev) : Dev :=
  let s := setSite i { getSite s i with startPend := false } s
  match siteEng s i with
  | some e => onWrite .svc0 (fa e 0x80) (writeFurCtl e 0x40000000) s
  | none => s

/-- FLOW_ABORT (R458, R472). -/
def mbFlowAbort (s : Dev) : Dev :=
  if !flwReady s then mbDone 5 [] s
  else mbDone 0 [] (forAll ((List.range 64).filter fun i => mbMasked s i && siteState s i == 2) (fun i s =>
    watchStep i (stopStep i (setSite i { getSite s i with aborted := true } s))) s)

/-- SITE_STATUS (R472). -/
def mbSiteStatus (s : Dev) : Dev :=
  let i := bits (mbArg s 0) 16 6
  mbDone 0 [rdN s (siteStat i), ((getSite s i).flow).getD m32, rdN s (sw i 0x10), rdN s (sw i 0x1C)] s

/-- The new furrow that MB_ARG[1] names for position `p`, 0x7F for none. -/
def migArg (s : Dev) (p : Nat) : Nat := if p < 4 then bits (mbArg s 1) (8 * p) 8 else 0x7F

/-- The new furrows that it names. -/
def migNamed (s : Dev) : List Nat := ((List.range 4).map (migArg s)).filter (· != 0x7F)

/-- The new furrows of site `i`, each in the place of the furrow whose position it takes (R468, R470). -/
def migFurs (s : Dev) (i : Nat) : List Nat :=
  let fs := (getSite s i).furs
  fs.map fun f => migArg s (sitePos s (nth 0 fs 0) f)

/-- MB_ARG[1] of MIGRATE names no new furrows: no new lead, a value from 0x40 to 0x7E or above 0x7F, or one furrow twice. -/
def migBadArg (s : Dev) : Bool :=
  let gs := migNamed s
  migArg s 0 == 0x7F || gs.any (· > 63) || gs.zipIdx.any fun p => (gs.take p.2).contains p.1

/-- The new furrows cannot take site `i`: not as many, none for a position, one unmapped, in use or of another role or yoke place
(R468). -/
def migBadFur (s : Dev) (i : Nat) : Bool :=
  let x := getSite s i
  let gs := migFurs s i
  let l := nth 0 x.furs 0
  let eng := fun g => (engOf s g).getD 0x7F
  let role := fun f => (engOf s f).elim 0 (yokeRole s)
  (migNamed s).length != x.furs.length || gs.zipIdx.any (fun p => p.1 == 0x7F || (gs.take p.2).contains p.1)
    || gs.any (fun g => (engOf s g).isNone || !furStopped s g || takenBySite s i g)
    || (x.furs.zip gs).any (fun p => role p.1 != role p.2)
    || ((x.furs.zip gs).drop 1).any fun p => fget s (fa (eng p.2) 0x8C) 0 6 != nth 0 gs 0 || yokePos s (eng p.2) != sitePos s l p.1

/-- An apply group that targets a furrow of site `i` is open or waiting (R468). -/
def migGroup (s : Dev) (i : Nat) : Bool :=
  (List.range 8).any fun b => (getFec s b).groups.any fun g => match g.target with
    | .furrow f => (getSite s i).furs.contains f
    | _ => false

/-- MIGRATE (R468, R469). -/
def mbMigrate (s : Dev) : Dev :=
  let i := bits (mbArg s 0) 16 6
  if migBadArg s then mbDone 1 [] s
  else if siteState s i = 0 || siteState s i = 4 || (getSite s i).mig.isSome then mbDone 2 [] s
  else if migBadFur s i then mbDone 3 [] s
  else if migGroup s i then mbDone 4 [] s
  else if !flwReady s then mbDone 5 [] s
  else mbDone 0 [] (setSite i { getSite s i with mig := some (migFurs s i, now s) } s)

/-- YIELD_CLEAR (R472). -/
def mbYieldClear (s : Dev) : Dev :=
  if !flwReady s || rd64 s (fw 0x8C) = 0 then mbDone 5 [] s
  else mbDone 0 [] (forAll ((List.range 64).filter (mbMasked s)) (fun i s =>
    let x := getSite s i
    wrN (sw i 0x18) 0 (wrN (sw i 0x14) 0 (memWrite .service (yieldAddr s i 0) (zeros 1024)
      (setSite i { x with flow := if x.busy then x.flow else none } s)))) s)

/-- A mailbox command by its code. -/
def mbRun (code : Nat) (s : Dev) : Dev :=
  match code with
  | 1 => mbDone 0 [s.fwBuild, flowCap s] s
  | 2 => mbSiteSet s
  | 3 => mbSiteClear s
  | 4 => mbFlowStart s
  | 5 => mbFlowAbort s
  | 6 => mbSiteStatus s
  | 7 => mbMigrate s
  | 8 => mbYieldClear s
  | _ => mbDone 6 [] s

/-- PING, FLOW_ABORT and SITE_STATUS are urgent (Table 15-9). -/
def mbUrgent (code : Nat) : Bool := code == 1 || code == 5 || code == 6

/-- A write of code `c` to MB_CMD (R472). -/
def writeMbCmd (c : Nat) (s : Dev) : Dev :=
  if fbit s (fw 0x114) 31 then hit (fw 0x114) 29 s
  else fset (fw 0x114) 31 1 1 { s with flw := { s.flw with cmd := some c, args := (List.range 4).map fun n => rdN s (fw (0x104 + 4 * n)), cmdOld := false } }

/-- A mailbox row: MB_CMD written with its code. -/
def mbRow (c : Nat) (p : Path) (s : Dev) : Dev := onWrite p (fw 0x100) (writeMbCmd c) s

/-- PING. -/
def doPing (p : Path) (s : Dev) : Dev := mbRow 1 p s
/-- SITE_SET. -/
def doSiteSet (p : Path) (s : Dev) : Dev := mbRow 2 p s
/-- SITE_CLEAR. -/
def doSiteClear (p : Path) (s : Dev) : Dev := mbRow 3 p s
/-- FLOW_START. -/
def doFlowStart (p : Path) (s : Dev) : Dev := mbRow 4 p s
/-- FLOW_ABORT. -/
def doFlowAbort (p : Path) (s : Dev) : Dev := mbRow 5 p s
/-- SITE_STATUS. -/
def doSiteStatus (p : Path) (s : Dev) : Dev := mbRow 6 p s
/-- MIGRATE. -/
def doMigrate (p : Path) (s : Dev) : Dev := mbRow 7 p s
/-- YIELD_CLEAR. -/
def doYieldClear (p : Path) (s : Dev) : Dev := mbRow 8 p s

/-! ### Time limits (R458, R460) -/

/-- STEP_TIMEOUT (R458): TLIMIT field ticks after the first START write the step has not ended. -/
def doStepTimeout (i : Fin 64) (s : Dev) : Dev :=
  let x := getSite s i
  let lim := stepF s i (fget s (siteStat i) 0 14) 12 4
  if siteState s i = 2 && lim ≠ 0 && x.tick0 + lim ≤ fieldCount s && !x.tmoed then
    watchStep i (stopStep i (setSite i { x with tmoed := true } s))
  else s

/-- STEP_LIMIT (R460): the flow ends in bin 254. -/
def doStepLimit (i : Fin 64) (s : Dev) : Dev := if siteState s i = 3 && (getSite s i).limit then flowEnd i 254 s else s

/-! ### The field tick (R462, R463) -/

/-- STARTs refused for admission are written again (R457). -/
def retryStarts (s : Dev) : Dev :=
  forAll (s.flw.sites.map (·.1)) (fun i s =>
    let x := getSite s i
    let lim := stepF s i (fget s (siteStat i) 0 14) 12 4
    if siteState s i = 2 && x.startPend && flwClosing s then watchStep i (setSite i { x with startPend := false } s)
    else if siteState s i = 2 && x.startPend && x.tick0 < fieldCount s && (lim = 0 || fieldCount s < x.tick0 + lim) && !trapPend s then startSite i s else s) s
where
  /-- FLT.TRAP.PEND (R556). -/
  trapPend (s : Dev) : Bool := fbit s (A 2 0xDC) 31

/-- Waiting datalog copies go to the datalog queue while the Granary takes them (R467). -/
def placeDlog : Nat → Dev → Dev
  | 0, s => s
  | n + 1, s => match s.flw.dlog with
    | [] => s
    | o :: rest =>
      let o' := { o with q := fget s (fw 0x94) 0 20 }
      if grnRoom o' s then placeDlog n (offer o' { s with flw := { s.flw with dlog := rest } }) else s

/-- Verdicts carried over count DEFER (R462). -/
def countDefer (is : List Nat) (s : Dev) : Dev :=
  forAll is (fun i s => if siteState s i = 3 then setSite i { getSite s i with defer := (getSite s i).defer + 1 } s else s) s

/-- The service layer's work of a field tick, in the order of Table 15-5: flow items beyond the capacity take the tick's time, and the
command and the datalog copies are carried behind them. -/
def flwTick (s : Dev) : Dev :=
  if !domOn s 1 then s
  else
    let carried := !s.flw.wait.isEmpty || s.flw.cmdOld || s.flw.dlogOld
    let s := onlyIf carried (fun s => irqSet 0x178 4 (incSat (fw 0x9C) 0 32 1 s)) s
    let items := flowItems s
    let s := fset (fw 0xA0) 16 16 (max (fget s (fw 0xA0) 16 16) (sat items.length 65535)) (fset (fw 0xA0) 0 16 (sat items.length 65535) s)
    let s := wrN (fw 0xA4) (flowCap s) s
    let s := match s.flw.cmd with
      | some c => if mbUrgent c then mbRun c s else s
      | none => s
    let s := retryStarts s
    let (kept, late, s) := if fbit s (A 2 0xDC) 31 then (items, false, s) else workItems (flowCap s) items [] s
    let s := countDefer kept { s with flw := { s.flw with wait := kept } }
    let s := match s.flw.cmd with
      | some c => if mbUrgent c || late then s else mbRun c s
      | none => s
    let s := if late then s else placeDlog 4096 s
    { s with flw := { s.flw with cmdOld := s.flw.cmd.isSome, dlogOld := !s.flw.dlog.isEmpty } }

/-- Sites in a step or a migration are watched (R456, R459, R470). -/
def siteWatch (s : Dev) : Dev :=
  if !domOn s 1 then s
  else forAll (s.flw.sites.map (·.1)) (fun i s =>
    if siteState s i = 2 then watchStep i s else if siteState s i = 4 then moveEnd i s else s) s

/-! ### Registers, disabling and reset (R473, R474) -/

/-- A site uses its tables now. -/
def siteUses (s : Dev) (i : Nat) : Bool := siteState s i ≥ 2

/-- A write of `v` on path `p` to page offset `o` of the FLW control page. -/
def writeFlw (p : Path) (o v : Nat) (s : Dev) : Dev :=
  let used := (List.range 64).any (siteUses s)
  if o = 0x100 then writeMbCmd (bits v 0 8) s
  else if o = 0x80 || o = 0x8C then (if used then refused p (fw o) s else stageLo p (fw o) v s)
  else if o = 0x84 || o = 0x90 then (if used then refused p (fw o) s else commitHi p (fw (o - 4)) v s)
  else plainWrite (fw o) v s

/-- A write of `v` on path `p` to page offset `o` of the site windows. -/
def writeSites (p : Path) (o v : Nat) (s : Dev) : Dev :=
  let a := A 0x179 o
  if o < 0x800 then s
  else
    let used := siteUses s ((o - 0x800) / 32)
    if o % 32 = 0 then (if used then refused p a s else stageLo p a v s)
    else if o % 32 = 4 then (if used then refused p a s else commitHi p (a - 4) v s)
    else if o % 32 = 8 then (if used then refused p a s else plainWrite a v s)
    else s

/-- No site is in STEP, SETTLED or MIGRATING, and no flow is in progress (R473). -/
def flwIdle (s : Dev) : Bool := s.flw.sites.all fun x => siteState s x.1 < 2 && !x.2.busy

/-- A block reset of page 0x178 (R473): of a site's window, placement, FT_BASE and SITE_CFG stay. -/
def flwReset (s : Dev) : Dev :=
  let s := forAll (s.flw.sites.map (·.1)) (fun i s =>
    let s := if siteState s i = 2 then stopStep i s else s
    let x := getSite s i
    let s := if siteState s i = 0 then s else setSiteState i 1 s
    setSite i { furs := x.furs } s) s
  let s := forAll (List.range 64) (fun i s => forAll [0x10, 0x14, 0x18, 0x1C] (fun o => wrN (sw i o) 0) (fset (siteStat i) 0 14 0 s)) s
  { s with flw := { sites := s.flw.sites } }

end Sys2Proof.Machine
end

