-- ==== Sys2Proof/Machine/Headland.lean ====
section
/-! DEFINITION. The Headland ports, express words, ring lines, trigger pins, reference selection, TS and time of
day, remote page access as its issuer, and result forwarding as its sender (Headland ring, time and growth
limits). -/
namespace Sys2Proof.Machine

/-! ### Ports (R475 to R479, R485) -/

/-- The other port. -/
def otherPort (i : Nat) : Nat := 1 - i

/-- A bulk frame leaves on port `i`, or is lost when the port is not up (R479, R482). -/
def sendBulk (i : Nat) (ws : List Nat) (s : Dev) : Dev :=
  if portUp s i then emit (.bulk i (ws.flatMap (leBytes 8))) s else portLost i s

/-- A bulk frame with its trailer (R482). -/
def bulkFrame (hdr : Nat) (ws : List Nat) : List Nat := hdr :: ws ++ [crc32c ((hdr :: ws).flatMap (leBytes 8))]

/-- A header word (R482). -/
def bulkHdr (kind dst src tag words arg : Nat) : Nat :=
  kind * 2 ^ 60 + dst % 1024 * 2 ^ 50 + src % 1024 * 2 ^ 40 + tag % 256 * 2 ^ 32 + words % 256 * 2 ^ 24 + arg % 2 ^ 24

/-- A frame originated here: on HE, or on both ports in chain mode (Table 16-4). -/
def originate (ws : List Nat) (s : Dev) : Dev := if hdlChain s then sendBulk 1 ws (sendBulk 0 ws s) else sendBulk 0 ws s

/-- TOPO.CHAIN and BROKEN set (R485). -/
def setBroken (s : Dev) : Dev := irqSet ringPage 2 (orReg (A ringPage 0x8C) 0xC0000000 s)

/-- A BREAK frame leaves on port `i`. -/
def sendBreak (i : Nat) (s : Dev) : Dev := sendBulk i (bulkFrame (bulkHdr 0xB 0 (hdlId s) 0 0 (3 * 2 ^ 20)) []) s

/-- Port `i` is no longer up: what waits is lost, and a healing ring becomes a chain (R479, R485). -/
def portLoss (i : Nat) (s : Dev) : Dev :=
  let n := (getPort s i).txq.length
  let s := forAll (List.replicate n ()) (fun _ => portLost i) (setPort i { getPort s i with txq := [] } s)
  if fget s (A ringPage 0x80) 28 2 = 3 then setBroken (sendBreak (otherPort i) s) else s

/-- PORT_STAT.STATE becomes `v`; while it is UP2 the port is degraded (R478, R585, R587). -/
def setPortState (i v : Nat) (s : Dev) : Dev := degHdl i (setDegraded (portPage i) (v == 3) (fset (A (portPage i) 0x84) 29 3 v s))

/-- Port `i` starts training (R477), on the lanes `pair` alone when that is not 0 (R478). -/
def portTrain (i pair : Nat) (s : Dev) : Dev :=
  if !running s (portPage i) then s
  else
    let up := portUp s i
    let s := fset (A (portPage i) 0x84) 24 4 0 (setPortState i 1 (setPort i { getPort s i with pair } s))
    onlyIf up (portLoss i) s

/-- TRAIN: a write of PORT_CTL.TRAIN. -/
def doTrain (p : Path) (i : Fin 2) (v : Word) (s : Dev) : Dev :=
  onWrite p (A (portPage i) 0x80) (fun s => portTrain i 0 (plainWrite (A (portPage i) 0x80) v.toNat s)) s

/-- Port `i` is up in state `st` on the lanes `lk`: the neighbour's ID, the round trip `l` and H, and IRQ bit 0 (R477). -/
def portRises (i st lk l peer : Nat) (s : Dev) : Dev :=
  let p := portPage i
  irqSet p 1 (wrN (A p 0x88) (l * 2 ^ 16 + (48 + cdiv (l - 96) 2)) (fset (A p 0x84) 0 10 peer (fset (A p 0x84) 24 4 lk (setPortState i st s))))

/-- TRAINING_DONE (R477, R478): the lanes in block lock, the measured round trip less the turnaround, and the
neighbour's ID. -/
def doTrainingDone (i : Fin 2) (lanes : BitVec 4) (l : BitVec 16) (peer : BitVec 10) (s : Dev) : Dev :=
  let p := portPage i
  if !running s p || portState s i ≠ 1 then s
  else
    let n := lanes.toNat
    let fb := fbit s (A p 0x80) 30
    let on := (getPort s i).pair
    let pair := if on ≠ 0 then (if n &&& on = on then on else 0) else if bits n 0 2 = 3 then 3 else if bits n 2 2 = 3 then 12 else 0
    if on = 0 && n = 15 then portRises i 2 15 l.toNat peer.toNat s
    else if fb && pair ≠ 0 then raise (0xEA + i) 1 (irqSet p 4 (portRises i 3 pair l.toNat peer.toNat s))
    else
      let s := fset (A p 0x84) 24 4 n (setPortState i 0 s)
      setPort i { getPort s i with downAt := now s + 1600000 } s

/-- PORT_LOCK_LOSS (R477, R478): a lane in use loses block lock; the port trains again, from UP4 with FB 1 on the pair that the
lane is not in. -/
def doPortLockLoss (i : Fin 2) (lane : Fin 4) (s : Dev) : Dev :=
  let p := portPage i
  if !portUp s i || !fbit s (A p 0x84) (24 + lane) then s
  else
    let pair := if portState s i = 2 && fbit s (A p 0x80) 30 then (if lane.toNat < 2 then 12 else 3) else 0
    let s := irqSet p 2 (incSat (A p 0x8C) 16 8 1 s)
    raise (0xEA + i) 0 (portTrain i pair s)

/-- TRAIN_RETRY (R478). -/
def doTrainRetry (i : Fin 2) (s : Dev) : Dev :=
  if running s (portPage i) && portState s i == 0 && (getPort s i).downAt ≤ now s then portTrain i 0 s else s

/-! ### Express words (R480, R481, R484) -/

/-- An express word with its CRC (R480). -/
def expEncode (w : ExpWord) (dist : Nat) (satd : Bool) (wait : Nat) : Nat :=
  let v := w.kind * 2 ^ 60 + w.origin % 1024 * 2 ^ 50 + b2n satd * 2 ^ 49 + dist * 2 ^ 32 + wait * 2 ^ 28 + w.data % 2 ^ 20 * 2 ^ 8
  v + crc8 56 (v / 256)

/-- DIST with `n` more, saturating. -/
def distAdd (d n : Nat) (sd : Bool) : Nat × Bool := (sat (d + n) 0xFFFF, sd || decide (d + n > 0xFFFF))

/-- EXPRESS_SEND (R481): the first word that has been taken leaves in the port's next express slot. -/
def doExpressSend (i : Fin 2) (s : Dev) : Dev :=
  let x := getPort s i
  let free := match x.slot with
    | some m => decide (m + 4 ≤ now s)
    | none => true
  match x.txq with
  | w :: rest =>
    if !portUp s i || !free || now s < w.take then s
    else
      let wait := now s - w.take
      let (d, sd) := distAdd w.dist (wait - 12) w.satd
      let s := onlyIf (decide (wait > 12)) (incSat (A (portPage i) 0x90) 0 32 1) s
      emit (.express i (BitVec.ofNat 64 (expEncode w d sd (min wait 12)))) (setPort i { x with txq := rest, slot := some (now s) } s)
  | [] => s

/-! ### Ring lines (R499 to R502) -/

/-- Latch `l` of every RUNNING furrow sets at time `t` (R186). -/
def trigLatch (l t : Nat) (s : Dev) : Dev :=
  forAll ((List.range 66).filter fun e => furState s e == 3) (fun e s =>
    latSet e (1 + l) t s) s

/-- Line `j` is applied in mc `m` (R502). -/
def applyLine (m j : Nat) (s : Dev) : Dev :=
  let a := A trgPage 0x144
  if fbit s a j && rd64 s (A trgPage 0x148) = m && s.acq.log.any (fun e => e.kind == 4 && e.idx == j && e.t == m * 1024) then s
  else
    let s := wr64 (A trgPage 0x148) m (orReg a (2 ^ j) s)
    let s := logEv 4 j (m * 1024) (trigLatch (4 + j) (m * 1024) s)
    let s := rmpTrigs 3 m (fun c => bits c 0 4 == j) (timRing j m s)
    irqSet trgPage 16 (toutBy 2 m (fun c => bits c 20 4 == j) s)

/-- RING_LINE_APPLY (R500 to R502): the lines whose mc has come are applied in it. -/
def doRingLineApply (s : Dev) : Dev :=
  let due := s.hdl.apps.filter fun a => a.2.1 ≤ now s
  let s := { s with hdl := { s.hdl with apps := s.hdl.apps.filter fun a => !(a.2.1 ≤ now s) } }
  let ms := sortOn id (due.map (·.2.1)).eraseDups
  forAll ms (fun m s =>
    let mask := (due.filter fun a => a.2.1 == m).foldl (fun x a => x ||| a.1) 0
    let late := (due.filter fun a => a.2.1 == m && a.2.2).length
    let s := onlyIf (late != 0) (fun s => irqSet ringPage 4 (incSat (A ringPage 0x98) 0 32 late s)) s
    forAll ((List.range 16).filter (bit mask)) (applyLine m) s) s

/-- A write of `v` to LINE_SRC[j] on path `p` (R499). -/
def writeLineSrc (p : Path) (j v : Nat) (s : Dev) : Dev :=
  if bits v 28 3 ≥ 5 then refused p (A trgPage (0x100 + 4 * j)) s else plainWrite (A trgPage (0x100 + 4 * j)) v s

/-- LINE_SRC_WRITE. -/
def doLineSrcWrite (p : Path) (j : Fin 16) (v : Word) (s : Dev) : Dev :=
  onWrite p (A trgPage (0x100 + 4 * j)) (writeLineSrc p j v.toNat) s

/-- A write of `v` to LINE_FIRE (R499). -/
def fireLines (v : Nat) (s : Dev) : Dev :=
  forAll ((List.range 16).filter (bit v)) (fun j => raiseBy3 j) s
where
  /-- Line `j` is raised when its source is software. -/
  raiseBy3 (j : Nat) (s : Dev) : Dev :=
    let c := rdN s (A trgPage (0x100 + 4 * j))
    if bit c 31 && bits c 28 3 == 3 then raiseLines (2 ^ j) (now s) s else s

/-- LINE_FIRE. -/
def doLineFire (p : Path) (v : Word) (s : Dev) : Dev := onWrite p (A trgPage 0x140) (fireLines v.toNat) s

/-! ### Trigger pins (R504, R505) -/

def getTin (s : Dev) (i : Nat) : TrigIn := mget (fun _ => {}) s.hdl.tins i
def setTin (i : Nat) (x : TrigIn) (s : Dev) : Dev := { s with hdl := { s.hdl with tins := mset (fun _ => {}) i x s.hdl.tins } }

/-- TIN_CFG[i]. -/
def tinCfg (s : Dev) (i : Nat) : Nat := rdN s (A trgPage (0x80 + 4 * i))

/-- The event level of input `i`: its filtered level under POL (R504, R505). -/
def tinLevel (s : Dev) (i : Nat) : Bool := (getTin s i).lvl != bit (tinCfg s i) 30

/-- What output `i` drives once its configuration goes from `c0` to `c`: the event level of its input; a pulse in progress, where
both configurations make pulses; else nothing (DEDUCED, log entry 92). -/
def toutHeld (s : Dev) (i c0 c : Nat) : TrigOut :=
  if !bit c 31 then {}
  else if bits c 27 3 = 1 then { lvl := tinLevel s (bits c 20 2) }
  else if bit c0 31 && 2 ≤ bits c0 27 3 && 2 ≤ bits c 27 3 then getTout s i
  else {}

/-- The level of TRIG_OUT[i] at the balls. -/
def toutBall (s : Dev) (i : Nat) : Bool := toutOn s i && ((getTout s i).lvl != bit (toutCfg s i) 30)

/-- A write of `v` to TOUT_CFG[i] on path `p` (R505): the output takes its new level at once. -/
def writeToutCfg (p : Path) (i v : Nat) (s : Dev) : Dev :=
  let a := A trgPage (0xC0 + 4 * i)
  if bits v 27 3 ≥ 6 then refused p a s
  else
    let s' := plainWrite a v s
    let s' := setTout i (toutHeld s i (toutCfg s i) (toutCfg s' i)) s'
    if toutBall s i = toutBall s' i then s' else emit (.trigOut i (nowVs s) (toutBall s' i)) s'

/-- TOUT_CFG_WRITE. -/
def doToutCfgWrite (p : Path) (i : Fin 4) (v : Word) (s : Dev) : Dev := onWrite p (A trgPage (0xC0 + 4 * i)) (writeToutCfg p i v.toNat) s

/-- A write of `v` to TOUT_FIRE (R505). -/
def fireTouts (v : Nat) (s : Dev) : Dev :=
  forAll ((List.range 4).filter fun i => bit v i && fget s (A trgPage (0xC0 + 4 * i)) 27 3 == 4) (fun i s => toutPulse i (now s) s) s

/-- TOUT_FIRE. -/
def doToutFire (p : Path) (v : Word) (s : Dev) : Dev := onWrite p (A trgPage 0xD0) (fireTouts v.toNat) s

/-- TRIG_OUT_PULSE_END (R505). -/
def doTrigOutPulseEnd (i : Fin 4) (s : Dev) : Dev := toutEnd i (now s) s

/-- The outputs that follow input `i` take the event level `v` at time `t` (R505). -/
def tinFollow (i t : Nat) (v : Bool) (s : Dev) : Dev :=
  forAll (List.range 4) (fun o s =>
    let c := toutCfg s o
    if bits c 27 3 == 1 && bits c 20 2 == i && toutOn s o then toutLevel o t v s else s) s

/-- A write of `v` to TIN_CFG[i]: while its EN is 1, the outputs that follow the input take its event level at once (DEDUCED, log
entry 92). -/
def writeTinCfg (i v : Nat) (s : Dev) : Dev :=
  let s := plainWrite (A trgPage (0x80 + 4 * i)) v s
  onlyIf (bit (tinCfg s i) 31) (tinFollow i (nowVs s) (tinLevel s i)) s

/-- An edge of input `i` at time `t`, to the event level when `act`, counts (R504). -/
def tinCount (i t : Nat) (act : Bool) (s : Dev) : Dev :=
  let f := bits (tinCfg s i) 0 8
  let s := tinFollow i (t + (6 + f) * 1024) act s
  if !act then s
  else
    let s := irqSet trgPage (2 ^ i) (wr64 (A trgPage (0xA0 + 8 * i)) (t / 128) s)
    setTin i { getTin s i with way := (getTin s i).way ++ [t + (10 + f) * 1024] } (logEv 3 i (t / 128 * 128) s)

/-- An edge on its way reaches the furrows, lines and ramps at time `t` (R39, R499, R504). -/
def tinReach (i t : Nat) (s : Dev) : Dev :=
  rmpTrigs 2 (t / 1024) (fun c => bits c 8 2 == i) (raiseBy 1 (t / 1024) (fun c => bits c 16 2 == i) (trigLatch i t s))

/-- The filtered level of input `i` becomes `v` by an edge at time `t`, which counts where the input's EN and the page's are 1
(R504, R510). -/
def tinTake (i t : Nat) (v : Bool) (s : Dev) : Dev :=
  onlyIf (running s trgPage && bit (tinCfg s i) 31) (tinCount i t (v != bit (tinCfg s i) 30)) (setTin i { getTin s i with pend := none, lvl := v } s)

/-- An edge of input `i` whose level has held for FILT mc by time `t` is taken (R504). -/
def tinFilter (i t : Nat) (s : Dev) : Dev :=
  match (getTin s i).pend with
  | some (u, v) => if u + 1024 * bits (tinCfg s i) 0 8 ≤ t then tinTake i u v s else s
  | none => s

/-- Input `i` in the current mc: an edge whose filter has run out counts, and edges on their way arrive. -/
def tinAdvance (i : Nat) (s : Dev) : Dev :=
  if !running s trgPage then s
  else
    let s := tinFilter i (nowVs s) s
    let due := (getTin s i).way.filter (· < nextMcVs s)
    let s := setTin i { getTin s i with way := (getTin s i).way.filter fun t => !decide (t < nextMcVs s) } s
    forAll due (tinReach i) s

/-- The words of a TIME frame whose mc of take has come are taken (R481, R494). -/
def timeRelease (s : Dev) : Dev :=
  forAll (s.hdl.timeQ.filter fun w => w.take ≤ now s) sendExp
    { s with hdl := { s.hdl with timeQ := s.hdl.timeQ.filter fun w => !decide (w.take ≤ now s) } }

/-- TRIG_IN_EVENT (R504): an edge of TRIG_IN[i] at `vs` of the current mc. -/
def doTrigInEvent (i : Fin 4) (rising : Bool) (vs : BitVec 10) (s : Dev) : Dev :=
  if !running s trgPage then setTin i { getTin s i with pend := none, lvl := rising } s
  else
    let t := nowVs s + vs.toNat
    let s := tinFilter i t s
    if bits (tinCfg s i) 0 8 = 0 then tinTake i t rising s else setTin i { getTin s i with pend := some (t, rising) } s

/-! ### Reference selection (R488 to R492) -/

/-- REF_STAT. -/
def refStat : Nat := A 1 0x84
/-- SEL: 1 OCXO, 2 EXT. -/
def refSel (s : Dev) : Nat := fget s (A 1 0x80) 28 2
/-- Mc in a second. -/
def mcPerSec : Nat := 1600000000

/-- WARM takes a value; its change sets IRQ bit 0, and the periods without WARM are kept (R492). -/
def setWarm (b : Bool) (s : Dev) : Dev :=
  if fbit s refStat 31 = b then s
  else
    let s := irqSet 1 1 (fset refStat 31 1 (b2n b) s)
    { s with cold := if b then (match s.cold with
        | (a, none) :: r => (a, some (now s)) :: r.take 63
        | r => r) else (now s, none) :: s.cold }

/-- The reference is switched to `sel` (R490, R491): SWITCHES, IRQ bit 2, and slewing. -/
def switchRef (sel : Nat) (s : Dev) : Dev :=
  let s := fset refStat 16 8 (fget s refStat 16 8 + 1) (fset (A 1 0x80) 28 2 sel s)
  let s := fset refStat 28 1 0 (fset refStat 27 1 1 s)
  setWarm false (irqSet 1 4 { s with hdl := { s.hdl with holdFrom := none } })

/-- REF_STAT shows EXT_PRESENT and OCXO_RDY. -/
def showRef (s : Dev) : Dev := fset refStat 30 1 (b2n s.hdl.ocxoFrom.isSome) (fset refStat 29 1 (b2n s.hdl.extFrom.isSome) s)

/-- EXT_REF_IN becomes present or absent at the pin. -/
def setExt (b : Bool) (s : Dev) : Dev :=
  showRef { s with hdl := { s.hdl with extFrom := if b then (match s.hdl.extFrom with | some t => some t | none => some (now s)) else none } }
/-- OCXO_RDY takes a level at the pin. -/
def setOcxo (b : Bool) (s : Dev) : Dev :=
  showRef { s with hdl := { s.hdl with ocxoFrom := if b then (match s.hdl.ocxoFrom with | some t => some t | none => some (now s)) else none } }

/-- The TIME page acts: its domain is on and the master clock runs. -/
def timeOn (s : Dev) : Bool := domOn s 19 && s.clk

/-- EXT_REF_LOSS (R490): also while a holdover waits for EXT to stay present. -/
def doExtRefLoss (s : Dev) : Dev :=
  if !timeOn s || refSel s ≠ 2 || s.hdl.extFrom.isNone then s
  else
    let s := raise 0x05 4 (irqSet 1 2 (setExt false s))
    let s := fset refStat 28 1 1 (onlyIf (!fbit s refStat 28) (fun s => { s with hdl := { s.hdl with holdFrom := some (now s) } }) s)
    if fbit s (A 1 0x80) 31 && s.hdl.ocxoFrom.isSome then switchRef 1 s else s

/-- OCXO_RDY_FALL (R490): while OCXO is selected. -/
def doOcxoRdyFall (s : Dev) : Dev :=
  if !timeOn s || refSel s ≠ 1 || s.hdl.ocxoFrom.isNone then s
  else
    let s := raise 0x05 4 (irqSet 1 2 (setWarm false (setOcxo false s)))
    if fbit s (A 1 0x80) 31 && s.hdl.extFrom.isSome then switchRef 2 s else s

/-- EXT_REF_RETURN (R490): EXT has been present again for 10 s; the PLL re-locks by slewing. -/
def doExtRefReturn (s : Dev) : Dev :=
  match s.hdl.extFrom with
  | some t =>
    if timeOn s && refSel s = 2 && fbit s refStat 28 && t + 10 * mcPerSec ≤ now s then
      setWarm false (fset refStat 28 1 0 (fset refStat 27 1 1 { s with hdl := { s.hdl with holdFrom := none } }))
    else s
  | none => s

/-- SLEW_DONE (R491). -/
def doSlewDone (s : Dev) : Dev := if timeOn s then fset refStat 27 1 0 s else s

/-- The mc since which the conditions of WARM hold (R492). -/
def warmSince (s : Dev) : Option Nat :=
  match (if refSel s = 1 then s.hdl.ocxoFrom else s.hdl.extFrom), s.hdl.lockFrom with
  | some a, some b => some (max a b)
  | _, _ => none

/-- REF_STAT.QUAL: seconds qualified towards WARM. -/
def warmQual (s : Dev) : Nat := match warmSince s with
  | some t => sat ((now s - t) / mcPerSec) 65535
  | none => 0

/-- WARM_RISE (R492). -/
def doWarmRise (s : Dev) : Dev :=
  match warmSince s with
  | some t =>
    if timeOn s && !fbit s refStat 27 && !fbit s refStat 28 && t + fget s (A 1 0x80) 0 16 * mcPerSec ≤ now s then setWarm true s else s
  | none => s

/-- HOLDOVER_EXPIRY (R492). -/
def doHoldoverExpiry (s : Dev) : Dev :=
  match s.hdl.holdFrom with
  | some t => if timeOn s && fbit s refStat 28 && t + fget s (A 1 0x88) 0 16 * mcPerSec ≤ now s then setWarm false s else s
  | none => s

/-- The conditions of WARM fail outside a holdover: WARM_MIN asks for more seconds than have qualified (R492). -/
def warmFails (s : Dev) : Bool :=
  !fbit s refStat 28 && (match warmSince s with
    | some t => decide (now s < t + fget s (A 1 0x80) 0 16 * mcPerSec)
    | none => true)

/-- A write of `v` to REF_CFG (R490): SEL alone is refused for an absent source or a reserved code. -/
def writeRefCfg (v : Nat) (s : Dev) : Dev :=
  let sel := bits v 28 2
  let old := refSel s
  let s := fset (A 1 0x80) 28 2 old (plainWrite (A 1 0x80) v s)
  let s := onlyIf (warmFails s) (setWarm false) s
  if sel = 0 || sel = 3 || (sel = 1 && s.hdl.ocxoFrom.isNone) || (sel = 2 && s.hdl.extFrom.isNone) then hit refStat 25 s
  else if sel = old then s
  else switchRef sel s

/-- REF_SEL_WRITE. -/
def doRefSelWrite (p : Path) (v : Word) (s : Dev) : Dev := onWrite p (A 1 0x80) (writeRefCfg v.toNat) s

/-- EXT_REF_PRESENCE (R489): present, or absent while EXT is not in use. -/
def doExtRefPresence (b : Bool) (s : Dev) : Dev :=
  if !s.clk || (!b && refSel s = 2) then s else setExt b s

/-- OCXO_RDY_CHANGE (R490): a rise, or a fall while EXT is selected. -/
def doOcxoRdyChange (b : Bool) (s : Dev) : Dev :=
  if !s.clk || (!b && refSel s = 1) then s else setOcxo b s

/-! ### TS (R493 to R495) -/

/-- A time in mc moved with TS. -/
def shiftN (e : Int) (t : Nat) : Nat := ((t : Int) + e).toNat
/-- A time in vs moved with TS. -/
def shiftV (e : Int) (t : Nat) : Nat := ((t : Int) + e * 1024).toNat

/-- A lane's times moved with TS. -/
def shiftLane (e : Int) (x : Lane) : Lane :=
  { x with lastT := x.lastT.map (shiftV e), lastEv := x.lastEv.map (shiftV e), mSince := x.mSince.map (shiftV e),
           held := x.held.map fun h => { h with t := shiftV e h.t, u := shiftV e h.u, m := shiftV e h.m },
           evs := x.evs.map fun v => { v with t := shiftV e v.t }, rep := x.rep.map fun r => (shiftV e r.1, r.2),
           parkHist := x.parkHist.map fun r => (shiftV e r.1, r.2), openHist := x.openHist.map fun r => (shiftV e r.1, r.2),
           st0 := x.st0.map fun r => (shiftV e r.1, r.2), st1 := x.st1.map fun r => (shiftV e r.1, r.2) }

/-- An FCK cycle moved with TS: as many whole cycles as `e` mc hold (R88). -/
def shiftK (e : Int) (k : Nat) : Nat := ((k : Int) + fdiv (e * 5) 32).toNat

/-- A control bus's cycles and times moved with TS. -/
def shiftFec (e : Int) (x : FecBus) : FecBus :=
  { x with freeAt := shiftK e x.freeAt, syncAt := shiftK e x.syncAt, grpAt := shiftK e x.grpAt, resetAt := x.resetAt.map (shiftK e),
           outs := x.outs.map fun o => (o.1, shiftK e o.2), nextPoll := shiftN e x.nextPoll }

/-- A hold's times moved with TS. -/
def shiftHold (e : Int) (h : Hold) : Hold :=
  { h with m := shiftN e h.m, n := h.n.map (shiftN e), start := shiftN e h.start, endAt := h.endAt.map (shiftN e),
           queue := h.queue.map fun q => (shiftN e q.1, q.2.1.map (shiftN e), q.2.2) }

/-- A comparator's and a fence's times moved with TS. -/
def shiftCmp (e : Int) (c : Cmp) : Cmp := { c with hold := c.hold.map fun h => (shiftN e h.1, h.2) }
def shiftFence (e : Int) (f : Fence) : Fence :=
  { f with up := shiftCmp e f.up, lo := shiftCmp e f.lo, log := f.log.map fun r => { r with t := shiftN e r.t }, last := shiftN e f.last, tieT := shiftN e f.tieT, outAt := f.outAt.map (shiftN e), seenHist := f.seenHist.map fun r => (shiftV e r.1, r.2) }

/-- The hidden times of the Headland block moved with TS. -/
def shiftHdl (e : Int) (h : HdlSt) : HdlSt :=
  { h with ports := h.ports.map fun p => (p.1, { p.2 with txq := p.2.txq.map fun w => { w with take := shiftN e w.take },
                                                          slot := p.2.slot.map (shiftN e), downAt := shiftN e p.2.downAt })
           apps := h.apps.map fun a => (a.1, shiftN e a.2.1, a.2.2)
           tins := h.tins.map fun t => (t.1, { t.2 with pend := t.2.pend.map fun q => (shiftV e q.1, q.2), way := t.2.way.map (shiftV e) })
           touts := h.touts.map fun t => (t.1, { t.2 with stop := t.2.stop.map (shiftN e) })
           timeTx := h.timeTx.map (shiftN e), timeQ := h.timeQ.map fun w => { w with take := shiftN e w.take }, rxq := h.rxq.map fun x => (x.1, x.2.1, shiftN e x.2.2)
           rpa := h.rpa.map fun r => (r.1, shiftN e r.2.1, r.2.2)
           extFrom := h.extFrom.map (shiftN e), ocxoFrom := h.ocxoFrom.map (shiftN e), lockFrom := h.lockFrom.map (shiftN e)
           holdFrom := h.holdFrom.map (shiftN e), bound := h.bound + e, lastPps := h.lastPps.map (· + e), rolled := h.rolled.map (· + e), ppsWait := h.ppsWait.map fun x => (x.1 + e, x.2 + e) }

/-- A site's running times moved with TS. -/
def shiftSite (e : Int) (x : Site) : Site :=
  { x with t0 := shiftN e x.t0, settle := shiftN e x.settle, queued := x.queued.map fun q => (q.1, shiftN e q.2),
           mig := x.mig.map fun q => (q.1, shiftN e q.2) }

/-- What a slice has still to decide moved with TS. -/
def shiftSlice (e : Int) (x : Slice) : Slice :=
  { x with marks := x.marks.map fun k => (shiftV e k.1, k.2), inMc := x.inMc.map fun k => (shiftN e k.1, k.2),
           pend := x.pend.map fun g => { g with m := shiftN e g.m } }

/-- The fault collector's hidden times moved with TS. -/
def shiftFlt (e : Int) (f : FltSt) : FltSt :=
  { f with shadows := f.shadows.map fun x => { x with t0 := shiftN e x.t0, closeAt := x.closeAt.map (shiftN e) },
           errEnd := shiftN e f.errEnd, quenchMc := shiftN e f.quenchMc, errHigh := f.errHigh.map (shiftN e), chipRst := f.chipRst.map fun c => (c.1, shiftN e c.2.1, c.2.2)
           acted := f.acted.map fun a => (shiftN e a.1, a.2), rel := f.rel.map (shiftN e), pulse := f.pulse.map (shiftN e) }

/-- TS moves by `e` in one mc: every time the device still counts from keeps its distance from now (R495). -/
def shiftTs (e : Int) (s : Dev) : Dev :=
  { s with
    ts := ts64 (shiftN e (now s))
    fieldMc := s.fieldMc.map (shiftN e)
    lanes := s.lanes.map fun x => (x.1, shiftLane e x.2)
    cal := s.cal.map fun x => (x.1, { x.2 with lastSwap := x.2.lastSwap.map (shiftN e), lastBg := x.2.lastBg.map (shiftN e), openEn := x.2.openEn.map (shiftN e), 
                                               dsk := x.2.dsk.map fun d => { d with start := shiftN e d.start, wait := d.wait.map (shiftV e) } })
    fec := s.fec.map fun x => (x.1, shiftFec e x.2)
    holds := s.holds.map fun x => (x.1, shiftHold e x.2)
    rowHist := []
    ueNow := []
    fen := s.fen.map fun x => (x.1, shiftFence e x.2)
    rmp := s.rmp.map fun x => (x.1, { x.2 with m0 := shiftN e x.2.m0, segs := x.2.segs.map fun g => { g with t := shiftN e g.t } })
    acq := { s.acq with viols := s.acq.viols.map fun v => (shiftN e v.1, v.2), log := [] }
    flw := { s.flw with sites := s.flw.sites.map fun x => (x.1, shiftSite e x.2), log := s.flw.log.map fun q => { q with t := shiftN e q.t } }
    tim := { s.tim with ahead := [], tin := s.tim.tin.map fun x => (x.1, x.2.map (shiftN e)) }
    gln := { s.gln with freeAt := shiftN e s.gln.freeAt, slices := s.gln.slices.map fun x => (x.1, shiftSlice e x.2) }
    cold := s.cold.map fun p => (shiftN e p.1, p.2.map (shiftN e))
    syncEv := s.syncEv.map fun p => (shiftN e p.1, shiftN e p.2)
    syncOut := s.syncOut.map (shiftN e)
    mks := s.mks.map fun x => (x.1, { x.2 with stop := shiftV e x.2.stop, lastEv := x.2.lastEv.map (shiftV e), lastDrv := x.2.lastDrv.map (shiftV e) })
    hdl := shiftHdl e s.hdl
    eth := { s.eth with sent := shiftN e s.eth.sent }
    sw := s.sw.map fun x => (x.1, shiftN e x.2)
    flt := shiftFlt e s.flt }

/-- The device is quiet (R495). -/
def quiet (s : Dev) : Bool :=
  (List.range 66).all (engStopped s)
    && !(((List.range 16).map (0x160 + ·) ++ (List.range 16).map (0x140 + ·) ++ (List.range 32).map (0x120 + ·)
      ++ (List.range 4).map (0x1A0 + ·) ++ (List.range 8).map (0x194 + ·)).any (blkActive s))

/-- TOD.STAT. -/
def todStat : Nat := A 6 0x88

/-- The difference of a followed time frame is applied or reported (R495). -/
def timeDiff (e : Int) (s : Dev) : Dev :=
  if fbit s todStat 31 then
    if e = 0 then s
    else
      let lim : Int := (2 ^ 31 : Nat)
      let v := if e < -lim then -lim else if e > lim - 1 then lim - 1 else e
      let s := incSat (A 6 0xD8) 0 32 1 (hit todStat 29 (wrN (A 6 0x8C) (uns v 32) s))
      raise 0xEC 0 (irqSet 6 2 s)
  else if quiet s then
    irqSet 6 1 (fset todStat 30 1 0 (fset todStat 31 1 1 (shiftTs e s)))
  else fset todStat 30 1 1 s

/-- A received TIME word, presented in mc `m` (R494, R495). On a TMASTER device the first word of a frame shows the conflict. The lowest origin heard
stays the one followed until the TOD page stops (DEDUCED, log entry 93). -/
def timeWord (m origin data dist : Nat) (sd : Bool) (s : Dev) : Dev :=
  if !running s 6 then s
  else if fbit s (A ringPage 0x80) 30 then onlyIf (bits data 18 2 == 0) (fun s => irqSet 6 16 (hit todStat 28 s)) s
  else if !fbit s (A 6 0x84) 31 then s
  else
    let low := match s.hdl.origin with
      | some o => decide (origin ≤ o)
      | none => true
    if !low then s
    else
      let seg := bits data 18 2
      let put := fun (r : Option TimeRx) (s : Dev) => { s with hdl := { s.hdl with origin := some origin, rx := r } }
      if sd then put none s
      else if seg = 0 then put (some { origin, next := 1, stamp := bits data 0 18, dist, at0 := m }) s
      else match s.hdl.rx with
        | none => put none s
        | some r =>
          if r.origin ≠ origin || r.next ≠ seg then put none s
          else
            let stamp := r.stamp + bits data 0 18 * 2 ^ (18 * seg)
            if seg < 3 then put (some { r with next := seg + 1, stamp }) s
            else
              let target : Int := (stamp % 2 ^ 64 : Nat) + (r.dist : Int) + sgn (fget s (A 6 0x84) 0 16) 16
              timeDiff (target - r.at0) (put none s)

/-- Mc from one time frame to the next (R494). -/
def timeEvery : Nat := 2 ^ 20

/-- The four TIME words of a frame taken from mc `t` on (R494). -/
def timeWords (t : Nat) (s : Dev) : Dev :=
  timeRelease { s with hdl := { s.hdl with timeQ := (List.range 4).map fun g =>
    { kind := 3, origin := hdlId s, data := g * 2 ^ 18 + bits t (18 * g) 18, take := t + g } } }

/-- A time frame is due: whole periods after the one before. -/
def timeDue (s : Dev) : Bool := s.hdl.timeTx.all fun t => decide (t < now s) && (now s - t) % timeEvery == 0

/-- TIME_FRAME (R494): four TIME words taken in successive mc. -/
def doTimeFrame (s : Dev) : Dev :=
  if !s.clk || !fbit s (A ringPage 0x80) 30 || !hdlMember s || !running s ringPage || !timeDue s then s
  else timeWords (now s) { s with hdl := { s.hdl with timeTx := some (now s) } }

/-- A device that is TMASTER or has SRC 0 holds LOCK at 1, and nothing is to be loaded (R495). -/
def holdLock (s : Dev) : Dev := if fbit s (A ringPage 0x80) 30 || !fbit s (A 6 0x84) 31 then fset todStat 30 2 2 s else s

/-- RELOAD (R495): LOCK clears, unless the device holds it. -/
def reloadTs (s : Dev) : Dev := if fbit s (A ringPage 0x80) 30 || !fbit s (A 6 0x84) 31 then s else fset todStat 31 1 0 s

/-- RELOAD. -/
def doReload (p : Path) (s : Dev) : Dev := onWrite p (A 6 0x80) reloadTs s

/-! ### Time of day (R496 to R498) -/

/-- SEC as TOD keeps it. -/
def setSec (n : Nat) (s : Dev) : Dev := wr64 (A 6 0x98) (n % 2 ^ 48) s

/-- The second boundary that an edge detected in the current mc marks (R496). -/
def ppsBound (s : Dev) : Int := (now s : Int) - sgn (rdN s (A 6 0xAC)) 32

/-- Boundary `b` lies within TOL of `x` (R496, R497). -/
def ppsNear (s : Dev) (b x : Int) : Bool := decide (b - x ≤ fget s (A 6 0x80) 0 16) && decide (x - b ≤ fget s (A 6 0x80) 0 16)

/-- The value SEC takes at the edge: an armed SEC_NEXT, the value it has when the second has just rolled by itself, or
one more (R496, R497). -/
def ppsSec (s : Dev) (b : Int) : Nat :=
  let rolled := match s.hdl.rolled with
    | some r => decide (r ≤ b) && decide (b - r ≤ fget s (A 6 0x80) 0 16)
    | none => false
  if fbit s todStat 25 then rd64 s (A 6 0xA4) else if rolled then todSec s else todSec s + 1

/-- The edge lies off the expected boundary (R497). -/
def ppsJumps (s : Dev) (b : Int) : Bool := !(ppsNear s b (s.hdl.bound + mcPerSec) || s.hdl.rolled.any (ppsNear s b))

/-- The second takes the edge at boundary `b`, with value `n` (R496, R497). -/
def ppsTake (b : Int) (n : Nat) (jump : Bool) (s : Dev) : Dev :=
  let s := fset todStat 27 1 1 (fset todStat 25 1 0 (setSec n s))
  let s := wr64 (A 6 0xCC) (n % 2 ^ 48) (wr64 (A 6 0xC4) (uns b 64) s)
  let s := { s with hdl := { s.hdl with bound := b, rolled := none } }
  onlyIf jump (fun s => irqSet 6 4 (incSat (A 6 0xD4) 0 32 1 (hit todStat 26 s))) s

/-- Second boundaries that edges have marked act in their own mc: at once, where that is past (R496). -/
def ppsAdvance (s : Dev) : Dev :=
  forAll ((s.hdl.ppsWait.filter fun x => x.2 ≤ (now s : Int)).map (·.2)) (fun b s => ppsTake b (ppsSec s b) (ppsJumps s b) s)
    { s with hdl := { s.hdl with ppsWait := s.hdl.ppsWait.filter fun x => !decide (x.2 ≤ (now s : Int)) } }

/-- PPS_EDGE (R496): an edge on PPS_IN is detected in the current mc. -/
def doPpsEdge (rising : Bool) (s : Dev) : Dev :=
  if !timeOn s || !fbit s (A 6 0x80) 29 || rising == fbit s (A 6 0x80) 28 || !running s 6 then s
  else ppsAdvance { s with hdl := { s.hdl with ppsWait := s.hdl.ppsWait ++ [((now s : Int), ppsBound s)], lastPps := some (now s) } }

/-! ### Received express words (R480 to R484, R494, R500 to R503) -/

/-- A TRIGGER word presented in mc `m` is used: its lines are applied TRIG_COMP − DIST mc later, or then and late (R500, R501). -/
def useTrigger (m data dist : Nat) (sd : Bool) (s : Dev) : Dev :=
  let comp := fget s (A ringPage 0x90) 0 16
  let x := if sd || decide (dist > comp) then (bits data 0 16, m, true) else (bits data 0 16, m + comp - dist, false)
  { s with hdl := { s.hdl with apps := s.hdl.apps ++ [x] } }

/-- A SYNC word presented in mc `m` is used: SYNC_RX, and the sync event when Headland is its source (R410, R503). -/
def useSync (m origin dist : Nat) (s : Dev) : Dev :=
  let s := wrN (A ringPage 0x94) (2 ^ 31 + origin * 2 ^ 16 + dist) s
  if running s 1 && fget s (A 1 0x100) 30 2 = 2 then syncArrive m false s else s

/-- A good express word presented in mc `m` is used here. -/
def useExpress (m kind origin data dist : Nat) (sd : Bool) (s : Dev) : Dev :=
  if kind = 1 then useSync m origin dist s
  else if kind = 2 then useTrigger m data dist sd s
  else timeWord m origin data dist sd s

/-- A good express word `v` that port `i` has received is presented in mc `m`: used, and forwarded (R481, R484). -/
def presentExp (i v m : Nat) (s : Dev) : Dev :=
  let kind := bits v 60 4
  let origin := bits v 50 10
  let (dist, sd) := distAdd (bits v 32 16) (fget s (A (portPage i) 0x88) 0 16) (bit v 49)
  if !hdlChain s && hdlMember s && origin = hdlId s then s
  else
    let s := useExpress m kind origin (bits v 8 20) dist sd s
    queueExp (if hdlChain s then otherPort i else 0) { kind, origin, satd := sd, dist, data := bits v 8 20, take := m, fwd := true } s

/-- The received words whose mc of presentation has come, in the order of their mc (R481). -/
def expAdvance (s : Dev) : Dev :=
  forAll (sortOn (·.2.2) (s.hdl.rxq.filter fun x => x.2.2 ≤ now s)) (fun x s => presentExp x.1 x.2.1 x.2.2 s)
    { s with hdl := { s.hdl with rxq := s.hdl.rxq.filter fun x => !decide (x.2.2 ≤ now s) } }

/-- What the Headland block does by itself by the start of the current mc: trigger inputs, express words received, TIME words and
second boundaries. -/
def trigAdvance (s : Dev) : Dev := ppsAdvance (timeRelease (expAdvance (forAll (s.hdl.tins.map (·.1)) tinAdvance s)))

/-- An edge that still waits for its boundary has come within PPS_TOL mc before `b` (R497). -/
def ppsHolds (s : Dev) (b : Int) : Bool := s.hdl.ppsWait.any fun x => decide (x.1 ≤ b) && decide (b - x.1 ≤ fget s (A 6 0x80) 0 16)

/-- SECOND_ROLL (R497). -/
def doSecondRoll (s : Dev) : Dev :=
  let b := s.hdl.bound + mcPerSec
  if timeOn s && decide (b ≤ now s) && !ppsHolds s b then
    setSec (todSec s + 1) { s with hdl := { s.hdl with bound := b, rolled := some b } }
  else s

/-- PPS_LOSS (R497). -/
def doPpsLoss (s : Dev) : Dev :=
  match s.hdl.lastPps with
  | some b => if timeOn s && fbit s todStat 27 && decide (b + 2 * mcPerSec ≤ now s) then irqSet 6 8 (fset todStat 27 1 0 s) else s
  | none => s

/-- MCS now (R496). -/
def todMcs (s : Dev) : Nat := ((now s : Int) - s.hdl.bound).toNat

/-- LATCH (R498). -/
def latchTod (s : Dev) : Dev := wrN (A 6 0xC0) (todMcs s) (wr64 (A 6 0xB8) (todSec s) (wr64 (A 6 0xB0) (now s) s))

/-- LATCH. -/
def doLatch (p : Path) (s : Dev) : Dev := onWrite p (A 6 0x80) latchTod s

/-- A write of SEC_NEXT_HI on path `p` arms SEC_NEXT (R496). -/
def armSecNext (p : Path) (v : Nat) (s : Dev) : Dev := fset todStat 25 1 1 (commitHi p (A 6 0xA4) v s)

/-- SEC_NEXT_ARM. -/
def doSecNextArm (p : Path) (v : Word) (s : Dev) : Dev := onWrite p (A 6 0xA8) (armSecNext p v.toNat) s

/-- A write of `v` on path `p` to page offset `o` of the TOD page. -/
def writeTod (p : Path) (o v : Nat) (s : Dev) : Dev :=
  if o = 0x80 then
    let s := plainWrite (A 6 o) v s
    let s := onlyIf (bit v 31) latchTod s
    onlyIf (bit v 30) reloadTs s
  else if o = 0x84 then holdLock (plainWrite (A 6 o) v s)
  else if o = 0xA4 then stageLo p (A 6 o) v s
  else if o = 0xA8 then armSecNext p v s
  else plainWrite (A 6 o) v s

/-! ### Remote page access, as its issuer (R506) -/

def rpaPage : Nat := 0x184

/-- The request in flight ends with `code` (R506). -/
def rpaEnd (code : Nat) (s : Dev) : Dev :=
  let a := A rpaPage 0x8C
  irqSet rpaPage 1 (fset a 27 3 code (hit a 30 (fset a 31 1 0 { s with hdl := { s.hdl with rpa := none } })))

/-- A write of `v` to RPA_CTL (R506): with GO a request leaves, or is refused with BAD_ARG. -/
def writeRpaCtl (v : Nat) (s : Dev) : Dev :=
  let a := A rpaPage 0x8C
  let dst := bits v 16 10
  let s := plainWrite (A rpaPage 0x80) v s
  if !bit v 31 then s
  else if s.hdl.rpa.isSome || !hdlMember s || dst = 0 || dst = hdlId s then fset a 27 3 6 s
  else
    let tag := s.hdl.rpaTag
    let wr' := bit v 30
    let arg := b2n wr' * 2 ^ 23 + fget s (A rpaPage 0x84) 2 20
    let frame := bulkFrame (bulkHdr 9 dst (hdlId s) tag 1 arg) [if wr' then rdN s (A rpaPage 0x88) else 0]
    let s := fset a 31 1 1 { s with hdl := { s.hdl with rpa := some (tag, now s + fget s (A rpaPage 0x90) 0 16 * 1600, !wr'), rpaTag := (tag + 1) % 256 } }
    originate frame s

/-- RPA_GO. -/
def doRpaGo (p : Path) (v : Word) (s : Dev) : Dev := onWrite p (A rpaPage 0x80) (fun s =>
  if running s rpaPage then writeRpaCtl (v.toNat ||| 0x80000000) s else plainWrite (A rpaPage 0x80) v.toNat s) s

/-- RPA_TIMEOUT (R506). -/
def doRpaTimeout (s : Dev) : Dev :=
  match s.hdl.rpa with
  | some (_, t, _) => if t ≤ now s then rpaEnd 2 s else s
  | none => s

/-! ### Result forwarding, as the sender (R508) -/

def resPage : Nat := 0x185

/-- The whole records of a class that wait from RD on: the lowest queue and its next record. -/
def classNext (s : Dev) (cls : Nat) : Option Nat :=
  (s.grn.queues.filter fun x => qClass x.2 == cls && x.2.en && x.2.rdp != x.2.commit).foldl
    (fun a x => match a with
      | some q => some (if x.1 < q then x.1 else q)
      | none => some x.1) none

/-- A consumer of the device's own takes the next record of queue `q`: its bytes, and RD past it (R429). -/
def consumeRec (q : Nat) (s : Dev) : List Byte × Dev :=
  let s := cacheLoad q s
  let y := getQ s q
  let (_, len, s) := recAt q y.rdp s
  let n := if len < 16 then 16 else len
  let (bs, s) := memRead .granary (posAddr y y.rdp) n s
  (bs, cacheSettle q (setQ q { y with rdp := (y.rdp + n / 16) % posM } s))

/-- 64-bit little-endian words of a byte string. -/
def toWords : Nat → List Byte → List Nat
  | 0, _ => []
  | n + 1, bs => if bs.isEmpty then [] else leNat (bs.take 8) :: toWords n (bs.drop 8)

/-- The RESULT frames of a record (R508). -/
def resFrames (dst src q : Nat) (bs : List Byte) : Nat → Nat → Nat → List (List Nat)
  | 0, _, _ => []
  | n + 1, i, tag =>
    let part := bs.drop (1024 * i)
    if part.isEmpty then []
    else
      let last := decide (part.length ≤ 1024)
      let ws := toWords 128 (part.take 1024)
      bulkFrame (bulkHdr 8 dst src tag ws.length (b2n (i == 0) * 2 ^ 23 + b2n last * 2 ^ 22 + q % 2 ^ 20)) ws
        :: resFrames dst src q bs n (i + 1) (tag + 1)

/-- The record `bs` is a PAD, which is passed over unsent. -/
def isPad (bs : List Byte) : Bool := leNat ((bs.drop 7).take 1) % 128 == 1

/-- The record `r.1` taken from queue `q` goes out as RESULT frames; a PAD record sends none (R508). -/
def resultFrames (q : Nat) (r : List Byte × Dev) : Dev :=
  let s := r.2
  if isPad r.1 then s
  else
    let fs := resFrames (fget s (A resPage 0x80) 16 10) (hdlId s) q r.1 (r.1.length / 1024 + 1) 0 s.hdl.resTag
    incSat (A resPage 0x88) 0 32 1 (forAll fs originate { s with hdl := { s.hdl with resTag := (s.hdl.resTag + fs.length) % 256 } })

/-- RESULT_FORWARD (R508): the next record of the lowest HDL queue that holds one is sent whole. -/
def doResultForward (s : Dev) : Dev :=
  if !running s resPage || !fbit s (A resPage 0x80) 31 || !domOn s 2 then s
  else match classNext s 2 with
    | none => s
    | some q => resultFrames q (consumeRec q s)

/-! ### Register writes, disabling and reset (R509, R510) -/

/-- Port page `i` stops: its queue is lost and it goes DOWN (R510). -/
def portDisable (i : Nat) (s : Dev) : Dev :=
  let up := portUp s i
  fset (A (portPage i) 0x84) 24 8 0 (setPortState i 0 (onlyIf up (portLoss i) s))

/-- Every TRIG_OUT is low, and no edge on its way is kept (R510; DEDUCED, log entry 92). -/
def trgDisable (s : Dev) : Dev :=
  let s := forAll (List.range 4) (fun i s => if (getTout s i).lvl != bit (toutCfg s i) 30 && bit (toutCfg s i) 31
    then emit (.trigOut i (nowVs s) false) s else s) s
  { s with hdl := { s.hdl with tins := s.hdl.tins.map fun x => (x.1, { lvl := (match x.2.pend with | some e => e.2 | none => x.2.lvl) }), touts := [] } }

/-- The trigger page becomes ACTIVE: each output takes its level (R505). -/
def trgEnable (s : Dev) : Dev :=
  forAll (List.range 4) (fun i s =>
    let s := setTout i (toutHeld s i 0 (toutCfg s i)) s
    onlyIf (toutBall s i) (emit (.trigOut i (nowVs s) true)) s) s

/-- The ring page stops: a walk in progress is given up, and BUSY clears (DESIGN CHOICE, log entry 91). -/
def ringDisable (s : Dev) : Dev := fset (A ringPage 0x88) 30 1 0 { s with hdl := { s.hdl with walk := 0, walkPort := none } }

end Sys2Proof.Machine
end

