-- ==== Sys2Proof/Machine/Ports.lean ====
section
/-! DEFINITION. DDR-5 errors and map-outs, the PCIe endpoint with BAR2 and MSI-X, the 10GBASE-R exporter and the
boot flash port (Memory and host ports). -/
namespace Sys2Proof.Machine

/-! ### DDR-5 memory (R516 to R525) -/

/-- The MEM page of channel `k`. -/
def memPage (k : Nat) : Nat := 0x188 + k
/-- MEM.STAT.STATE. -/
def memState (s : Dev) (k : Nat) : Nat := fget s (A (memPage k) 0x84) 30 2
/-- The channel is powered and UP. -/
def memUp (s : Dev) (k : Nat) : Bool := pageOn s (memPage k) && memState s k == 2

/-- A condition of R521 on channel `k`: it is mapped out, or it is reported when another channel already is (R521, R523). -/
def mapoutMem (k : Nat) (s : Dev) : Dev :=
  if !memUp s k then s
  else if (List.range 8).any fun j => memState s j == 3 then raise (0xE2 + k) 3 { s with ueT := mset (fun _ => []) k [] s.ueT }
  else
    let s := irqSet (memPage k) 4 (fset (A (memPage k) 0x84) 30 2 3 s)
    let s := { s with memOut := s.memOut.filter (· ≠ k) ++ [k], ueT := mset (fun _ => []) k [] s.ueT }
    raise (0xE2 + k) 1 (degMem k (setDegraded (memPage k) true s))

/-- Channels with 16 uncorrectable errors within an hour (R521). -/
def memWatch (s : Dev) : Dev :=
  forAll (s.ueT.filter fun x => x.2.length ≥ 16 && x.2.all fun t => s.opMc < t + mcPerHour) (fun x => mapoutMem x.1) s

/-- ERR_ADDR takes the address of the most recent error. -/
def errAddr (k a : Nat) (ue : Bool) (s : Dev) : Dev :=
  wrN (A (memPage k) 0x9C) (2 ^ 31 + b2n ue * 2 ^ 30 + bits a 32 16) (markSet (A (memPage k) 0x9C) (2 ^ 31) (wrN (A (memPage k) 0x98) a s))

/-- UNCORRECTABLE_ERROR (R519): an access at `a` returned one. -/
def doUncorrectableError (a : BitVec 48) (s : Dev) : Dev :=
  let k := memChannel s a.toNat
  if !memInside s a.toNat || !memUp s k then s
  else
    let s := { s with ueNow := (a.toNat / 64, now s) :: s.ueNow.filter fun e => e.2 == now s }
    raise (0xE2 + k) 0 (irqSet (memPage k) 2 (errAddr k a.toNat true (ueCount k s)))

/-- CORRECTED_ERROR (R519): its data is corrected and written back; the rate may cross CE_THR (Table 17-3). -/
def doCorrectedError (a : BitVec 48) (s : Dev) : Dev :=
  let k := memChannel s a.toNat
  if !memInside s a.toNat || !memUp s k then s
  else
    let s := errAddr k a.toNat false (incSat (A (memPage k) 0x8C) 0 32 1 s)
    let thr := fget s (A (memPage k) 0x94) 0 16
    let ts := (s.opMc :: (mget (fun _ => []) s.ceT k).filter fun t => s.opMc < t + mcPerHour)
    if thr ≠ 0 && ts.length ≥ thr then
      degBit 4 5 k true (irqSet (memPage k) 1 { s with ceT := mset (fun _ => []) k [] s.ceT })
    else { s with ceT := mset (fun _ => []) k ts s.ceT }

/-- PATROL_SCRUB (R520): the channel's scrubber reads the next 64 bytes and moves on. -/
def doPatrolScrub (k : Fin 8) (s : Dev) : Dev :=
  if !memUp s k || fget s (A (memPage k) 0xA0) 0 8 = 0 || s.resetting.contains (memPage k) then s
  else
    let n := (mget (fun _ => 0) s.scrub k + 64) % (fget s (A (memPage k) 0x88) 24 8 * 2 ^ 30)
    tagPass .service 0 64 { s with scrub := mset (fun _ => 0) k n s.scrub }

/-- MEM_THERMAL (R516): the DIMM sensor reads `temp` °C. -/
def doMemThermal (k : Fin 8) (temp : BitVec 8) (s : Dev) : Dev :=
  if !pageOn s (memPage k) || memState s k = 0 then s
  else
    let s := fset (A (memPage k) 0x84) 0 8 temp.toNat s
    if temp.toInt ≥ 95 then raise (0xE2 + k) 2 (irqSet (memPage k) 8 (hit (A (memPage k) 0x84) 29 s)) else s

/-- MEM_TRAINING_LOSS (R521): the channel could not retrain within 16,000 mc. -/
def doMemTrainingLoss (k : Fin 8) (s : Dev) : Dev := mapoutMem k s

/-- A write of MEM.CTL.RESTORE (R524). -/
def restoreMem (k : Nat) (s : Dev) : Dev :=
  hmkQueue 2 6 0 (leBytes 1 k) { s with memOut := s.memOut.filter (· ≠ k) }

/-- A write of `v` to MEM.CTL of channel `k`. -/
def writeMemCtl (k v : Nat) (s : Dev) : Dev :=
  onlyIf (bit v 30) (restoreMem k) (onlyIf (bit v 31) (mapoutMem k) s)

/-- MAPOUT. -/
def doMapout (p : Path) (k : Fin 8) (s : Dev) : Dev := onWrite p (A (memPage k) 0x80) (writeMemCtl k 0x80000000) s
/-- RESTORE. -/
def doRestore (p : Path) (k : Fin 8) (s : Dev) : Dev := onWrite p (A (memPage k) 0x80) (writeMemCtl k 0x40000000) s

/-- A block reset of MEM page `k` clears the counters, the error log and the scrubber's progress (R525). -/
def memReset (k : Nat) (s : Dev) : Dev :=
  { s with tagPeak := if k = 0 then 0 else s.tagPeak
           ueT := mset (fun _ => []) k [] s.ueT, ceT := mset (fun _ => []) k [] s.ceT, scrub := mset (fun _ => 0) k 0 s.scrub }

/-! ### The PCIe endpoint (R529 to R535) -/

def pciPage : Nat := 0x190

/-- A failed window access is recorded (R530). -/
def winErr (read : Bool) (cause : Nat) (s : Dev) : Dev :=
  irqSet pciPage 4 (if fbit s (A pciPage 0x8C) 31 then s else wrN (A pciPage 0x8C) (2 ^ 31 + b2n read * 2 ^ 30 + cause * 2 ^ 28) s)

/-- The DDR-5 address of BAR2 window offset `w`. -/
def winAddr (s : Dev) (w : Nat) : Nat := rd64 s (A pciPage 0x84) + w

/-- Some byte of a range lies in a mapped-out channel. -/
def rangeMapped (s : Dev) : Nat → Nat → Bool
  | _, 0 => false
  | a, n + 1 => memMappedOut s a || rangeMapped s (a + 1) n

/-- A read of `n` bytes from the memory window is carried out (R530). -/
def winReadNow (a n : Nat) (err : Bool) (s : Dev) : Dev :=
  let s := tagPass .host a n s
  if memCapacity s < a + n then emit (.win [] false true) (winErr true 1 (outCount a n s))
  else if rangeMapped s a n then emit (.win [] true false) (winErr true 3 s)
  else if err then emit (.win [] true false) (winErr true 2 s)
  else emit (.win (memBytes s a n) false false) s

/-- A write of bytes to the memory window is carried out (R530, R531). -/
def winWriteNow (a : Nat) (data : List Byte) (s : Dev) : Dev :=
  let n := data.length
  let s := if memCapacity s < a + n then winErr false 1 s else if rangeMapped s a n then winErr false 3 s else s
  memWrite .host a data s

/-- A host request of the memory window is carried out, or held with those before it on its channels (R525). -/
def hostReq (r : HostReq) (s : Dev) : Dev :=
  if memHolds s r.a (if r.write then r.data.length else r.n) then { s with pci := { s.pci with held := s.pci.held ++ [r] } }
  else if r.write then winWriteNow r.a r.data s
  else winReadNow r.a r.n r.err s

/-- The held requests whose channels have recalibrated are carried out in order (R525). -/
def hostRelease (s : Dev) : Dev := forAll s.pci.held hostReq { s with pci := { s.pci with held := [] } }

/-- A word of the MSI-X table or of the pending-bit array, as a BAR2 read sees it (Table 17-5). -/
def msixWord (s : Dev) (o : Nat) : Word :=
  if o < 0x408000 then mget msixDflt s.pci.table ((o - 0x400000) / 4)
  else w32 ((List.range 32).foldl (fun a j => a + b2n (mget (fun _ => false) s.pci.pba ((o - 0x408000) / 4 * 32 + j)) * 2 ^ j) 0)

/-- COMMIT of `n` queues from `q` on, as a read of their doorbells returns it (R427). -/
def commitBytes (q : Nat) : Nat → Dev → List Byte × Dev
  | 0, s => ([], s)
  | n + 1, s =>
    let ok := domOn s 2 && blkReady s grnPage
    let s := if ok then cacheGet q s else s
    let (bs, s') := commitBytes (q + 1) n s
    (leBytes 4 (if ok then (getQ s q).commit else 0) ++ bs, s')

/-- WINDOW_READ (R529, R530): the host reads `n` bytes at BAR2 offset `off`; `err` when memory returns an
uncorrectable error. -/
def doWindowRead (off : BitVec 36) (n : Fin 4097) (err : Bool) (s : Dev) : Dev :=
  let o := off.toNat
  if !hostOn s then s
  else if 2 ^ 35 ≤ o then hostReq { write := false, a := winAddr s (o - 2 ^ 35), n, err } s
  else if o < 0x400000 then
    let (bs, s) := commitBytes (o / 4) ((o + n + 3) / 4 - o / 4) s
    emit (.win ((bs.drop (o % 4)).take n) false false) s
  else if o + n ≤ 0x408100 then emit (.win ((List.range n).map fun i => BitVec.ofNat 8 (bits (msixWord s ((o + i) / 4 * 4)).toNat (8 * ((o + i) % 4)) 8)) false false) s
  else emit (.win [] false true) s

/-- Requests in flight that channel `k` has still to serve: a tile lies in every channel (R517, R521). -/
def memBusy (s : Dev) (k : Nat) : Bool :=
  s.fur.any fun x => !x.2.asked.isEmpty || (match wordAsked x.2 with
    | some i => memChannel s (wordAddr s x.1 i) == k
    | none => false)

/-- A write to the MSI-X table (R529). -/
def writeMsix (i : Nat) (v : Word) (s : Dev) : Dev := { s with pci := { s.pci with table := mset msixDflt i v s.pci.table } }

/-- WINDOW_WRITE (R529 to R531): the host writes bytes at BAR2 offset `off`. -/
def doWindowWrite (off : BitVec 36) (data : List Byte) (s : Dev) : Dev :=
  let o := off.toNat
  let n := data.length
  if !hostOn s then s
  else if 2 ^ 35 ≤ o then hostReq { write := true, a := winAddr s (o - 2 ^ 35), data } s
  else if o < 0x400000 then (if n % 4 = 0 && o % 4 = 0 then forAll (List.range (n / 4)) (fun i => doorbell (o / 4 + i) (leNat ((data.drop (4 * i)).take 4))) s else s)
  else if o + n ≤ 0x408000 then
    (if n % 4 = 0 && o % 4 = 0 then forAll (List.range (n / 4)) (fun i => writeMsix ((o - 0x400000) / 4 + i) (w32 (leNat ((data.drop (4 * i)).take 4)))) s else s)
  else s

/-- MSIX_PENDING_SEND (R533): a pending message goes once nothing stops it. -/
def doMsixPendingSend (vec : BitVec 11) (s : Dev) : Dev :=
  let v := vec.toNat
  if mget (fun _ => false) s.pci.pba v && !msixBlocked s v then
    msixSendNow v { s with pci := { s.pci with pba := mset (fun _ => false) v false s.pci.pba } }
  else s

/-- LINK_UP (R534): the link reaches L0 with a speed and a width; the configuration space that the host writes by its
own cycles gives Bus Master Enable and the MSI-X function mask. -/
def doLinkUp (speed : Fin 6) (width : Fin 9) (bme fmask : Bool) (s : Dev) : Dev :=
  if !domOn s 3 || speed.toNat = 0 || !(width.toNat == 1 || width.toNat == 2 || width.toNat == 4 || width.toNat == 8) then s
  else
    let was := fbit s (A pciPage 0x80) 0
    let s := wrN (A pciPage 0x80) (speed * 2 ^ 28 + width * 2 ^ 24 + 1) { s with pci := { s.pci with bme, fmask } }
    onlyIf (!was) (irqSet pciPage 1) s

/-- The window writes the device has taken and that wait for their tags; they are carried out whatever becomes of the link (R534). -/
def heldWrites (s : Dev) : List HostReq := s.pci.held.filter (·.write)

/-- The link is lost: no read is answered over it any more. -/
def pciDown (s : Dev) : Dev :=
  if fbit s (A pciPage 0x80) 0 then irqSet pciPage 2 (wrN (A pciPage 0x80) 0 { s with pci := { s.pci with held := heldWrites s } }) else s

/-- LINK_DOWN (R534). -/
def doLinkDown (s : Dev) : Dev := pciDown s

/-- The reset of the PCIe function (R534). -/
def pciFunReset (s : Dev) : Dev :=
  let x := getPath s .host
  setPath .host { x with claim := none, popWord := 0, stage := none } { s with pci := { held := heldWrites s } }

/-- FLR (R534). -/
def doFlr (s : Dev) : Dev := if hostOn s then pciFunReset s else s
/-- HOT_RESET (R534). -/
def doHotReset (s : Dev) : Dev := if hostOn s then pciFunReset s else s

/-- A wake source `src` requests wake: it is recorded in standby (R599). -/
def requestWake (src : Nat) (s : Dev) : Dev :=
  if s.standby ≠ 0 && s.wakeReq.isNone then { s with wakeReq := some src } else s

/-- PERST (R534, R599): PERST# falls, or rises. -/
def doPerst (rising : Bool) (s : Dev) : Dev :=
  if rising then onlyIf (fbit s (A 5 0x90) 31) (requestWake 2) s
  else pciFunReset (pciDown s)

/-! ### The 10GBASE-R exporter (R536 to R539) -/

def ethPage : Nat := 0x191

/-- The exporter may send (R537). -/
def ethOn (s : Dev) : Bool := running s ethPage && blkEn s ethPage && fbit s (A ethPage 0x88) 31

/-- The exporter finishes a frame in progress while it drains; with the link up it serves its queues. -/
def ethUdp (s : Dev) : Bool := fbit s (A ethPage 0x80) 31

/-- Bytes of an export payload after the export header (R538). -/
def ethRoom (s : Dev) : Nat := (if fbit s (A ethPage 0x80) 30 then 9000 else 1500) - 16 - (if ethUdp s then 28 else 0)

/-- Template byte `i`. -/
def tplByte (s : Dev) (i : Nat) : Byte := BitVec.ofNat 8 (fget s (A ethPage (0x100 + 4 * (i / 4))) (8 * (i % 4)) 8)

/-- The ones' complement sum of big-endian 16-bit words. -/
def ipSum : List Byte → Nat
  | a :: b :: rest => a.toNat * 256 + b.toNat + ipSum rest
  | [a] => a.toNat * 256
  | [] => 0

/-- The IPv4 checksum of header bytes whose checksum field is 0. -/
def ipChecksum (bs : List Byte) : Nat :=
  let x := ipSum bs
  let y := x % 65536 + x / 65536
  65535 - (y % 65536 + y / 65536)

/-- The frame that carries `pay`, without its FCS (R538). -/
def ethFrame (s : Dev) (pay : List Byte) : List Byte :=
  if !ethUdp s then (List.range 12).map (tplByte s) ++ beBytes 2 (fget s (A ethPage 0x80) 0 16) ++ pay
  else
    let t := (List.range 42).map (tplByte s)
    let ip := (t.drop 14).take 2 ++ beBytes 2 (28 + pay.length) ++ beBytes 2 s.eth.ident ++ (t.drop 20).take 4 ++ zeros 2 ++ (t.drop 26).take 8
    t.take 14 ++ ip.take 10 ++ beBytes 2 (ipChecksum ip) ++ ip.drop 12 ++ (t.drop 34).take 4 ++ beBytes 2 (8 + pay.length) ++ zeros 2 ++ pay

/-- The export header (Table 17-7). -/
def ethHdr (s : Dev) (kind : Nat) (last : Bool) (q n : Nat) : List Byte :=
  leBytes 1 1 ++ leBytes 1 (kind * 16 + b2n last * 8) ++ leBytes 2 (hdlId s) ++ leBytes 4 (q % 2 ^ 20) ++ leBytes 4 s.eth.fseq ++ leBytes 4 n

/-- A frame with `body` after its export header leaves. -/
def ethSend (kind : Nat) (last : Bool) (q n : Nat) (body : List Byte) (s : Dev) : Dev :=
  let f := ethFrame s (ethHdr s kind last q n ++ body)
  let s := wrN (A ethPage 0x8C) (rdN s (A ethPage 0x8C) + 1) (emit (.eth f) s)
  { s with eth := { s.eth with fseq := (s.eth.fseq + 1) % 2 ^ 32, ident := (s.eth.ident + 1) % 65536, sent := now s } }

/-- The whole records from RD of queue `q` that fit in `room` bytes, PADs passed over: their bytes and count. -/
def ethTake (q : Nat) : Nat → Nat → Dev → List Byte × Nat × Dev
  | 0, _, s => ([], 0, s)
  | n + 1, room, s =>
    let y := getQ s q
    if y.rdp = y.commit then ([], 0, s)
    else
      let (t, len, s) := recAt q y.rdp s
      if t = 1 then ethTake q n room (consumeRec q s).2
      else if len > room || len < 16 then ([], 0, s)
      else
        let (bs, s) := consumeRec q s
        let (more, k, s) := ethTake q n (room - len) s
        (bs ++ more, k + 1, s)

/-- The ETH queues with records, ascending. -/
def ethQueues (s : Dev) : List Nat := (s.grn.queues.filter fun x => qClass x.2 == 1 && x.2.en && x.2.rdp != x.2.commit).map (·.1)

/-- The bytes already sent of the record at RD of queue `q`, 0 where no fragment of it has left. -/
def ethOff (s : Dev) (q : Nat) : Nat := match s.eth.frags.find? fun x => x.1 == q && x.2.1 == (getQ s q).rdp with
  | some x => x.2.2
  | none => 0

/-- The part of the record at RD of queue `q` from byte `off` on that one frame takes; RD passes the record with its last
part (R537). -/
def ethPart (q off : Nat) (s : Dev) : Dev :=
  let room := ethRoom s
  let y := getQ s q
  let (_, len, s) := recAt q y.rdp s
  let (bs, s) := memRead .granary (posAddr y y.rdp + off) (min room (len - off)) s
  let last := decide (len ≤ off + room)
  let s := ethSend 1 last q off bs s
  let others := s.eth.frags.filter (·.1 != q)
  if last then { (consumeRec q s).2 with eth := { s.eth with frags := others, last := some q } }
  else { s with eth := { s.eth with frags := (q, y.rdp, off + bs.length) :: others, last := some q } }

/-- The queue whose turn it is (R537). -/
def ethNext (s : Dev) : Option Nat :=
  ((match s.eth.last with
    | some l => (ethQueues s).filter (· > l)
    | none => ethQueues s) ++ ethQueues s).head?

/-- A frame of whole records of queue `q`, or the next part of a record that does not fit in one (R537). -/
def ethFrom (q : Nat) (s : Dev) : Dev :=
  let s := cacheLoad q s
  if ethOff s q ≠ 0 then ethPart q (ethOff s q) s
  else
  let (bs, k, s) := ethTake q 4096 (ethRoom s) s
  if k ≠ 0 then { (ethSend 0 false q k bs s) with eth := { (ethSend 0 false q k bs s).eth with last := some q } }
  else if (getQ s q).rdp = (getQ s q).commit then s else ethPart q 0 s

/-- ETH_FRAME_SEND (R537, R538): the next frame of the queue whose turn it is; the turn passes on after each frame, within a record
too (DEDUCED, log entry 113). -/
def doEthFrameSend (s : Dev) : Dev :=
  if !ethOn s || !domOn s 2 then s
  else match ethNext s with
    | some q => ethFrom q s
    | none => s

/-- HEARTBEAT (R539): an idle item of the lowest enabled ETH queue. -/
def doHeartbeat (s : Dev) : Dev :=
  let ms := fget s (A ethPage 0x84) 0 16
  if !ethOn s || ms = 0 || now s < s.eth.sent + ms * 1600000 then s
  else match (s.grn.queues.filter fun x => qClass x.2 == 1 && x.2.en).head? with
    | none => s
    | some (q, y) => ethSend 0 false q 1 (header 1 2 0 0 (qSite q) 16 y.seq (now s)) s

/-- ETH_RX_DROP (R536). -/
def doEthRxDrop (s : Dev) : Dev := if pageOn s ethPage then incSat (A ethPage 0x90) 0 32 1 s else s

/-- ETH_LINK_UP (R537). -/
def doEthLinkUp (s : Dev) : Dev :=
  if !pageOn s ethPage || fbit s (A ethPage 0x88) 31 then s else irqSet ethPage 1 (fset (A ethPage 0x88) 31 1 1 s)
/-- ETH_LINK_DOWN (R537). -/
def doEthLinkDown (s : Dev) : Dev :=
  if fbit s (A ethPage 0x88) 31 then irqSet ethPage 2 (fset (A ethPage 0x88) 31 1 0 s) else s

/-- ETH_MODULE_CHANGE (R536): the levels of MOD_ABS and TX_FAULT. -/
def doEthModuleChange (modAbs txFault : Bool) (s : Dev) : Dev :=
  if !pageOn s ethPage then s
  else
    let a := A ethPage 0x88
    let old := fget s a 29 2
    let s' := fset a 29 1 (b2n txFault) (fset a 30 1 (b2n (!modAbs)) s)
    let s' := if fget s' a 29 2 = old then s' else irqSet ethPage 4 s'
    onlyIf (txFault && !fbit s a 29) (raise 0xF0 0) s'

/-- The exporter starts: FSEQ counts from 0 (Table 17-7). -/
def ethEnable (s : Dev) : Dev :=
  let (w, s) := freshWord s
  emit (.pin .txDisable false) { s with eth := { fseq := 0, ident := w.toNat % 65536, sent := now s } }

/-- A write of `v` on path `p` to page offset `o` of the ETH page (R539). -/
def writeEth (p : Path) (o v : Nat) (s : Dev) : Dev :=
  if (o = 0x80 || o ≥ 0x100) && blkEn s ethPage then refused p (A ethPage o) s else plainWrite (A ethPage o) v s

/-! ### The boot flash (R542, R543) -/

def xspPage : Nat := 0x193

/-- One byte of the flash. -/
def flashByte (s : Dev) (a : Nat) : Byte := mget flashDflt s.flash a
/-- Bytes of the flash. -/
def flashBytes (s : Dev) : Nat → Nat → List Byte
  | _, 0 => []
  | a, n + 1 => flashByte s a :: flashBytes s (a + 1) n
/-- Bytes put into the flash from `a` on. -/
def flashPuts : Nat → List Byte → Dev → Dev
  | _, [], s => s
  | a, b :: bs, s => flashPuts (a + 1) bs { s with flash := mset flashDflt a b s.flash }

/-- The flash's size in bytes. -/
def flashSize (s : Dev) : Nat := 2 ^ fget s (A xspPage 0x80) 16 5

/-- A GO is refused with `cause` (R543). -/
def xspErr (cause : Nat) (s : Dev) : Dev := fset (A xspPage 0x8C) 28 2 cause (hit (A xspPage 0x8C) 30 s)

/-- A write of `v` to XSP.CMD (R543). The causes of a refused GO are looked at in the order write-protected, then the others; the
reserved OP starts nothing, and neither does a GO while the block is READY and not ACTIVE, or drains (R67; DESIGN CHOICE,
log entry 95). -/
def writeXspCmd (v : Nat) (s : Dev) : Dev :=
  let op := bits v 28 2
  let len := bits v 0 8 + 1
  let s' := plainWrite (A xspPage 0x84) v s
  if !bit v 31 then s'
  else if (op = 1 || op = 2) && !fbit s (A xspPage 0x90) 31 then xspErr 1 s'
  else if !blkReady s xspPage || s.xsp.isSome || fget s (A xspPage 0x88) 0 28 + len > flashSize s then xspErr 3 s'
  else if op = 3 || !running s xspPage then s'
  else fset (A xspPage 0x84) 30 1 1 { s' with xsp := some (op, fget s (A xspPage 0x88) 0 28, len) }

/-- FLASH_READ. -/
def doFlashRead (p : Path) (len : BitVec 8) (s : Dev) : Dev := onWrite p (A xspPage 0x84) (writeXspCmd (2 ^ 31 + len.toNat)) s
/-- PROGRAM. -/
def doProgram (p : Path) (len : BitVec 8) (s : Dev) : Dev := onWrite p (A xspPage 0x84) (writeXspCmd (2 ^ 31 + 2 ^ 28 + len.toNat)) s
/-- ERASE. -/
def doErase (p : Path) (s : Dev) : Dev := onWrite p (A xspPage 0x84) (writeXspCmd (2 ^ 31 + 2 ^ 29)) s

/-- BUF as bytes. -/
def xspBuf (s : Dev) (n : Nat) : List Byte := ((List.range 64).flatMap fun i => leBytes 4 (rdN s (A xspPage (0x100 + 4 * i)))).take n

/-- Bytes of a read go to BUF; the bytes of BUF behind them stay. -/
def putBuf (bs : List Byte) (s : Dev) : Dev :=
  let all := bs ++ (xspBuf s 256).drop bs.length
  forAll (List.range 64) (fun i => wrN (A xspPage (0x100 + 4 * i)) (leNat ((all.drop (4 * i)).take 4))) s

/-- Flash bytes that a command leaves undefined take free values. -/
def flashFree : Nat → Nat → Dev → Dev
  | _, 0, s => s
  | a, n + 1, s =>
    let (w, s) := freshWord s
    flashFree (a + 1) n { s with flash := mset flashDflt a (w.setWidth 8) s.flash }

/-- The flash after a PROGRAM or an ERASE that was cut off or failed: the bytes it was to change are free values (R543; DESIGN CHOICE,
log entry 112, for one that failed). -/
def flashTorn (op a n : Nat) (s : Dev) : Dev :=
  if op = 1 then flashFree a n s else if op = 2 then flashFree (a / 65536 * 65536) 65536 s else s

/-- `n` free bytes. -/
def freeBytes (n : Nat) (s : Dev) : List Byte × Dev :=
  ((List.range n).map fun i => BitVec.ofNat 8 (Config.freeWord (s.freeCtr + i)).toNat, { s with freeCtr := s.freeCtr + n })

/-- XSP_COMPLETE (R543): the command ends; `err` when the flash reports an error: BUF of a READ then holds free bytes (DESIGN CHOICE,
log entry 112). -/
def doXspComplete (err : Bool) (s : Dev) : Dev :=
  match s.xsp with
  | none => s
  | some (op, a, n) =>
    let s := fset (A xspPage 0x84) 30 1 0 { s with xsp := none }
    let s := if err then raise 0xF1 0 (xspErr 2 (if op = 0 then putBuf (freeBytes n s).1 (freeBytes n s).2 else flashTorn op a n s))
      else match op with
        | 0 => putBuf (flashBytes s a n) s
        | 1 => flashPuts a (xspBuf s n) s
        | _ => { s with flash := s.flash.filter fun e => e.1 / 65536 != a / 65536 }
    irqSet xspPage 1 (hit (A xspPage 0x8C) 31 s)

/-- The command in progress ends with the XSP block, and XSP_WP# falls with WE (R543). -/
def xspReset (s : Dev) : Dev :=
  let s := onlyIf (fbit s (A xspPage 0x90) 31) (emit (.pin .xspWpN false)) s
  match s.xsp with
  | some (op, a, n) => flashTorn op a n { s with xsp := none }
  | none => s

/-- A write of PROT: XSP_WP# is low while WE is 0 (R543). -/
def writeXspProt (v : Nat) (s : Dev) : Dev :=
  let t := plainWrite (A xspPage 0x90) v s
  let we := fbit t (A xspPage 0x90) 31
  if we = fbit s (A xspPage 0x90) 31 then t else emit (.pin .xspWpN we) t

end Sys2Proof.Machine
end

