-- ==== Sys2Proof/Machine/Sense.lean ====
section
/-! DEFINITION. Sense transitions as they reach the reflex rules, the Gleaner and the time-interval meters (R83, R154, R278, R343). -/
namespace Sys2Proof.Machine

/-- A report `r` of lane `l`, whose report before it was of state `old`, reaches the rules, in the mc in which it counts as
occurring, the Gleaner, and the meters and the deskew engine, at the crossing that began it. -/
def senseTell (l : Nat) (old : SState) (r : SRep) (s : Dev) : Dev :=
  dskSense l r.u r.st <| timSense l r.u old r.st (glnSense l r.t (r.m / 1024) r.st (reflexChange l (r.m / 1024) old r.st s))

/-- Reports of lane `l` with the state reported before each, which begins as `old`. -/
def withOld (l : Nat) : SState → List SRep → List (Nat × SState × SRep)
  | _, [] => []
  | old, r :: rs => (l, old, r) :: withOld l r.st rs

/-- The decoders of the lanes in `xs` become as given, and their reports come in the order in which they count as occurring
(R162). -/
def senseUpdate (xs : List (Nat × Lane × List SRep)) (s : Dev) : Dev :=
  let rs := sortOn (fun (r : Nat × SState × SRep) => r.2.2.m) (xs.flatMap fun x => withOld x.1 (lastRep (getLane s x.1)) x.2.2)
  let s := forAll xs (fun x s => setLane x.1 x.2.1 s) s
  forAll (xs.map (·.1)) cutLane (forAll rs (fun r => senseTell r.1 r.2.1 r.2.2) s)

/-- Every decoder that holds a step or waits on a stay in M, at time `t` (R83, R156, R278). -/
def senseAll (t : Nat) (s : Dev) : Dev :=
  senseUpdate ((s.lanes.filter fun x => x.2.mSince.isSome || x.2.held.isSome).map fun x => (x.1, senseTo t (mqual s x.1) x.2)) s

/-- The decoders at the start of the current mc. -/
def senseAdvance (s : Dev) : Dev := senseAll (nowVs s) s

/-- SENSE_TRANSITION (R83): V_SL of lane `l` crosses into `st` at `vs` of the current mc. -/
def doSenseTransition (l : LaneId) (vs : BitVec 10) (st : SState) (s : Dev) : Dev :=
  if !domOn s (4 + l / 64) then s
  else
    let t := nowVs s + vs.toNat
    let s := senseAll t s
    senseUpdate [(l.toNat, senseChange t (mqual s l) st (getLane s l))] s

end Sys2Proof.Machine
end

