-- ==== Sys2Proof/Machine/Tick.lean ====
section
/-! DEFINITION. The row tick and the field tick, the field period, the map of furrows to engines, and the loss of
lock of the main PLL (Architecture; Row timing and edge placement; Furrow programs). -/
namespace Sys2Proof.Machine

/-! ### Row tick (R117, R175, R182, R24) -/

/-- The marker event `ev` of logical furrow `f`, at time `t`, reaches every consumer that is routed to it (R175). -/
def markerEvent (f ev t : Nat) (s : Dev) : Dev :=
  let at' := fun (c lo : Nat) => bits c 16 6 == f && bits c lo 2 == ev
  let s := logEv 5 (4 * f + ev) t (timMarker f ev t s)
  let s := mkBy 1 (some (fetchMc t)) t (fun c => bits c 16 6 == f && evIn c ev) s
  let s := rmpTrigs 1 (t / 1024) (fun c => at' c 12) s
  toutBy 3 (t / 1024) (fun c => bits c 20 6 == f && bits c 18 2 == ev) (raiseBy 2 (t / 1024) (fun c => at' c 12) s)

/-- Compares of row `k` of engine `m`, which starts at time `t`, on parked lanes are masked (R111, R112). -/
def maskParked (m k t : Nat) (s : Dev) : Dev :=
  let f := getFur s m
  let parked := fun l => histAt (getLane s l).parkHist (getLane s l).parked t
  setFur m { f with issued := f.issued.map fun r => if r.k = k then
    { r with ticked := true, strobes := r.strobes.map fun x => { x with masked := x.masked || parked x.lane } } else r } s

/-- The start of row `r` on engine `m`: a write of a bank's EN reaches its lanes (R33, R112), the latch clears of the
boundary and of the row act, and its marker event and its drills' boundary come. The lanes move with the placed events. -/
def tickRow (m : Nat) (r : Row) (s : Dev) : Dev :=
  let f := getFur s m
  let s := branchClears m (r.t / 1024) (maskParked m r.k r.t (forAll f.slots (fun l => parksDue l r.t (some r.k)) s))
  let s := match r.clr with
    | some (reg, v) => setClears m reg v (r.t / 1024 * 1024) s
    | none => s
  let n := logical s m
  let s := onlyIf (r.mkEv != 0 && n < 64) (markerEvent n r.mkEv r.t) s
  drlRow n r.k r.t s

/-- ROW_TICK (R117): the next row of the engine's yoke whose start lies in the current mc, or earlier, starts. -/
def doRowTick (e : Eng) (s : Dev) : Dev :=
  forAll (yokeEngs s (leadOf s e)) (fun m s =>
    match (getFur s m).issued.find? fun r => !r.ticked with
    | some r => if r.t < nextMcVs s then tickRow m r s else s
    | none => s) s

/-! ### Field tick (R35 to R37) -/

/-- The field period in mc. -/
def fieldMcs (s : Dev) : Nat := fget s (A 0 0x80) 16 7 * 1600

/-- The field snapshot of engine `e`: rows whose tick fell by now, and STAT (R37). -/
def furField (e : Nat) (s : Dev) : Dev :=
  let ahead := ((getFur s e).issued.filter fun r => nextMcVs s ≤ r.t).length
  wrN (fa e 0xF8) (fget s (fa e 0x84) 0 23) (wr64 (fa e 0xF0) (rd64 s (fa e 0xB8) - ahead) s)

/-- Every field snapshot (R37); blocks without power take none. -/
def fieldSnapshots (s : Dev) : Dev :=
  let s := forAll ((List.range 66).filter fun e => pageOn s (furPage e)) furField s
  let s := forAll ((List.range 64).filter fun f => pageOn s (glnPage f)) glnField s
  let s := forAll ((List.range 64).filter fun c => pageOn s (acqPage c)) acqField s
  forAll ((List.range 16).filter fun k => pageOn s (timPage k)) timField s

/-- FIELD_TICK (R35 to R37, R455): in an mc whose TS is a multiple of the period, at least 1,600 mc after the
previous tick. -/
def doFieldTick (s : Dev) : Dev :=
  let soon := match s.fieldMc with
    | some m => decide (now s < m + 1600)
    | none => false
  if !s.clk || fieldMcs s = 0 || now s % fieldMcs s ≠ 0 || soon then s
  else
    let s := { s with fieldMc := some (now s) }
    let s := wr64 (A 0 0x8C) (now s) (wr64 (A 0 0x84) (rd64 s (A 0 0x84) + 1) s)
    let s := fset (A 0 0x80) 16 7 (fget s (A 0 0x80) 0 7) s
    flwTick (fieldSnapshots s)

/-- A write of CHIP.FIELD_CFG (R36, Table 01-7). -/
def writeFieldCfg (v : Nat) (s : Dev) : Dev :=
  let s := onlyIf (bit v 31) (clrHit (A 0 0x80) 31) s
  if bits v 0 7 = 0 || bits v 0 7 > 100 then hit (A 0 0x80) 31 s else fset (A 0 0x80) 0 7 (bits v 0 7) s

/-- FIELD_CFG_WRITE. -/
def doFieldCfgWrite (p : Path) (v : Word) (s : Dev) : Dev := onWrite p (A 0 0x80) (writeFieldCfg v.toNat) s

/-! ### The map of furrows to engines (R165) -/

/-- A FUR page shows degraded operation while its engine is mapped out, or is a spare in use (R587). -/
def engDegraded (e : Nat) (s : Dev) : Dev :=
  setDegraded (furPage e) (engMapout s e || (decide (64 ≤ e) && logical s e != 0x7F)) s

/-- A write of MAP with LOGICAL `n` on engine `e` is refused (R165). -/
def mapRefusedFur (s : Dev) (e n : Nat) : Bool :=
  (64 ≤ n && n ≤ 126) || !engStopped s e || (n < 64 && !furStopped s n)

/-- A write of `v` to FUR.MAP: LOGICAL under R165, MAPOUT while LOGICAL reads 0x7F. -/
def writeMap (e v : Nat) (s : Dev) : Dev :=
  let n := bits v 0 7
  if mapRefusedFur s e n then serr e 1 s
  else
    let free := logical s e == 0x7F
    let old := if n < 64 then engOf s n else none
    let s := match old with
      | some o => fset (fa o 0x90) 0 7 0x7F s
      | none => s
    let s := fset (fa e 0x90) 0 7 n s
    let s := if free then fset (fa e 0x90) 31 1 (bits v 31 1) s else s
    let s := match old with
      | some o => engDegraded o s
      | none => s
    forAll (ownedLanes s n) idlePark (degEngines e (engDegraded e s))

/-- MAP_WRITE. -/
def doMapWrite (p : Path) (e : Eng) (v : Word) (s : Dev) : Dev := onWrite p (fa e 0x90) (writeMap e v.toNat) s

/-! ### The main PLL (R30, R492) -/

/-- MAIN_PLL_UNLOCK: MAIN_LOCK falls, WARM falls with it, and source MAIN_PLL occurs. -/
def doMainPllUnlock (s : Dev) : Dev :=
  if !s.clk || !fbit s refStat 26 then s
  else raise 1 0 (setWarm false (fset refStat 26 1 0 { s with hdl := { s.hdl with lockFrom := none } }))

end Sys2Proof.Machine
end

