-- ==== Sys2Proof/Machine/Blk.lean ====
section
/-! DEFINITION. Enabling, draining, resetting and freezing a block, in the common header and as each block's
chapter states (Register pages; R105, R112, R163, R172, R296, R337, R366, R385, R400, R445, R446, R473, R510, R521,
R525, R533, R535, R537, R543). -/
namespace Sys2Proof.Machine

/-! ### Enabling (R66) -/

/-- The EN of bank `b`'s configuration page has changed: its lanes park, or leave park, from the first row fetched
later, those of no running owner at once (R33, R112). -/
def bankEn (b : Nat) (park : Bool) (s : Dev) : Dev :=
  forAll (bankLanes b) (fun l s =>
    match engOf s (owner s l) with
    | some e => if furState s e = 3 then setLane l { getLane s l with parks := (getLane s l).parks ++ [(nextFetched s e, park)] } s else reparkNow l s
    | none => reparkNow l s) s

/-- What a block does when it becomes ACTIVE. -/
def blkStart (p : Nat) (s : Dev) : Dev :=
  match pageKind p with
  | some .bankCfg => bankEn ((p - 0x40) / 4) false s
  | some .fec => fecEnable (p - 0x194) s
  | some .fen => fenEnable p s
  | some .eth => ethEnable s
  | some .jes => jesEnable (p - 0x1A0) s
  | some .hdlPort => portTrain (p - 0x181) 0 s
  | some .hdlTrig => trgEnable s
  | _ => s

/-- A block with EN and READY at 1 that is not ACTIVE starts (R66). -/
def blkRise (p : Nat) (s : Dev) : Dev :=
  if blkEn s p && blkReady s p && !blkActive s p && !s.resetting.contains p then blkStart p (fset (A p 0xC) 0 1 1 s) else s

/-- READY of page `p` becomes `b` (R66); the lanes of a bank follow its READY at once (Table 03-9). -/
def setReady (p : Nat) (b : Bool) (s : Dev) : Dev :=
  let s := blkRise p (fset (A p 0xC) 2 1 (b2n b) s)
  match pageKind p with
  | some .bankCfg => forAll (bankLanes ((p - 0x40) / 4)) reparkNow s
  | _ => s

/-! ### Draining (R67) -/

/-- The furrow engine's drain: a run is stopped with CAUSE 0b110 (R172). -/
def furDrain (e : Nat) (s : Dev) : Dev := furStop e 6 s

/-- The configuration page of bank `b` is disabled: its lanes park, and its holds end (R112). -/
def bankDrain (b : Nat) (s : Dev) : Dev := endBankHolds b (bankEn b true s)

/-- What a block does when its EN goes from 1 to 0 while ACTIVE. -/
def blkDrainStart (p : Nat) (s : Dev) : Dev :=
  match pageKind p with
  | some .bankCfg => bankDrain ((p - 0x40) / 4) s
  | some .bankRfx =>
    let b := (p - 0x40) / 4
    endBankHolds b s
  | some .fur => furDrain (p - 0x80) s
  | some .gln | some .glnH => glnDrain p s
  | some .acq => acqDrain p s
  | some .tim | some .tim0 => timDrain p s
  | some .fen => fenDisable p s
  | some .drl => stopDrl (p - 0x160) s
  | some .grn => grnDrain s
  | some .hdlPort => portDisable (p - 0x181) s
  | some .hdlTrig => trgDisable s
  | some .hdlRing => ringDisable s
  | some .tod => { s with hdl := { s.hdl with rx := none, origin := none } }
  | some .hdlRes => { s with hdl := { s.hdl with resIn := [] } }
  | some .hdlRpa => if s.hdl.rpa.isSome then rpaEnd 5 s else s
  | some .eth => emit (.pin .txDisable true) s
  | some .fec => fecDrain (p - 0x194) s
  | some .jes => jesDown (p - 0x1A0) s
  | _ => s

/-- The drain of page `p` began in an earlier mc. -/
def drainOld (s : Dev) (p : Nat) : Bool := bit (mget regReset s.mcRegs (A p 0xC)).toNat 1

/-- The work in flight of a draining block is finished; some blocks are idle in the next mc (R163, R385, R400, R510,
R535). -/
def blkIdle (s : Dev) (p : Nat) : Bool :=
  match pageKind p with
  | some .bankCfg => (bankLanes ((p - 0x40) / 4)).all fun l => (getLane s l).parks.isEmpty
  | some .bankRfx =>
    let b := (p - 0x40) / 4
    drainOld s p && (List.range 16).all fun r => !(getHold s (16 * b + r)).active || holdOver (getHold s (16 * b + r)) (now s)
  | some .bankCal => (getCal s ((p - 0x40) / 4)).dsk.isNone
  | some .fur => engStopped s (p - 0x80)
  | some .gln | some .glnH => glnIdle s p
  | some .acq => acqIdle s p
  | some .tim | some .tim0 => timIdle s p
  | some .rmp => rmpState s (p - 0x158) != 1
  | some .mem | some .mem0 => !memBusy s (p - 0x188)
  | some .grn => s.grn.intake.isEmpty
  | some .flw => flwIdle s
  | some .fec => fecIdle s (p - 0x194)
  | some .xsp => s.xsp.isNone
  | some .fen | some .drl | some .hdlPort | some .pci => drainOld s p
  | _ => true

/-- DRAIN_DONE: DRAINING and ACTIVE clear in the same mc, and IRQ_STAT.DRAINED sets (R67); a DDR-5 channel is then mapped out
(R521). -/
def doDrainDone (pg : Page) (s : Dev) : Dev :=
  let p := pg.toNat
  if pageOn s p && blkDraining s p && !s.resetting.contains p && blkIdle s p
  then
    let s := irqSet p 0x40000000 (fset (A p 0xC) 0 2 0 s)
    match pageKind p with
    | some .mem | some .mem0 => mapoutMem (p - 0x188) s
    | some .grn => grnDrained s
    | _ => s
  else s

/-! ### Block reset (R70 to R72) -/

/-- The run of logical furrow `f`, whose engine's page is reset, ends for its slice after the last row it has taken;
issued rows not taken count in UNSEEN (R172). -/
def cutRun (f n : Nat) (s : Dev) : Dev :=
  if f ≥ 64 then s
  else
    let s := inc64 (ga f 0x60) n s
    let s := onlyIf (!(getSl s f).snapK.isEmpty) (fun s => snapSl f (setSl f { getSl s f with snapK := [] } s)) s
    if !(getSl s f).run || (getSl s f).done then s
    else if !blkActive s (glnPage f) then setSl f { getSl s f with run := false, done := true } s
    else
      let s := setSl f { getSl (closeAll f 3 4 (endUnits s f) s) f with run := false, done := true } (closeAll f 3 4 (endUnits s f) s)
      showSl f (if !isMember s f && bit (eff s f 0) 27 then summary f true s else s)

/-- The rows of engine `e` that are at the transmit stage, and the end of the last of them, or now (Table 01-2). -/
def sentRows (s : Dev) (e : Nat) : List Row := (getFur s e).issued.filter fun r => now s < r.t / 1024 && r.t / 1024 ≤ now s + 3
def cutEnd (s : Dev) (e : Nat) : Nat := ((sentRows s e).map fun r => r.t + r.len).foldl max (nowVs s)

/-- The lanes of a furrow that is cut off park at once, but rows already at the transmit stage complete at the balls, and
the lanes park at their end (R172, Table 01-2; DEDUCED, log entry 73). -/
def cutLanes (e : Nat) (s : Dev) : Dev :=
  let f := getFur s e
  let sent := sentRows s e
  let t := cutEnd s e
  forAll f.slots (fun l s =>
    let kept := (getLane s l).evs.filter fun x => sent.any fun r => r.k == x.row
    let s := haltPark l (nowVs s) (parksDue l (nowVs s) none s)
    let s := setLane l { getLane s l with evs := kept } s
    if sent.isEmpty then s else haltPark l t s) s

/-- The run of engine `m` is cut off; its drills end theirs with the last row that completes (R398). -/
def cutFur (m : Nat) (s : Dev) : Dev :=
  let n := if furState s m = 3 then rd64 s (fa m 0xB8) - (getFur s m).taken else 0
  cutLanes m (drlFurStopped (logical s m) (cutEnd s m) (cutRun (logical s m) n s))

/-- A block reset of the FUR page of engine `e`: its run is cut off and it enters IDLE; its yoke stops (R172, R201). -/
def furReset' (e : Nat) (s : Dev) : Dev :=
  let l := leadOf s e
  let rest := (yokeEngs s l).filter (· ≠ e)
  let s := if engStopped s e then s
    else if e = l then forAll rest (fun m s => enterStopped m 4 5 (furState s m == 3) (cutFur m s)) s
    else if furState s l = 3 then setFur l { getFur s l with stop := some ((match (getFur s l).stop with | some x => x.1 | none => now s), 5), pend := [] } s
    else forAll rest (fun m s => enterStopped m 4 5 false s) s
  let s := if engStopped s e then cutLanes e s else cutFur e s
  let slots := (getFur s e).slots
  let s := lanesFree slots (setFur e {} (fset (fa e 0x84) 16 3 0 s))
  forAll ((ownedLanes s (logical s e)).filter fun x => !slots.contains x) idlePark s

/-- What a block reset of page `p` discards and sets, before its registers take their reset values. -/
def blkDiscard (p : Nat) (s : Dev) : Dev :=
  match pageKind p with
  | some .bankCfg =>
    let b := (p - 0x40) / 4
    endBankHolds b (if fbit s (A p 0x80) 8 then s else setCal b { getCal s b with openEn := some (now s) } s)
  | some .bankRfx => endBankHolds ((p - 0x40) / 4) (forAll (List.range 16) (fun r => fset (rfxCfg ((p - 0x40) / 4) r) 31 1 0) s)
  | some .bankCal =>
    let b := (p - 0x40) / 4
    dskEnd b (match (getCal s b).dsk with
      | some d => forAll (d.todo.take 1) (fun l => settle l (nowVs s)) s
      | none => s)
  | some .fur => furReset' (p - 0x80) s
  | some .gln | some .glnH => glnReset p s
  | some .acq => acqReset p s
  | some .tim | some .tim0 => timReset p s
  | some .fen => fenReset p s
  | some .drl => drlReset p s
  | some .grn => grnReset s
  | some .grnPop => { s with paths := s.paths.map fun x => (x.1, { x.2 with claim := none, popWord := 0, popLast := 0, popUnder := false, popRefused := false }) }
  | some .flw => flwReset s
  | some .hdlPort => portDisable (p - 0x181) s
  | some .hdlTrig => trgDisable s
  | some .hdlRing => ringDisable s
  | some .tod => { s with hdl := { s.hdl with rx := none, origin := none, ppsWait := [] } }
  | some .hdlRpa => { s with hdl := { s.hdl with rpa := none } }
  | some .hdlRes => { s with hdl := { s.hdl with resIn := [] } }
  | some .mem | some .mem0 => memReset (p - 0x188) s
  | some .eth => emit (.pin .txDisable true) { s with eth := {} }
  | some .smb => { s with smb := {} }
  | some .xsp => xspReset s
  | some .fec => fecReset (p - 0x194) s
  | some .jes => setJes (p - 0x1A0) { sysHigh := (getJes s (p - 0x1A0)).sysHigh } (jesDown (p - 0x1A0) s)
  | _ => s

/-- What a block reset of page `p` sets once its registers have their reset values. -/
def blkAfter (p : Nat) (s : Dev) : Dev :=
  match pageKind p with
  | some .bankCfg => forAll (bankLanes ((p - 0x40) / 4)) reparkNow (fset (A p 0x88) 31 1 0 s)
  | some .rmp => rmpReset p s
  | some .tim | some .tim0 => showCal (p - 0x140) (showLent (p - 0x140) s)
  | _ => s

/-- A block register that a block reset keeps (Table 02-13): the registers its chapter marks; of the generator's
registers all but X, Y, Z, XS, YS, D and G (R245); DIMM and CHANNELS of a MEM page, which hold what the boot found; HEALTH of a lane with
the conditions that it shows, which no reset of its page repairs (DESIGN CHOICE, log entry 105). -/
def resetKeeps (k : PageKind) (o : Nat) : Bool :=
  if o < 0x80 then o == 0 || o == 4 || o == 0x14 || (0x1C ≤ o && o < 0x30)
  else if k = .fur && 0x800 ≤ o && o < 0x900 then !([0, 1, 2, 3, 4, 14, 15, 22, 23].contains ((o - 0x800) / 4))
  else if (k = .mem || k = .mem0) && (o == 0x88 || o == 0xC4) then true
  else match (rowsOf k).find? (fun r => r.hits o) with
    | some r => r.kept
    | none => false

/-- The bits of a register that stay where a block reset resets the rest of it, as offset and mask: the reference as it stands in
REF_STAT, and LOCK of the TOD page (R510); the map-out state and the temperature in a MEM page's STAT (R525);
the levels that ETH.STAT shows (R536). -/
def resetParts (k : PageKind) : List (Nat × Nat) :=
  match k with
  | .time => [(0x80, 0x30000000), (0x84, 0xFC000000)]
  | .tod => [(0x88, 0x80000000)]
  | .mem | .mem0 => [(0x84, 0xC00000FF)]
  | .eth => [(0x88, 0xE0000000)]
  | _ => []

/-- Staged writes of every path for page `p` are discarded (R57, Table 02-13). -/
def dropStages (p : Nat) (s : Dev) : Dev :=
  { s with paths := s.paths.map fun x => (x.1, { x.2 with
      stage := match x.2.stage with | some (a, v) => if a / 0x1000 = p then none else some (a, v) | none => none
      per := match x.2.per with | some y => if furPage y.1 = p then none else some y | none => none
      edge := match x.2.edge with | some y => if tsPage y.1 = p then none else some y | none => none
      list := if 0x160 ≤ p && p < 0x170 then mdrop (fun i => i / 4 == p - 0x160) x.2.list else x.2.list }) }

/-- BLK_STAT of page `p` once its reset begins: not ACTIVE, not DRAINING; READY as before, but for the Granary, whose
table is to be set up anew (R446); FAULT and DEGRADED as the conditions that they show still hold. -/
def resetStat (k : PageKind) (old : Nat) : Nat := if k = .grn then old &&& 0x18 else old &&& 0x1C

/-- A block reset of page `p` begins (R70 to R72). -/
def blkReset (p : Nat) (s : Dev) : Dev :=
  match pageKind p with
  | none => s
  | some k =>
    if !pageOn s p then s
    else
      let s := blkDiscard p s
      let st := resetStat k (rdN s (A p 0xC))
      let old := (resetParts k).map fun x => (x.1, x.2, rdN s (A p x.1) &&& x.2)
      let s := dropStages p (dropPage p (resetKeeps k) s)
      let s := wrN (A p 0xC) st (if enFixed k then s else wrN (A p 8) 0 s)
      let s := forAll old (fun x s => wrN (A p x.1) (rdN s (A p x.1) - (rdN s (A p x.1) &&& x.2.1) + x.2.2) s) s
      blkAfter p { s with resetting := s.resetting.filter (· ≠ p) ++ [p], frozen := if fbit s (A 0 8) 2 then s.frozen else s.frozen.filter (· ≠ p) }

/-- BLOCK_RESET_DONE (R70): the reset of the page completes, the requests that a DDR-5 channel has held go on (R525), and a shadow that waits for it starts its EXTRA (R570). -/
def doBlockResetDone (pg : Page) (s : Dev) : Dev :=
  let p := pg.toNat
  if !s.resetting.contains p then s
  else
    let s := { s with resetting := s.resetting.filter (· ≠ p) }
    let overs := fun (x : Shadow) => if x.page == some p && x.closeAt.isNone then { x with closeAt := some (now s + fget s (A 2 0xD8) 0 16) } else x
    hostRelease { s with flt := { s.flt with shadows := s.flt.shadows.map overs } }

/-! ### EN (R66 to R68) -/

/-- A write of EN on page `p`. A JES page refuses EN = 1 under R302; a TIM channel that a deskew engine holds takes
none (R135). -/
def writeEn (p : Nat) (v : Bool) (s : Dev) : Dev :=
  match pageKind p with
  | none => s
  | some k =>
    if enFixed k then s
    else if v then
      if blkDraining s p || blkEn s p || (0x140 ≤ p && p < 0x150 && timLent s (p - 0x140)) then s
      else if k = .jes && jesErr (jesWould s (p - 0x1A0)) ≠ 0 then
        irqSet p 16 (recordErr (A p 0xAC) (jesErr (jesWould s (p - 0x1A0))) 0 s)
      else blkRise p (fset (A p 8) 0 1 1 s)
    else if !blkEn s p then s
    else if blkActive s p then blkDrainStart p (fset (A p 0xC) 1 1 1 (fset (A p 8) 0 1 0 s))
    else fset (A p 8) 0 1 0 s

end Sys2Proof.Machine
end

