-- ==== Sys2Proof/Machine/FltTab.lean ====
section
/-! DEFINITION. The table of fault sources and their classes, and the fault collector's own access to a source's
evidence (Faults, Quench and the Hallmark record, Tables 18-1 and 18-2). -/
namespace Sys2Proof.Machine

/-- The register page of source `i`, none for a reserved ID (Table 18-1). -/
def srcPage (i : Nat) : Option Nat :=
  if i = 0 then none
  else if i ≤ 0x0E then some 0
  else if i < 0x14 then none
  else if i < 0x34 then some ([calPage ((i - 0x14) / 4), cfgPage ((i - 0x14) / 4), fecPage ((i - 0x14) / 4), tsPage ((i - 0x14) / 4)].getD (i % 4) 0)
  else if i < 0x76 then some (0x80 + (i - 0x34))
  else if i < 0x96 then some (0x100 + (i - 0x76))
  else if i < 0xB6 then some (0x120 + (i - 0x96))
  else if i < 0xBA then some (0x1A0 + (i - 0xB6))
  else if i < 0xCA then some (0x140 + (i - 0xBA))
  else if i < 0xE2 then some (0x150 + (i - 0xCA) / 3)
  else if i < 0xEA then some (0x188 + (i - 0xE2))
  else if i < 0xF4 then some ([0x181, 0x182, 6, 0x170, 0x178, 0x190, 0x191, 0x193, 4, 3].getD (i - 0xEA) 0)
  else if i < 0xF8 then some 7
  else if i = 0xFF then some 2
  else none

/-- The class of source `i`: 0 CORRECTED, 1 RECOVERABLE, 2 BLOCK, 3 DEVICE, 4 SAFETY (Table 18-1). -/
def srcClass (i : Nat) : Nat :=
  if i ≤ 0x0E then [0, 4, 3, 3, 2, 1, 1, 4, 4, 3, 0, 2, 3, 3, 3].getD i 0
  else if i < 0x34 then (if i % 4 = 2 then 1 else 2)
  else if i < 0xB6 then 2
  else if i < 0xCA then 1
  else if i < 0xE2 then 4
  else if i < 0xEA then 2
  else if i = 0xEE then 2
  else if i = 0xF2 || i = 0xF3 then 3
  else if 0xF4 ≤ i && i < 0xF8 then 3
  else 1

/-- Source `i` is of the LEVEL kind (R545, Table 18-1). -/
def srcLevel (i : Nat) : Bool :=
  [1, 2, 3, 4, 6, 7, 8, 9, 0xE, 0xF0, 0xFF].contains i || (0x14 ≤ i && i < 0x34 && i % 4 == 1) || (0xBA ≤ i && i < 0xE2)

/-- REACT after reset, by class (Table 18-2). -/
def classReact (c : Nat) : Nat := [0, 1, 3, 0x13, 0x31].getD c 0

/-- The reactions that cannot be removed (R547, R548). -/
def srcForced (i : Nat) : Nat := if srcClass i = 4 then 0x20 else 0

def getSrc (s : Dev) (i : Nat) : SrcSt := mget (fun _ => {}) s.flt.srcs i
def setSrc (i : Nat) (x : SrcSt) (s : Dev) : Dev := { s with flt := { s.flt with srcs := mset (fun _ => {}) i x s.flt.srcs } }

/-- REACT in force for source `i` (R548). -/
def srcReact (s : Dev) (i : Nat) : Nat := (getSrc s i).react.getD (classReact (srcClass i)) ||| srcForced i

/-- JOURNAL of source `i` (R559). -/
def srcJournal (s : Dev) (i : Nat) : Bool := (getSrc s i).journal.getD (decide (srcClass i ≥ 3))

/-- LIVE of source `i` (R545). -/
def srcLive (s : Dev) (i : Nat) : Bool := srcLevel i && !(getSrc s i).live.isEmpty

/-- The word of the source window at page offset `o` for source `i`; a reserved ID reads 0 (Table 18-9). -/
def srcWindow (s : Dev) (i o : Nat) : Nat :=
  let x := getSrc s i
  if (srcPage i).isNone then 0
  else if o = 0x84 then srcClass i * 2 ^ 29 + b2n (srcLevel i) * 2 ^ 28 + b2n (srcJournal s i) * 2 ^ 27 + srcForced i * 2 ^ 16 + srcReact s i
  else if o = 0x88 then b2n x.sticky * 2 ^ 31 + b2n (srcLive s i) * 2 ^ 30 + b2n x.transient * 2 ^ 29 + b2n x.conseq * 2 ^ 28
    + b2n x.prereset * 2 ^ 27 + x.parent * 2 ^ 8
  else if o = 0x8C then x.count
  else if o = 0x90 then x.first % 2 ^ 32
  else if o = 0x94 then x.first / 2 ^ 32
  else if o = 0x98 then x.last % 2 ^ 32
  else if o = 0x9C then x.last / 2 ^ 32
  else 0

/-- Mc on the clock that runs: TS, or the AON oscillator's cycles of 40 ns (R386). -/
def aT (s : Dev) : Nat := if s.clk then now s else s.aonT * 64

/-- The earlier opened of two shadows; in one mc that of the lower opener (R573). -/
def earlier (a b : Shadow) : Shadow := if b.t0 < a.t0 || (b.t0 == a.t0 && b.opener < a.opener) then b else a

/-- The earliest opened of a list of shadows. -/
def earliest : List Shadow → Option Shadow
  | [] => none
  | x :: xs => some (xs.foldl earlier x)

/-- SHADOW as it reads (Table 18-9). -/
def shadowReg (s : Dev) : Nat :=
  fget s (A 2 0xD8) 0 16 + (match earliest s.flt.shadows with
    | some x => 2 ^ 31 + x.opener * 2 ^ 16
    | none => 0)

end Sys2Proof.Machine
end

