-- ==== Sys2Proof/Machine/Peek.lean ====
section
/-! DEFINITION. The live value of every register: the stored one, or the one that its block computes, without
the side effects of a read. -/
namespace Sys2Proof.Machine

/-- Word `w` of the Hallmark slot that HMK.RD_IDX names. -/
def hmkWord (nv : Nv) (i w : Nat) : Nat := leNat (((mget (fun _ => []) nv.slots i).drop (4 * w)).take 4)

/-- A commit is in progress: the engine has scanned the store and a record waits (R578, R579). -/
def hmkBusy (s : Dev) : Bool := fbit s (A 3 0x80) 31 && !s.hmk.queue.isEmpty

/-- FUSE_STAT as the fuses show it (Table 19-13). -/
def fuseStat (nv : Nv) : Nat :=
  2 ^ 31 + nv.arb * 2 ^ 8 + (List.range 4).foldl (fun a k => a + (mget (fun _ => {}) nv.owners k : OwnerSlot).status * 4 ^ k) 0

/-- What boot has loaded from fuses and certificate store is readable once SEC is READY (R65, R604). -/
def secLoaded (s : Dev) : Bool := blkReady s 4

/-- The live value of the register at page offset `o` of page `p` that computes its own, none where the stored
value is the register's. SMB.CFG.ADDR shows the straps, and SMB is READY, from State.reset on: the SMBus target answers as
soon as the AON domain does (DESIGN CHOICE, log entry 102). -/
def computed (nv : Nv) (path : Path) (k : PageKind) (p o : Nat) (s : Dev) : Option Nat :=
  match k with
  | .bankTs => if 0x100 ≤ o && o < 0xF00 then
      some (tsWord s (64 * ((p - 0x41) / 4) + fget s (A p 0x80) 0 6) ((o - 0x100) / 28) ((o - 0x100) % 28 / 4)).toNat else none
  | .bankCal => if 0x100 ≤ o && o < 0x200 then
      some (if fget s (A p 0xC0) 0 7 < 66 && blkReady s p then
        coefAt ((p - 0x42) / 4) (fget s (A p 0xC0) 0 7) (mget (fun _ => 0) (getCal s ((p - 0x42) / 4)).swaps (fget s (A p 0xC0) 0 7)) ((o - 0x100) / 4) else 0)
    else if o = 0x84 then some (putBits (rdN s (A p o)) 30 1 (b2n (calPend s ((p - 0x42) / 4)))) else none
  | .fur =>
    if o = 0x214 then some (admTotal s)
    else if o = 0x218 then some (admLimit s)
    else if 0xA00 ≤ o && o < 0xB00 then some (mget (fun _ => 0) s.ovl (((p - 0x80) * 8 + fget s (A p 0x904) 0 3) * 64 + (o - 0xA00) / 4) : Word).toNat
    else none
  | .acq =>
    if o = 0x104 || o = 0x504 then
      some (rdN s (A p o) / 2 ^ 13 * 2 ^ 13 + acqFill (getAcq s (2 * (p - 0x120) + o / 0x504)))
    else if o = 0x138 || o = 0x538 then
      some (mget (fun _ => 0) s.acq.env (envKey s (2 * (p - 0x120) + o / 0x538)) : BitVec 16).toNat
    else none
  | .rmp => if o = 0x94 then some (rdN (rmpNow (p - 0x158) s) (A p o)) else none
  | .fen => if 0x100 ≤ o && o < 0x400 && o % 0x100 ≥ 0x14 then
      let f := 3 * (p - 0x150) + o / 0x100 - 1
      let s := fenNow f s
      some (rdN s (A p o) ||| (if o % 0x100 = 0x14 && (getFen s f).outAt == some (fenT s) then 2 ^ 31 else 0))
    else none
  | .drl => if 0xB4 ≤ o && o < 0xC4 then some (listWord s (p - 0x160) (fget s (A p 0xB0) 0 12) ((o - 0xB4) / 4)) else none
  | .grn =>
    if 0xA0 ≤ o && o < 0xC0 then some (winWord s ((o - 0xA0) / 4))
    else if o = 0x98 then some (fget s (A p o) 16 16 * 2 ^ 16 + heldEntries s)
    else none
  | .grnPop => if o = 0x84 then some (getPath s path).popLast.toNat else some (popReg s path o)
  | .fec => if o = 0x88 then some (rspRead (p - 0x194) s).1.toNat else none
  | .time => if o = 0x84 then some (rdN s (A p o) / 2 ^ 16 * 2 ^ 16 + warmQual s) else none
  | .tod =>
    if o = 0x90 then some (now s % 2 ^ 32)
    else if o = 0x94 then some (now s / 2 ^ 32)
    else if o = 0xA0 then some (todMcs s)
    else none
  | .flt => if 0x84 ≤ o && o < 0xA0 then some (srcWindow s (fget s (A 2 0x80) 0 8) o) else if o = 0xD8 then some (shadowReg s) else none
  | .mem0 => if o = 0xC0 then some (max s.tagPeak (tagsNow s) * 2 ^ 16 + tagsNow s) else none
  | .hmk =>
    if 0x100 ≤ o && o < 0x200 then some (hmkWord nv (fget s (A 3 0xC0) 0 13) ((o - 0x100) / 4))
    else if o = 0x80 then some (putBits (rdN s (A p o)) 30 1 (b2n (hmkBusy s)))
    else none
  | .pwr => if o = 0x88 then some (putBits (rdN s (A p o)) 0 1 1) else none
  | .smb => if o = 0x80 then some (rdN s (A p o) / 2 ^ 31 * 2 ^ 31 + 0x58 + (Config.loaded (A p o)).toNat % 4) else none
  | .sec =>
    if !secLoaded s then none
    else if o = 0x80 then some (fuseStat nv)
    else if o = 0xA0 then some ((Config.loaded (A 4 0xA0)).toNat % 1025)
    else if 0x600 ≤ o && o < 0xA00 then some (Config.certWord Config.serial ((o - 0x600) / 4)).toNat
    else none
  | _ => none

/-- The live value of the register at BAR0 offset `a`; SRST of a page in reset reads 1 (Table 02-5). -/
def peek (nv : Nv) (path : Path) (a : Nat) (s : Dev) : Word :=
  match pageKind (a / 0x1000) with
  | none => 0
  | some k =>
    if a % 0x1000 = 8 && s.resetting.contains (a / 0x1000) then w32 (rdN s a ||| 2)
    else if a % 0x1000 < 0x80 then rd s a
    else match computed nv path k (a / 0x1000) (a % 0x1000) s with
      | some v => w32 v
      | none => rd s a

end Sys2Proof.Machine
end

