-- ==== Sys2Proof/Machine/Fault.lean ====
section
/-! DEFINITION. The fault collector: evidence, reaction shadows, reactions, ERR#, Quench and its release, and the
registers of the FLT page (Faults, Quench and the Hallmark record). -/
namespace Sys2Proof.Machine

/-! ### Evidence (R544, R545, R549 to R551) -/

/-- The REACT bits that have acted and the pages whose EVT_COUNT has gained for the occurrences of mc `d`. -/
def actedAt (s : Dev) (d : Nat) : Nat × List Nat :=
  match s.flt.acted with
  | some (t, m, ps) => if t = d then (m, ps) else (0, [])
  | none => (0, [])

/-- Reactions `m` have acted, and the pages `ps` have counted, for mc `d`. -/
def setActed (d m : Nat) (ps : List Nat) (s : Dev) : Dev :=
  { s with flt := { s.flt with acted := some (d, (actedAt s d).1 ||| m, ((actedAt s d).2 ++ ps).eraseDups) } }

/-- The earliest shadow open in mc `d` that holds source `i`; it holds the mc after that of its opening, up to the end of its
EXTRA (R554, R570 to R573). -/
def holding (s : Dev) (i d : Nat) : Option Shadow :=
  if srcClass i = 4 then none
  else earliest (s.flt.shadows.filter fun x => x.scope.contains i && (x.t0 < d || !s.clk) && x.closeAt.all fun t => decide (d ≤ t))

/-- Source `i`, held by shadow `h`, is consequential (R571). -/
def consequential (i : Nat) (h : Shadow) (s : Dev) : Dev :=
  let x := getSrc s i
  let s := setSrc i { x with conseq := true, parent := if x.conseq then x.parent else h.opener } s
  let add := fun (y : Shadow) => if y = h then
    { y with heldIds := (y.heldIds ++ [i]).eraseDups, heldN := y.heldN + 1 } else y
  { s with flt := { s.flt with shadows := s.flt.shadows.map add } }

/-- STICKY of a source stays set where hardware sets it in the mc `d` of a W1C (R17, R549). -/
def stickyKept (d : Nat) (x : SrcSt) : SrcSt :=
  match x.undo with
  | some (t, tr, co, pr, pa) =>
    if t = d && !x.sticky then { x with sticky := true, transient := tr, conseq := co, prereset := pr, parent := pa, undo := none } else x
  | none => x

/-- Source `i` occurs in mc `d` with cause bits `mask` for resources `res`: its evidence; true when the occurrence is primary. Times
are TS while the master clock runs. -/
def occur (d i mask : Nat) (res : List Nat) (prim : Bool) (s : Dev) : Bool × Dev :=
  match srcPage i with
  | none => (false, s)
  | some p =>
    if !pageOn s p then (false, s)
    else
      let x := stickyKept d (getSrc s i)
      let ts := if s.clk then d else now s
      let again := x.sticky && !x.prereset && x.last == d && s.clk
      let s := setActed d 0 [p] (faultCause p mask ts (!(actedAt s d).2.contains p) s)
      let live := if srcLevel i then (x.live ++ res).eraseDups else []
      if again then (false, setSrc i { x with live, cause := x.cause ||| mask, looked := false } s)
      else
        let s := setSrc i { x with live, cause := mask, looked := false, sticky := true, count := sat (x.count + 1) m32, last := ts,
                                   first := if x.sticky then x.first else ts } s
        match (if prim then none else holding s i d) with
        | some h => (false, consequential i h s)
        | none => (true, s)

/-- LIVE of source `i` has fallen (R551). -/
def liveFell (i : Nat) (s : Dev) : Dev :=
  let x := getSrc s i
  setSrc i { x with live := [], transient := x.transient || (x.sticky && !x.looked) } s

/-- The resources of source `i` that are in its condition, for the sources whose condition the state holds. -/
def liveNow (s : Dev) (i : Nat) : List Nat :=
  if 0x14 ≤ i && i < 0x34 then (getSrc s i).live.filter fun l => (getLane s l).ioFail
  else if 0xBA ≤ i && i < 0xCA then (if calLock (getTim s (i - 0xBA)) then [] else [0])
  else if 0xCA ≤ i && i < 0xE2 then (if fenLive s (i - 0xCA) then [0] else [])
  else if i = 8 then (getSrc s i).live.filter (domOn s)
  else if i = 0xF0 then (if fbit s (A ethPage 0x88) 29 then [0] else [])
  else if i = 0xFF then (if fbit s (A 2 0xE0) 30 || s.flt.pulse == some (aT s) then [0] else [])
  else (getSrc s i).live

/-- LIVE of SOFT falls with the mc of INJECT.PULSE (R551, Table 18-9). -/
def softFall (s : Dev) : Dev := if srcLive s 0xFF && (liveNow s 0xFF).isEmpty then liveFell 0xFF s else s

/-- LIVE of every source follows its condition; a domain that is off shows none. -/
def liveSync (s : Dev) : Dev :=
  forAll ((s.flt.srcs.filter fun e => !e.2.live.isEmpty).map (·.1)) (fun i s =>
    let now := if (srcPage i).any (pageOn s) then liveNow s i else []
    if now.isEmpty then liveFell i s else setSrc i { getSrc s i with live := now } s) s

/-! ### Fault records (R559, R575) -/

/-- The second of operation. -/
def opSecond (s : Dev) : Nat := s.opMc / mcPerSec

/-- A primary occurrence of source `i` places its Granary FAULT record, or is counted (R575). -/
def granaryFault (i : Nat) (s : Dev) : Dev :=
  let x := getSrc s i
  if !fbit s (A 2 0xE4) 31 || x.recTick == some (fieldCount s) then setSrc i { x with unrec := sat (x.unrec + 1) m32 } s
  else
    let s := setSrc i { x with recTick := some (fieldCount s), unrec := 0 } s
    fltRecord 0x40 (leBytes 1 i ++ leBytes 1 (srcClass i) ++ leBytes 1 (srcReact s i) ++ leBytes 1 (b2n (srcLive s i)) ++ leBytes 4 x.count
      ++ leBytes 8 x.last ++ leBytes 4 (rdN s (A ((srcPage i).getD 0) 0x1C)) ++ leBytes 4 x.unrec) s

/-- The words at 0x080 to 0x0FC of page `p`. -/
def pageWords (nv : Nv) (p : Nat) (s : Dev) : List Byte :=
  (List.range 32).flatMap fun w => leBytes 4 (peek nv .svc0 (A p (0x80 + 4 * w)) s).toNat

/-- A primary occurrence of source `i` queues its Hallmark FAULT record, or is counted (R559, R581). -/
def hallmarkFault (nv : Nv) (i : Nat) (s : Dev) : Dev :=
  let x := getSrc s i
  let p := (srcPage i).getD 0
  let r := srcReact s i
  if !srcJournal s i || x.jSec == some (opSecond s) then setSrc i { x with unj := sat (x.unj + 1) m32 } s
  else
    let s := setSrc i { x with jSec := some (opSecond s), unj := 0 } s
    hmkQueue (if bit r 5 || bit r 3 then 1 else 4) 1 i
      (leBytes 1 i ++ leBytes 1 (srcClass i) ++ leBytes 1 r ++ leBytes 1 (b2n (srcLive s i)) ++ leBytes 4 x.count ++ leBytes 8 x.first
        ++ leBytes 4 (rdN s (A p 0x1C)) ++ leBytes 4 x.unj ++ leBytes 4 (rdN s (A 2 0xC8)) ++ leBytes 4 (rdN s (A 2 0xE8)) ++ pageWords nv p s) s

/-! ### Quench (R563 to R569) -/

/-- The records of a Quench entry, or of a release in mc `t` (R563, R567, Tables 18-5 and 18-7). -/
def quenchRecords (release : Bool) (t : Nat) (s : Dev) : Dev :=
  let first := fget s (A 2 0xC8) 0 8
  let q := rd64 s (A 2 0xCC)
  hmkQueue 2 5 0 (leBytes 1 (b2n release) ++ leBytes 1 first ++ zeros 2 ++ leBytes 4 (rdN s (A 3 0xA0)) ++ leBytes 8 q ++ leBytes 8 t)
    (fltRecord 0x42 (leBytes 1 (b2n release) ++ leBytes 1 first ++ zeros 2 ++ leBytes 4 (rdN s (A 2 0xD4)) ++ leBytes 8 q ++ leBytes 8 t) s)

/-- The FEC sources of every bank: what a Quench shadow holds (Table 18-4). -/
def fecSources : List Nat := (List.range 8).map fun b => 0x16 + 4 * b

/-- The registers of a Quench entry by source `i` (R563, R569). -/
def quenchRegs (i : Nat) (s : Dev) : Dev :=
  let s := wr64 (A 2 0xCC) (if s.clk then (getSrc s i).last else 0) (fset (A 2 0xC8) 0 8 i (fset (A 2 0xC8) 31 1 1 s))
  irqSet 2 2 (incSat (A 3 0xA0) 0 32 1 (incSat (A 2 0xD4) 0 32 1 s))

/-- Quench entered by source `i` is on its way to the lanes and to QUENCH#, and is complete no later than 16 mc on, 28 mc for a
fence, from the mc of the occurrence: a free value says when they take it (R379, R564, log entry 71). Without the master clock
they take it at once. -/
def quenchOn (i : Nat) (s : Dev) : Dev :=
  if s.clk then
    let n := if 0xCA ≤ i && i < 0xE2 then 28 else 16
    { s with flt := { s.flt with quenchPend := true, quenchMc := (getSrc s i).last + (Config.freeWord s.freeCtr).toNat % n }, freeCtr := s.freeCtr + 1 }
  else quenchPark (nowVs s) { s with flt := { s.flt with quenchMc := now s } }

/-- FUR_STOP and FLW_STOP act at the entry (R565). -/
def quenchStops (s : Dev) : Dev :=
  let s := onlyIf (fbit s (A 2 0xC8) 28) (forAll (List.range 66) fun e s => if engStopped s e then s else furStop e 2 s) s
  onlyIf (fbit s (A 2 0xC8) 27) (writeEn 0x178 false) s

/-- Opens a shadow. -/
def openShadow (x : Shadow) (s : Dev) : Dev := { s with flt := { s.flt with shadows := s.flt.shadows ++ [x] } }

/-- Quench is entered in mc `d` by source `i` once its registers are set: records, stops, pins, and its shadow (R563 to R565). -/
def quenchEnter (d i : Nat) (s : Dev) : Dev :=
  quenchOn i (quenchStops (openShadow { opener := i, page := none, t0 := d, scope := fecSources } (quenchRecords false 0 s)))

/-- REL_ERR (R566). -/
def relErr (s : Dev) : Dev := irqSet 2 16 (hit (A 2 0xC8) 29 s)

/-- A source whose REACT holds QUENCH is LIVE. -/
def quenchLive (s : Dev) : Bool := s.flt.srcs.any fun e => srcLive s e.1 && bit (srcReact s e.1) 5

/-- Every formatted state is P (R567). -/
def lanesP (s : Dev) : Dev := forAll (s.lanes.map (·.1)) (fun l s => setLane l { getLane s l with fmt := .p, gate := false } s) s

/-- A write of QUENCH.RELEASE (R566, R567): every formatted state is P from then on. -/
def releaseQuench (s : Dev) : Dev :=
  if !inQuench s then s
  else if quenchLive s || !(List.range 66).all (engStopped s) || bit (actedAt s (aT s)).1 5 then relErr s
  else
    let s := lanesP (if s.flt.quenchPend then quenchPark (nowVs s) s else s)
    fset (A 2 0xC8) 31 1 0 { s with flt := { s.flt with rel := some (aT s) } }

/-- The mc of an accepted RELEASE has passed: QUENCH# rises, its records are placed, and the Quench shadow runs out (R567, R570). -/
def releaseDone (s : Dev) : Dev :=
  match s.flt.rel with
  | none => s
  | some t =>
    if aT s ≤ t then s
    else
      let ts := s.ts
      let s := if s.clk then { s with ts := ts64 t } else s
      let s := emit (.pin .quenchN true) (quenchRecords true (if s.clk then t else 0) s)
      let overs := fun (x : Shadow) => if x.page.isNone && x.closeAt.isNone then { x with closeAt := some (t + fget s (A 2 0xD8) 0 16) } else x
      { s with ts, flt := { s.flt with rel := none, shadows := s.flt.shadows.map overs } }

/-- The registers after a QUENCH reaction for mc `d` by sources of which `i` has the lowest ID; true when it is an entry (R563,
R566). -/
def quenchReact (d i : Nat) (s : Dev) : Bool × Dev :=
  if s.flt.rel.isSome then (false, relErr (fset (A 2 0xC8) 31 1 1 { s with flt := { s.flt with rel := none } }))
  else if inQuench s then
    (false, if bit (actedAt s d).1 5 && s.clk && rd64 s (A 2 0xCC) = d && i < fget s (A 2 0xC8) 0 8 then fset (A 2 0xC8) 0 8 i s else s)
  else (true, quenchRegs i s)

/-! ### ERR# (R560 to R562) -/

/-- ERR# falls at mc `t`. -/
def errFall (t : Nat) (s : Dev) : Dev :=
  let s := fset (A 2 0xC0) 28 2 3 s
  emit (.pin .errN false) { s with flt := { s.flt with errEnd := t + fget s (A 2 0xC0) 0 14 * 160, errPend := false, errClr := false } }

/-- ERR# rises at mc `t`. -/
def errRise (t : Nat) (s : Dev) : Dev :=
  emit (.pin .errN true) (fset (A 2 0xC0) 28 2 0 { s with flt := { s.flt with errHigh := some t, errClr := false } })

/-- The high time of R561 lasts. -/
def errHeldHigh (s : Dev) : Bool := match s.flt.errHigh with
  | some t => decide (aT s < t + 160)
  | none => false

/-- ERR_PULSE_END (R560). -/
def doErrPulseEnd (s : Dev) : Dev :=
  if !fbit s (A 2 0xC0) 28 || aT s < s.flt.errEnd then s
  else if !fbit s (A 2 0xC0) 31 || s.flt.errClr then errRise s.flt.errEnd s
  else fset (A 2 0xC0) 28 1 0 s


/-- ERR_REASSERT (R561). -/
def doErrReassert (s : Dev) : Dev :=
  match s.flt.errHigh with
  | some t => if s.flt.errPend && t + 160 ≤ aT s && !fbit s (A 2 0xC0) 29 then errFall (t + 160) s else s
  | none => s

/-- ERR# as it stands now: a pulse and a high time that have run out have ended (R560, R561). -/
def errNow (s : Dev) : Dev := doErrPulseEnd (doErrReassert (doErrPulseEnd s))

/-- An ERR reaction (R560, R561). -/
def errReact (s : Dev) : Dev :=
  let s := incSat (A 2 0xC4) 0 32 1 (errNow s)
  if fbit s (A 2 0xC0) 29 then s
  else if errHeldHigh s then { s with flt := { s.flt with errPend := true } }
  else errFall (aT s) s

/-- A write of ERR_CFG.CLR (R560). -/
def clearErr (s : Dev) : Dev :=
  if fbit s (A 2 0xC0) 28 then { s with flt := { s.flt with errClr := true } }
  else if fbit s (A 2 0xC0) 29 then errRise (aT s) s
  else s

/-- A write of `v` to ERR_CFG (R560, R562). -/
def writeErrCfg (v : Nat) (s : Dev) : Dev :=
  let s := errNow s
  let w := bits v 0 14
  let s := fset (A 2 0xC0) 31 1 (bits v 31 1) (if w = 0 || w > 10000 then s else fset (A 2 0xC0) 0 14 w s)
  onlyIf (bit v 30) clearErr s

/-! ### Block resets and shadows (R557, R570 to R574) -/

/-- The GLN sources of the pages that hold the slices of furrows `fs`. -/
def glnSources (fs : List Nat) : List Nat := ((fs.filter (· < 64)).map fun f => 0x76 + f / 2).eraseDups

/-- The sources that a BLK_RST shadow of page `p` holds (Table 18-4). -/
def blkScope (s : Dev) (p : Nat) : List Nat :=
  let own := (List.range 256).filter fun i => srcPage i == some p
  let bank := fun (b : Nat) => (List.range 4).map (fun j => 0x14 + 4 * b + j) ++ glnSources ((bankLanes b).map (owner s))
  match pageKind p with
  | some .fur =>
    let e := p - 0x80
    (own ++ glnSources [logical s e] ++ (yokeEngs s (leadOf s e)).map (0x34 + ·)).eraseDups
  | some .bankCfg | some .bankTs | some .bankCal | some .bankRfx => bank ((p - 0x40) / 4)
  | some .fec => bank (p - 0x194)
  | some .jes => own ++ (List.range 32).filterMap fun a =>
      if [0, 1].any (fun c => fget s (aa (2 * a + c) 8) 30 2 == p - 0x1A0) then some (0x96 + a) else none
  | some .mem | some .mem0 => own ++ [0xED, 0xEE]
  | some .hdlPort => own ++ [0xEC]
  | some .grn | some .grnPop | some .svc => own ++ [0xEE]
  | _ => own

/-- A BLK_RST reaction of source `i` to an occurrence of mc `d` (R557, R570); two of one mc on one page act once (R554). -/
def blkReact (d i : Nat) (s : Dev) : Dev :=
  match srcPage i with
  | some p => if s.resetting.contains p && s.flt.shadows.any (fun x => x.page == some p && x.t0 == d) then s else openShadow { opener := i, page := some p, t0 := d, scope := blkScope s p } (blkReset p s)
  | none => s

/-! ### Reactions (R553 to R559) -/

/-- IRQ (R555). -/
def irqReact (i : Nat) (s : Dev) : Dev :=
  let a := A 2 (0xA0 + 4 * (i / 32))
  onlyIf (!fbit s a (i % 32)) (irqSet 2 1) (hit a (i % 32) s)

/-- TRAP (R556). -/
def trapReact (i : Nat) (s : Dev) : Dev :=
  irqSet 2 8 (hit (A 2 0xDC) 31 (onlyIf (!fbit s (A 2 0xDC) 31) (fset (A 2 0xDC) 0 8 i) s))

/-- CHIP_RST of an occurrence of mc `d` waits for its record (R558). -/
def chipReact (d i : Nat) (s : Dev) : Dev :=
  if s.flt.chipRst.isSome then s else { s with flt := { s.flt with chipRst := some (i, d, false) } }

/-- The primary occurrences of mc `d`, lowest ID first, take their reactions and place their records (R553, R554). -/
def reactAll (nv : Nv) (d : Nat) (is : List Nat) (s : Dev) : Dev :=
  let of := fun b => is.filter fun i => bit (srcReact s i) b
  let (ent, s1) := match of 5 with
    | i :: _ => quenchReact d i s
    | [] => (false, s)
  let s1 := forAll is granaryFault s1
  let s1 := forAll is (hallmarkFault nv) s1
  let s1 := onlyIf ent (quenchEnter d ((of 5).headD 0)) s1
  let s1 := forAll (of 0) irqReact s1
  let s1 := forAll (of 1) trapReact s1
  let s1 := onlyIf (!(of 4).isEmpty && !bit (actedAt s d).1 4) errReact s1
  let s1 := forAll ((of 2).filter fun i => (of 2).all fun j => i ≤ j || srcPage j != srcPage i) (blkReact d) s1
  let s1 := forAll (of 3) (chipReact d) s1
  setActed d (is.foldl (fun m i => m ||| srcReact s i) 0) [] s1

/-- The detection mc of what has been raised (R544). -/
def raisedMc (s : Dev) (r : Raised) : Nat := r.t.getD (aT s)

/-- The collector takes what the current command has raised with the earliest detection mc, by source. -/
def collectOnce (nv : Nv) (s : Dev) : Dev :=
  let d := s.raised.foldl (fun a r => min a (raisedMc s r)) (aT s)
  let rs := s.raised.filter fun r => raisedMc s r == d
  let ids := (List.range 256).filter fun i => rs.any (·.src == i)
  let (prims, s) := ids.foldl (fun acc i =>
    let mine := rs.filter (·.src == i)
    let mask := mine.foldl (fun m r => m ||| 2 ^ r.cause) 0
    let (p, s) := occur d i mask (mine.map (·.res)).eraseDups (mine.any (·.prim)) acc.2
    (if p then acc.1 ++ [i] else acc.1, s)) (([] : List Nat), { s with raised := s.raised.filter fun r => raisedMc s r != d })
  if prims.isEmpty then s else reactAll nv d prims s

/-- The collector works until nothing more is raised: a reaction may raise a further source. -/
def collect (nv : Nv) : Nat → Dev → Dev
  | 0, s => s
  | n + 1, s => if s.raised.isEmpty then s else collect nv n (collectOnce nv s)

/-- What follows every command: LIVE and the collector. -/
def settleFaults (nv : Nv) (s : Dev) : Dev := liveSync (collect nv (s.raised.length + 8) (liveSync s))

/-! ### Occurrences that no other command causes (R544 to R546, R583, R585) -/

/-- The pairs of source and cause that FAULT_OCCURRENCE brings. -/
def externalCause (i c : Nat) : Bool :=
  [(2, 1), (3, 2), (4, 3), (6, 5), (7, 6), (8, 7), (9, 8), (0xA, 9), (0xB, 10), (0xB, 11), (0xC, 12), (0xE, 14), (0xED, 1), (0xEF, 0)].contains (i, c)
    || (0x14 ≤ i && i < 0x34 && i % 4 == 3 && c < 2)
    || (0x34 ≤ i && i < 0x76 && (c == 2 || c == 3)) || (0x76 ≤ i && i < 0x96 && c < 3) || (0x96 ≤ i && i < 0xB6 && c < 2)
    || (0xF4 ≤ i && i < 0xF8 && (c == i - 0xF4 || c == i - 0xF0))

/-- The resources that the condition of an external LEVEL source covers: the powered domains for VMON, the three pins for
PIN_READBACK, the link PLLs; every other has one (R545, Table 18-1). -/
def resFits (s : Dev) (i res : Nat) : Bool :=
  if i = 8 then decide (res < 20) && domOn s res else if i = 9 then decide (res < 3) else if i = 4 || !srcLevel i then true else res == 0

/-- Source `i` has occurred in the current mc already (R544). -/
def occurredNow (s : Dev) (i : Nat) : Bool := s.clk && (getSrc s i).sticky && !(getSrc s i).prereset && (getSrc s i).last == now s

/-- What an external occurrence does beside its evidence: THERM_EXC gains a rise of TEMP_WARN, SRAM_CE counts in its hour, and an
error reported through AER counts. -/
def externalEffect (i res : Nat) (s : Dev) : Dev :=
  if i = 6 && !srcLive s 6 then incSat (A 3 0x9C) 0 32 1 s
  else if i = 0xA && !occurredNow s i then
    let n := s.flt.sramHour + 1
    let s := { s with flt := { s.flt with sramHour := n } }
    let thr := fget s (A 2 0xEC) 0 16
    if thr ≠ 0 && thr ≤ n then degBit 5 6 0 true s else s
  else if i = 0xEF then irqSet pciPage 8 (incSat (A pciPage 0x90) 0 16 1 s)
  else s

/-- FAULT_OCCURRENCE (R549): source `src` occurs with one of the causes that only the outside brings, for a resource, which of a
LEVEL source is not in the condition yet (R545). -/
def doFaultOccurrence (src : BitVec 8) (cause : BitVec 5) (res : BitVec 9) (s : Dev) : Dev :=
  let i := src.toNat
  if !externalCause i cause.toNat || !resFits s i res.toNat || !(srcPage i).any (pageOn s) || (getSrc s i).live.contains res.toNat then s
  else raiseOn i cause.toNat res.toNat (externalEffect i res.toNat s)

/-- LIVE_FALL (R551): the condition of a source that the outside brings ends for a resource; the main PLL locks again. -/
def doLiveFall (src : BitVec 8) (res : BitVec 9) (s : Dev) : Dev :=
  let i := src.toNat
  let x := getSrc s i
  if !([1, 2, 3, 4, 6, 7, 8, 9, 0xE].contains i) || !x.live.contains res.toNat then s
  else
    let s := if i = 1 then fset refStat 26 1 1 { s with hdl := { s.hdl with lockFrom := some (now s) } } else s
    let l := x.live.filter (· ≠ res.toNat)
    if l.isEmpty then liveFell i s else setSrc i { x with live := l } s

/-- A shadow that has run out (R570). -/
def shadowDue (s : Dev) (x : Shadow) : Bool := match x.closeAt with
  | some t => decide (t < aT s)
  | none => false

/-- The Granary record of shadow `x`, which held some occurrence, placed as it closes (R574, Table 18-7). -/
def shadowRecord (x : Shadow) (s : Dev) : Dev :=
  let ts := s.ts
  let s := if s.clk then { s with ts := ts64 (x.closeAt.getD 0) } else s
  let s := onlyIf (x.heldN != 0) (fltRecord 0x41 (leBytes 1 x.opener ++ leBytes 1 (sat x.heldIds.length 255) ++ zeros 2 ++ leBytes 4 x.heldN
    ++ leBytes 8 x.t0 ++ leBytes 8 (x.closeAt.getD 0) ++ leBytes 1 (x.heldIds.foldl min 255))) s
  { s with ts }

/-- Source `i`, still LIVE when its shadow closes at `t`, occurs in the mc after as a primary one with the causes it shows (R574). -/
def raiseHeld (t i : Nat) (s : Dev) : Dev :=
  { s with raised := s.raised ++ ((List.range 32).filter (bit (getSrc s i).cause)).map fun b =>
      ({ src := i, cause := b, res := (getSrc s i).live.headD 0, prim := true, t := if s.clk then some (t + 1) else none } : Raised) }

/-- Shadow `x` closes. -/
def shadowEnd (x : Shadow) (s : Dev) : Dev :=
  let s := shadowRecord x s
  forAll (x.scope.filter fun i => srcLive s i && srcClass i != 4) (raiseHeld (x.closeAt.getD 0)) s

/-- SHADOW_CLOSE (R574): the shadows that have run out close; the mc after is a primary occurrence of every held LEVEL
source still LIVE. -/
def doShadowClose (s : Dev) : Dev :=
  let due := s.flt.shadows.filter (shadowDue s)
  forAll due shadowEnd { s with flt := { s.flt with shadows := s.flt.shadows.filter fun x => !due.contains x } }

/-- HOUR_OF_OPERATION (R582, R583, R588): the highest and lowest Tj of the hour come with it. -/
def doHourOfOperation (hi lo : BitVec 16) (s : Dev) : Dev :=
  if s.opMc < (s.hmk.hours + 1) * mcPerHour then s
  else
    let s := incSat (A 3 0x98) 0 32 1 { s with hmk := { s.hmk with hours := s.hmk.hours + 1 } }
    let s := hmkQueue 5 3 0 (leBytes 4 (rdN s (A 3 0x9C)) ++ leBytes 4 (rdN s (A 3 0xA0)) ++ leBytes 4 (rdN s (A 3 0xA8)) ++ leBytes 2 hi.toNat
      ++ leBytes 2 lo.toNat ++ leBytes 4 (rdN s (A 2 0xE8)) ++ leBytes 4 s.flt.sramHour) s
    let s := { s with flt := { s.flt with sramHour := 0 } }
    if rdN s (A 2 0xE8) = 0 then s else irqSet 2 4 (degEvent 0x10 0 s)

/-! ### Registers of the FLT page (R550, R590) -/

/-- A W1C of SRC_STAT.STICKY (R550): nothing while LIVE is 1, nor in the mc of an occurrence (R17). -/
def clearSticky (s : Dev) : Dev :=
  let i := fget s (A 2 0x80) 0 8
  let x := getSrc s i
  if (srcPage i).isNone || srcLive s i then s
  else if x.sticky && !x.prereset && s.clk && x.last = now s then s
  else setSrc i { x with sticky := false, transient := false, conseq := false, prereset := false, parent := 0,
                         undo := if x.sticky then some (aT s, x.transient, x.conseq, x.prereset, x.parent) else x.undo } s

/-- A write of `v` to SRC_CFG: JOURNAL and REACT of the selected source (R548, R559). -/
def writeSrcCfg (v : Nat) (s : Dev) : Dev :=
  let i := fget s (A 2 0x80) 0 8
  match srcPage i with
  | none => s
  | some p =>
    let r := bits v 0 6
    let r := if [0, 2, 3, 4].contains p then putBits r 2 1 0 else r
    setSrc i { getSrc s i with react := some r, journal := some (bit v 27) } s

/-- The condition of SOFT begins (R545). -/
def softRise (was : Bool) (s : Dev) : Dev := if was then s else raise 0xFF 0 s

/-- A write of `v` to INJECT (R545). -/
def writeInject (v : Nat) (s : Dev) : Dev :=
  let was := srcLive s 0xFF || s.flt.pulse.any (fun t => t + 1 == aT s)
  let s := fset (A 2 0xE0) 30 1 (bits v 30 1) s
  let s := if bit v 31 then { s with flt := { s.flt with pulse := some (aT s) } } else s
  if bit v 30 || bit v 31 then softRise was s else s

/-- A W1C of DEG bits 4 and 5 (Table 18-8); a bit set in the same mc stays (R17). -/
def clearDeg (v : Nat) (s : Dev) : Dev :=
  let v := v ^^^ (v &&& rdN s (A 2 0xE8) &&& (m32 ^^^ (mget regReset s.mcRegs (A 2 0xE8)).toNat))
  onlyIf (bit v 5) (degBit 5 6 0 false) (onlyIf (bit v 4) (degBit 4 5 0 false) s)

/-- A write of `v` to QUENCH (R566). -/
def writeQuench (v : Nat) (s : Dev) : Dev := onlyIf (bit v 30) releaseQuench (plainWrite (A 2 0xC8) v s)

/-- A write of `v` to page offset `o` of the FLT page. -/
def writeFlt (o v : Nat) (s : Dev) : Dev :=
  if o = 0x84 then writeSrcCfg v s
  else if o = 0x88 then onlyIf (bit v 31) clearSticky s
  else if o = 0xC0 then writeErrCfg v s
  else if o = 0xC8 then writeQuench v s
  else if o = 0xE0 then writeInject v s
  else if o = 0xE8 then clearDeg v s
  else plainWrite (A 2 o) v s

/-- A read of SRC_STAT counts as a look (R551). -/
def lookSrc (s : Dev) : Dev :=
  let i := fget s (A 2 0x80) 0 8
  if (srcPage i).isNone then s else setSrc i { getSrc s i with looked := true } s

/-- QUENCH_RELEASE. -/
def doQuenchRelease (p : Path) (v : Word) (s : Dev) : Dev := onWrite p (A 2 0xC8) (writeQuench (v.toNat ||| 0x40000000)) s
/-- ERR_CLR. -/
def doErrClr (p : Path) (v : Word) (s : Dev) : Dev := onWrite p (A 2 0xC0) (writeErrCfg (v.toNat ||| 0x40000000)) s
/-- STICKY_CLEAR. -/
def doStickyClear (p : Path) (s : Dev) : Dev := onWrite p (A 2 0x88) clearSticky s
/-- SRC_SEL_WRITE. -/
def doSrcSelWrite (p : Path) (v : Word) (s : Dev) : Dev := onWrite p (A 2 0x80) (plainWrite (A 2 0x80) v.toNat) s
/-- TRAP_CLEAR. -/
def doTrapClear (p : Path) (s : Dev) : Dev := onWrite p (A 2 0xDC) (plainWrite (A 2 0xDC) 0x80000000) s
/-- INJECT_PULSE: with it, the LEVEL bit that the write carries. -/
def doInjectPulse (p : Path) (v : Word) (s : Dev) : Dev := onWrite p (A 2 0xE0) (writeInject (v.toNat ||| 0x80000000)) s
/-- INJECT_LEVEL. -/
def doInjectLevel (p : Path) (v : Word) (s : Dev) : Dev := onWrite p (A 2 0xE0) (writeInject (putBits v.toNat 31 1 0)) s
/-- DEG_CLEAR. -/
def doDegClear (p : Path) (v : Word) (s : Dev) : Dev := onWrite p (A 2 0xE8) (clearDeg v.toNat) s

end Sys2Proof.Machine
end

