-- ==== Sys2Proof/Machine/Hmk.lean ====
section
/-! DEFINITION. The Hallmark engine: the record in its slot, the two-phase commit, the scan at power-on and the
restoration of what the journal records (R576 to R584, R589, R524). -/
namespace Sys2Proof.Machine

/-! ### Records and slots (R576 to R578) -/

/-- A record as its slot holds it (Table 18-6). -/
def hmkBytes (r : HmkRec) (seq : Nat) : List Byte :=
  let h := leBytes 2 0x4D48 ++ leBytes 1 r.kind ++ leBytes 1 1 ++ leBytes 4 r.flags ++ leBytes 8 seq ++ leBytes 8 r.ts ++ leBytes 8 r.sec
    ++ leBytes 4 r.poh ++ leBytes 4 r.boots ++ fitBytes 208 r.body
  h ++ leBytes 4 (crc32c h) ++ leBytes 4 (2 ^ 32 - 1 - seq % 2 ^ 32)

/-- `n` little-endian bytes at `o` of a slot. -/
def slotNum (bs : List Byte) (o n : Nat) : Nat := leNat ((bs.drop o).take n)

/-- A slot's content is a committed record (R578). -/
def slotOk (bs : List Byte) : Bool :=
  bs.length == 256 && slotNum bs 0 2 == 0x4D48 && slotNum bs 248 4 == crc32c (bs.take 248)
    && slotNum bs 252 4 == 2 ^ 32 - 1 - slotNum bs 8 4

/-- Content that a failed or cut-off write leaves, which is never a committed record (R578). -/
def tornSlot (bs : List Byte) : List Byte := if slotOk (fitBytes 256 bs) then 0 :: (fitBytes 256 bs).drop 1 else fitBytes 256 bs

/-- The slot after slot `k` (R576). -/
def slotAfter (k : Nat) : Nat := if k ≥ 8191 then 256 else k + 1

def getSlot (nv : Nv) (k : Nat) : List Byte := mget (fun _ => []) nv.slots k
def putSlot (k : Nat) (bs : List Byte) (nv : Nv) : Nv := { nv with slots := mset (fun _ => []) k bs nv.slots }

/-- The committed slots, with their SEQ. -/
def committed (nv : Nv) : List (Nat × Nat) := (nv.slots.filter fun e => slotOk e.2).map fun e => (e.1, slotNum e.2 8 8)

/-- The committed record with the highest SEQ among those of `l`. -/
def newestOf (l : List (Nat × Nat)) : Option (Nat × Nat) :=
  l.foldl (fun a e => match a with
    | some b => if b.2 < e.2 then some e else some b
    | none => some e) none

/-- The ring slot with the oldest committed record (R584). -/
def oldestRing (nv : Nv) : Option Nat :=
  (((committed nv).filter fun e => e.1 ≥ 256).foldl (fun a e => match a with
    | some b => if e.2 < b.2 then some e else some b
    | none => some e) (none : Option (Nat × Nat))).map (·.1)

/-! ### The commit (R578, R581) -/

/-- The writes of one commit in slot `k`: the slots with their content, the slot that holds the record when one does,
and the next slot. `bad1` and `bad2` are what the first and the second write leave when their read-back fails. -/
def commitPlan (k : Nat) (bytes : List Byte) (bad1 bad2 : Option (List Byte)) : List (Nat × List Byte) × Option Nat × Nat :=
  match bad1, bad2 with
  | none, _ => ([(k, bytes)], some k, slotAfter k)
  | some x, none => ([(k, tornSlot x), (slotAfter k, bytes)], some (slotAfter k), slotAfter (slotAfter k))
  | some x, some y => ([(k, tornSlot x), (slotAfter k, tornSlot y)], none, slotAfter (slotAfter k))

/-- The store after the commit of the first queued record. -/
def commitNv (bad1 bad2 : Option (List Byte)) (s : Dev) (nv : Nv) : Nv :=
  match s.hmk.queue with
  | r :: _ =>
    if !hmkBusy s then nv
    else (commitPlan (fget s (A 3 0x84) 0 13) (hmkBytes r (rd64 s (A 3 0x8C))) bad1 bad2).1.foldl (fun n w => putSlot w.1 w.2 n) nv
  | [] => nv

/-- A waiting CHIP_RST of source `i` need wait no longer (R558). -/
def chipCommitted (i : Nat) (s : Dev) : Dev :=
  match s.flt.chipRst with
  | some (j, t, _) => if i = j then { s with flt := { s.flt with chipRst := some (j, t, true) } } else s
  | none => s

/-- Record `r` is in its slot: SEQ and OLDEST move on, and a CHIP_RST that waits for it may act (R558, R578). -/
def recordKept (nv : Nv) (r : HmkRec) (s : Dev) : Dev :=
  let s := onlyIf (r.kind == 1) (chipCommitted r.src) (wr64 (A 3 0x8C) (rd64 s (A 3 0x8C) + 1) s)
  irqSet 3 1 (match oldestRing nv with
    | some o => wrN (A 3 0x88) o s
    | none => s)

/-- The device after the commit of the first queued record; `nv` is the store after it. -/
def commitDev (bad1 bad2 : Option (List Byte)) (nv : Nv) (s : Dev) : Dev :=
  match s.hmk.queue with
  | r :: rest =>
    if !hmkBusy s then s
    else
      let (_, ok, next) := commitPlan (fget s (A 3 0x84) 0 13) [] bad1 bad2
      let s := onlyIf bad1.isSome (raise 0xF3 0) (wrN (A 3 0x84) next (showHmk { s with hmk := { s.hmk with queue := rest } }))
      if ok.isSome then recordKept nv r s else hmkDropped s
  | [] => s

/-! ### The scan (R579, R583, R589, R524) -/

/-- Counter `o` of the HMK page gains what the journal holds, saturating. -/
def addCount (o n : Nat) (s : Dev) : Dev := incSat (A 3 o) 0 32 n s

/-- The newest committed record of kind `k` with `p`. -/
def newestKind (nv : Nv) (k : Nat) (p : List Byte → Bool) : Option (List Byte) :=
  (newestOf ((committed nv).filter fun e => slotNum (getSlot nv e.1) 2 1 == k && p (getSlot nv e.1))).map fun e => getSlot nv e.1

/-- The channels whose recorded map-out the boot applies (R524): the channel that the newest DEGRADE record names,
unless a RESTORE of it is newer than every record of its map-out. -/
def recordedOut (nv : Nv) : List Nat :=
  match newestKind nv 2 fun _ => true with
  | none => []
  | some r =>
    let c := slotNum r 98 1
    if c ≥ 8 then []
    else
      let outs := newestKind nv 2 fun x => slotNum x 40 1 == 3 && slotNum x 42 2 == c
      let back := newestKind nv 6 fun x => slotNum x 40 1 == c
      match outs, back with
      | some o, some b => if slotNum o 8 8 < slotNum b 8 8 then [] else [c]
      | none, some _ => []
      | _, none => [c]

/-- The scan of the store before SCANNED first becomes 1 after power-on. -/
def hmkScan (nv : Nv) (s : Dev) : Dev :=
  let torn := nv.slots.any fun e => !slotOk e.2
  let s := match newestOf (committed nv) with
    | some (k, q) => addCount 0x98 (slotNum (getSlot nv k) 32 4) (addCount 0xA4 (slotNum (getSlot nv k) 36 4)
        (wr64 (A 3 0x8C) (q + 1) (wrN (A 3 0x84) (slotAfter k) s)))
    | none => wr64 (A 3 0x8C) 1 (wrN (A 3 0x84) 0 s)
  let s := match oldestRing nv with
    | some o => wrN (A 3 0x88) o s
    | none => let (w, s) := freshWord s; wrN (A 3 0x88) (w.toNat % 8192) s
  let s := match newestKind nv 3 fun _ => true with
    | some r => addCount 0x9C (slotNum r 40 4) (addCount 0xA0 (slotNum r 44 4) (addCount 0xA8 (slotNum r 48 4) s))
    | none => s
  let s := match newestKind nv 2 fun _ => true with
    | some r => { s with spareKeep := (List.range 8).foldl (fun m b => mset (fun _ => 0) b (slotNum r (48 + 4 * b) 4) m) s.spareKeep }
    | none => s
  let s := fset (A 3 0x80) 31 1 1 { s with memOut := recordedOut nv }
  if torn then raise 0xF3 1 (irqSet 3 4 (hit (A 3 0x80) 29 s)) else s

end Sys2Proof.Machine
end

