-- ==== Sys2Proof/Machine/Power.lean ====
section
/-! DEFINITION. Power domains, the board calibration record, standby and wake, and the resets of the device
(Power, reset, boot and Assay; R592 to R603, R614, R615, R635, R636). -/
namespace Sys2Proof.Machine

/-! ### A domain goes OFF (R593, R596) -/

/-- The registers of the pages of domain `d`, and their snapshots, are lost; SEC.BOOT_CFG is held (Table 19-3). -/
def dropRegs (d : Nat) (s : Dev) : Dev :=
  let mine := fun (p : Nat) => (pageKind p).isSome && pageDomain p == d
  { s with regs := mdrop (fun a => mine (a / 0x1000) && a != A 4 0x84) s.regs
           snap := mdrop (fun a => mine (a / 0x1000)) s.snap
           frozen := s.frozen.filter fun p => !mine p
           resetting := s.resetting.filter fun p => !mine p }

/-- Staged writes for pages of domain `d` are lost. -/
def dropDomStages (d : Nat) (s : Dev) : Dev :=
  forAll ((List.range 0x1A4).filter fun p => (pageKind p).isSome && pageDomain p == d) dropStages s

/-- A shadow that waits for the reset of a page that loses power starts its EXTRA (R570). -/
def offShadows (d : Nat) (s : Dev) : Dev :=
  let overs := fun (x : Shadow) => if x.closeAt.isNone && x.page.any (fun p => pageDomain p == d)
    then { x with closeAt := some (aT s + fget s (A 2 0xD8) 0 16) } else x
  { s with flt := { s.flt with shadows := s.flt.shadows.map overs } }

/-- The engines of the cluster in domain `d`. -/
def clusterEngs (d : Nat) : List Nat := (List.range 66).filter fun e => pageDomain (furPage e) == d

/-- What the blocks of domain `d` hold beside their registers is lost. -/
def dropHidden (d : Nat) (s : Dev) : Dev :=
  if d = 1 then { s with flw := {}, sec := {} }
  else if d = 2 then { s with gln := {}, grn := {}, eth := { s.eth with frags := [] } }
  else if d = 3 then { xspReset s with pci := {}, eth := {} }
  else if d < 12 then
    let b := d - 4
    emit (.undriven (some b)) { s with
      lanes := mdrop (fun l => l / 64 == b) s.lanes
      fec := mdrop (· == b) s.fec
      cal := mdrop (· == b) s.cal
      adj := mdrop (fun l => l / 64 == b) s.adj
      tsets := mdrop (fun k => k / 7 / 128 / 64 == b) s.tsets
      holds := mdrop (fun i => i / 16 == b) s.holds
      spareKeep := mset (fun _ => 0) b (rdN s (A (cfgPage b) 0x88) % 2 ^ 16) s.spareKeep }
  else if d < 16 then
    { s with fur := mdrop (fun e => (clusterEngs d).contains e) s.fur
             ovl := mdrop (fun k => (clusterEngs d).contains (k / 64 / 8)) s.ovl }
  else if d < 18 then
    let mine := fun (k : Nat) => k / 4 == d - 16
    { s with mem := [], tagPeak := if d = 16 then 0 else s.tagPeak, ueT := mdrop mine s.ueT, ceT := mdrop mine s.ceT, scrub := mdrop mine s.scrub }
  else if d = 18 then
    let h := s.hdl
    { s with acq := {}
             hdl := { extFrom := h.extFrom, ocxoFrom := h.ocxoFrom, lockFrom := h.lockFrom, holdFrom := h.holdFrom,
                      bound := h.bound, lastPps := h.lastPps, rolled := h.rolled, ppsWait := h.ppsWait } }
  else
    { s with tim := {}, drl := [], mks := [], lists := [], syncOut := none, syncEv := none
             hdl := { s.hdl with extFrom := none, ocxoFrom := none, lockFrom := none, holdFrom := none, bound := 0, lastPps := none, rolled := none, ppsWait := [] } }

/-- Domain `d` goes OFF: its switch opens, and its registers and tables are lost (R596). -/
def powerDown (d : Nat) (s : Dev) : Dev :=
  if !domOn s d then { s with sw := s.sw.filter fun x => x.1 != d }
  else
    let s := dropHidden d (offShadows d (if 4 ≤ d && d < 12 then dskEnd (d - 4) s else s))
    let s := fset (A 5 0x88) d 1 0 (dropRegs d (dropDomStages d s))
    let s := { s with sw := s.sw.filter fun x => x.1 != d }
    if 4 ≤ d && d < 12 then degLanes 0 s else if 12 ≤ d && d < 16 then degEngines 0 s else if d = 18 then degHdl 0 s else s

/-- The domains other than AON in the reverse order of Table 19-1. -/
def downOrder : List Nat := [11, 10, 9, 8, 7, 6, 5, 4, 15, 14, 13, 12, 18, 2, 17, 16, 19, 3, 1]

/-- Every domain but AON goes down (R597, R602). -/
def allDown (s : Dev) : Dev := forAll downOrder powerDown s

/-! ### The board calibration record (R614, R615) -/

/-- The record's flash offset. -/
def bcalBase : Nat := 0x01000000

/-- Word `w` of the record. -/
def bcalWord (s : Dev) (w : Nat) : Nat := leNat (flashBytes s (bcalBase + 4 * w) 4)

/-- The record's state: 0 MAGIC absent; 2 its header checks fail; 1 it can be used. -/
def bcalState (s : Dev) : Nat :=
  if flashBytes s bcalBase 4 ≠ [0x54, 0x5A, 0x42, 0x43] then 0
  else if leNat (flashBytes s (bcalBase + 4) 2) = 1 && bcalWord s 2 = 4224
      && bcalWord s 15 = crc32c (flashBytes s bcalBase 60 ++ flashBytes s (bcalBase + 64) 4160) then 1
  else 2

/-- A word of the record is written by its register's own rule; true when it was refused. -/
def bcalWrite (f : Dev → Dev) (got : Dev → Nat) (v : Nat) (x : Bool × Dev) : Bool × Dev :=
  let s := f x.2
  (x.1 || got s != v, s)

/-- The entries of bank `b`. -/
def bcalBank (b : Nat) (x : Bool × Dev) : Bool × Dev :=
  (List.finRange 512).foldl (fun (x : Bool × Dev) (l : LaneId) =>
    if l.val / 64 ≠ b then x
    else
      let d := bcalWord x.2 (16 + l)
      let r := bcalWord x.2 (528 + l)
      bcalWrite (writeCalOffset (.rpo l) r) (fun s => rdN s (rpoAddr l)) r (bcalWrite (writeCalOffset (.dsk l) d) (fun s => rdN s (dskAddr l)) d x)) x

/-- The whole record: PLANE_DLY, every DSK and RPO of the powered banks, every MK_DLY; true when a word was refused. -/
def bcalAll (s : Dev) : Bool × Dev :=
  let pd := bcalWord s 3
  let x := bcalWrite (writeCalOffset .plane (pd % 2 ^ 31)) (fun s => fget s (A 1 0xC0) 0 14) (pd % 2 ^ 14) (false, s)
  let x := ((List.range 8).filter fun b => domOn s (4 + b)).foldl (fun x b => bcalBank b x) x
  (List.range 16).foldl (fun x i =>
    let v := bcalWord x.2 (1040 + i)
    bcalWrite (writeMkDly i v) (fun s => fget s (A (0x160 + i) 0x108) 0 14) (v % 2 ^ 14) x) x

/-! ### A domain comes up (R593, R594, R596) -/

/-- A domain that software may switch (Table 19-1). -/
def switchable (d : Nat) : Bool := (4 ≤ d && d < 16) || d == 18

/-- The domains, by step, that boot stage `st` brings up (Tables 19-1 and 19-4). -/
def stageSteps (st : Nat) : List (List Nat) :=
  if st = 1 then [[1], [3], [19]]
  else if st = 3 then [[16, 17]]
  else if st = 4 then [[2], [18], [12, 13, 14, 15], [4, 5, 6, 7, 8, 9, 10, 11]]
  else []

/-- Domain `d` is to be ON: every domain but a switchable one whose DOM_REQ bit is 0. -/
def wanted (s : Dev) (d : Nat) : Bool := !switchable d || fbit s (A 5 0x84) d

/-- Every domain of the current stage that is to be ON is ON. -/
def stageUp (s : Dev) : Bool := (stageSteps (fget s (A 0 0xA4) 29 3)).all fun ds => ds.all fun d => !wanted s d || domOn s d

/-- The switch of domain `d` closes. -/
def closeSwitch (d : Nat) (s : Dev) : Dev :=
  if domOn s d || s.sw.any (·.1 == d) then s else { s with sw := s.sw ++ [(d, aT s)] }

/-- The switches of the first step of the current stage that is not complete close (R593). -/
def bootSwitches (s : Dev) : Dev :=
  if !s.booting then s
  else match (stageSteps (fget s (A 0 0xA4) 29 3)).find? fun ds => ds.any fun d => wanted s d && !domOn s d with
    | some ds => forAll (ds.filter (wanted s)) closeSwitch s
    | none => s

/-- The spare mappings that the AON domain holds for bank `b` are restored (R589, R596), but for a spare whose block has
failed its CRC and is unusable (R132; DEDUCED, log entry 86). -/
def restoreSpares (b : Nat) (s : Dev) : Dev :=
  let k := mget (fun _ => 0) s.spareKeep b
  forAll [0, 1] (fun x s =>
    if bit k (if x = 0 then 15 else 7) && !spareBad s b x then mapSpare b x (64 * b + bits k (if x = 0 then 8 else 0) 6) s else s) s

/-- READY of bank `b`'s pages and of its control bus. -/
def bankReady (b : Nat) (s : Dev) : Dev :=
  forAll [cfgPage b, tsPage b, calPage b, rfxPage b, fecPage b] (fun p => setReady p true) s

/-- What comes back into a bank that is powered again outside a boot (R596). -/
def bankAgain (b : Nat) (s : Dev) : Dev :=
  let s := restoreSpares b (loadCoefs b s)
  bankReady b (if bcalState s = 1 then (bcalBank b (false, s)).2 else s)

/-- POWER_GOOD (R594): the domain's isolation and reset are released. -/
def doPowerGood (d : Fin 20) (s : Dev) : Dev :=
  if !s.sw.any (fun x => x.1 == d.toNat && decide (aT s ≤ x.2 + 32000)) then s
  else
    let s := fset (A 5 0x88) d 1 1 { s with sw := s.sw.filter fun x => x.1 != d.toNat }
    let s := onlyIf (!s.booting && 4 ≤ d.toNat && d.toNat < 12) (bankAgain (d.toNat - 4)) s
    bootSwitches s

/-- A PWR request fails with `cause` for domain `d` (Table 19-12). -/
def domErr (cause d : Nat) (s : Dev) : Dev := irqSet 5 1 (recordErr (A 5 0x8C) cause d s)

/-! ### DOM_REQ (R595) -/

/-- The request `v` turns domain `d` on out of order. -/
def onErr (s : Dev) (v d : Nat) : Bool := bit v d && !fbit s (A 5 0x84) d && !(domOn s 19 && domOn s 2)

/-- The request `v` turns off domain `d` while work is in progress in it. -/
def offErr (s : Dev) (v d : Nat) : Bool :=
  if bit v d || !domOn s d then false
  else if d = 18 then
    ((List.range 4).map (0x1A0 + ·) ++ (List.range 6).map (0x180 + ·)).any (blkActive s)
  else if d ≥ 12 then !(clusterEngs d).all (engStopped s)
  else (bankLanes (d - 4)).any fun l => !furStopped s (owner s l)

/-- The switchable domains, ascending. -/
def switchables : List Nat := [4, 5, 6, 7, 8, 9, 10, 11, 12, 13, 14, 15, 18]

/-- A write of `v` to PWR.DOM_REQ (R595). A stage of a boot that waits for a domain no longer asked for goes on. -/
def writeDomReq (v : Nat) (s : Dev) : Dev :=
  match switchables.find? (onErr s v) with
  | some d => domErr 2 d s
  | none =>
    match switchables.find? (offErr s v) with
    | some d => domErr 3 d s
    | none =>
      let s' := plainWrite (A 5 0x84) v s
      let s' := forAll (switchables.filter fun d => !bit v d) powerDown s'
      bootSwitches (forAll (switchables.filter fun d => bit v d && !fbit s (A 5 0x84) d) closeSwitch s')

/-- DOM_REQ_WRITE. -/
def doDomReqWrite (p : Path) (v : Word) (s : Dev) : Dev := onWrite p (A 5 0x84) (writeDomReq v.toNat) s

/-! ### The master clock starts and stops (R493, R598) -/

/-- The time base changes: what the AON domain counts from keeps its distance from now. -/
def rebase (clk : Bool) (s : Dev) : Dev :=
  let s := forAll (List.range 24) fenNow (forAll (List.range 4) rmpNow s)
  let e : Int := -(aT s : Int)
  let left : Nat → Nat := fun t =>
    if s.clk = clk then t - fenT s else if clk then (t - fenT s) * 64 else cdiv (t - fenT s) 64
  fenRebase left { s with clk, ts := 0, ueNow := [], flt := shiftFlt e s.flt, sw := s.sw.map fun x => (x.1, shiftN e x.2) }

/-- The master clock stops; the AON oscillator's count begins. -/
def clockOff (s : Dev) : Dev := { rebase false s with aonT := 0, fieldMc := none, syncEv := none, cold := [(0, none)] }

/-! ### Standby (R597 to R600) -/

/-- Quench is entered without a fault source. -/
def quenchNow (s : Dev) : Dev :=
  if s.flt.rel.isSome then fset (A 2 0xC8) 31 1 1 { s with flt := { s.flt with rel := none } }
  else if inQuench s then s
  else quenchEnter (now s) 0 (quenchRegs 0 s)

/-- A write of PWR.CTL.STANDBY (R597). -/
def askStandby (s : Dev) : Dev :=
  if s.standby ≠ 0 then s
  else if !(List.range 66).all (engStopped s) then domErr 4 0 s
  else { quenchNow s with standby := 1 }

/-- A write of `v` to PWR.CTL on path `p` (R597, R599): WAKE is a request on the SMBus path only. -/
def writePwrCtl (p : Path) (v : Nat) (s : Dev) : Dev :=
  onlyIf (bit v 30 && p == .smbus) (requestWake 1) (onlyIf (bit v 31) askStandby s)

/-- STANDBY. -/
def doStandby (p : Path) (s : Dev) : Dev := onWrite p (A 5 0x80) (writePwrCtl p 0x80000000) s

/-- STANDBY_ENTERED (R597): the Hallmark queue is empty; every domain but AON goes down and the main PLL stops. -/
def doStandbyEntered (s : Dev) : Dev :=
  if s.standby ≠ 1 || !s.hmk.queue.isEmpty then s else { clockOff (allDown s) with standby := 2, booting := false }

/-- WAKE_TIMER (R599). -/
def doWakeTimer (s : Dev) : Dev :=
  if s.standby = 2 && fbit s (A 5 0x90) 30 && rdN s (A 5 0x94) * 25000000 ≤ s.aonT then requestWake 3 s else s

/-! ### Chip resets (R601 to R603) -/

/-- A register that a chip reset keeps (Table 19-3). -/
def resetKeepsReg (a : Nat) : Bool :=
  let o := a % 0x1000
  match pageKind (a / 0x1000) with
  | some .flt | some .fen | some .rmp | some .wake | some .smb => true
  | some .hmk => [0x84, 0x88, 0x8C, 0x90, 0x98, 0x9C, 0xA0, 0xA4, 0xA8].contains o
  | some .pwr => o == 0x90 || o == 0x94
  | some .sec => o == 0x84
  | _ => false

/-- The pages whose registers a chip reset keeps whole. -/
def resetKeepsPage (p : Nat) : Bool := resetKeepsReg (A p 0)

/-- The registers after a chip reset with `cause` and fault source `src`. -/
def resetRegs (cause src : Nat) (s : Dev) : Dev :=
  let hs := rdN s (A 3 0x80)
  let s := { s with regs := mdrop (fun a => !resetKeepsReg a) s.regs
                    snap := mdrop (fun a => !resetKeepsPage (a / 0x1000)) s.snap
                    frozen := s.frozen.filter fun p => resetKeepsPage p && fbit s (A p 8) 2
                    resetting := s.resetting.filter resetKeepsPage }
  let s := wrN (A 3 0x80) (putBits hs 29 1 0) s
  wrN (A 0 0xA0) (src * 2 ^ 16 + cause) (incSat (A 3 0xA8) 0 32 1 s)

/-- The collector's state after a chip reset (R552, R568). -/
def resetFlt (f : FltSt) : FltSt :=
  { f with srcs := f.srcs.map fun x => (x.1, { x.2 with prereset := x.2.prereset || x.2.sticky, recTick := none })
           shadows := [], chipRst := none, rel := none, pulse := none }

/-- Quench is in force with FIRST at 0, and counts nothing (R568). -/
def resetQuench (s : Dev) : Dev :=
  let s := if s.flt.quenchPend then quenchPark (nowVs s) s else s
  let s := onlyIf (!inQuench s && s.flt.rel.isNone) (fun s => quenchPark (nowVs s) (fset (A 2 0xC8) 31 1 1 s)) s
  fset (A 2 0xC8) 31 1 1 (fset (A 2 0xC8) 0 8 0 s)

/-- A chip reset (R602, Table 19-3); the boot begins unless RESET# holds it. -/
def chipReset (cause src : Nat) (s : Dev) : Dev :=
  let s := resetRegs cause src (clockOff (allDown (resetQuench s)))
  { s with
    flt := resetFlt s.flt, paths := [], hdl := {}, pci := { s.pci with held := [] }, sec := {}, standby := 0, wakeReq := none
    booting := !s.rstLow, bootT := 0, jtag := 0 }

/-- CHIP_RESET: a write of CHIP.BLK_CTL.SRST. -/
def doChipReset (p : Path) (s : Dev) : Dev := onWrite p (A 0 8) (chipReset 3 0) s

/-- CHIP_RST (R558): the FAULT record has committed, or 64 µs have passed. -/
def doChipRst (s : Dev) : Dev :=
  match s.flt.chipRst with
  | some (i, t, done) => if done || t + 102400 ≤ aT s then chipReset 4 i s else s
  | none => s

/-- RESET_PIN (R601, R635): RESET# has been low for 1 µs, and the chip reset is held. -/
def doResetPin (s : Dev) : Dev := if s.rstLow then s else chipReset 2 0 { s with rstLow := true }

/-- RESET_PIN_RELEASE (R635): the boot begins. -/
def doResetPinRelease (s : Dev) : Dev := if s.rstLow then { s with rstLow := false, booting := true, bootT := s.aonT } else s

/-- The device without AON supply, or right after its rise: the flash is a part of its own, and what has left the
device stays on record. -/
def coldDev (aon : Bool) (s : Dev) : Dev := { aon, flash := s.flash, out := s.out, freeCtr := s.freeCtr }

/-- POWER_ON (R601, R602): the AON supply has risen; RESET# is low. -/
def doPowerOn (s : Dev) : Dev := if s.aon then s else emit (.pin .quenchN false) (coldDev true s)

/-- AON_SUPPLY_LOSS (R636): every switch opens; every drive pair and QUENCH# is undriven. -/
def doAonSupplyLoss (s : Dev) : Dev := if s.aon then emit (.undriven none) (coldDev false (xspReset s)) else s

/-- The store after the AON supply is lost: a write in progress leaves its slot torn (R578). -/
def lossNv (torn : Option (List Byte)) (s : Dev) (nv : Nv) : Nv :=
  match torn with
  | some x => if s.aon && hmkBusy s then putSlot (fget s (A 3 0x84) 0 13) (tornSlot x) nv else nv
  | none => nv

/-- A wake request ends standby (R600). -/
def wakeUp (s : Dev) : Dev :=
  match s.wakeReq with
  | some src => if s.standby ≠ 2 then s
    else irqSet 5 2 (wrN (A 5 0x98) (2 ^ 31 + src) (chipReset 5 0 s))
  | none => s

end Sys2Proof.Machine
end

