-- ==== Sys2Proof/Machine/Boot.lean ====
section
/-! DEFINITION. The boot: its stages, the checks of a firmware image, memory training, RECOVERY and the BOOT record
(Power, reset, boot and Assay; R604 to R611, R614 to R616; R488, R514, R524, R542). -/
namespace Sys2Proof.Machine

/-- CHIP.BOOT_STAT.STAGE. -/
def bootStage (s : Dev) : Nat := fget s (A 0 0xA4) 29 3

/-- The boot goes on to stage `n`, whose domains begin to come up. -/
def toStage (n : Nat) (s : Dev) : Dev := bootSwitches (fset (A 0 0xA4) 29 3 n s)

/-- What boot loads from fuses and certificate store is there: SEC is READY (R65, R604). -/
def secReady (s : Dev) : Dev := onlyIf (domOn s 1) (setReady 4 true) s

/-! ### The BOOT record (R605, R616) -/

/-- The 48 bytes of a digest, most significant first. -/
def digestBytes (d : BitVec 384) : List Byte := beBytes 48 d.toNat

/-- The digest as the fuse windows hold it: the number of its bytes, the first lowest. -/
def digestNat (d : BitVec 384) : Nat := leNat (digestBytes d)

/-- The body of a BOOT record (Table 19-9). -/
def bootBody (nv : Nv) (s : Dev) : List Byte :=
  let st := rdN s (A 0 0xA4)
  let img := s.sec.image
  let on := fun (f : Image → Nat) (d : Nat) => match img with
    | some i => f i
    | none => d
  leBytes 1 (fget s (A 0 0xA0) 0 8) ++ leBytes 1 (bits st 16 8) ++ leBytes 1 (on (·.slot) 0xFF) ++ leBytes 1 (on (·.svn) 0)
    ++ leBytes 4 (on (·.build) 0) ++ (match img with
      | some i => digestBytes i.meas
      | none => zeros 48)
    ++ leBytes 1 nv.arb ++ leBytes 1 (on (·.owner) 0xFF) ++ leBytes 1 (bits st 26 2) ++ leBytes 1 (fget s (A 0x188 0xC4) 0 8)
    ++ leBytes 4 (rdN s (A 0 0xA8)) ++ leBytes 1 (bits st 8 8) ++ leBytes 1 (bits st 0 8)
    ++ leBytes 1 (if fget s (A 0 0xA0) 0 8 = 4 then fget s (A 0 0xA0) 16 8 else 0)

/-- A BOOT record is queued. -/
def bootRecord (nv : Nv) (s : Dev) : Dev := hmkQueue 3 4 0 (bootBody nv s) s

/-- The boot enters RECOVERY with RESULT `r` (R606). -/
def recovery (nv : Nv) (r : Nat) (s : Dev) : Dev :=
  let s := forAll (downOrder.filter fun d => d != 1 && d != 3 && d != 19) powerDown s
  let s := fset (A 0 0xA4) 29 3 6 (fset (A 0 0xA4) 16 8 r { s with sw := [], booting := false })
  bootRecord nv (secReady (onlyIf (domOn s 3) (setReady xspPage true) s))

/-! ### Image authentication (R607 to R611) -/

/-- The flash offset of image slot `k`. -/
def slotBase (k : Nat) : Nat := k * 0x00800000

/-- `n` header bytes at `o` of the image at `base`. -/
def fwBytes (s : Dev) (base o n : Nat) : List Byte := flashBytes s (base + o) n
/-- A little-endian header field. -/
def fwNum (s : Dev) (base o n : Nat) : Nat := leNat (fwBytes s base o n)

/-- The digest of the signed region: the firmware measurement (R611). -/
def imgMeasure (s : Dev) (base : Nat) : BitVec 384 := Config.sha384 (fwBytes s base 0 320)

/-- OWNER_SIGNED. -/
def imgOwned (s : Dev) (base : Nat) : Bool := bit (fwNum s base 6 2) 0

/-- The ACTIVE owner slots that hold the hash of key `key`, ascending. -/
def activeOwners (nv : Nv) (key : List Byte) : List Nat :=
  (List.range 4).filter fun k =>
    let o : OwnerSlot := mget (fun _ => {}) nv.owners k
    o.status == 1 && o.hash == digestNat (Config.sha384 key)

/-- All bytes are 0. -/
def allZero (bs : List Byte) : Bool := bs.all (· == 0)

/-- The checks of Table 19-7 in order, each with its code; `err` when the flash returns an error. Check 0x01 names the
reserved bytes only: FLAGS [15:1] and an SVN above 64 are no check of the table (DEDUCED, log entry 97). -/
def imgChecks (nv : Nv) (s : Dev) (base : Nat) (err : Bool) : List (Nat × Bool) :=
  let len := fwNum s base 16 4
  let root := fwBytes s base 80 96
  let own := fwBytes s base 176 96
  [(1, fwBytes s base 0 4 == [0x54, 0x5A, 0x46, 0x57] && fwNum s base 4 2 == 1 && allZero (fwBytes s base 9 3) && allZero (fwBytes s base 20 12)
      && allZero (fwBytes s base 272 48)),
   (2, len % 16 == 0 && decide (16 ≤ len) && decide (len ≤ 8388096)),
   (3, Config.sha384 root == Config.rootHash),
   (4, Config.ecdsaVerify root (imgMeasure s base) (fwBytes s base 320 96)),
   (5, imgOwned s base || (List.range 4).all fun k => (mget (fun _ => {}) nv.owners k : OwnerSlot).status == 0),
   (6, !imgOwned s base || !(activeOwners nv own).isEmpty),
   (7, !imgOwned s base || Config.ecdsaVerify own (imgMeasure s base) (fwBytes s base 416 96)),
   (8, decide (nv.arb ≤ fwNum s base 8 1)),
   (9, digestBytes (Config.sha384 (fwBytes s base 512 len)) == fwBytes s base 32 48),
   (10, !err)]

/-- The code of the first check that fails, 0 for an accepted image (R609). -/
def imgCode (nv : Nv) (s : Dev) (base : Nat) (err : Bool) : Nat :=
  match (imgChecks nv s base err).find? (fun c => !c.2) with
  | some c => c.1
  | none => 0

/-- The image in slot `k`, as the device holds it once accepted. -/
def imgOf (nv : Nv) (s : Dev) (k : Nat) : Image :=
  let base := slotBase k
  { slot := k, svn := fwNum s base 8 1, build := fwNum s base 12 4
    owner := if imgOwned s base then (activeOwners nv (fwBytes s base 176 96)).headD 0xFF else 0xFF
    meas := imgMeasure s base }

/-- Stage IMAGE: the slot that PREFER names is tried, and then the other (R610). -/
def bootImage (nv : Nv) (sfdp octal : Bool) (size mhz : Nat) (err : Bool) (s : Dev) : Dev :=
  if !sfdp then recovery nv 4 s
  else
    let s := wrN (A xspPage 0x80) (b2n octal * 2 ^ 31 + size % 32 * 2 ^ 16 + mhz) s
    let pref := fget s (A 4 0x84) 0 1
    let k := if s.sec.tried then 1 - pref else pref
    let c := imgCode nv s (slotBase k) err
    let s := fset (A 0 0xA4) (if k = 0 then 8 else 0) 8 c s
    if c ≠ 0 then
      let s := raise 0xF2 0 s
      if s.sec.tried then recovery nv 1 s else { s with sec := { s.sec with tried := true } }
    else
      let img := imgOf nv s k
      let s := fset (A 0 0xA4) 28 1 k { s with sec := { s.sec with image := some img }, fwBuild := img.build }
      toStage 3 (setReady xspPage true s)

/-! ### Memory (R514, R524) -/

/-- The DIMM lies in the scope of Table 17-1: its capacity is 16, 32, 64 or 128 GiB, and its other properties are supported
(R513). -/
def dimmScope (a : Dimm) : Bool := a.scope && [16, 32, 64, 128].contains a.cap.toNat

/-- The channels that are unlike channel `r`'s DIMM, absent, out of scope or untrained (R514). -/
def oddChannels (d : List (Option Dimm)) (r : Nat) : List Nat :=
  let like := fun (a b : Dimm) => a.cap == b.cap && a.x8 == b.x8 && a.ranks2 == b.ranks2
  (List.range 8).filter fun k =>
    match nth none d k, nth none d r with
    | some a, some b => !(dimmScope a && a.trained && like a b)
    | _, _ => true

/-- The channels that R514 maps out: channel 0's DIMM is the measure, or channel 1's when channel 0 is the odd one out. -/
def mappedBy514 (d : List (Option Dimm)) : List Nat :=
  if (oddChannels d 0).length > 1 && (oddChannels d 1).length ≤ 1 then oddChannels d 1 else oddChannels d 0

/-- Channel `k` shows its DIMM among `d`, and is READY or, when `out` lists it, mapped out. -/
def channelBoots (d : List (Option Dimm)) (out : List Nat) (k : Nat) (s : Dev) : Dev :=
  let s := match nth none d k with
    | some m => wrN (A (memPage k) 0x88) (m.cap.toNat * 2 ^ 24 + b2n m.x8 * 2 ^ 23 + b2n m.ranks2 * 2 ^ 22) s
    | none => s
  let s := fset (A (memPage k) 0x84) 30 2 (if out.contains k then 3 else 2) s
  if out.contains k then setDegraded (memPage k) true s else setReady (memPage k) true s

/-- Stage MEMORY. -/
def bootMemory (nv : Nv) (d : List (Option Dimm)) (s : Dev) : Dev :=
  let out := (List.range 8).filter fun k => (mappedBy514 d).contains k || s.memOut.contains k
  if out.length > 1 then recovery nv 2 s
  else
    let use := (List.range 8).filter fun k => !out.contains k
    let s := forAll (List.range 8) (channelBoots d out) s
    let s := wrN (A 0x188 0xC4) (use.length * 2 ^ 8 + use.foldl (fun m k => m + 2 ^ k) 0) { s with memOut := out }
    toStage 4 (degMem (out.headD 0) s)

/-! ### The stages (R604, R605) -/

/-- Stage CLOCKS: EXT_REF_IN is chosen when it is present and OCXO_IN otherwise, the main PLL locks, and TS starts (R488, R493). -/
def bootClocks (ext ocxo : Bool) (s : Dev) : Dev :=
  let s := rebase true s
  let pres := fun (b : Bool) => if b then some 0 else (none : Option Nat)
  let s := { s with hdl := { s.hdl with extFrom := pres ext, ocxoFrom := pres ocxo, lockFrom := some 0 } }
  toStage 2 (secReady (setReady 1 true (fset refStat 26 1 1 (showRef (fset (A 1 0x80) 28 2 (if ext then 2 else 1) s)))))

/-- Stage BLOCKS: spare mappings and the board calibration record are back, and the device is READY (R605). -/
def bootBlocks (nv : Nv) (s : Dev) : Dev :=
  let banks := (List.range 8).filter fun b => domOn s (4 + b)
  let s := forAll banks restoreSpares (forAll banks loadCoefs s)
  let st := bcalState s
  let hash := if st = 0 then 0 else (Config.sha384 (flashBytes s bcalBase 4224)).toNat
  let (part, s) := if st = 1 then bcalAll s else (false, s)
  let s := forAll banks bankReady s
  let s := fset (A 0 0xA4) 26 2 (if st = 1 && part then 3 else st) { s with booting := false, sec := { s.sec with bcal := hash } }
  let s := wrN (A 0 0xA8) (((s.aonT - s.bootT) * 64 + now s) / 1600) (setReady 0 true (fset (A 0 0xA4) 29 3 5 s))
  bootRecord nv s

/-- BOOT_STAGE: the current stage of a boot in progress completes. -/
def doBootStage (nv : Nv) (b : BootIn) (s : Dev) : Dev :=
  if !s.booting then s
  else match b with
    | .scan => if bootStage s ≠ 0 then s
      else toStage 1 (incSat (A 3 0xA4) 0 32 1 (setReady 3 true (if fbit s (A 3 0x80) 31 then s else hmkScan nv s)))
    | .clocks ext ocxo => if bootStage s ≠ 1 || !stageUp s then s else bootClocks ext ocxo s
    | .image sfdp octal size mhz err => if bootStage s ≠ 2 then s else bootImage nv sfdp octal size mhz.toNat err s
    | .memory dimms => if bootStage s ≠ 3 || !stageUp s then s else bootMemory nv dimms s
    | .blocks => if bootStage s ≠ 4 || !stageUp s then s else bootBlocks nv s

/-- POWER_GOOD_TIMEOUT (R594, R606). -/
def doPowerGoodTimeout (nv : Nv) (d : Fin 20) (s : Dev) : Dev :=
  match s.sw.find? (·.1 == d.toNat) with
  | some (_, t) =>
    if aT s < t + 32000 then s
    else
      let s := raise 0x0D 13 (domErr 1 d { s with sw := s.sw.filter fun x => x.1 != d.toNat })
      if s.booting then recovery nv 3 s else s
  | none => s

end Sys2Proof.Machine
end

