-- ==== Sys2Proof/Machine/Sec.lean ====
section
/-! DEFINITION. The security block: fuse operations, the Assay report, debug access, and the IEEE 1149.1 instructions
(Power, reset, boot and Assay; R612, R613, R617 to R623, R626). -/
namespace Sys2Proof.Machine

/-! ### Fuses (R612, R613) -/

def fuseCtl : Nat := A 4 0x88
def fuseRes : Nat := A 4 0x8C

/-- The state of owner slot `k`: 0 BLANK, 1 ACTIVE, 3 REVOKED. -/
def ownerState (nv : Nv) (k : Nat) : Nat := (mget (fun _ => {}) nv.owners k : OwnerSlot).status

/-- SVN of the running image. -/
def runningSvn (s : Dev) : Nat := match s.sec.image with
  | some i => i.svn
  | none => 0

/-- DBG_STAT.LEVEL. -/
def dbgLevel (s : Dev) : Nat := fget s (A 4 0x94) 30 2

/-- The cause that refuses operation `op` on `slot` with `val`, 0 for none (R613). -/
def fuseErr (nv : Nv) (s : Dev) (op slot val : Nat) : Nat :=
  if dbgLevel s ≠ 2 then 1
  else if op = 1 && ownerState nv slot ≠ 0 then 2
  else if op = 2 && ownerState nv slot ≠ 1 then 3
  else if op = 2 && ((List.range 4).filter fun k => k != slot && ownerState nv k == 1).isEmpty then 4
  else if op = 3 && (decide (64 < val) || decide (val ≤ nv.arb)) then 5
  else if op = 3 && runningSvn s < val then 6
  else 0

/-- SEC.FUSE_DATA as one number, its first byte lowest. -/
def fuseData (s : Dev) : Nat := (List.range 12).foldl (fun a w => a + rdN s (A 4 (0xC0 + 4 * w)) * 2 ^ (32 * w)) 0

/-- A write of `v` to FUSE_CTL (R613): a reserved OP is refused with a CAUSE that the spec does not give, and GO while an
operation is in progress does nothing (DESIGN CHOICE, log entry 96). -/
def writeFuse (v : Nat) (nv : Nv) (s : Dev) : Dev :=
  let s := plainWrite fuseCtl v s
  let op := bits v 28 3
  let c := fuseErr nv s op (bits v 24 2) (bits v 0 7)
  if !bit v 31 || s.sec.fuse.isSome then s
  else if c ≠ 0 then fset fuseRes 27 3 c s
  else if op = 0 || op > 3 then
    let (w, s) := freshWord s
    fset fuseRes 27 3 (w.toNat % 8) s
  else fset fuseRes 27 4 8 { s with sec := { s.sec with fuse := some (op, bits v 24 2, bits v 0 7, fuseData s) } }

/-- OWNER_PROGRAM. -/
def doOwnerProgram (p : Path) (v : Word) (nv : Nv) (s : Dev) : Dev := onWrite p fuseCtl (writeFuse (putBits v.toNat 28 4 9) nv) s
/-- OWNER_REVOKE. -/
def doOwnerRevoke (p : Path) (v : Word) (nv : Nv) (s : Dev) : Dev := onWrite p fuseCtl (writeFuse (putBits v.toNat 28 4 10) nv) s
/-- ARB_ADVANCE. -/
def doArbAdvance (p : Path) (v : Word) (nv : Nv) (s : Dev) : Dev := onWrite p fuseCtl (writeFuse (putBits v.toNat 28 4 11) nv) s

/-- The fuses after operation `f`: OP, SLOT, VALUE and the hash (R613). -/
def blow (f : Nat × Nat × Nat × Nat) (nv : Nv) : Nv :=
  let (op, slot, val, hash) := f
  let o : OwnerSlot := mget (fun _ => {}) nv.owners slot
  if op = 1 then { nv with owners := mset (fun _ => {}) slot { status := 1, hash } nv.owners }
  else if op = 2 then { nv with owners := mset (fun _ => {}) slot { o with status := 3 } nv.owners }
  else { nv with arb := val }

/-- The fuses after the operation in progress ends. -/
def fuseNv (s : Dev) (nv : Nv) : Nv := match s.sec.fuse with
  | some f => blow f nv
  | none => nv

/-- FUSE_DONE: the operation ends. -/
def doFuseDone (s : Dev) : Dev :=
  if s.sec.fuse.isNone then s
  else irqSet 4 4 (fset fuseRes 30 1 0 <| hit fuseRes 31 { s with sec := { s.sec with fuse := none } })

/-! ### Assay (R618, R619) -/

def assayCtl : Nat := A 4 0x98

/-- A write of `v` to ASSAY_CTL (R619). -/
def writeAssay (v : Nat) (s : Dev) : Dev :=
  let s := plainWrite assayCtl v s
  if !bit v 31 || s.sec.assay.isSome || bootStage s < 3 then s
  else fset assayCtl 30 1 1 { s with sec := { s.sec with assay := some ((List.range 8).map fun w => rd s (A 4 (0x100 + 4 * w))) } }

/-- ASSAY_GO. -/
def doAssayGo (p : Path) (s : Dev) : Dev := onWrite p assayCtl (writeAssay 0x80000000) s

/-- The device serial number in 8 bytes. -/
def serialBytes : List Byte := leBytes 6 Config.serial.toNat ++ zeros 2

/-- Bytes 0 to 415 of the Assay report (Table 19-10). -/
def assayBody (nv : Nv) (nonce : List Word) (s : Dev) : List Byte :=
  let img := s.sec.image
  let on := fun (f : Image → Nat) (d : Nat) => match img with
    | some i => f i
    | none => d
  [0x54, 0x5A, 0x41, 0x52] ++ leBytes 2 1 ++ leBytes 2 512 ++ serialBytes ++ nonce.flatMap (fun w => leBytes 4 w.toNat)
    ++ leBytes 8 (now s) ++ leBytes 4 (rdN s (A 3 0x98)) ++ leBytes 4 (rdN s (A 3 0xA4)) ++ digestBytes Config.romMeasure
    ++ (match img with
      | some i => if bootStage s = 6 then zeros 48 else digestBytes i.meas
      | none => zeros 48)
    ++ leBytes 4 (on (·.build) 0) ++ leBytes 1 (on (·.svn) 0) ++ leBytes 1 (on (·.slot) 0xFF) ++ leBytes 1 (on (·.owner) 0xFF) ++ zeros 1
    ++ digestBytes (Config.fuseDigest ((List.range 4).map fun k => let o : OwnerSlot := mget (fun _ => {}) nv.owners k; (o.hash, o.status)) nv.arb)
    ++ digestBytes Config.factoryHash ++ beBytes 48 s.sec.bcal ++ leBytes 8 (rd64 s (A 3 0x8C) - 1) ++ leBytes 4 (rdN s (A 3 0x94))
    ++ leBytes 4 (rdN s (A 2 0xE8)) ++ leBytes 4 (rdN s (A 3 0xA0)) ++ leBytes 4 (rdN s (A 3 0xA8)) ++ leBytes 4 (rdN s (A 3 0x9C))
    ++ leBytes 1 (b2n (fbit s (A 3 0x80) 29)) ++ leBytes 1 (max s.sec.dbgMax (dbgLevel s)) ++ zeros 74

/-- The report with its signature. -/
def assayReport (nv : Nv) (nonce : List Word) (s : Dev) : List Byte :=
  let b := assayBody nv nonce s
  b ++ beBytes 96 (Config.identitySign (Config.sha384 b)).toNat

/-- Bytes go to a window of `n` words from page offset `o` of the SEC page on. -/
def secWindow (o n : Nat) (bs : List Byte) (s : Dev) : Dev :=
  forAll (List.range n) (fun w => wrN (A 4 (o + 4 * w)) (leNat ((bs.drop (4 * w)).take 4))) s

/-- ASSAY_DONE: the signed report is in RPT. -/
def doAssayDone (nv : Nv) (s : Dev) : Dev :=
  match s.sec.assay with
  | none => s
  | some nonce =>
    let s' := secWindow 0x200 128 (assayReport nv nonce s) s
    irqSet 4 1 (fset assayCtl 30 1 0 <| hit assayCtl 29 { s' with sec := { s'.sec with assay := none } })

/-! ### Debug access (R620 to R622) -/

def dbgCtl : Nat := A 4 0x90
def dbgStat : Nat := A 4 0x94

/-- The bytes of a window of `n` words from page offset `o` of the SEC page on. -/
def secBytes (s : Dev) (o n : Nat) : List Byte := (List.range n).flatMap fun w => leBytes 4 (rdN s (A 4 (o + 4 * w)))

/-- NEW: a new challenge (R621). -/
def dbgNewChal (s : Dev) : Dev :=
  let r := Config.random384 s.freeCtr
  let s := { s with freeCtr := s.freeCtr + 1 }
  fset dbgStat 29 1 1 (secWindow 0x400 16 (serialBytes ++ beBytes 48 r.toNat ++ leBytes 4 (rdN s (A 3 0xA4)) ++ zeros 4) s)

/-- The key of the answer is the one that KEYSEL names (R622). -/
def dbgKeyOk (nv : Nv) (sel : Nat) (key : List Byte) : Bool :=
  if sel = 0 then Config.sha384 key == Config.rootHash
  else decide (sel ≤ 4) && ownerState nv (sel - 1) == 1
    && (mget (fun _ => {}) nv.owners (sel - 1) : OwnerSlot).hash == digestNat (Config.sha384 key)

/-- SUBMIT with LEVEL `lv` and KEYSEL `sel` (R622). A SUBMIT refused after three rejections does nothing at all, so
CHAL_VALID stays (DESIGN CHOICE, log entry 96). -/
def dbgAnswer (lv sel : Nat) (nv : Nv) (s : Dev) : Dev :=
  if fget s dbgStat 26 2 = 3 then s
  else
    let resp := secBytes s 0x440 48
    let key := resp.take 96
    let digest := Config.sha384 (secBytes s 0x400 16 ++ leBytes 1 lv)
    let ok := fbit s dbgStat 29 && (lv == 1 || lv == 2) && dbgKeyOk nv sel key && Config.ecdsaVerify key digest (resp.drop 96)
    let s := fset dbgStat 29 1 0 s
    if ok then fset dbgStat 30 2 lv { s with sec := { s.sec with dbgMax := max s.sec.dbgMax lv } }
    else raise 0xF2 1 (irqSet 4 2 (incSat dbgStat 26 2 1 (hit dbgStat 28 s)))

/-- A write of `v` to DBG_CTL: NEW, then SUBMIT, then LOCK. -/
def writeDbg (v : Nat) (nv : Nv) (s : Dev) : Dev :=
  let s := plainWrite dbgCtl v s
  let s := onlyIf (bit v 31) dbgNewChal s
  let s := onlyIf (bit v 30) (dbgAnswer (bits v 24 2) (bits v 20 3) nv) s
  onlyIf (bit v 29) (fset dbgStat 30 2 0) s

/-- DBG_NEW. -/
def doDbgNew (p : Path) (s : Dev) : Dev := onWrite p dbgCtl dbgNewChal s
/-- DBG_SUBMIT. -/
def doDbgSubmit (p : Path) (v : Word) (nv : Nv) (s : Dev) : Dev := onWrite p dbgCtl (writeDbg (putBits v.toNat 29 3 2) nv) s
/-- DBG_LOCK. -/
def doDbgLock (p : Path) (s : Dev) : Dev := onWrite p dbgCtl (fset dbgStat 30 2 0) s

/-! ### IEEE 1149.1 (R623) -/

/-- BYPASS: TDI reaches TDO through one stage that captures 0. -/
def doBypass (tdi : List Bool) (s : Dev) : Dev := emit (.tdo ((false :: tdi).take tdi.length)) { s with jtag := 0 }

/-- IDCODE: the identification code leaves, least significant bit first. -/
def doIdcode (s : Dev) : Dev := emit (.tdo ((List.range 32).map fun i => Config.idcode.getLsbD i)) { s with jtag := 1 }

/-- SAMPLE/PRELOAD: the levels at the balls leave, which the state of the device does not fix. -/
def doSamplePreload (n : Fin 4096) (s : Dev) : Dev :=
  emit (.tdo ((List.range n).map fun i => (Config.freeWord (s.freeCtr + i)).getLsbD 0)) { s with jtag := 2, freeCtr := s.freeCtr + n }

/-- EXTEST: the balls follow the boundary register; in Quench QUENCH# stays low and every DL pair in park. -/
def doExtest (quench : Option Bool) (lanes : List (LaneId × Fin 3)) (s : Dev) : Dev :=
  let s := { s with jtag := 3 }
  let s := match quench with
    | some b => if b && inQuench s then s else emit (.pin .quenchN b) s
    | none => s
  forAll lanes (fun x s => if inQuench s && x.2 != 2 then s else emit (.dl x.1 (nowVs s) (drvCode x.2)) s) s

end Sys2Proof.Machine
end

