-- ==== Sys2Proof/Machine/Act.lean ====
section
/-! DEFINITION. The frame that every command shares: time passes, the deferred effects that fall due take
place, the command acts, and the watches and the fault collector settle. A command without AON supply has no
effect, but for POWER_ON. -/
namespace Sys2Proof.Machine

/-- Before a command's own effect: `dt` mc pass, and what falls due by itself happens. -/
def actPre (dt : Nat) (s : Dev) : Dev := trigAdvance (violAdvance (glnAdvance (dskAdvance (releaseDone (laneAdvance (drlHalts (senseAdvance (softFall (tick dt s)))))))))

/-- After a command's own effect: the watches of sites and memory, the fault collector, and a wake from standby. -/
def actPost (nv : Nv) (s : Dev) : Dev := wakeUp (settleFaults nv (siteWatch (memWatch s)))

/-- A command that acts on the device with effect `f`. -/
def act (dt : Nat) (f : Dev → Dev) (s : State) : Res :=
  .next { s with dev := if s.dev.aon then actPost s.nv (f (actPre dt s.dev)) else s.dev }

/-- A command whose effect reads the non-volatile stores. -/
def actNv (dt : Nat) (f : Nv → Dev → Dev) (s : State) : Res := act dt (f s.nv) s

/-- A command whose effect `g` changes the non-volatile stores; the device then changes by `f`, which reads them. -/
def actStore (dt : Nat) (g : Dev → Nv → Nv) (f : Nv → Dev → Dev) (s : State) : Res :=
  if s.dev.aon then
    .next { s with nv := g (actPre dt s.dev) s.nv
                   dev := actPost (g (actPre dt s.dev) s.nv) (f (g (actPre dt s.dev) s.nv) (actPre dt s.dev)) }
  else .next s

/-- The rise of the AON supply (R601): the one command that acts on a device without supply. -/
def actPowerOn (dt : Nat) (s : State) : Res := if s.dev.aon then act dt id s else .next { s with dev := doPowerOn s.dev }

end Sys2Proof.Machine
end

