-- ==== Sys2Proof/Machine/Disc.lean ====
section
/-! DEFINITION. Discovery: the walk, its report, and the loss of a ring (Headland ring, time and growth
limits, R485 to R487). -/
namespace Sys2Proof.Machine

/-- HDL.ID and HDL.DISC. -/
def idReg : Nat := A ringPage 0x84
def discReg : Nat := A ringPage 0x88

/-- The port of the link that a walk takes next when port `i` is wanted, and whether it goes on in that direction:
where the next port is down the frame goes back the way it came (R487). -/
def walkOn (s : Dev) (i : Nat) : Option (Nat × Bool) :=
  if portUp s i then some (i, true) else if portUp s (otherPort i) then some (otherPort i, false) else none

/-- A WALK frame: 16 words of ID map, then count and span (Table 16-3). What a sum of hops has above 0xFFFF stands in the bits
[63:32] of that word, for which the table gives no use, so that the root can take the smallest hop off the whole sum (R487; DESIGN
CHOICE, log entry 111). -/
def walkFrame (s : Dev) (map : List Nat) (count span : Nat) : List Nat :=
  bulkFrame (bulkHdr 0xB 0 (hdlId s) 0 17 (1 * 2 ^ 20)) (map ++ [(span - 0xFFFF) * 2 ^ 32 + count % 2 ^ 16 * 2 ^ 16 + sat span 0xFFFF])

/-- The walk is over on the root: DONE, COUNT, the mode, SPAN, which saturates, and a REPORT to every device (R487). -/
def walkDone (ring : Bool) (count total : Nat) (s : Dev) : Dev :=
  let span := sat total 0xFFFF
  let d := 2 ^ 29 + b2n (decide (total > 0xFFFF)) * 2 ^ 28 + count % 1024
  let s := wrN discReg d { s with hdl := { s.hdl with walk := 0, walkPort := none } }
  let s := fset (A ringPage 0x8C) 31 1 (b2n (!ring)) (fset (A ringPage 0x8C) 0 16 span s)
  let ws := bulkFrame (bulkHdr 0xB 0 (hdlId s) 0 1 (2 * 2 ^ 20)) [count % 2 ^ 16 * 2 ^ 16 + span % 2 ^ 16]
  irqSet ringPage 1 (if ring then sendBulk 0 ws s else forAll ([0, 1].filter (portUp s)) (fun i => sendBulk i ws) s)

/-- The map with ID `n` set, and whether it is set. -/
def mapSet (map : List Nat) (n : Nat) : List Nat := setNth map (n / 64) (nth 0 map (n / 64) ||| 2 ^ (n % 64))
def mapHas (map : List Nat) (n : Nat) : Bool := bit (nth 0 map (n / 64)) (n % 64)

/-- The ID that the root takes: its PRESET, or 1 (R487). -/
def rootId (s : Dev) : Nat := if fget s idReg 16 10 = 0 then 1 else fget s idReg 16 10

/-- A device takes ID `n` in a walk. -/
def takeId (n : Nat) (s : Dev) : Dev := fset idReg 29 1 1 (fset idReg 0 10 n s)

/-- A START on the root (R487): the root takes its ID, and the walk leaves on HE, or on HW where HE is down. Alone, the
root has found one device. -/
def startWalk (s : Dev) : Dev :=
  if !fbit s (A ringPage 0x80) 31 || fbit s discReg 30 || !running s ringPage then s
  else
    let s := takeId (rootId s) (fset idReg 30 2 0 s)
    let s := wrN discReg (2 ^ 30) { s with hdl := { s.hdl with walkRing := true, walkPort := none } }
    let map := mapSet (List.replicate 16 0) (rootId s)
    match walkOn s 0 with
    | none => walkDone false 1 0 s
    | some (i, _) => sendBulk i (walkFrame s map 1 0) { s with hdl := { s.hdl with walk := if i = 0 then 1 else 3 } }

/-- A write of `v` to DISC: its W1C bit, and START. -/
def writeDisc (v : Nat) (s : Dev) : Dev := onlyIf (bit v 31) startWalk (plainWrite discReg v s)

/-- DISC_START. -/
def doDiscStart (p : Path) (v : Word) (s : Dev) : Dev := onWrite p discReg (writeDisc (v.toNat ||| 0x80000000)) s

/-! ### Received bulk frames (R482, R483) -/

/-- Whether a frame, as its 64-bit words, is discarded: a reserved KIND, WORDS above 128 or not those present, or a wrong
CRC (R483). -/
def frameBad (ws : List Nat) : Bool :=
  let h := nth 0 ws 0
  let n := bits h 24 8
  decide (n > 128) || ws.length != n + 2 || bits h 60 4 < 8 || bits h 60 4 > 0xB
    || bits (nth 0 ws (n + 1)) 0 32 != crc32c ((ws.take (n + 1)).flatMap (leBytes 8))

/-- A word or frame discarded at port `i` counts in PORT_ERR.CRC (R483). -/
def crcBad (i : Nat) (s : Dev) : Dev := irqSet (portPage i) 8 (incSat (A (portPage i) 0x8C) 24 8 1 s)

/-- A bulk frame arrives on port `i`: `f` takes its words once it is found good (R479, R483). -/
def recvBulk (i : Nat) (frame : List (BitVec 64)) (f : List Nat → Dev → Dev) (s : Dev) : Dev :=
  if !portUp s i then s
  else if frameBad (frame.map (·.toNat)) then crcBad i s
  else f (frame.map (·.toNat)) s

/-- A good DISC frame of operation `op` arrives on port `i`. -/
def recvDisc (op i : Nat) (frame : List (BitVec 64)) (f : List Nat → Dev → Dev) (s : Dev) : Dev :=
  recvBulk i frame (fun ws s => if bits (nth 0 ws 0) 60 4 = 0xB && bits (nth 0 ws 0) 20 4 = op then f ws s else s) s

/-! ### The walk, device by device (R487) -/

/-- A first visit: a non-zero PRESET enters the map, or is a duplicate. -/
def firstVisit (map : List Nat) (s : Dev) : List Nat × Dev :=
  let s := fset idReg 30 2 0 s
  let n := fget s idReg 16 10
  if n = 0 then (map, s)
  else if mapHas map n then (map, irqSet ringPage 8 (fset idReg 31 1 1 (takeId n s)))
  else (mapSet map n, takeId n s)

/-- A second visit: a device with PRESET 0 takes the lowest ID that the map leaves. -/
def secondVisit (map : List Nat) (s : Dev) : List Nat × Dev :=
  if fget s idReg 16 10 ≠ 0 then (map, s)
  else match (List.range 1024).find? fun n => n != 0 && !mapHas map n with
    | some n => (mapSet map n, takeId n s)
    | none => (map, irqSet ringPage 8 (hit idReg 30 (fset idReg 29 1 0 (fset idReg 0 10 0 s))))

/-- The walk leaves on port `i`, or back where port `i` is down. -/
def walkSend (i : Nat) (map : List Nat) (count span : Nat) (s : Dev) : Dev :=
  match walkOn s i with
  | some (j, _) => sendBulk j (walkFrame s map count span) s
  | none => s

/-- A walk visits a device other than its root. -/
def walkVisit (i : Nat) (map : List Nat) (count span : Nat) (s : Dev) : Dev :=
  match s.hdl.walkPort with
  | none =>
    let (map, s) := firstVisit map s
    let (count, span) := (count + 1, span + fget s (A (portPage i) 0x88) 0 16)
    if portUp s (otherPort i) then
      sendBulk (otherPort i) (walkFrame s map count span) { s with hdl := { s.hdl with walkPort := some i } }
    else
      let (map, s) := secondVisit map s
      sendBulk i (walkFrame s map count span) { s with hdl := { s.hdl with walkRing := false } }
  | some j =>
    let (map, s) := secondVisit map s
    walkSend (otherPort i) map count span { s with hdl := { s.hdl with walkPort := none, walkRing := i == j } }

/-- The walk returns to its root on port `i`; `least` is the smallest H of a ring's links. -/
def walkRoot (i : Nat) (map : List Nat) (count span least : Nat) (s : Dev) : Dev :=
  let h := fget s (A (portPage i) 0x88) 0 16
  if s.hdl.walk = 1 && i = 1 then
    walkSend 0 map count (span + h) { s with hdl := { s.hdl with walk := 2 } }
  else if s.hdl.walk = 1 && portUp s 1 then
    sendBulk 1 (walkFrame s map count span) { s with hdl := { s.hdl with walk := 3 } }
  else if s.hdl.walk = 2 && i = 1 then walkDone true count (span - min least h) s
  else walkDone false count span s

/-- WALK (R487). -/
def doWalk (i : Fin 2) (frame : List (BitVec 64)) (least : BitVec 16) (s : Dev) : Dev :=
  recvDisc 1 i frame (fun ws s =>
    if ws.length ≠ 19 then s
    else
      let w := nth 0 ws 17
      let map := (ws.drop 1).take 16
      let span := bits w 0 16 + bits w 32 32
      if s.hdl.walk ≠ 0 then walkRoot i map (bits w 16 16) span least.toNat s
      else walkVisit i map (bits w 16 16) span s) s

/-- REPORT (R487): SPAN and the mode are loaded, and the report goes on; its sender takes it off the ring. A
device with DUP, whose ID may be the sender's, forwards it (R486). -/
def doReport (i : Fin 2) (frame : List (BitVec 64)) (s : Dev) : Dev :=
  recvDisc 2 i frame (fun ws s =>
    if ws.length ≠ 3 || (hdlMember s && bits (nth 0 ws 0) 40 10 = hdlId s) then s
    else
      let s := fset (A ringPage 0x8C) 0 16 (bits (nth 0 ws 1) 0 16) s
      let s := fset (A ringPage 0x8C) 31 1 (b2n (!s.hdl.walkRing)) s
      onlyIf (portUp s (otherPort i)) (sendBulk (otherPort i) ws) s) s

/-- BREAK (R485): chain mode sets, and the frame goes on. -/
def doBreakFrame (i : Fin 2) (frame : List (BitVec 64)) (s : Dev) : Dev :=
  recvDisc 3 i frame (fun ws s => setBroken (onlyIf (portUp s (otherPort i)) (sendBulk (otherPort i) ws) s)) s

end Sys2Proof.Machine
end

