-- ==== Sys2Proof/Machine/Access.lean ====
section
/-! DEFINITION. A read and a write of any register on any path: the header, the dispatch to the block that owns the
register, the read latches and the snapshots (Register pages). -/
namespace Sys2Proof.Machine

/-! ### Snapshots (R60 to R62) -/

/-- The bits of the row at `a` that read live whatever FREEZE holds: every field but the RO and RC ones, BLK_CTL.SRST of code W1S
included (R60). -/
def liveMask (a : Nat) (r : Reg) : Nat := r.rw ||| r.w1c ||| (if a % 0x1000 = 8 then 2 else 0)

/-- The key of the snapshot of the register at `a` for path `p`: the pop port's registers are each path's own (R428). -/
def snapKey (p : Path) (a : Nat) : Nat := if a / 0x1000 = 0x171 && 0x80 ≤ a % 0x1000 then a + 2 ^ 22 * pathNum p else a

/-- The snapshot value at `a` for path `p`. -/
def snapAt (s : Dev) (p : Path) (a : Nat) : Word := mget (fun _ => 0) s.snap (snapKey p a)

/-- Whether the register at `a` reads live whatever FREEZE holds: the source window of the FLT page (R590). -/
def alwaysLive (a : Nat) : Bool := A 2 0x84 ≤ a && a < A 2 0xA0

/-- The value of the assigned register at `a` as a read shows it. -/
def shown (nv : Nv) (p : Path) (r : Reg) (a : Nat) (s : Dev) : Word :=
  let v := peek nv p a s
  if s.frozen.contains (a / 0x1000) && !alwaysLive a then
    (v &&& w32 (liveMask a r)) ||| (snapAt s p a &&& (w32 m32 ^^^ w32 (liveMask a r)))
  else v

/-- Page `pg` copies its RO and RC fields. -/
def takeSnap (nv : Nv) (pg : Nat) (s : Dev) : Dev :=
  let paths := if pg = 0x171 then [Path.host, .svc0, .svc1, .svc2, .svc3, .smbus, .headland] else [Path.host]
  let put := fun (m : NMap Word) (x : Path × Nat) => if (regAt (A pg (4 * x.2))).isSome then
    mset (fun _ => 0) (snapKey x.1 (A pg (4 * x.2))) (peek nv x.1 (A pg (4 * x.2)) s) m else m
  { s with snap := (paths.flatMap fun p => (List.range 1024).map fun i => (p, i)).foldl put (mdrop (fun a => a / 0x1000 % 0x400 == pg) s.snap)
           frozen := if s.frozen.contains pg then s.frozen else s.frozen ++ [pg] }

/-- A write of BLK_CTL.FREEZE of page `pg`. -/
def writeFreeze (nv : Nv) (pg : Nat) (v : Bool) (s : Dev) : Dev :=
  let old := fbit s (A pg 8) 2
  let s := fset (A pg 8) 2 1 (b2n v) s
  if v == old then s
  else if pg = 0 then
    if v then
      forAll ((List.range 0x1A4).filter fun q => (pageKind q).isSome && pageOn s q && (q = 0 || !fbit s (A q 8) 2)) (takeSnap nv) s
    else { s with frozen := s.frozen.filter fun q => q != 0 && fbit s (A q 8) 2 }
  else if v then takeSnap nv pg s
  else if fbit s (A 0 8) 2 then s
  else { s with frozen := s.frozen.filter (· ≠ pg) }

/-! ### Writes -/

/-- SRST is RO on these pages (Table 02-5, R474). -/
def srstRO : PageKind → Bool
  | .flt | .hmk | .sec | .pwr | .flwMb => true
  | _ => false

/-- A write of `v` to BLK_CTL of page `pg` (R60 to R70). A word that sets FREEZE and changes EN takes the snapshot first,
so that the snapshot of BLK_STAT shows the block before the change of EN (DESIGN CHOICE, log entry 25). -/
def writeBlkCtl (nv : Nv) (pg v : Nat) (s : Dev) : Dev :=
  match pageKind pg with
  | none => s
  | some k =>
    if bit v 1 && !srstRO k then (if pg = 0 then chipReset 3 0 s else blkReset pg s)
    else writeEn pg (bit v 0) (writeFreeze nv pg (bit v 2) s)

/-- A write of `v` to LOCK of page `pg` (R63). -/
def writeLock (pg v : Nat) (s : Dev) : Dev :=
  fset (A pg 0x2C) 31 1 (b2n (bits v 0 16 != 0x5EED)) (plainWrite (A pg 0x2C) v s)

/-- A write of `v` to IRQ_STAT of page `pg`: the message goes out again when the request is still 1 (R532). -/
def writeIrqStat (pg v : Nat) (s : Dev) : Dev :=
  let s := plainWrite (A pg 0x10) v s
  onlyIf (irqReq s pg) (pageMsix pg) s

/-- A write of `v` to FAULT_CAUSE of page `pg`: FAULT reads 1 while a cause is left. -/
def writeFaultCause (pg v : Nat) (s : Dev) : Dev :=
  let s := plainWrite (A pg 0x1C) v s
  fset (A pg 0xC) 3 1 (b2n (rdN s (A pg 0x1C) != 0)) s

/-- A write of `v` to header register `o` of page `pg`. -/
def writeHdr (nv : Nv) (pg o v : Nat) (s : Dev) : Dev :=
  if o = 8 then writeBlkCtl nv pg v s
  else if o = 0x10 then writeIrqStat pg v s
  else if o = 0x14 then withIrq pg (plainWrite (A pg 0x14) v) s
  else if o = 0x18 then irqSet pg v s
  else if o = 0x1C then writeFaultCause pg v s
  else if o = 0x2C then writeLock pg v s
  else s

/-- A write that takes the register's pairing and access codes as they stand (R57). -/
def writePaired (p : Path) (a v : Nat) (s : Dev) : Dev :=
  match regAt a with
  | some r =>
    match r.pairing with
    | .pairLo => stageLo p a v s
    | .pairHi => commitHi p (a - 4) v s
    | _ => plainWrite a v s
  | none => s

/-- A write of `v` to the TIME page (R125, R410, R490). -/
def writeTime (o v : Nat) (s : Dev) : Dev :=
  if o = 0x80 then writeRefCfg v s
  else if o = 0xC0 then writeCalOffset .plane v s
  else if o = 0x100 then onlyIf (bit v 28) syncFire (plainWrite (A 1 o) v s)
  else plainWrite (A 1 o) v s

/-- A write of `v` to the SEC and PWR pages (R595, R597, R612 to R620). -/
def writeSec (nv : Nv) (o v : Nat) (s : Dev) : Dev :=
  if o = 0x88 then writeFuse v nv s
  else if o = 0x90 then writeDbg v nv s
  else if o = 0x98 then writeAssay v s
  else plainWrite (A 4 o) v s
def writePwr (p : Path) (o v : Nat) (s : Dev) : Dev :=
  if o = 0x80 then writePwrCtl p v s
  else if o = 0x84 then writeDomReq v s
  else plainWrite (A 5 o) v s

/-- A write of `v` to the pages of bank `b`. -/
def writeBankCfg (b o v : Nat) (s : Dev) : Dev :=
  if o = 0x84 then writeSpareCfg b v s
  else if o ≥ 0x100 then writeLaneCfg (64 * b + (o - 0x100) / 4) v s
  else if o = 0x80 && bit v 8 && !fbit s (A (cfgPage b) 0x80) 8 then
    setCal b { getCal s b with openEn := some (now s) } (plainWrite (A (cfgPage b) o) v s)
  else plainWrite (A (cfgPage b) o) v s
def writeBankTs (p : Path) (b o v : Nat) (s : Dev) : Dev :=
  if o ≥ 0x100 then
    if (o - 0x100) % 28 = 0 then commitTs p b ((o - 0x100) / 28) (w32 v) s
    else stageEdge p b ((o - 0x100) / 28) ((o - 0x100) % 28 / 4 - 1) (w32 v) s
  else writePaired p (A (tsPage b) o) v s
def writeBankCal (p : Path) (b o v : Nat) (s : Dev) : Dev :=
  if o = 0x80 then writeCalCtl b v s
  else if o = 0x90 then writeDskCtl b v s
  else if 0x200 ≤ o && o < 0x300 then writeCalOffset (.dsk (Fin.ofNat 512 (64 * b + (o - 0x200) / 4))) v s
  else if 0x300 ≤ o && o < 0x400 then writeCalOffset (.rpo (Fin.ofNat 512 (64 * b + (o - 0x300) / 4))) v s
  else writePaired p (A (calPage b) o) v s
def writeBankRfx (p : Path) (b o v : Nat) (s : Dev) : Dev :=
  if o = 0x8C then forAll ((List.range 16).filter (bit v)) (endHoldNext b) s
  else if 0x100 ≤ o && o < 0x200 then
    let r := (o - 0x100) / 16
    if o % 16 = 0 then writeRfxCfg b r v s
    else writeRfxReg p b r (if o % 16 = 4 then .hold else if o % 16 = 8 then .maskLo else .maskHi) v s
  else writePaired p (A (rfxPage b) o) v (noteRow (A (rfxPage b) o) s)

/-- A write of `v` to YOKE of engine `e`: ROLE and POS only while the furrow is stopped (Table 06-12). -/
def writeYoke (e v : Nat) (s : Dev) : Dev :=
  if engStopped s e then plainWrite (fa e 0x8C) v s else fset (fa e 0x8C) 0 6 (bits v 0 6) s

/-- A W1C write of `v` to TRIG_LATCH or MASKV at page offset `o` of engine `e`: the latches that it clears are clear from now on for
the decisions that look back (R186, R187). -/
def writeLatches (e o v : Nat) (s : Dev) : Dev :=
  let t := plainWrite (fa e o) v s
  let k0 := if o = 0xD0 then 1 else 21 + 8 * (o - 0xD4)
  forAll ((List.range 32).filter fun i => fbit s (fa e o) i && !fbit t (fa e o) i) (fun i => latNote e (k0 + i) (nowVs s) false) t

/-- A write of `v` to the page of engine `e`. -/
def writeFur (p : Path) (e o v : Nat) (s : Dev) : Dev :=
  if o = 0x80 then writeFurCtl e v s
  else if o = 0x8C then writeYoke e v s
  else if o = 0x90 then writeMap e v s
  else if 0x400 ≤ o && o < 0x800 then
    if o % 8 = 0 then writePerN p e ((o - 0x400) / 8) v s else stagePerF p e ((o - 0x400) / 8) (w32 v) s
  else if isGenOff o then genWrite e o v s
  else if o = 0xD0 || o = 0xD4 || o = 0xD8 then writeLatches e o v s
  else writePaired p (fa e o) v (noteRow (fa e o) s)

/-- A command word of FEC.CMD (Table 03-18): DATA is ignored for READ and POLL, and a broadcast is sent with CHIP 0, as Table 03-5
asks of it, whatever the write's CHIP holds (DESIGN CHOICE, log entry 107). -/
def cmdOf (v : Nat) : FecCmd :=
  let k := bits v 26 3
  { chip := if k = 4 || k = 5 then 0 else bits v 29 3, kind := k, addr := bits v 16 10,
    data := if k = 2 || k = 3 then 0 else bits v 0 16, src := 0 }

/-- A write of `v` to the FEC page of bank `b`. -/
def writeFec (p : Path) (b o v : Nat) (s : Dev) : Dev :=
  if o = 0x80 then writeFecCfg b v s
  else if o = 0x84 then fecCommand b (cmdOf v) s
  else if o = 0x8C then writeGrpCtl b v s
  else writePaired p (A (fecPage b) o) v s

/-- A write of `v` to a Headland page (R477, R499, R505, R506, R509). -/
def writeHdl (p : Path) (k : PageKind) (pg o v : Nat) (s : Dev) : Dev :=
  match k with
  | .hdlRing => if o = 0x88 then writeDisc v s else onlyIf (o == 0x80) holdLock (plainWrite (A pg o) v s)
  | .hdlPort => onlyIf (o == 0x80 && bit v 31) (portTrain (pg - 0x181) 0) (plainWrite (A pg o) v s)
  | .hdlTrig =>
    if 0x80 ≤ o && o < 0x90 then writeTinCfg ((o - 0x80) / 4) v s
    else if 0xC0 ≤ o && o < 0xD0 then writeToutCfg p ((o - 0xC0) / 4) v s
    else if o = 0xD0 then fireTouts v s
    else if 0x100 ≤ o && o < 0x140 then writeLineSrc p ((o - 0x100) / 4) v s
    else if o = 0x140 then fireLines v s
    else plainWrite (A pg o) v s
  | .hdlRpa =>
    if o = 0x80 then (if running s pg then writeRpaCtl v s else plainWrite (A pg o) v s) else plainWrite (A pg o) v s
  | _ =>
    if o = 0x84 && bit v 31 && bits v 0 20 + 1023 > 0xFFFFF then refused p (A pg o) s else plainWrite (A pg o) v s

/-- A write of `v` to the MEM page of channel `c`: clearing VALID of the error log clears its whole pair; one that an error of
the same mc has set stays (R17). -/
def writeMem (c o v : Nat) (s : Dev) : Dev :=
  if o = 0x80 then writeMemCtl c v s
  else if o = 0x9C then
    let s := plainWrite (A (memPage c) o) v s
    onlyIf (bit v 31 && !fbit s (A (memPage c) o) 31) (wrN (A (memPage c) 0x98) 0) s
  else plainWrite (A (memPage c) o) v s

/-- A write of `v` to page offset `o` of page `pg` of kind `k`, at 0x080 or above. -/
def writeBlock (nv : Nv) (p : Path) (k : PageKind) (pg o v : Nat) (s : Dev) : Dev :=
  match k with
  | .chip => if o = 0x80 then writeFieldCfg v s else plainWrite (A pg o) v s
  | .time => writeTime o v s
  | .flt => writeFlt o v s
  | .sec => writeSec nv o v s
  | .pwr => writePwr p o v s
  | .tod => writeTod p o v s
  | .bankCfg => writeBankCfg ((pg - 0x40) / 4) o v s
  | .bankTs => writeBankTs p ((pg - 0x40) / 4) o v s
  | .bankCal => writeBankCal p ((pg - 0x40) / 4) o v s
  | .bankRfx => writeBankRfx p ((pg - 0x40) / 4) o v s
  | .fur => writeFur p (pg - 0x80) o v s
  | .gln | .glnH => writeGln pg o v s
  | .acq => writeAcq pg o v s
  | .tim | .tim0 => writeTim p (pg - 0x140) o v s
  | .fen => if o = 0x80 then plainWrite (A pg o) v s else writeFence (3 * (pg - 0x150) + o / 0x100 - 1) (o % 0x100) v s
  | .rmp => writeRmp (pg - 0x158) o v s
  | .drl => writeDrl p (pg - 0x160) o v s
  | .grn => writeGrn p o v s
  | .grnPop => writePop p o v s
  | .flw => writeFlw p o v s
  | .flwMb => writeSites p o v s
  | .hdlRing | .hdlPort | .hdlTrig | .hdlRpa | .hdlRes => writeHdl p k pg o v s
  | .mem | .mem0 => writeMem (pg - 0x188) o v s
  | .eth => writeEth p o v s
  | .xsp => if o = 0x84 then writeXspCmd v s else if o = 0x90 then writeXspProt v s else plainWrite (A pg o) v s
  | .fec => writeFec p (pg - 0x194) o v s
  | .hmk | .svc | .wake | .pci | .smb | .jes => writePaired p (A pg o) v s

/-- A write of `v` to the assigned register at `a` on path `p`, once the guard has let it through. -/
def writeReg (nv : Nv) (p : Path) (a v : Nat) (s : Dev) : Dev :=
  match pageKind (a / 0x1000) with
  | none => s
  | some k =>
    if a % 0x1000 < 0x80 then writeHdr nv (a / 0x1000) (a % 0x1000) v s
    else writeBlock nv p k (a / 0x1000) (a % 0x1000) v s

/-- A write access at BAR0 offset `a` with byte enables `be` (R54). One that is misaligned or partial is recorded as that
(R644) and has no other effect, also where the page is locked (DEDUCED, log entry 22). -/
def busWrite (nv : Nv) (p : Path) (a : Nat) (be : BitVec 4) (v : Word) (s : Dev) : Dev :=
  if a % 4 ≠ 0 || be ≠ 0xF then accessErr p a 1 s else onWrite p a (writeReg nv p a v.toNat) s

/-! ### Reads -/

/-- What a block brings up to now before a read of its page. -/
def beforeRead (k : PageKind) (pg o : Nat) (s : Dev) : Dev :=
  match k with
  | .fen => if 0x100 ≤ o && o < 0x400 then fenNow (3 * (pg - 0x150) + o / 0x100 - 1) s else s
  | .rmp => rmpNow (pg - 0x158) s
  | _ => s

/-- What a read of the assigned register at `a` returns, and what it does to the block that owns it. -/
def readReg (nv : Nv) (p : Path) (k : PageKind) (r : Reg) (a : Nat) (s : Dev) : Word × Dev :=
  let pg := a / 0x1000
  let o := a % 0x1000
  if k = .fec && o = 0x88 then (if s.frozen.contains pg then (shown nv p r a s, s) else rspRead (pg - 0x194) s)
  else if k = .grnPop && o = 0x84 then popRead p s
  else if k = .acq && (o = 0x138 || o = 0x538) then readEnv (2 * (pg - 0x120) + o / 0x538) s
  else if k = .mem0 && o = 0xC0 then (shown nv p r a s, if s.frozen.contains pg then s else { s with tagPeak := 0 })
  else if k = .flt && o = 0x88 then (shown nv p r a s, lookSrc s)
  else if k = .flt && o = 0x8C then
    let i := fget s (A 2 0x80) 0 8
    let new := if (getSrc s i).last = aT s then min (getSrc s i).count 1 else 0
    if (srcPage i).isNone || s.frozen.contains pg then (shown nv p r a s, s)
    else (shown nv p r a s - w32 new, setSrc i { getSrc s i with count := new } s)
  else if s.frozen.contains pg then (shown nv p r a s, s)
  else if k = .flw && o = 0xA0 then (shown nv p r a s, fset a 16 16 (if s.fieldMc = some (now s) then fget s a 0 16 else 0) s)
  else (shown nv p r a s - w32 (rcFresh s a r.rc), rcClear a r.rc s)

/-- The path's read latch loads the other registers of the group of the LO register at `a` (R56), as a read shows them: of
a frozen page, from its snapshot (DESIGN CHOICE, log entry 25). -/
def loadLatch (nv : Nv) (p : Path) (n a : Nat) (s : Dev) : Dev :=
  let other := fun i => match regAt (a + 4 * (i + 1)) with
    | some r' => shown nv p r' (a + 4 * (i + 1)) s
    | none => 0
  setPath p { getPath s p with latchGrp := some a, latch := (List.range n).map other } s

/-- A read access at BAR0 offset `a0` on path `p` (R54, R56, R58, R71): the data, and the device after it. A read of a page in
block reset returns reset values and loads no read latch (DESIGN CHOICE, log entry 25). -/
def busRead (nv : Nv) (p : Path) (a0 : Nat) (s : Dev) : Word × Dev :=
  let a := a0 / 4 * 4
  match regAt a, pageKind (a / 0x1000) with
  | some r, some k =>
    if !pageOn s (a / 0x1000) then (0, s)
    else if s.resetting.contains (a / 0x1000) then ((if a % 0x1000 = 8 then regReset a ||| 2 else regReset a), s)
    else
      let s := beforeRead k (a / 0x1000) (a % 0x1000) s
      match r.pairing with
      | .latLo n => (shown nv p r a s, loadLatch nv p n a s)
      | .latMem i => ((if (getPath s p).latchGrp = some (a - 4 * i) then nth 0 (getPath s p).latch (i - 1) else 0), s)
      | _ => readReg nv p k r a s
  | _, _ => (0, s)

/-- A read that returns its data on path `p`. -/
def busReadOut (nv : Nv) (p : Path) (a : Nat) (s : Dev) : Dev := emit (.rd p (busRead nv p a s).1) (busRead nv p a s).2

/-! ### The rows of the register pages -/

/-- REGISTER_WRITE (R54). -/
def doRegisterWrite (p : Path) (off : Off) (be : BitVec 4) (v : Word) (nv : Nv) (s : Dev) : Dev := busWrite nv p off.toNat be v s

/-- LATCHED_READ (R56). -/
def doLatchedRead (p : Path) (off : Off) (nv : Nv) (s : Dev) : Dev := busReadOut nv p off.toNat s

/-- RC_READ (R16, R54). -/
def doRcRead (p : Path) (off : Off) (nv : Nv) (s : Dev) : Dev := busReadOut nv p off.toNat s

/-- Whether the register at `a` has the pairing `k`. -/
def isPair (k : Pairing) (a : Nat) : Bool :=
  match regAt a with
  | some r => r.pairing == k
  | none => false

/-- PAIR_LO_WRITE (R57); on another register nothing happens. -/
def doPairLoWrite (p : Path) (off : Off) (v : Word) (nv : Nv) (s : Dev) : Dev :=
  onlyIf (isPair .pairLo off.toNat) (busWrite nv p off.toNat 0xF v) s

/-- PAIR_HI_WRITE (R57); on another register nothing happens. -/
def doPairHiWrite (p : Path) (off : Off) (v : Word) (nv : Nv) (s : Dev) : Dev :=
  onlyIf (isPair .pairHi off.toNat) (busWrite nv p off.toNat 0xF v) s

/-- A write of BLK_CTL. -/
def blkCtlWrite (p : Path) (pg : Page) (v : Word) (nv : Nv) (s : Dev) : Dev := busWrite nv p (A pg.toNat 8) 0xF v s

/-- BLOCK_ENABLE (R66): EN 1, and FREEZE as given. -/
def doBlockEnable (p : Path) (pg : Page) (freeze : Bool) (nv : Nv) (s : Dev) : Dev :=
  blkCtlWrite p pg (w32 (1 + 4 * b2n freeze)) nv s

/-- DRAIN (R67): EN 0, and FREEZE as given. -/
def doDrain (p : Path) (pg : Page) (freeze : Bool) (nv : Nv) (s : Dev) : Dev := blkCtlWrite p pg (w32 (4 * b2n freeze)) nv s

/-- BLOCK_RESET (R70). -/
def doBlockReset (p : Path) (pg : Page) (nv : Nv) (s : Dev) : Dev := blkCtlWrite p pg 2 nv s

/-- FREEZE (R60): FREEZE goes to 1, with EN as given. -/
def doFreeze (p : Path) (pg : Page) (en : Bool) (nv : Nv) (s : Dev) : Dev := blkCtlWrite p pg (w32 (4 + b2n en)) nv s

/-- LOCK_KEY (R63). -/
def doLockKey (p : Path) (pg : Page) (v : Word) (nv : Nv) (s : Dev) : Dev := busWrite nv p (A pg.toNat 0x2C) 0xF v s

/-- IRQ_FORCE (Table 02-7). -/
def doIrqForce (p : Path) (pg : Page) (v : Word) (nv : Nv) (s : Dev) : Dev := busWrite nv p (A pg.toNat 0x18) 0xF v s

/-- FEC_RSP_READ (Table 03-19). -/
def doFecRspRead (p : Path) (b : Bank) (nv : Nv) (s : Dev) : Dev := busReadOut nv p (A (fecPage b) 0x88) s

/-- POP_DATA_READ (R428). -/
def doPopDataRead (p : Path) (nv : Nv) (s : Dev) : Dev := busReadOut nv p (A 0x171 0x84) s

/-- ENV_DATA_ACCESS (R336): a write or a read of ENV_DATA of channel `c`. -/
def doEnvDataAccess (p : Path) (c : Fin 64) (write : Bool) (v : Word) (nv : Nv) (s : Dev) : Dev :=
  if write then busWrite nv p (aa c 0x38) 0xF v s else busReadOut nv p (aa c 0x38) s

/-- SRC_STAT_READ (R551). -/
def doSrcStatRead (p : Path) (nv : Nv) (s : Dev) : Dev := busReadOut nv p (A 2 0x88) s

end Sys2Proof.Machine
end

