-- ==== Sys2Proof/Machine/Remote.lean ====
section
/-! DEFINITION. What arrives from outside on the Headland link and on SMBus: express words, RESULT, PAGE_REQ and PAGE_RSP
frames, and the SMBus commands (Headland ring, time and growth limits; Memory and host ports). -/
namespace Sys2Proof.Machine

/-! ### Express words (R480 to R484, R494, R500 to R503) -/

/-- EXPRESS_RECEIVE (R481, R484): a word arrives in the mc in which one with WAIT 12 is presented; it is itself presented 12 − WAIT
mc later (DESIGN CHOICE, log entry 110). -/
def doExpressReceive (i : Fin 2) (w : BitVec 64) (s : Dev) : Dev :=
  let v := w.toNat
  let kind := bits v 60 4
  if !portUp s i then s
  else if crc8 56 (v / 256) ≠ bits v 0 8 || kind = 0 || kind > 3 then crcBad i s
  else if bits v 28 4 < 12 then { s with hdl := { s.hdl with rxq := s.hdl.rxq ++ [(i.toNat, v, now s + 12 - bits v 28 4)] } }
  else presentExp i v (now s) s

/-! ### Bulk frames (R482, R484, R486) -/

/-- A frame that is not for this device goes on (Table 16-4). -/
def forwardBulk (i : Nat) (ws : List Nat) (s : Dev) : Dev :=
  if hdlChain s then onlyIf (portUp s (otherPort i)) (sendBulk (otherPort i) ws) s else sendBulk 0 ws s

/-- A good frame of KIND `kind` arrives on port `i`: `own` acts on a frame that this device sent itself, `f` consumes one
for this device (Table 16-4, R486). -/
def recvFor (kind i : Nat) (frame : List (BitVec 64)) (own f : List Nat → Dev → Dev) (s : Dev) : Dev :=
  recvBulk i frame (fun ws s =>
    let h := nth 0 ws 0
    if bits h 60 4 ≠ kind then s
    else if bits h 50 10 = 0 then (if hdlMember s then f ws s else s)
    else if hdlMember s && bits h 50 10 = hdlId s then f ws s
    else if hdlMember s && !hdlChain s && bits h 40 10 = hdlId s then own ws s
    else forwardBulk i ws s) s

/-! ### RESULT (R509) -/

/-- A record from source `n` is lost. -/
def resLost (s : Dev) : Dev := irqSet resPage 1 (incSat (A resPage 0x90) 0 32 1 s)

def getRes (s : Dev) (n : Nat) : Option ResIn := mget (fun _ => none) s.hdl.resIn n
def setRes (n : Nat) (x : Option ResIn) (s : Dev) : Dev := { s with hdl := { s.hdl with resIn := mset (fun _ => none) n x s.hdl.resIn } }

/-- A complete record from source `n`, as its bytes, is placed in the device's own queue (R509). -/
def placeResult (n : Nat) (bs : List Byte) (s : Dev) : Dev :=
  let h := leNat (bs.take 16)
  let s := incSat (A resPage 0x8C) 0 32 1 s
  offer { q := fget s (A resPage 0x84) 0 20 + n, typ := bits h 56 7, flags := bits h 48 8, epoch := bits h 40 8, sys := bit h 52,
          len := bs.length, ts := h / 2 ^ 96, body := bs.drop 16, whole := true, tag := 0, site := some (bits h 32 6) } s

/-- A RESULT frame from source `n` joins its record (R508, R509). -/
def takeResult (ws : List Nat) (s : Dev) : Dev :=
  if !running s resPage || !fbit s (A resPage 0x84) 31 then s
  else
    let h := nth 0 ws 0
    let n := bits h 40 10
    let tag := bits h 32 8
    let bs := ((ws.drop 1).take (bits h 24 8)).flatMap (leBytes 8)
    let last := bit h 22
    let (old, s) := if bit h 23 then
        (some { bytes := [], tag := (tag + 255) % 256 }, match getRes s n with
          | some x => if x.bad then s else resLost s
          | none => s)
      else (getRes s n, s)
    match old with
    | none => if last then resLost s else setRes n (some { bytes := [], tag, bad := true }) (resLost s)
    | some x =>
      if x.bad || (x.tag + 1) % 256 ≠ tag then
        setRes n (if last then none else some { bytes := [], tag, bad := true }) (if x.bad then s else resLost s)
      else if last then placeResult n (x.bytes ++ bs) (setRes n none s)
      else setRes n (some { x with bytes := x.bytes ++ bs, tag }) s

/-- RESULT (R509). -/
def doResult (i : Fin 2) (frame : List (BitVec 64)) (s : Dev) : Dev := recvFor 8 i frame (fun _ s => s) takeResult s

/-! ### Remote page access (R506, R507) -/

/-- Whether a write of `v` at `a` on path `p` would be recorded in CHIP.ACCESS_ERR, were it clear. -/
def wouldRefuse (nv : Nv) (p : Path) (a : Nat) (v : Word) (s : Dev) : Bool :=
  fbit (busWrite nv p a 0xF v (wrN (A 0 0x94) 0 s)) (A 0 0x94) 31

/-- A PAGE_REQ for this device is carried out on the Headland path, and answered (R507). -/
def serveReq (nv : Nv) (ws : List Nat) (s : Dev) : Dev :=
  let h := nth 0 ws 0
  let a := bits h 0 20 * 4
  let answer := fun (code data : Nat) (s : Dev) =>
    originate (bulkFrame (bulkHdr 0xA (bits h 40 10) (hdlId s) (bits h 32 8) 1 (code * 2 ^ 21)) [data]) s
  if !fbit s (A ringPage 0x80) 27 then answer 3 0 s
  else if bit h 23 then
    let v := w32 (nth 0 ws 1)
    answer (if wouldRefuse nv .headland a v s then 4 else 0) 0 (busWrite nv .headland a 0xF v s)
  else answer 0 (busRead nv .headland a s).1.toNat (busRead nv .headland a s).2

/-- A PAGE_REQ of this device's own comes back: no device took it (Table 16-4). -/
def noRoute (ws : List Nat) (s : Dev) : Dev :=
  match s.hdl.rpa with
  | some (tag, _, _) => if bits (nth 0 ws 0) 32 8 = tag then rpaEnd 1 s else s
  | none => s

/-- PAGE_REQ (R507). -/
def doPageReq (i : Fin 2) (frame : List (BitVec 64)) (nv : Nv) (s : Dev) : Dev := recvFor 9 i frame noRoute (serveReq nv) s

/-- A PAGE_RSP for this device: the request in flight ends with its CODE, and a read takes its data (R506). -/
def takeRsp (ws : List Nat) (s : Dev) : Dev :=
  let h := nth 0 ws 0
  match s.hdl.rpa with
  | some (tag, _, rdReq) =>
    if bits h 32 8 ≠ tag then s
    else rpaEnd (bits h 21 3) (onlyIf rdReq (wrN (A rpaPage 0x88) (bits (nth 0 ws 1) 0 32)) s)
  | none => s

/-- PAGE_RSP (R506). -/
def doPageRsp (i : Fin 2) (frame : List (BitVec 64)) (s : Dev) : Dev := recvFor 0xA i frame (fun _ s => s) takeRsp s

/-! ### SMBus (R540, R541, R584, R599) -/

/-- An SMBus transaction with its PEC right, wrong or absent: `f` carries it out unless it is NACKed. -/
def smbCmd (pec : Option Bool) (f : Dev → Dev) (s : Dev) : Dev :=
  let bad := pec == some false || (pec == none && fbit s (A 0x192 0x80) 31)
  if !running s 0x192 then s
  else if bad then incSat (A 0x192 0x84) 0 16 1 s
  else f (incSat (A 0x192 0x84) 16 16 1 s)

/-- STATUS: SVC powered, CHIP READY, and QUENCH#, REPLACE# and ERR# asserted (Table 17-9). -/
def smbWord (s : Dev) : Nat :=
  b2n (domOn s 1) + 2 * b2n (blkReady s 0) + 4 * b2n (quenchParks s || s.flt.rel.isSome) + 8 * b2n (fbit s (A 2 0xC) 4)
    + 16 * b2n (fbit s (A 2 0xC0) 29)

/-- STATUS. -/
def doSmbStatus (pec : Option Bool) (s : Dev) : Dev := smbCmd pec (fun s => emit (.smb (leBytes 2 (smbWord s))) s) s

/-- REG_ADDR. -/
def doRegAddr (off : Word) (pec : Option Bool) (s : Dev) : Dev :=
  smbCmd pec (fun s => { s with smb := { s.smb with addr := off.toNat } }) s

/-- Whether `a` lies in a page whose domain is off (Table 17-9). -/
def regOff (s : Dev) (a : Nat) : Bool := (pageKind (a / 0x1000)).isSome && !pageOn s (a / 0x1000)

/-- REG_READ: a status byte, the outcome of a REG_WRITE before it included, and four data bytes (R541). -/
def doRegRead (pec : Option Bool) (nv : Nv) (s : Dev) : Dev :=
  smbCmd pec (fun s =>
    let a := s.smb.addr
    let st := if s.smb.wst ≠ 0 then s.smb.wst else if regOff s a then 1 else 0
    let (v, s) := busRead nv .smbus a s
    emit (.smb (leBytes 1 st ++ leBytes 4 v.toNat)) { s with smb := { s.smb with wst := 0 } }) s

/-- A write of `v` at `a` on the SMBus path, and its outcome for the next REG_READ. -/
def smbWrite (nv : Nv) (a : Nat) (v : Word) (s : Dev) : Dev :=
  let st := if regOff s a then 1 else if wouldRefuse nv .smbus a v s then 2 else 0
  let s := busWrite nv .smbus a 0xF v s
  { s with smb := { s.smb with wst := st } }

/-- REG_WRITE. -/
def doRegWrite (v : Word) (pec : Option Bool) (nv : Nv) (s : Dev) : Dev := smbCmd pec (fun s => smbWrite nv s.smb.addr v s) s

/-- HMK_SEL: the record index and the half. -/
def doHmkSel (v : Word) (pec : Option Bool) (s : Dev) : Dev :=
  smbCmd pec (fun s => { s with smb := { s.smb with sel := v.toNat / 2, half := v.toNat % 2 } }) s

/-- The 256 bytes of Hallmark slot `k`. -/
def slotBytes (nv : Nv) (k : Nat) : List Byte := (getSlot nv k ++ zeros 256).take 256

/-- HMK_READ: 128 bytes; then the half advances, and after half 1 the index (Table 17-9). -/
def doHmkRead (pec : Option Bool) (nv : Nv) (s : Dev) : Dev :=
  smbCmd pec (fun s =>
    let x := s.smb
    let s := emit (.smb (((slotBytes nv x.sel).drop (128 * x.half)).take 128)) s
    { s with smb := if x.half = 0 then { x with half := 1 } else { x with half := 0, sel := (x.sel + 1) % 8192 } }) s

/-- HMK_RANGE: the oldest valid index, then the next to be written (R584). -/
def doHmkRange (pec : Option Bool) (s : Dev) : Dev :=
  smbCmd pec (fun s => emit (.smb (leBytes 4 (rdN s (A 3 0x88)) ++ leBytes 4 (rdN s (A 3 0x84)))) s) s

/-- WAKE: a write of PWR.CTL.WAKE over SMBus (R599). -/
def doWake (pec : Option Bool) (nv : Nv) (s : Dev) : Dev := smbCmd pec (smbWrite nv (A 5 0x80) 0x40000000) s

end Sys2Proof.Machine
end

