-- ==== Sys2Proof/Machine/Commands.lean ====
section
/-! DEFINITION. The meaning of every command: its effect on the device, inside the frame that all commands share. -/
namespace Sys2Proof.Machine

/-- REGISTER_WRITE (R54). -/
def execRegisterWrite (dt : Nat) (p : Path) (off : Off) (be : BitVec 4) (v : Word) (s : State) : Res := actNv dt (doRegisterWrite p off be v) s
/-- MSIX_PENDING_SEND (R533). -/
def execMsixPendingSend (dt : Nat) (vec : BitVec 11) (s : State) : Res := act dt (doMsixPendingSend vec) s
/-- LATCHED_READ (R56). -/
def execLatchedRead (dt : Nat) (p : Path) (off : Off) (s : State) : Res := actNv dt (doLatchedRead p off) s
/-- RC_READ (R16). -/
def execRcRead (dt : Nat) (p : Path) (off : Off) (s : State) : Res := actNv dt (doRcRead p off) s
/-- PAIR_LO_WRITE (R57). -/
def execPairLoWrite (dt : Nat) (p : Path) (off : Off) (v : Word) (s : State) : Res := actNv dt (doPairLoWrite p off v) s
/-- PAIR_HI_WRITE (R57). -/
def execPairHiWrite (dt : Nat) (p : Path) (off : Off) (v : Word) (s : State) : Res := actNv dt (doPairHiWrite p off v) s
/-- BLOCK_ENABLE (R66). -/
def execBlockEnable (dt : Nat) (p : Path) (pg : Page) (freeze : Bool) (s : State) : Res := actNv dt (doBlockEnable p pg freeze) s
/-- DRAIN (R67). -/
def execDrain (dt : Nat) (p : Path) (pg : Page) (freeze : Bool) (s : State) : Res := actNv dt (doDrain p pg freeze) s
/-- DRAIN_DONE (R67). -/
def execDrainDone (dt : Nat) (pg : Page) (s : State) : Res := act dt (doDrainDone pg) s
/-- BLOCK_RESET (R70). -/
def execBlockReset (dt : Nat) (p : Path) (pg : Page) (s : State) : Res := actNv dt (doBlockReset p pg) s
/-- BLOCK_RESET_DONE (R70). -/
def execBlockResetDone (dt : Nat) (pg : Page) (s : State) : Res := act dt (doBlockResetDone pg) s
/-- FREEZE (R60). -/
def execFreeze (dt : Nat) (p : Path) (pg : Page) (en : Bool) (s : State) : Res := actNv dt (doFreeze p pg en) s
/-- LOCK_KEY (R63). -/
def execLockKey (dt : Nat) (p : Path) (pg : Page) (v : Word) (s : State) : Res := actNv dt (doLockKey p pg v) s
/-- IRQ_FORCE (R51). -/
def execIrqForce (dt : Nat) (p : Path) (pg : Page) (v : Word) (s : State) : Res := actNv dt (doIrqForce p pg v) s
/-- FIELD_CFG_WRITE (R36). -/
def execFieldCfgWrite (dt : Nat) (p : Path) (v : Word) (s : State) : Res := act dt (doFieldCfgWrite p v) s
/-- FIELD_TICK (R35). -/
def execFieldTick (dt : Nat) (s : State) : Res := act dt doFieldTick s
/-- MAIN_PLL_UNLOCK (R30). -/
def execMainPllUnlock (dt : Nat) (s : State) : Res := act dt doMainPllUnlock s
/-- ROW_ISSUE (R22). -/
def execRowIssue (dt : Nat) (e : Eng) (s : State) : Res := act dt (doRowIssue e) s
/-- ROW_TICK (R117). -/
def execRowTick (dt : Nat) (e : Eng) (s : State) : Res := act dt (doRowTick e) s
/-- COMPARE_RESULT (R26). -/
def execCompareResult (dt : Nat) (e : Eng) (s : State) : Res := act dt (doCompareResult e) s
/-- SENSE_TRANSITION (R83). -/
def execSenseTransition (dt : Nat) (l : LaneId) (vs : BitVec 10) (st : SState) (s : State) : Res := act dt (doSenseTransition l vs st) s
/-- SENSE_OPEN_DETECT (R84). -/
def execSenseOpenDetect (dt : Nat) (l : LaneId) (s : State) : Res := act dt (doSenseOpenDetect l) s
/-- SENSE_OPEN_RECOVER (R84). -/
def execSenseOpenRecover (dt : Nat) (l : LaneId) (s : State) : Res := act dt (doSenseOpenRecover l) s
/-- LANE_CFG_WRITE (R75). -/
def execLaneCfgWrite (dt : Nat) (p : Path) (l : LaneId) (v : Word) (s : State) : Res := act dt (doLaneCfgWrite p l v) s
/-- LANE_IO_FAIL (R108). -/
def execLaneIoFail (dt : Nat) (l : LaneId) (rx : Bool) (s : State) : Res := act dt (doLaneIoFail l rx) s
/-- SPARE_MAP (R109). -/
def execSpareMap (dt : Nat) (p : Path) (b : Bank) (v : Word) (s : State) : Res := act dt (doSpareMap p b v) s
/-- SPARE_UNMAP (R109). -/
def execSpareUnmap (dt : Nat) (p : Path) (b : Bank) (v : Word) (s : State) : Res := act dt (doSpareUnmap p b v) s
/-- WRITE_NOW (R96). -/
def execWriteNow (dt : Nat) (p : Path) (b : Bank) (chip : BitVec 3) (addr : BitVec 10) (data : BitVec 16) (s : State) : Res := act dt (doWriteNow p b chip addr data) s
/-- WRITE_ARMED (R95). -/
def execWriteArmed (dt : Nat) (p : Path) (b : Bank) (chip : BitVec 3) (addr : BitVec 10) (data : BitVec 16) (s : State) : Res := act dt (doWriteArmed p b chip addr data) s
/-- READ (R91). -/
def execRead (dt : Nat) (p : Path) (b : Bank) (chip : BitVec 3) (addr : BitVec 10) (s : State) : Res := act dt (doRead p b chip addr) s
/-- POLL (R91). -/
def execPoll (dt : Nat) (p : Path) (b : Bank) (chip : BitVec 3) (s : State) : Res := act dt (doPoll p b chip) s
/-- BCAST_NOW (R91). -/
def execBcastNow (dt : Nat) (p : Path) (b : Bank) (addr : BitVec 10) (data : BitVec 16) (s : State) : Res := act dt (doBcastNow p b addr data) s
/-- BCAST_ARMED (R95). -/
def execBcastArmed (dt : Nat) (p : Path) (b : Bank) (addr : BitVec 10) (data : BitVec 16) (s : State) : Res := act dt (doBcastArmed p b addr data) s
/-- FEC_FRAME_SEND (R97). -/
def execFecFrameSend (dt : Nat) (b : Bank) (s : State) : Res := act dt (doFecFrameSend b) s
/-- FEC_RESPONSE (R92). -/
def execFecResponse (dt : Nat) (b : Bank) (frame : BitVec 39) (edge : BitVec 5) (s : State) : Res := act dt (doFecResponse b frame edge) s
/-- FEC_RESPONSE_TIMEOUT (R100). -/
def execFecResponseTimeout (dt : Nat) (b : Bank) (s : State) : Res := act dt (doFecResponseTimeout b) s
/-- APPLY (R98). -/
def execApply (dt : Nat) (b : Bank) (s : State) : Res := act dt (doApply b) s
/-- CLOSE (R97). -/
def execClose (dt : Nat) (p : Path) (b : Bank) (v : Word) (s : State) : Res := act dt (doClose p b v) s
/-- FLUSH (R105). -/
def execFlush (dt : Nat) (p : Path) (b : Bank) (v : Word) (s : State) : Res := act dt (doFlush p b v) s
/-- STATUS_POLL (R102). -/
def execStatusPoll (dt : Nat) (b : Bank) (s : State) : Res := act dt (doStatusPoll b) s
/-- FEC_RSP_READ (R114). -/
def execFecRspRead (dt : Nat) (p : Path) (b : Bank) (s : State) : Res := actNv dt (doFecRspRead p b) s
/-- PER_N_WRITE (R118). -/
def execPerNWrite (dt : Nat) (p : Path) (e : Eng) (i : Fin 128) (v : Word) (s : State) : Res := act dt (doPerNWrite p e i v) s
/-- PER_F_WRITE (R119). -/
def execPerFWrite (dt : Nat) (p : Path) (e : Eng) (i : Fin 128) (v : Word) (s : State) : Res := act dt (doPerFWrite p e i v) s
/-- TS_EDGE_WRITE (R120). -/
def execTsEdgeWrite (dt : Nat) (p : Path) (b : Bank) (j : Fin 128) (edge : Fin 6) (v : Word) (s : State) : Res := act dt (doTsEdgeWrite p b j edge v) s
/-- TS_FMT_COMMIT (R122). -/
def execTsFmtCommit (dt : Nat) (p : Path) (b : Bank) (j : Fin 128) (v : Word) (s : State) : Res := act dt (doTsFmtCommit p b j v) s
/-- CAL_OFFSET_WRITE (R125). -/
def execCalOffsetWrite (dt : Nat) (p : Path) (r : CalReg) (v : Word) (s : State) : Res := act dt (doCalOffsetWrite p r v) s
/-- DESKEW_START (R135). -/
def execDeskewStart (dt : Nat) (p : Path) (b : Bank) (v : Word) (s : State) : Res := act dt (doDeskewStart p b v) s
/-- DESKEW_DONE (R133). -/
def execDeskewDone (dt : Nat) (b : Bank) (rt : List (Option (BitVec 32))) (s : State) : Res := act dt (doDeskewDone b rt) s
/-- BACKGROUND_RECALIBRATION (R137). -/
def execBackgroundRecalibration (dt : Nat) (b : Bank) (temp : BitVec 16) (pend : BitVec 16) (bad : List (Fin 66)) (s : State) : Res := act dt (doBackgroundRecalibration b temp pend bad) s
/-- SWAP (R137). -/
def execSwap (dt : Nat) (b : Bank) (slice : Fin 66) (pend : BitVec 16) (drift : BitVec 16) (s : State) : Res := act dt (doSwap b slice pend drift) s
/-- REFLEX_DRIVE (R156). -/
def execReflexDrive (dt : Nat) (b : Bank) (r : Fin 16) (s : State) : Res := act dt (doReflexDrive b r) s
/-- REFLEX_HOLD_END (R157). -/
def execReflexHoldEnd (dt : Nat) (b : Bank) (r : Fin 16) (s : State) : Res := act dt (doReflexHoldEnd b r) s
/-- RFX_CLR (R157). -/
def execRfxClr (dt : Nat) (p : Path) (b : Bank) (v : Word) (s : State) : Res := act dt (doRfxClr p b v) s
/-- RFX_CFG_WRITE (R161). -/
def execRfxCfgWrite (dt : Nat) (p : Path) (b : Bank) (r : Fin 16) (v : Word) (s : State) : Res := act dt (doRfxCfgWrite p b r v) s
/-- RFX_HOLD_WRITE (R160). -/
def execRfxHoldWrite (dt : Nat) (p : Path) (b : Bank) (r : Fin 16) (reg : RfxReg) (v : Word) (s : State) : Res := act dt (doRfxHoldWrite p b r reg v) s
/-- MAP_WRITE (R165). -/
def execMapWrite (dt : Nat) (p : Path) (e : Eng) (v : Word) (s : State) : Res := act dt (doMapWrite p e v) s
/-- FURROW_START (R167). -/
def execFurrowStart (dt : Nat) (p : Path) (e : Eng) (v : Word) (s : State) : Res := act dt (doFurrowStart p e v) s
/-- FURROW_STOP (R170). -/
def execFurrowStop (dt : Nat) (p : Path) (e : Eng) (v : Word) (s : State) : Res := act dt (doFurrowStop p e v) s
/-- PRIME_COMPLETE (R220). -/
def execPrimeComplete (dt : Nat) (e : Eng) (s : State) : Res := act dt (doPrimeComplete e) s
/-- RUN_START (R168). -/
def execRunStart (dt : Nat) (e : Eng) (s : State) : Res := act dt (doRunStart e) s
/-- FURROW_STOPPED (R170). -/
def execFurrowStopped (dt : Nat) (e : Eng) (s : State) : Res := act dt (doFurrowStopped e) s
/-- EMIT (R179). -/
def execEmit (dt : Nat) (e : Eng) (w : BitVec 64) (s : State) : Res := act dt (doEmit e w) s
/-- RPT (R180). -/
def execRpt (dt : Nat) (e : Eng) (w : BitVec 64) (s : State) : Res := act dt (doRpt e w) s
/-- AGEN (R181). -/
def execAgen (dt : Nat) (e : Eng) (w : BitVec 64) (s : State) : Res := act dt (doAgen e w) s
/-- GSET (R181). -/
def execGset (dt : Nat) (e : Eng) (w : BitVec 64) (s : State) : Res := act dt (doGset e w) s
/-- JMP (R185). -/
def execJmp (dt : Nat) (e : Eng) (w : BitVec 64) (s : State) : Res := act dt (doJmp e w) s
/-- CALL (R197). -/
def execCall (dt : Nat) (e : Eng) (w : BitVec 64) (s : State) : Res := act dt (doCall e w) s
/-- LOOP (R197). -/
def execLoop (dt : Nat) (e : Eng) (w : BitVec 64) (s : State) : Res := act dt (doLoop e w) s
/-- BR (R188). -/
def execBr (dt : Nat) (e : Eng) (w : BitVec 64) (s : State) : Res := act dt (doBr e w) s
/-- WAIT (R195). -/
def execWait (dt : Nat) (e : Eng) (w : BitVec 64) (s : State) : Res := act dt (doWait e w) s
/-- SYNC (R196). -/
def execSync (dt : Nat) (e : Eng) (w : BitVec 64) (s : State) : Res := act dt (doSync e w) s
/-- SET (R182). -/
def execSetReg (dt : Nat) (e : Eng) (w : BitVec 64) (s : State) : Res := act dt (doSetReg e w) s
/-- REC (R184). -/
def execRecWrite (dt : Nat) (e : Eng) (w : BitVec 64) (s : State) : Res := act dt (doRecWrite e w) s
/-- HALT (R178). -/
def execHalt (dt : Nat) (e : Eng) (w : BitVec 64) (s : State) : Res := act dt (doHalt e w) s
/-- LEND (R197). -/
def execLend (dt : Nat) (e : Eng) (s : State) : Res := act dt (doLend e) s
/-- RET (R197). -/
def execRet (dt : Nat) (e : Eng) (s : State) : Res := act dt (doRet e) s
/-- BRANCH_DECIDE (R187). -/
def execBranchDecide (dt : Nat) (e : Eng) (s : State) : Res := act dt (doBranchDecide e) s
/-- BRANCH_RESOLVE (R192). -/
def execBranchResolve (dt : Nat) (e : Eng) (s : State) : Res := act dt (doBranchResolve e) s
/-- WAIT_END (R195). -/
def execWaitEnd (dt : Nat) (e : Eng) (s : State) : Res := act dt (doWaitEnd e) s
/-- WAIT_TIMEOUT (R195). -/
def execWaitTimeout (dt : Nat) (e : Eng) (s : State) : Res := act dt (doWaitTimeout e) s
/-- PREFETCH_WALK (R217). -/
def execPrefetchWalk (dt : Nat) (e : Eng) (s : State) : Res := act dt (doPrefetchWalk e) s
/-- TILE_READ (R212). -/
def execTileRead (dt : Nat) (e : Eng) (tile : BitVec 22) (err : Bool) (s : State) : Res := act dt (doTileRead e tile err) s
/-- GENERATOR_WRITE (R244). -/
def execGeneratorWrite (dt : Nat) (p : Path) (e : Eng) (off : BitVec 12) (v : Word) (s : State) : Res := act dt (doGeneratorWrite p e off v) s
/-- ROW_TAKE (R266). -/
def execRowTake (dt : Nat) (f : Fin 64) (s : State) : Res := act dt (doRowTake f) s
/-- TRANSITION_RECORD_AGE (R281). -/
def execTransitionRecordAge (dt : Nat) (f : Fin 64) (kind : Fin 2) (s : State) : Res := act dt (doTransitionRecordAge f kind) s
/-- TRANSITION_DRAIN (R282). -/
def execTransitionDrain (dt : Nat) (s : State) : Res := act dt doTransitionDrain s
/-- STAT_FLUSH (R286). -/
def execStatFlush (dt : Nat) (p : Path) (f : Fin 64) (u : Fin 4) (v : Word) (s : State) : Res := act dt (doStatFlush p f u v) s
/-- HIST_CFG_WRITE (R289). -/
def execHistCfgWrite (dt : Nat) (p : Path) (k : Fin 16) (base : Bool) (v : Word) (s : State) : Res := act dt (doHistCfgWrite p k base v) s
/-- SYSREF_PULSE (R303). -/
def execSysrefPulse (dt : Nat) (k : Fin 4) (s : State) : Res := act dt (doSysrefPulse k) s
/-- JES_BLOCK_LOCK (R304). -/
def execJesBlockLock (dt : Nat) (k : Fin 4) (s : State) : Res := act dt (doJesBlockLock k) s
/-- JES_EMB_LOCK (R304). -/
def execJesEmbLock (dt : Nat) (k : Fin 4) (s : State) : Res := act dt (doJesEmbLock k) s
/-- JES_ALIGNED (R304). -/
def execJesAligned (dt : Nat) (k : Fin 4) (s : State) : Res := act dt (doJesAligned k) s
/-- JES_MULTIBLOCK (R306). -/
def execJesMultiblock (dt : Nat) (k : Fin 4) (first : Bool) (ok : Bool) (data : List (BitVec 16)) (s : State) : Res := act dt (doJesMultiblock k first ok data) s
/-- JES_LINK_DOWN (R307). -/
def execJesLinkDown (dt : Nat) (k : Fin 4) (s : State) : Res := act dt (doJesLinkDown k) s
/-- SAMPLE_PROCESS (R309). -/
def execSampleProcess (dt : Nat) (c : Fin 64) (s : State) : Res := act dt (doSampleProcess c) s
/-- SEGMENT_RECORD_CLOSE (R333). -/
def execSegmentRecordClose (dt : Nat) (c : Fin 64) (s : State) : Res := act dt (doSegmentRecordClose c) s
/-- ACQ_REARM (R325). -/
def execAcqRearm (dt : Nat) (c : Fin 64) (s : State) : Res := act dt (doAcqRearm c) s
/-- ACQ_ARM (R321). -/
def execAcqArm (dt : Nat) (p : Path) (c : Fin 64) (s : State) : Res := act dt (doAcqArm p c) s
/-- ACQ_STOP (R326). -/
def execAcqStop (dt : Nat) (p : Path) (c : Fin 64) (s : State) : Res := act dt (doAcqStop p c) s
/-- ACQ_FORCE (R313). -/
def execAcqForce (dt : Nat) (p : Path) (c : Fin 64) (s : State) : Res := act dt (doAcqForce p c) s
/-- ENV_DATA_ACCESS (R336). -/
def execEnvDataAccess (dt : Nat) (p : Path) (c : Fin 64) (write : Bool) (v : Word) (s : State) : Res := actNv dt (doEnvDataAccess p c write v) s
/-- RECORD_OPEN (R422). -/
def execRecordOpen (dt : Nat) (site : Fin 64) (typ : BitVec 8) (flags : BitVec 8) (epoch : BitVec 8) (len : Nat) (tag : Nat) (s : State) : Res := act dt (doRecordOpen site typ flags epoch len tag) s
/-- RECORD_CLOSE (R423). -/
def execRecordClose (dt : Nat) (tag : Nat) (body : List Byte) (s : State) : Res := act dt (doRecordClose tag body) s
/-- COMMIT_ADVANCE (R425). -/
def execCommitAdvance (dt : Nat) (q : BitVec 20) (s : State) : Res := act dt (doCommitAdvance q) s
/-- QSEL_WRITE (R448). -/
def execQselWrite (dt : Nat) (p : Path) (v : Word) (s : State) : Res := act dt (doQselWrite p v) s
/-- LOAD (R448). -/
def execLoad (dt : Nat) (p : Path) (s : State) : Res := act dt (doLoad p) s
/-- WRITE (R419). -/
def execWrite (dt : Nat) (p : Path) (s : State) : Res := act dt (doWrite p) s
/-- SET_MARK (R432). -/
def execSetMark (dt : Nat) (p : Path) (s : State) : Res := act dt (doSetMark p) s
/-- CLR_MARK (R432). -/
def execClrMark (dt : Nat) (p : Path) (s : State) : Res := act dt (doClrMark p) s
/-- REWIND (R432). -/
def execRewind (dt : Nat) (p : Path) (s : State) : Res := act dt (doRewind p) s
/-- CLR_WM (R431). -/
def execClrWm (dt : Nat) (p : Path) (s : State) : Res := act dt (doClrWm p) s
/-- CLR_FLAGS (R448). -/
def execClrFlags (dt : Nat) (p : Path) (s : State) : Res := act dt (doClrFlags p) s
/-- SEAL (R439). -/
def execSeal (dt : Nat) (p : Path) (epoch : BitVec 8) (s : State) : Res := act dt (doSeal p epoch) s
/-- SEAL_PLACE (R439). -/
def execSealPlace (dt : Nat) (q : BitVec 20) (epoch : BitVec 8) (s : State) : Res := act dt (doSealPlace q epoch) s
/-- FLUSH_CACHE (R415). -/
def execFlushCache (dt : Nat) (p : Path) (s : State) : Res := act dt (doFlushCache p) s
/-- QCMD_DONE (R448). -/
def execQcmdDone (dt : Nat) (s : State) : Res := act dt doQcmdDone s
/-- CACHE_FILL (R443). -/
def execCacheFill (dt : Nat) (q : BitVec 20) (s : State) : Res := act dt (doCacheFill q) s
/-- DOORBELL_WRITE (R427). -/
def execDoorbellWrite (dt : Nat) (q : BitVec 20) (v : Word) (s : State) : Res := act dt (doDoorbellWrite q v) s
/-- POP_SEL (R428). -/
def execPopSel (dt : Nat) (p : Path) (v : Word) (s : State) : Res := act dt (doPopSel p v) s
/-- POP_RELEASE (R428). -/
def execPopRelease (dt : Nat) (p : Path) (s : State) : Res := act dt (doPopRelease p) s
/-- POP_DATA_READ (R428). -/
def execPopDataRead (dt : Nat) (p : Path) (s : State) : Res := actNv dt (doPopDataRead p) s
/-- NR_RD_WRITE (R442). -/
def execNrRdWrite (dt : Nat) (p : Path) (n : Fin 16) (v : Word) (s : State) : Res := act dt (doNrRdWrite p n v) s
/-- NR_BASE_HI_WRITE (R440). -/
def execNrBaseHiWrite (dt : Nat) (p : Path) (n : Fin 16) (v : Word) (s : State) : Res := act dt (doNrBaseHiWrite p n v) s
/-- DESC_BASE_HI_WRITE (R446). -/
def execDescBaseHiWrite (dt : Nat) (p : Path) (v : Word) (s : State) : Res := act dt (doDescBaseHiWrite p v) s
/-- DESC_INIT_DONE (R446). -/
def execDescInitDone (dt : Nat) (s : State) : Res := act dt doDescInitDone s
/-- SITE_CUR_WRITE (R438). -/
def execSiteCurWrite (dt : Nat) (p : Path) (site : Fin 64) (v : Word) (s : State) : Res := act dt (doSiteCurWrite p site v) s
/-- TIM_ARM (R348). -/
def execTimArm (dt : Nat) (p : Path) (k : Fin 16) (s : State) : Res := act dt (doTimArm p k) s
/-- TIM_STOP (R354). -/
def execTimStop (dt : Nat) (p : Path) (k : Fin 16) (s : State) : Res := act dt (doTimStop p k) s
/-- TIM_FLUSH (R358). -/
def execTimFlush (dt : Nat) (p : Path) (k : Fin 16) (s : State) : Res := act dt (doTimFlush p k) s
/-- TIM_EVENT (R344). -/
def execTimEvent (dt : Nat) (k : Fin 16) (s : State) : Res := act dt (doTimEvent k) s
/-- TIM_TIMEOUT (R352). -/
def execTimTimeout (dt : Nat) (k : Fin 16) (s : State) : Res := act dt (doTimTimeout k) s
/-- DEAD_TIME_END (R351). -/
def execDeadTimeEnd (dt : Nat) (k : Fin 16) (s : State) : Res := act dt (doDeadTimeEnd k) s
/-- TIM_IN_EDGE (R346). -/
def execTimInEdge (dt : Nat) (i : Fin 4) (vs : BitVec 10) (rising : Bool) (s : State) : Res := act dt (doTimInEdge i vs rising) s
/-- TIN_CFG_WRITE (R347). -/
def execTinCfgWrite (dt : Nat) (p : Path) (i : Fin 4) (v : Word) (s : State) : Res := act dt (doTinCfgWrite p i v) s
/-- BIN_TABLE_BUILT (R361). -/
def execBinTableBuilt (dt : Nat) (k : Fin 16) (stop : Bool) (s : State) : Res := act dt (doBinTableBuilt k stop) s
/-- CAL_LOCK_LOSS (R361). -/
def execCalLockLoss (dt : Nat) (k : Fin 16) (stop : Bool) (s : State) : Res := act dt (doCalLockLoss k stop) s
/-- FENCE_CROSSING (R371). -/
def execFenceCrossing (dt : Nat) (f : Fin 24) (upper : Bool) (pos : Fin 3) (s : State) : Res := act dt (doFenceCrossing f upper pos) s
/-- FENCE_FILTER_SAMPLE (R376). -/
def execFenceFilterSample (dt : Nat) (f : Fin 24) (s : State) : Res := act dt (doFenceFilterSample f) s
/-- FENCE_WINDOW_WRITE (R384). -/
def execFenceWindowWrite (dt : Nat) (p : Path) (f : Fin 24) (r : Fin 5) (v : Word) (s : State) : Res := act dt (doFenceWindowWrite p f r v) s
/-- DAC_SETTLE (R384). -/
def execDacSettle (dt : Nat) (f : Fin 24) (upper : Bool) (s : State) : Res := act dt (doDacSettle f upper) s
/-- MODE_HOLD_END (R373). -/
def execModeHoldEnd (dt : Nat) (f : Fin 24) (upper : Bool) (s : State) : Res := act dt (doModeHoldEnd f upper) s
/-- FENCE_TEST_WRITE (R383). -/
def execFenceTestWrite (dt : Nat) (p : Path) (f : Fin 24) (v : Word) (s : State) : Res := act dt (doFenceTestWrite p f v) s
/-- RAMP_START (R381). -/
def execRampStart (dt : Nat) (p : Path) (r : Fin 4) (s : State) : Res := act dt (doRampStart p r) s
/-- RAMP_STOP (R381). -/
def execRampStop (dt : Nat) (p : Path) (r : Fin 4) (s : State) : Res := act dt (doRampStop p r) s
/-- RAMP_REARM (R381). -/
def execRampRearm (dt : Nat) (p : Path) (r : Fin 4) (s : State) : Res := act dt (doRampRearm p r) s
/-- RAMP_STEP (R380). -/
def execRampStep (dt : Nat) (r : Fin 4) (s : State) : Res := act dt (doRampStep r) s
/-- POWER_UP_RESPONSE_END (R372). -/
def execPowerUpResponseEnd (dt : Nat) (f : Fin 24) (upper : Bool) (s : State) : Res := act dt (doPowerUpResponseEnd f upper) s
/-- DRILL_START (R399). -/
def execDrillStart (dt : Nat) (p : Path) (d : Fin 16) (mode : Fin 4) (s : State) : Res := act dt (doDrillStart p d mode) s
/-- DRILL_STOP (R400). -/
def execDrillStop (dt : Nat) (p : Path) (d : Fin 16) (s : State) : Res := act dt (doDrillStop p d) s
/-- DRILL_STEP (R396). -/
def execDrillStep (dt : Nat) (d : Fin 16) (s : State) : Res := act dt (doDrillStep d) s
/-- DRILL_EDGE (R391). -/
def execDrillEdge (dt : Nat) (d : Fin 16) (s : State) : Res := act dt (doDrillEdge d) s
/-- LIST_STAGE (R395). -/
def execListStage (dt : Nat) (p : Path) (d : Fin 16) (w : Fin 3) (v : Word) (s : State) : Res := act dt (doListStage p d w v) s
/-- LIST_COMMIT (R395). -/
def execListCommit (dt : Nat) (p : Path) (d : Fin 16) (v : Word) (s : State) : Res := act dt (doListCommit p d v) s
/-- AMP_GROUP_CLOSE (R402). -/
def execAmpGroupClose (dt : Nat) (d : Fin 16) (b : Bank) (s : State) : Res := act dt (doAmpGroupClose d b) s
/-- MARKER_RELEASE (R407). -/
def execMarkerRelease (dt : Nat) (i : Fin 16) (s : State) : Res := act dt (doMarkerRelease i) s
/-- MK_DLY_WRITE (R408). -/
def execMkDlyWrite (dt : Nat) (p : Path) (i : Fin 16) (v : Word) (s : State) : Res := act dt (doMkDlyWrite p i v) s
/-- SYNC_IN_PULSE (R410). -/
def execSyncInPulse (dt : Nat) (s : State) : Res := act dt doSyncInPulse s
/-- FIRE (R410). -/
def execFire (dt : Nat) (p : Path) (s : State) : Res := act dt (doFire p) s
/-- SYNC_QUALIFIED (R410). -/
def execSyncQualified (dt : Nat) (s : State) : Res := act dt doSyncQualified s
/-- SYNC_OUT_PULSE_END (R412). -/
def execSyncOutPulseEnd (dt : Nat) (s : State) : Res := act dt doSyncOutPulseEnd s
/-- PING (R472). -/
def execPing (dt : Nat) (p : Path) (s : State) : Res := act dt (doPing p) s
/-- SITE_SET (R449). -/
def execSiteSet (dt : Nat) (p : Path) (s : State) : Res := act dt (doSiteSet p) s
/-- SITE_CLEAR (R450). -/
def execSiteClear (dt : Nat) (p : Path) (s : State) : Res := act dt (doSiteClear p) s
/-- FLOW_START (R472). -/
def execFlowStart (dt : Nat) (p : Path) (s : State) : Res := act dt (doFlowStart p) s
/-- FLOW_ABORT (R458). -/
def execFlowAbort (dt : Nat) (p : Path) (s : State) : Res := act dt (doFlowAbort p) s
/-- SITE_STATUS (R472). -/
def execSiteStatus (dt : Nat) (p : Path) (s : State) : Res := act dt (doSiteStatus p) s
/-- MIGRATE (R468). -/
def execMigrate (dt : Nat) (p : Path) (s : State) : Res := act dt (doMigrate p) s
/-- YIELD_CLEAR (R472). -/
def execYieldClear (dt : Nat) (p : Path) (s : State) : Res := act dt (doYieldClear p) s
/-- STEP_TIMEOUT (R458). -/
def execStepTimeout (dt : Nat) (i : Fin 64) (s : State) : Res := act dt (doStepTimeout i) s
/-- STEP_LIMIT (R460). -/
def execStepLimit (dt : Nat) (i : Fin 64) (s : State) : Res := act dt (doStepLimit i) s
/-- TRAIN (R477). -/
def execTrain (dt : Nat) (p : Path) (i : Fin 2) (v : Word) (s : State) : Res := act dt (doTrain p i v) s
/-- TRAINING_DONE (R477). -/
def execTrainingDone (dt : Nat) (i : Fin 2) (lanes : BitVec 4) (l : BitVec 16) (peer : BitVec 10) (s : State) : Res := act dt (doTrainingDone i lanes l peer) s
/-- PORT_LOCK_LOSS (R478). -/
def execPortLockLoss (dt : Nat) (i : Fin 2) (lane : Fin 4) (s : State) : Res := act dt (doPortLockLoss i lane) s
/-- TRAIN_RETRY (R478). -/
def execTrainRetry (dt : Nat) (i : Fin 2) (s : State) : Res := act dt (doTrainRetry i) s
/-- EXPRESS_SEND (R481). -/
def execExpressSend (dt : Nat) (i : Fin 2) (s : State) : Res := act dt (doExpressSend i) s
/-- EXPRESS_RECEIVE (R481). -/
def execExpressReceive (dt : Nat) (i : Fin 2) (w : BitVec 64) (s : State) : Res := act dt (doExpressReceive i w) s
/-- RESULT (R509). -/
def execResult (dt : Nat) (i : Fin 2) (frame : List (BitVec 64)) (s : State) : Res := act dt (doResult i frame) s
/-- PAGE_REQ (R507). -/
def execPageReq (dt : Nat) (i : Fin 2) (frame : List (BitVec 64)) (s : State) : Res := actNv dt (doPageReq i frame) s
/-- PAGE_RSP (R506). -/
def execPageRsp (dt : Nat) (i : Fin 2) (frame : List (BitVec 64)) (s : State) : Res := act dt (doPageRsp i frame) s
/-- WALK (R487). -/
def execWalk (dt : Nat) (i : Fin 2) (frame : List (BitVec 64)) (least : BitVec 16) (s : State) : Res := act dt (doWalk i frame least) s
/-- REPORT (R487). -/
def execReport (dt : Nat) (i : Fin 2) (frame : List (BitVec 64)) (s : State) : Res := act dt (doReport i frame) s
/-- BREAK (R485). -/
def execBreakFrame (dt : Nat) (i : Fin 2) (frame : List (BitVec 64)) (s : State) : Res := act dt (doBreakFrame i frame) s
/-- DISC_START (R487). -/
def execDiscStart (dt : Nat) (p : Path) (v : Word) (s : State) : Res := act dt (doDiscStart p v) s
/-- EXT_REF_LOSS (R490). -/
def execExtRefLoss (dt : Nat) (s : State) : Res := act dt doExtRefLoss s
/-- OCXO_RDY_FALL (R490). -/
def execOcxoRdyFall (dt : Nat) (s : State) : Res := act dt doOcxoRdyFall s
/-- EXT_REF_RETURN (R490). -/
def execExtRefReturn (dt : Nat) (s : State) : Res := act dt doExtRefReturn s
/-- SLEW_DONE (R491). -/
def execSlewDone (dt : Nat) (s : State) : Res := act dt doSlewDone s
/-- WARM_RISE (R492). -/
def execWarmRise (dt : Nat) (s : State) : Res := act dt doWarmRise s
/-- HOLDOVER_EXPIRY (R492). -/
def execHoldoverExpiry (dt : Nat) (s : State) : Res := act dt doHoldoverExpiry s
/-- REF_SEL_WRITE (R490). -/
def execRefSelWrite (dt : Nat) (p : Path) (v : Word) (s : State) : Res := act dt (doRefSelWrite p v) s
/-- TIME_FRAME (R494). -/
def execTimeFrame (dt : Nat) (s : State) : Res := act dt doTimeFrame s
/-- RELOAD (R495). -/
def execReload (dt : Nat) (p : Path) (s : State) : Res := act dt (doReload p) s
/-- PPS_EDGE (R496). -/
def execPpsEdge (dt : Nat) (rising : Bool) (s : State) : Res := act dt (doPpsEdge rising) s
/-- SECOND_ROLL (R497). -/
def execSecondRoll (dt : Nat) (s : State) : Res := act dt doSecondRoll s
/-- PPS_LOSS (R497). -/
def execPpsLoss (dt : Nat) (s : State) : Res := act dt doPpsLoss s
/-- LATCH (R498). -/
def execLatch (dt : Nat) (p : Path) (s : State) : Res := act dt (doLatch p) s
/-- SEC_NEXT_ARM (R496). -/
def execSecNextArm (dt : Nat) (p : Path) (v : Word) (s : State) : Res := act dt (doSecNextArm p v) s
/-- TRIG_IN_EVENT (R504). -/
def execTrigInEvent (dt : Nat) (i : Fin 4) (rising : Bool) (vs : BitVec 10) (s : State) : Res := act dt (doTrigInEvent i rising vs) s
/-- LINE_FIRE (R499). -/
def execLineFire (dt : Nat) (p : Path) (v : Word) (s : State) : Res := act dt (doLineFire p v) s
/-- RING_LINE_APPLY (R500). -/
def execRingLineApply (dt : Nat) (s : State) : Res := act dt doRingLineApply s
/-- LINE_SRC_WRITE (R499). -/
def execLineSrcWrite (dt : Nat) (p : Path) (j : Fin 16) (v : Word) (s : State) : Res := act dt (doLineSrcWrite p j v) s
/-- TOUT_CFG_WRITE (R505). -/
def execToutCfgWrite (dt : Nat) (p : Path) (i : Fin 4) (v : Word) (s : State) : Res := act dt (doToutCfgWrite p i v) s
/-- TOUT_FIRE (R505). -/
def execToutFire (dt : Nat) (p : Path) (v : Word) (s : State) : Res := act dt (doToutFire p v) s
/-- TRIG_OUT_PULSE_END (R505). -/
def execTrigOutPulseEnd (dt : Nat) (i : Fin 4) (s : State) : Res := act dt (doTrigOutPulseEnd i) s
/-- RPA_GO (R506). -/
def execRpaGo (dt : Nat) (p : Path) (v : Word) (s : State) : Res := act dt (doRpaGo p v) s
/-- RPA_TIMEOUT (R506). -/
def execRpaTimeout (dt : Nat) (s : State) : Res := act dt doRpaTimeout s
/-- RESULT_FORWARD (R508). -/
def execResultForward (dt : Nat) (s : State) : Res := act dt doResultForward s
/-- UNCORRECTABLE_ERROR (R519). -/
def execUncorrectableError (dt : Nat) (a : BitVec 48) (s : State) : Res := act dt (doUncorrectableError a) s
/-- CORRECTED_ERROR (R519). -/
def execCorrectedError (dt : Nat) (a : BitVec 48) (s : State) : Res := act dt (doCorrectedError a) s
/-- PATROL_SCRUB (R520). -/
def execPatrolScrub (dt : Nat) (k : Fin 8) (s : State) : Res := act dt (doPatrolScrub k) s
/-- MEM_THERMAL (R516). -/
def execMemThermal (dt : Nat) (k : Fin 8) (temp : BitVec 8) (s : State) : Res := act dt (doMemThermal k temp) s
/-- MEM_TRAINING_LOSS (R521). -/
def execMemTrainingLoss (dt : Nat) (k : Fin 8) (s : State) : Res := act dt (doMemTrainingLoss k) s
/-- MAPOUT (R521). -/
def execMapout (dt : Nat) (p : Path) (k : Fin 8) (s : State) : Res := act dt (doMapout p k) s
/-- RESTORE (R524). -/
def execRestore (dt : Nat) (p : Path) (k : Fin 8) (s : State) : Res := act dt (doRestore p k) s
/-- WINDOW_READ (R530). -/
def execWindowRead (dt : Nat) (off : BitVec 36) (n : Fin 4097) (err : Bool) (s : State) : Res := act dt (doWindowRead off n err) s
/-- WINDOW_WRITE (R531). -/
def execWindowWrite (dt : Nat) (off : BitVec 36) (data : List Byte) (s : State) : Res := act dt (doWindowWrite off data) s
/-- LINK_UP (R534). -/
def execLinkUp (dt : Nat) (speed : Fin 6) (width : Fin 9) (bme : Bool) (fmask : Bool) (s : State) : Res := act dt (doLinkUp speed width bme fmask) s
/-- LINK_DOWN (R534). -/
def execLinkDown (dt : Nat) (s : State) : Res := act dt doLinkDown s
/-- FLR (R534). -/
def execFlr (dt : Nat) (s : State) : Res := act dt doFlr s
/-- HOT_RESET (R534). -/
def execHotReset (dt : Nat) (s : State) : Res := act dt doHotReset s
/-- PERST (R534). -/
def execPerst (dt : Nat) (rising : Bool) (s : State) : Res := act dt (doPerst rising) s
/-- ETH_FRAME_SEND (R537). -/
def execEthFrameSend (dt : Nat) (s : State) : Res := act dt doEthFrameSend s
/-- HEARTBEAT (R539). -/
def execHeartbeat (dt : Nat) (s : State) : Res := act dt doHeartbeat s
/-- ETH_RX_DROP (R536). -/
def execEthRxDrop (dt : Nat) (s : State) : Res := act dt doEthRxDrop s
/-- STATUS (R541). -/
def execSmbStatus (dt : Nat) (pec : Option Bool) (s : State) : Res := act dt (doSmbStatus pec) s
/-- REG_ADDR (R541). -/
def execRegAddr (dt : Nat) (off : Word) (pec : Option Bool) (s : State) : Res := act dt (doRegAddr off pec) s
/-- REG_READ (R541). -/
def execRegRead (dt : Nat) (pec : Option Bool) (s : State) : Res := actNv dt (doRegRead pec) s
/-- REG_WRITE (R541). -/
def execRegWrite (dt : Nat) (v : Word) (pec : Option Bool) (s : State) : Res := actNv dt (doRegWrite v pec) s
/-- HMK_SEL (R541). -/
def execHmkSel (dt : Nat) (v : Word) (pec : Option Bool) (s : State) : Res := act dt (doHmkSel v pec) s
/-- HMK_READ (R541). -/
def execHmkRead (dt : Nat) (pec : Option Bool) (s : State) : Res := actNv dt (doHmkRead pec) s
/-- HMK_RANGE (R584). -/
def execHmkRange (dt : Nat) (pec : Option Bool) (s : State) : Res := act dt (doHmkRange pec) s
/-- FLASH_READ (R543). -/
def execFlashRead (dt : Nat) (p : Path) (len : BitVec 8) (s : State) : Res := act dt (doFlashRead p len) s
/-- PROGRAM (R543). -/
def execProgram (dt : Nat) (p : Path) (len : BitVec 8) (s : State) : Res := act dt (doProgram p len) s
/-- ERASE (R543). -/
def execErase (dt : Nat) (p : Path) (s : State) : Res := act dt (doErase p) s
/-- XSP_COMPLETE (R543). -/
def execXspComplete (dt : Nat) (err : Bool) (s : State) : Res := act dt (doXspComplete err) s
/-- FAULT_OCCURRENCE (R549). -/
def execFaultOccurrence (dt : Nat) (src : BitVec 8) (cause : BitVec 5) (res : BitVec 9) (s : State) : Res := act dt (doFaultOccurrence src cause res) s
/-- CHIP_RST (R558). -/
def execChipRst (dt : Nat) (s : State) : Res := act dt doChipRst s
/-- LIVE_FALL (R551). -/
def execLiveFall (dt : Nat) (src : BitVec 8) (res : BitVec 9) (s : State) : Res := act dt (doLiveFall src res) s
/-- SHADOW_CLOSE (R574). -/
def execShadowClose (dt : Nat) (s : State) : Res := act dt doShadowClose s
/-- QUENCH_RELEASE (R566). -/
def execQuenchRelease (dt : Nat) (p : Path) (v : Word) (s : State) : Res := act dt (doQuenchRelease p v) s
/-- ERR_PULSE_END (R560). -/
def execErrPulseEnd (dt : Nat) (s : State) : Res := act dt doErrPulseEnd s
/-- ERR_CLR (R560). -/
def execErrClr (dt : Nat) (p : Path) (v : Word) (s : State) : Res := act dt (doErrClr p v) s
/-- ERR_REASSERT (R561). -/
def execErrReassert (dt : Nat) (s : State) : Res := act dt doErrReassert s
/-- STICKY_CLEAR (R550). -/
def execStickyClear (dt : Nat) (p : Path) (s : State) : Res := act dt (doStickyClear p) s
/-- SRC_SEL_WRITE (R590). -/
def execSrcSelWrite (dt : Nat) (p : Path) (v : Word) (s : State) : Res := act dt (doSrcSelWrite p v) s
/-- SRC_STAT_READ (R551). -/
def execSrcStatRead (dt : Nat) (p : Path) (s : State) : Res := actNv dt (doSrcStatRead p) s
/-- TRAP_CLEAR (R556). -/
def execTrapClear (dt : Nat) (p : Path) (s : State) : Res := act dt (doTrapClear p) s
/-- INJECT_PULSE (R545). -/
def execInjectPulse (dt : Nat) (p : Path) (v : Word) (s : State) : Res := act dt (doInjectPulse p v) s
/-- INJECT_LEVEL (R545). -/
def execInjectLevel (dt : Nat) (p : Path) (v : Word) (s : State) : Res := act dt (doInjectLevel p v) s
/-- DEG_CLEAR (R585). -/
def execDegClear (dt : Nat) (p : Path) (v : Word) (s : State) : Res := act dt (doDegClear p v) s
/-- HALLMARK_COMMIT (R578). -/
def execHallmarkCommit (dt : Nat) (bad1 : Option (List Byte)) (bad2 : Option (List Byte)) (s : State) : Res := actStore dt (commitNv bad1 bad2) (commitDev bad1 bad2) s
/-- HOUR_OF_OPERATION (R582). -/
def execHourOfOperation (dt : Nat) (hi : BitVec 16) (lo : BitVec 16) (s : State) : Res := act dt (doHourOfOperation hi lo) s
/-- DOM_REQ_WRITE (R595). -/
def execDomReqWrite (dt : Nat) (p : Path) (v : Word) (s : State) : Res := act dt (doDomReqWrite p v) s
/-- POWER_GOOD (R594). -/
def execPowerGood (dt : Nat) (d : Fin 20) (s : State) : Res := act dt (doPowerGood d) s
/-- POWER_GOOD_TIMEOUT (R594). -/
def execPowerGoodTimeout (dt : Nat) (d : Fin 20) (s : State) : Res := actNv dt (fun nv => doPowerGoodTimeout nv d) s
/-- STANDBY (R597). -/
def execStandby (dt : Nat) (p : Path) (s : State) : Res := act dt (doStandby p) s
/-- STANDBY_ENTERED (R597). -/
def execStandbyEntered (dt : Nat) (s : State) : Res := act dt doStandbyEntered s
/-- WAKE (R599). -/
def execWake (dt : Nat) (pec : Option Bool) (s : State) : Res := actNv dt (doWake pec) s
/-- WAKE_TIMER (R599). -/
def execWakeTimer (dt : Nat) (s : State) : Res := act dt doWakeTimer s
/-- POWER_ON (R601). -/
def execPowerOn (dt : Nat) (s : State) : Res := actPowerOn dt s
/-- AON_SUPPLY_LOSS (R636). -/
def execAonSupplyLoss (dt : Nat) (torn : Option (List Byte)) (s : State) : Res := actStore dt (lossNv torn) (fun _ => doAonSupplyLoss) s
/-- RESET_PIN (R601). -/
def execResetPin (dt : Nat) (s : State) : Res := act dt doResetPin s
/-- CHIP_RESET (R602). -/
def execChipReset (dt : Nat) (p : Path) (s : State) : Res := act dt (doChipReset p) s
/-- BOOT_STAGE (R604). -/
def execBootStage (dt : Nat) (b : BootIn) (s : State) : Res := actNv dt (fun nv => doBootStage nv b) s
/-- OWNER_PROGRAM (R613). -/
def execOwnerProgram (dt : Nat) (p : Path) (v : Word) (s : State) : Res := actNv dt (doOwnerProgram p v) s
/-- OWNER_REVOKE (R613). -/
def execOwnerRevoke (dt : Nat) (p : Path) (v : Word) (s : State) : Res := actNv dt (doOwnerRevoke p v) s
/-- ARB_ADVANCE (R613). -/
def execArbAdvance (dt : Nat) (p : Path) (v : Word) (s : State) : Res := actNv dt (doArbAdvance p v) s
/-- FUSE_DONE (R613). -/
def execFuseDone (dt : Nat) (s : State) : Res := actStore dt fuseNv (fun _ => doFuseDone) s
/-- ASSAY_GO (R619). -/
def execAssayGo (dt : Nat) (p : Path) (s : State) : Res := act dt (doAssayGo p) s
/-- ASSAY_DONE (R619). -/
def execAssayDone (dt : Nat) (s : State) : Res := actNv dt doAssayDone s
/-- DBG_NEW (R621). -/
def execDbgNew (dt : Nat) (p : Path) (s : State) : Res := act dt (doDbgNew p) s
/-- DBG_SUBMIT (R622). -/
def execDbgSubmit (dt : Nat) (p : Path) (v : Word) (s : State) : Res := actNv dt (doDbgSubmit p v) s
/-- DBG_LOCK (R622). -/
def execDbgLock (dt : Nat) (p : Path) (s : State) : Res := act dt (doDbgLock p) s
/-- BYPASS (R623). -/
def execBypass (dt : Nat) (tdi : List Bool) (s : State) : Res := act dt (doBypass tdi) s
/-- IDCODE (R623). -/
def execIdcode (dt : Nat) (s : State) : Res := act dt doIdcode s
/-- SAMPLE_PRELOAD (R623). -/
def execSamplePreload (dt : Nat) (n : Fin 4096) (s : State) : Res := act dt (doSamplePreload n) s
/-- EXTEST (R623). -/
def execExtest (dt : Nat) (quench : Option Bool) (lanes : List (LaneId × Fin 3)) (s : State) : Res := act dt (doExtest quench lanes) s
/-- RESET_PIN_RELEASE (R635). -/
def execResetPinRelease (dt : Nat) (s : State) : Res := act dt doResetPinRelease s
/-- EXT_REF_PRESENCE (R489). -/
def execExtRefPresence (dt : Nat) (b : Bool) (s : State) : Res := act dt (doExtRefPresence b) s
/-- OCXO_RDY_CHANGE (R490). -/
def execOcxoRdyChange (dt : Nat) (b : Bool) (s : State) : Res := act dt (doOcxoRdyChange b) s
/-- ETH_LINK_UP (R537). -/
def execEthLinkUp (dt : Nat) (s : State) : Res := act dt doEthLinkUp s
/-- ETH_LINK_DOWN (R537). -/
def execEthLinkDown (dt : Nat) (s : State) : Res := act dt doEthLinkDown s
/-- ETH_MODULE_CHANGE (R536). -/
def execEthModuleChange (dt : Nat) (modAbs : Bool) (txFault : Bool) (s : State) : Res := act dt (doEthModuleChange modAbs txFault) s
/-- INSTRUCTION_WORD_READ (R216). -/
def execInstructionWordRead (dt : Nat) (e : Eng) (err : Bool) (s : State) : Res := act dt (doInstructionWordRead e err) s
/-- SYSREF_PULSE_END (R303). -/
def execSysrefPulseEnd (dt : Nat) (k : Fin 4) (s : State) : Res := act dt (doSysrefPulseEnd k) s
/-- BUS_RESET_END (R90). -/
def execBusResetEnd (dt : Nat) (b : Bank) (s : State) : Res := act dt (doBusResetEnd b) s

end Sys2Proof.Machine
end

