-- ==== Sys2Proof/Machine/Dispatch.lean ====
section
/-! DEFINITION. One arm for each command: a direct call of its meaning, or a rejection by name. -/
namespace Sys2Proof.Machine

/-- The effect of a command on everything but the queue. -/
def exec (i : Instr) (s : State) : Host.Outcome State Fault Refusal :=
  match i with
  | .registerWrite dt p off be v => Sys2Proof.Machine.execRegisterWrite dt p off be v s
  | .msixPendingSend dt vec => Sys2Proof.Machine.execMsixPendingSend dt vec s
  | .latchedRead dt p off => Sys2Proof.Machine.execLatchedRead dt p off s
  | .rcRead dt p off => Sys2Proof.Machine.execRcRead dt p off s
  | .pairLoWrite dt p off v => Sys2Proof.Machine.execPairLoWrite dt p off v s
  | .pairHiWrite dt p off v => Sys2Proof.Machine.execPairHiWrite dt p off v s
  | .blockEnable dt p pg freeze => Sys2Proof.Machine.execBlockEnable dt p pg freeze s
  | .drain dt p pg freeze => Sys2Proof.Machine.execDrain dt p pg freeze s
  | .drainDone dt pg => Sys2Proof.Machine.execDrainDone dt pg s
  | .blockReset dt p pg => Sys2Proof.Machine.execBlockReset dt p pg s
  | .blockResetDone dt pg => Sys2Proof.Machine.execBlockResetDone dt pg s
  | .freeze dt p pg en => Sys2Proof.Machine.execFreeze dt p pg en s
  | .lockKey dt p pg v => Sys2Proof.Machine.execLockKey dt p pg v s
  | .irqForce dt p pg v => Sys2Proof.Machine.execIrqForce dt p pg v s
  | .fieldCfgWrite dt p v => Sys2Proof.Machine.execFieldCfgWrite dt p v s
  | .fieldTick dt => Sys2Proof.Machine.execFieldTick dt s
  | .mainPllUnlock dt => Sys2Proof.Machine.execMainPllUnlock dt s
  | .rowIssue dt e => Sys2Proof.Machine.execRowIssue dt e s
  | .rowTick dt e => Sys2Proof.Machine.execRowTick dt e s
  | .compareResult dt e => Sys2Proof.Machine.execCompareResult dt e s
  | .senseTransition dt l vs st => Sys2Proof.Machine.execSenseTransition dt l vs st s
  | .senseOpenDetect dt l => Sys2Proof.Machine.execSenseOpenDetect dt l s
  | .senseOpenRecover dt l => Sys2Proof.Machine.execSenseOpenRecover dt l s
  | .laneCfgWrite dt p l v => Sys2Proof.Machine.execLaneCfgWrite dt p l v s
  | .laneIoFail dt l rx => Sys2Proof.Machine.execLaneIoFail dt l rx s
  | .spareMap dt p b v => Sys2Proof.Machine.execSpareMap dt p b v s
  | .spareUnmap dt p b v => Sys2Proof.Machine.execSpareUnmap dt p b v s
  | .writeNow dt p b chip addr data => Sys2Proof.Machine.execWriteNow dt p b chip addr data s
  | .writeArmed dt p b chip addr data => Sys2Proof.Machine.execWriteArmed dt p b chip addr data s
  | .read dt p b chip addr => Sys2Proof.Machine.execRead dt p b chip addr s
  | .poll dt p b chip => Sys2Proof.Machine.execPoll dt p b chip s
  | .bcastNow dt p b addr data => Sys2Proof.Machine.execBcastNow dt p b addr data s
  | .bcastArmed dt p b addr data => Sys2Proof.Machine.execBcastArmed dt p b addr data s
  | .fecFrameSend dt b => Sys2Proof.Machine.execFecFrameSend dt b s
  | .fecResponse dt b frame edge => Sys2Proof.Machine.execFecResponse dt b frame edge s
  | .fecResponseTimeout dt b => Sys2Proof.Machine.execFecResponseTimeout dt b s
  | .apply dt b => Sys2Proof.Machine.execApply dt b s
  | .close dt p b v => Sys2Proof.Machine.execClose dt p b v s
  | .flush dt p b v => Sys2Proof.Machine.execFlush dt p b v s
  | .statusPoll dt b => Sys2Proof.Machine.execStatusPoll dt b s
  | .fecRspRead dt p b => Sys2Proof.Machine.execFecRspRead dt p b s
  | .perNWrite dt p e ix v => Sys2Proof.Machine.execPerNWrite dt p e ix v s
  | .perFWrite dt p e ix v => Sys2Proof.Machine.execPerFWrite dt p e ix v s
  | .tsEdgeWrite dt p b j edge v => Sys2Proof.Machine.execTsEdgeWrite dt p b j edge v s
  | .tsFmtCommit dt p b j v => Sys2Proof.Machine.execTsFmtCommit dt p b j v s
  | .calOffsetWrite dt p r v => Sys2Proof.Machine.execCalOffsetWrite dt p r v s
  | .deskewStart dt p b v => Sys2Proof.Machine.execDeskewStart dt p b v s
  | .deskewDone dt b rt => Sys2Proof.Machine.execDeskewDone dt b rt s
  | .backgroundRecalibration dt b temp pend bad => Sys2Proof.Machine.execBackgroundRecalibration dt b temp pend bad s
  | .swap dt b slice pend drift => Sys2Proof.Machine.execSwap dt b slice pend drift s
  | .reflexDrive dt b r => Sys2Proof.Machine.execReflexDrive dt b r s
  | .reflexHoldEnd dt b r => Sys2Proof.Machine.execReflexHoldEnd dt b r s
  | .rfxClr dt p b v => Sys2Proof.Machine.execRfxClr dt p b v s
  | .rfxCfgWrite dt p b r v => Sys2Proof.Machine.execRfxCfgWrite dt p b r v s
  | .rfxHoldWrite dt p b r reg v => Sys2Proof.Machine.execRfxHoldWrite dt p b r reg v s
  | .mapWrite dt p e v => Sys2Proof.Machine.execMapWrite dt p e v s
  | .furrowStart dt p e v => Sys2Proof.Machine.execFurrowStart dt p e v s
  | .furrowStop dt p e v => Sys2Proof.Machine.execFurrowStop dt p e v s
  | .primeComplete dt e => Sys2Proof.Machine.execPrimeComplete dt e s
  | .runStart dt e => Sys2Proof.Machine.execRunStart dt e s
  | .furrowStopped dt e => Sys2Proof.Machine.execFurrowStopped dt e s
  | .emit dt e w => Sys2Proof.Machine.execEmit dt e w s
  | .rpt dt e w => Sys2Proof.Machine.execRpt dt e w s
  | .agen dt e w => Sys2Proof.Machine.execAgen dt e w s
  | .gset dt e w => Sys2Proof.Machine.execGset dt e w s
  | .jmp dt e w => Sys2Proof.Machine.execJmp dt e w s
  | .call dt e w => Sys2Proof.Machine.execCall dt e w s
  | .loop dt e w => Sys2Proof.Machine.execLoop dt e w s
  | .br dt e w => Sys2Proof.Machine.execBr dt e w s
  | .wait dt e w => Sys2Proof.Machine.execWait dt e w s
  | .sync dt e w => Sys2Proof.Machine.execSync dt e w s
  | .setReg dt e w => Sys2Proof.Machine.execSetReg dt e w s
  | .recWrite dt e w => Sys2Proof.Machine.execRecWrite dt e w s
  | .halt dt e w => Sys2Proof.Machine.execHalt dt e w s
  | .lend dt e => Sys2Proof.Machine.execLend dt e s
  | .ret dt e => Sys2Proof.Machine.execRet dt e s
  | .branchDecide dt e => Sys2Proof.Machine.execBranchDecide dt e s
  | .branchResolve dt e => Sys2Proof.Machine.execBranchResolve dt e s
  | .waitEnd dt e => Sys2Proof.Machine.execWaitEnd dt e s
  | .waitTimeout dt e => Sys2Proof.Machine.execWaitTimeout dt e s
  | .prefetchWalk dt e => Sys2Proof.Machine.execPrefetchWalk dt e s
  | .tileRead dt e tile err => Sys2Proof.Machine.execTileRead dt e tile err s
  | .generatorWrite dt p e off v => Sys2Proof.Machine.execGeneratorWrite dt p e off v s
  | .rowTake dt f => Sys2Proof.Machine.execRowTake dt f s
  | .transitionRecordAge dt f kind => Sys2Proof.Machine.execTransitionRecordAge dt f kind s
  | .transitionDrain dt => Sys2Proof.Machine.execTransitionDrain dt s
  | .statFlush dt p f u v => Sys2Proof.Machine.execStatFlush dt p f u v s
  | .histCfgWrite dt p k base v => Sys2Proof.Machine.execHistCfgWrite dt p k base v s
  | .sysrefPulse dt k => Sys2Proof.Machine.execSysrefPulse dt k s
  | .jesBlockLock dt k => Sys2Proof.Machine.execJesBlockLock dt k s
  | .jesEmbLock dt k => Sys2Proof.Machine.execJesEmbLock dt k s
  | .jesAligned dt k => Sys2Proof.Machine.execJesAligned dt k s
  | .jesMultiblock dt k first ok data => Sys2Proof.Machine.execJesMultiblock dt k first ok data s
  | .jesLinkDown dt k => Sys2Proof.Machine.execJesLinkDown dt k s
  | .sampleProcess dt c => Sys2Proof.Machine.execSampleProcess dt c s
  | .segmentRecordClose dt c => Sys2Proof.Machine.execSegmentRecordClose dt c s
  | .acqRearm dt c => Sys2Proof.Machine.execAcqRearm dt c s
  | .acqArm dt p c => Sys2Proof.Machine.execAcqArm dt p c s
  | .acqStop dt p c => Sys2Proof.Machine.execAcqStop dt p c s
  | .acqForce dt p c => Sys2Proof.Machine.execAcqForce dt p c s
  | .envDataAccess dt p c write v => Sys2Proof.Machine.execEnvDataAccess dt p c write v s
  | .recordOpen dt site typ flags epoch len tag => Sys2Proof.Machine.execRecordOpen dt site typ flags epoch len tag s
  | .recordClose dt tag body => Sys2Proof.Machine.execRecordClose dt tag body s
  | .commitAdvance dt q => Sys2Proof.Machine.execCommitAdvance dt q s
  | .qselWrite dt p v => Sys2Proof.Machine.execQselWrite dt p v s
  | .load dt p => Sys2Proof.Machine.execLoad dt p s
  | .write dt p => Sys2Proof.Machine.execWrite dt p s
  | .setMark dt p => Sys2Proof.Machine.execSetMark dt p s
  | .clrMark dt p => Sys2Proof.Machine.execClrMark dt p s
  | .rewind dt p => Sys2Proof.Machine.execRewind dt p s
  | .clrWm dt p => Sys2Proof.Machine.execClrWm dt p s
  | .clrFlags dt p => Sys2Proof.Machine.execClrFlags dt p s
  | .seal dt p epoch => Sys2Proof.Machine.execSeal dt p epoch s
  | .sealPlace dt q epoch => Sys2Proof.Machine.execSealPlace dt q epoch s
  | .flushCache dt p => Sys2Proof.Machine.execFlushCache dt p s
  | .qcmdDone dt => Sys2Proof.Machine.execQcmdDone dt s
  | .cacheFill dt q => Sys2Proof.Machine.execCacheFill dt q s
  | .doorbellWrite dt q v => Sys2Proof.Machine.execDoorbellWrite dt q v s
  | .popSel dt p v => Sys2Proof.Machine.execPopSel dt p v s
  | .popRelease dt p => Sys2Proof.Machine.execPopRelease dt p s
  | .popDataRead dt p => Sys2Proof.Machine.execPopDataRead dt p s
  | .nrRdWrite dt p n v => Sys2Proof.Machine.execNrRdWrite dt p n v s
  | .nrBaseHiWrite dt p n v => Sys2Proof.Machine.execNrBaseHiWrite dt p n v s
  | .descBaseHiWrite dt p v => Sys2Proof.Machine.execDescBaseHiWrite dt p v s
  | .descInitDone dt => Sys2Proof.Machine.execDescInitDone dt s
  | .siteCurWrite dt p site v => Sys2Proof.Machine.execSiteCurWrite dt p site v s
  | .timArm dt p k => Sys2Proof.Machine.execTimArm dt p k s
  | .timStop dt p k => Sys2Proof.Machine.execTimStop dt p k s
  | .timFlush dt p k => Sys2Proof.Machine.execTimFlush dt p k s
  | .timEvent dt k => Sys2Proof.Machine.execTimEvent dt k s
  | .timTimeout dt k => Sys2Proof.Machine.execTimTimeout dt k s
  | .deadTimeEnd dt k => Sys2Proof.Machine.execDeadTimeEnd dt k s
  | .timInEdge dt ix vs rising => Sys2Proof.Machine.execTimInEdge dt ix vs rising s
  | .tinCfgWrite dt p ix v => Sys2Proof.Machine.execTinCfgWrite dt p ix v s
  | .binTableBuilt dt k stop => Sys2Proof.Machine.execBinTableBuilt dt k stop s
  | .calLockLoss dt k stop => Sys2Proof.Machine.execCalLockLoss dt k stop s
  | .fenceCrossing dt f upper pos => Sys2Proof.Machine.execFenceCrossing dt f upper pos s
  | .fenceFilterSample dt f => Sys2Proof.Machine.execFenceFilterSample dt f s
  | .fenceWindowWrite dt p f r v => Sys2Proof.Machine.execFenceWindowWrite dt p f r v s
  | .dacSettle dt f upper => Sys2Proof.Machine.execDacSettle dt f upper s
  | .modeHoldEnd dt f upper => Sys2Proof.Machine.execModeHoldEnd dt f upper s
  | .fenceTestWrite dt p f v => Sys2Proof.Machine.execFenceTestWrite dt p f v s
  | .rampStart dt p r => Sys2Proof.Machine.execRampStart dt p r s
  | .rampStop dt p r => Sys2Proof.Machine.execRampStop dt p r s
  | .rampRearm dt p r => Sys2Proof.Machine.execRampRearm dt p r s
  | .rampStep dt r => Sys2Proof.Machine.execRampStep dt r s
  | .powerUpResponseEnd dt f upper => Sys2Proof.Machine.execPowerUpResponseEnd dt f upper s
  | .drillStart dt p d mode => Sys2Proof.Machine.execDrillStart dt p d mode s
  | .drillStop dt p d => Sys2Proof.Machine.execDrillStop dt p d s
  | .drillStep dt d => Sys2Proof.Machine.execDrillStep dt d s
  | .drillEdge dt d => Sys2Proof.Machine.execDrillEdge dt d s
  | .listStage dt p d w v => Sys2Proof.Machine.execListStage dt p d w v s
  | .listCommit dt p d v => Sys2Proof.Machine.execListCommit dt p d v s
  | .ampGroupClose dt d b => Sys2Proof.Machine.execAmpGroupClose dt d b s
  | .markerRelease dt ix => Sys2Proof.Machine.execMarkerRelease dt ix s
  | .mkDlyWrite dt p ix v => Sys2Proof.Machine.execMkDlyWrite dt p ix v s
  | .syncInPulse dt => Sys2Proof.Machine.execSyncInPulse dt s
  | .fire dt p => Sys2Proof.Machine.execFire dt p s
  | .syncQualified dt => Sys2Proof.Machine.execSyncQualified dt s
  | .syncOutPulseEnd dt => Sys2Proof.Machine.execSyncOutPulseEnd dt s
  | .ping dt p => Sys2Proof.Machine.execPing dt p s
  | .siteSet dt p => Sys2Proof.Machine.execSiteSet dt p s
  | .siteClear dt p => Sys2Proof.Machine.execSiteClear dt p s
  | .flowStart dt p => Sys2Proof.Machine.execFlowStart dt p s
  | .flowAbort dt p => Sys2Proof.Machine.execFlowAbort dt p s
  | .siteStatus dt p => Sys2Proof.Machine.execSiteStatus dt p s
  | .migrate dt p => Sys2Proof.Machine.execMigrate dt p s
  | .yieldClear dt p => Sys2Proof.Machine.execYieldClear dt p s
  | .stepTimeout dt ix => Sys2Proof.Machine.execStepTimeout dt ix s
  | .stepLimit dt ix => Sys2Proof.Machine.execStepLimit dt ix s
  | .train dt p ix v => Sys2Proof.Machine.execTrain dt p ix v s
  | .trainingDone dt ix lanes l peer => Sys2Proof.Machine.execTrainingDone dt ix lanes l peer s
  | .portLockLoss dt ix lane => Sys2Proof.Machine.execPortLockLoss dt ix lane s
  | .trainRetry dt ix => Sys2Proof.Machine.execTrainRetry dt ix s
  | .expressSend dt ix => Sys2Proof.Machine.execExpressSend dt ix s
  | .expressReceive dt ix w => Sys2Proof.Machine.execExpressReceive dt ix w s
  | .result dt ix frame => Sys2Proof.Machine.execResult dt ix frame s
  | .pageReq dt ix frame => Sys2Proof.Machine.execPageReq dt ix frame s
  | .pageRsp dt ix frame => Sys2Proof.Machine.execPageRsp dt ix frame s
  | .walk dt ix frame least => Sys2Proof.Machine.execWalk dt ix frame least s
  | .report dt ix frame => Sys2Proof.Machine.execReport dt ix frame s
  | .breakFrame dt ix frame => Sys2Proof.Machine.execBreakFrame dt ix frame s
  | .discStart dt p v => Sys2Proof.Machine.execDiscStart dt p v s
  | .extRefLoss dt => Sys2Proof.Machine.execExtRefLoss dt s
  | .ocxoRdyFall dt => Sys2Proof.Machine.execOcxoRdyFall dt s
  | .extRefReturn dt => Sys2Proof.Machine.execExtRefReturn dt s
  | .slewDone dt => Sys2Proof.Machine.execSlewDone dt s
  | .warmRise dt => Sys2Proof.Machine.execWarmRise dt s
  | .holdoverExpiry dt => Sys2Proof.Machine.execHoldoverExpiry dt s
  | .refSelWrite dt p v => Sys2Proof.Machine.execRefSelWrite dt p v s
  | .timeFrame dt => Sys2Proof.Machine.execTimeFrame dt s
  | .reload dt p => Sys2Proof.Machine.execReload dt p s
  | .ppsEdge dt rising => Sys2Proof.Machine.execPpsEdge dt rising s
  | .secondRoll dt => Sys2Proof.Machine.execSecondRoll dt s
  | .ppsLoss dt => Sys2Proof.Machine.execPpsLoss dt s
  | .latch dt p => Sys2Proof.Machine.execLatch dt p s
  | .secNextArm dt p v => Sys2Proof.Machine.execSecNextArm dt p v s
  | .trigInEvent dt ix rising vs => Sys2Proof.Machine.execTrigInEvent dt ix rising vs s
  | .lineFire dt p v => Sys2Proof.Machine.execLineFire dt p v s
  | .ringLineApply dt => Sys2Proof.Machine.execRingLineApply dt s
  | .lineSrcWrite dt p j v => Sys2Proof.Machine.execLineSrcWrite dt p j v s
  | .toutCfgWrite dt p ix v => Sys2Proof.Machine.execToutCfgWrite dt p ix v s
  | .toutFire dt p v => Sys2Proof.Machine.execToutFire dt p v s
  | .trigOutPulseEnd dt ix => Sys2Proof.Machine.execTrigOutPulseEnd dt ix s
  | .rpaGo dt p v => Sys2Proof.Machine.execRpaGo dt p v s
  | .rpaTimeout dt => Sys2Proof.Machine.execRpaTimeout dt s
  | .resultForward dt => Sys2Proof.Machine.execResultForward dt s
  | .uncorrectableError dt a => Sys2Proof.Machine.execUncorrectableError dt a s
  | .correctedError dt a => Sys2Proof.Machine.execCorrectedError dt a s
  | .patrolScrub dt k => Sys2Proof.Machine.execPatrolScrub dt k s
  | .memThermal dt k temp => Sys2Proof.Machine.execMemThermal dt k temp s
  | .memTrainingLoss dt k => Sys2Proof.Machine.execMemTrainingLoss dt k s
  | .mapout dt p k => Sys2Proof.Machine.execMapout dt p k s
  | .restore dt p k => Sys2Proof.Machine.execRestore dt p k s
  | .windowRead dt off n err => Sys2Proof.Machine.execWindowRead dt off n err s
  | .windowWrite dt off data => Sys2Proof.Machine.execWindowWrite dt off data s
  | .linkUp dt speed width bme fmask => Sys2Proof.Machine.execLinkUp dt speed width bme fmask s
  | .linkDown dt => Sys2Proof.Machine.execLinkDown dt s
  | .flr dt => Sys2Proof.Machine.execFlr dt s
  | .hotReset dt => Sys2Proof.Machine.execHotReset dt s
  | .perst dt rising => Sys2Proof.Machine.execPerst dt rising s
  | .ethFrameSend dt => Sys2Proof.Machine.execEthFrameSend dt s
  | .heartbeat dt => Sys2Proof.Machine.execHeartbeat dt s
  | .ethRxDrop dt => Sys2Proof.Machine.execEthRxDrop dt s
  | .smbStatus dt pec => Sys2Proof.Machine.execSmbStatus dt pec s
  | .regAddr dt off pec => Sys2Proof.Machine.execRegAddr dt off pec s
  | .regRead dt pec => Sys2Proof.Machine.execRegRead dt pec s
  | .regWrite dt v pec => Sys2Proof.Machine.execRegWrite dt v pec s
  | .hmkSel dt v pec => Sys2Proof.Machine.execHmkSel dt v pec s
  | .hmkRead dt pec => Sys2Proof.Machine.execHmkRead dt pec s
  | .hmkRange dt pec => Sys2Proof.Machine.execHmkRange dt pec s
  | .flashRead dt p len => Sys2Proof.Machine.execFlashRead dt p len s
  | .program dt p len => Sys2Proof.Machine.execProgram dt p len s
  | .erase dt p => Sys2Proof.Machine.execErase dt p s
  | .xspComplete dt err => Sys2Proof.Machine.execXspComplete dt err s
  | .faultOccurrence dt src cause res => Sys2Proof.Machine.execFaultOccurrence dt src cause res s
  | .chipRst dt => Sys2Proof.Machine.execChipRst dt s
  | .liveFall dt src res => Sys2Proof.Machine.execLiveFall dt src res s
  | .shadowClose dt => Sys2Proof.Machine.execShadowClose dt s
  | .quenchRelease dt p v => Sys2Proof.Machine.execQuenchRelease dt p v s
  | .errPulseEnd dt => Sys2Proof.Machine.execErrPulseEnd dt s
  | .errClr dt p v => Sys2Proof.Machine.execErrClr dt p v s
  | .errReassert dt => Sys2Proof.Machine.execErrReassert dt s
  | .stickyClear dt p => Sys2Proof.Machine.execStickyClear dt p s
  | .srcSelWrite dt p v => Sys2Proof.Machine.execSrcSelWrite dt p v s
  | .srcStatRead dt p => Sys2Proof.Machine.execSrcStatRead dt p s
  | .trapClear dt p => Sys2Proof.Machine.execTrapClear dt p s
  | .injectPulse dt p v => Sys2Proof.Machine.execInjectPulse dt p v s
  | .injectLevel dt p v => Sys2Proof.Machine.execInjectLevel dt p v s
  | .degClear dt p v => Sys2Proof.Machine.execDegClear dt p v s
  | .hallmarkCommit dt bad1 bad2 => Sys2Proof.Machine.execHallmarkCommit dt bad1 bad2 s
  | .hourOfOperation dt hi lo => Sys2Proof.Machine.execHourOfOperation dt hi lo s
  | .domReqWrite dt p v => Sys2Proof.Machine.execDomReqWrite dt p v s
  | .powerGood dt d => Sys2Proof.Machine.execPowerGood dt d s
  | .powerGoodTimeout dt d => Sys2Proof.Machine.execPowerGoodTimeout dt d s
  | .standby dt p => Sys2Proof.Machine.execStandby dt p s
  | .standbyEntered dt => Sys2Proof.Machine.execStandbyEntered dt s
  | .wake dt pec => Sys2Proof.Machine.execWake dt pec s
  | .wakeTimer dt => Sys2Proof.Machine.execWakeTimer dt s
  | .powerOn dt => Sys2Proof.Machine.execPowerOn dt s
  | .aonSupplyLoss dt torn => Sys2Proof.Machine.execAonSupplyLoss dt torn s
  | .resetPin dt => Sys2Proof.Machine.execResetPin dt s
  | .chipReset dt p => Sys2Proof.Machine.execChipReset dt p s
  | .bootStage dt b => Sys2Proof.Machine.execBootStage dt b s
  | .ownerProgram dt p v => Sys2Proof.Machine.execOwnerProgram dt p v s
  | .ownerRevoke dt p v => Sys2Proof.Machine.execOwnerRevoke dt p v s
  | .arbAdvance dt p v => Sys2Proof.Machine.execArbAdvance dt p v s
  | .fuseDone dt => Sys2Proof.Machine.execFuseDone dt s
  | .assayGo dt p => Sys2Proof.Machine.execAssayGo dt p s
  | .assayDone dt => Sys2Proof.Machine.execAssayDone dt s
  | .dbgNew dt p => Sys2Proof.Machine.execDbgNew dt p s
  | .dbgSubmit dt p v => Sys2Proof.Machine.execDbgSubmit dt p v s
  | .dbgLock dt p => Sys2Proof.Machine.execDbgLock dt p s
  | .bypass dt tdi => Sys2Proof.Machine.execBypass dt tdi s
  | .idcode dt => Sys2Proof.Machine.execIdcode dt s
  | .samplePreload dt n => Sys2Proof.Machine.execSamplePreload dt n s
  | .extest dt quench lanes => Sys2Proof.Machine.execExtest dt quench lanes s
  | .resetPinRelease dt => Sys2Proof.Machine.execResetPinRelease dt s
  | .extRefPresence dt b => Sys2Proof.Machine.execExtRefPresence dt b s
  | .ocxoRdyChange dt b => Sys2Proof.Machine.execOcxoRdyChange dt b s
  | .ethLinkUp dt => Sys2Proof.Machine.execEthLinkUp dt s
  | .ethLinkDown dt => Sys2Proof.Machine.execEthLinkDown dt s
  | .ethModuleChange dt modAbs txFault => Sys2Proof.Machine.execEthModuleChange dt modAbs txFault s
  | .instructionWordRead dt e err => Sys2Proof.Machine.execInstructionWordRead dt e err s
  | .sysrefPulseEnd dt k => Sys2Proof.Machine.execSysrefPulseEnd dt k s
  | .busResetEnd dt b => Sys2Proof.Machine.execBusResetEnd dt b s

end Sys2Proof.Machine
end

