-- ==== Sys2Proof/WellFormed.lean ====
section
/-! DEFINITION. Which commands are well formed: a command's data has a length that its carrier can have, and a row that
names a kind of register is given a register of that kind. The meanings are total on every command all the same. -/
namespace Sys2Proof

/-- A Headland bulk frame has a header and a trailer, and its WORDS field is 8 bits wide (R482). -/
def wfFrame (frame : List (BitVec 64)) : Bool := decide (2 ≤ frame.length) && decide (frame.length ≤ 257)

/-- What is left in a Hallmark slot by a write that failed: 256 bytes (R576, R578). -/
def wfSlot : Option (List Byte) → Bool
  | some x => x.length == 256
  | none => true

/-- The opcode field of an instruction word (Table 06-2). -/
def wfOp (op : Nat) (w : BitVec 64) : Bool := w.toNat / 2 ^ 58 == op

/-- The register at an offset has a pairing that `f` accepts (R56, R57). -/
def wfReg (f : Machine.Reg → Bool) (off : Off) : Bool :=
  match Machine.regAt off.toNat with
  | some r => f r
  | none => false

/-- An offset of the generator's registers on a FUR page (R245, R250, R256). -/
def wfGen (off : BitVec 12) : Bool :=
  let o := off.toNat
  o % 4 == 0 && ((0x800 ≤ o && o < 0x900) || (0x940 ≤ o && o < 0x9C0) || (0xA00 ≤ o && o < 0xB00))

/-- Whether a command is well formed. -/
def wellFormed : Instr → Bool
  | .latchedRead _ _ off => wfReg (fun r => match r.pairing with | .latLo _ => true | _ => false) off
  | .rcRead _ _ off => wfReg (fun r => r.rc != 0) off
  | .pairLoWrite _ _ off _ => wfReg (fun r => r.pairing == .pairLo) off
  | .pairHiWrite _ _ off _ => wfReg (fun r => r.pairing == .pairHi) off
  | .deskewDone _ _ rt => decide (rt.length ≤ 64)
  | .backgroundRecalibration _ _ _ _ bad => decide bad.Nodup
  | .emit _ _ w => wfOp 1 w | .rpt _ _ w => wfOp 2 w | .agen _ _ w => wfOp 3 w | .gset _ _ w => wfOp 4 w
  | .jmp _ _ w => wfOp 8 w | .call _ _ w => wfOp 9 w | .loop _ _ w => wfOp 10 w | .br _ _ w => wfOp 11 w
  | .wait _ _ w => wfOp 12 w | .sync _ _ w => wfOp 13 w | .setReg _ _ w => wfOp 16 w | .recWrite _ _ w => wfOp 17 w
  | .halt _ _ w => wfOp 63 w
  | .generatorWrite _ _ _ off _ => wfGen off
  | .recordOpen _ _ _ _ _ len _ => decide (16 ≤ len) && len % 16 == 0
  | .fenceWindowWrite _ _ _ r _ => decide (r ≠ 4)
  | .result _ _ f | .pageReq _ _ f | .pageRsp _ _ f | .walk _ _ f _ | .report _ _ f | .breakFrame _ _ f => wfFrame f
  | .windowRead _ _ n _ => decide (n.val ≠ 0)
  | .windowWrite _ _ data => decide (data.length ≠ 0) && decide (data.length ≤ 4096)
  | .hallmarkCommit _ bad1 bad2 => wfSlot bad1 && wfSlot bad2
  | .aonSupplyLoss _ torn => wfSlot torn
  | .bootStage _ (.memory dimms) => dimms.length == 8
  | .extest _ _ lanes => decide (lanes.map (·.1)).Nodup
  | _ => true

end Sys2Proof
end

