-- ==== Sys2Proof/Safety.lean ====
section
/-! DEFINITION. The terms in which statements about the machine are made: what it is for a command to act, for a
write to be let through, and for the non-volatile stores and the tables of the device to be in order. -/
namespace Sys2Proof.Machine

/-- Command `c` completes in state `s`, and `d` is the device right after the command's own effect: nothing but the
device changes, and what follows is what follows every command (`actPost`). -/
def Acts (c : Instr) (s : State) (d : Dev) : Prop := exec c s = .next { s with dev := actPost s.nv d }

/-- No rule that all register writes share refuses a write at BAR0 offset `a` (R49, R50, R58, R64, R71). -/
def accepts (s : Dev) (a : Nat) : Bool :=
  (regAt a).isSome && pageOn s (a / 0x1000) && !(locked s (a / 0x1000) && lockGuards (a % 0x1000)) && !s.resetting.contains (a / 0x1000)

/-- The assigned register at `a` can be read: its page is powered and not in reset (R58, R71). -/
def readable (s : Dev) (a : Nat) : Bool := (regAt a).isSome && pageOn s (a / 0x1000) && !s.resetting.contains (a / 0x1000)

/-! ### Calibration -/

/-- The lane of slice `slice` of bank `b` has an adjustment that a swap moves (R136). -/
def swapMoves (d : Dev) (b slice : Nat) : Bool :=
  match sliceLane d b slice with
  | some l => (mget (fun _ => none) d.adj l).isSome
  | none => false

/-- The rows from which the latest swaps of bank `b` act, after one of slice `slice` (R137). -/
def swapRows (d : Dev) (b slice : Nat) : NMap Nat :=
  match sliceEng d b slice with
  | some e => mset (fun _ => 0) slice (nextFetched d e + 1) (getCal d b).swapRow
  | none => mdrop (· == slice) (getCal d b).swapRow

/-- A swap of `slice` has been counted: its lane's adjustments move, and the drift applied and LAG show (R136, R139). -/
def swapShown (b slice : Nat) (pend : BitVec 16) (drift : Nat) (t : Dev) : Dev :=
  let u := match sliceLane t b slice with
    | some l => stepAdj l t
    | none => t
  lagRule b pend (fset (A (calPage b) 0x8C) 0 16 drift u)

/-! ### The Gleaner -/

/-- Before slice `f` takes a row, the other slices of its yoke have taken the rows before it, and the lead that row
itself (R273). -/
def caughtUp (f : Nat) (d : Dev) : Dev :=
  let k := takenBy d f
  let l := leadFur d f
  let u := forAll (yokeFurs d f) (fun g x => if k = 0 then x else catchUp (k - 1) (nextMcVs x) (glnOn x g) g x) d
  if l = f then u else catchUp k (nextMcVs u) (glnOn u l) l u

/-! ### Furrow programs -/

/-- Engine `m` may issue a row, and at the boundary no instruction is under way, none waits behind pending branches and
no transfer has gone wrong: the next instruction begins (R22, R185). -/
def mayBegin (d : Dev) (m : Nat) : Bool :=
  let f := getFur (boundary m d) m
  mayIssue d m && f.ending.isNone && f.cur.isNone && f.drain.isNone && f.xfault.isNone

/-- The value at this mc of a sampled condition that had the value `old` (R187). -/
def decided (d : Dev) (m c sel k td : Nat) (old : Option Bool) : Option Bool :=
  if old.isNone && td < nowVs d + 1024 then condValue d m c sel k td else old

/-- The device once engine `m`'s fetch stage has taken the next word from a pin or the hopper. -/
def fetched (d : Dev) (m : Nat) : Dev :=
  match takeWord m (getFur (boundary m d) m).pc (nextFetch (boundary m d) m) (boundary m d) with
  | some (_, t) => t
  | none => boundary m d

/-- The device after an issue that leaves `t`: a drain row where one is due, and the registers of the yoke. -/
def rowIssued (d : Dev) (m : Nat) (t : Dev) : Dev :=
  let u := issueDrain m (rd64 (boundary m d) (fa m 0xB8)) t
  forAll (yokeEngs u m) (fun n => showFur n) u

/-- The attempt to place the first row of `x` at index `i` on the yoke of engine `m` (R181, R182). -/
def firstTry (m i : Nat) (x : BitVec 64) (t : Dev) : Tried × Dev :=
  tryRow m i x (srcOf x) true (if opOf x = 16 then some (wf x 36 4, wf x 0 32) else none) (preEffects m x)
    (if opOf x = 1 then setFur m { getFur t m with tile := wf x 22 22, row := wf x 10 12 } t else t)

/-- The device after the first row of instruction `x` on the lead of engine `e`: when the next instruction begins, the
word is legal and raises no fault, and its row is placed (R178, R185, R202). Not for LOOP and SYNC. -/
def firstRow (e : Eng) (x : BitVec 64) (d : Dev) : Option Dev :=
  let m := leadOf d e
  let t := fetched d m
  let i := (getFur (boundary m d) m).pc
  if !mayBegin d m || decodeFault t m x ≠ 0 || (opOf x == 63 && !(getFur t m).pend.isEmpty) then none
  else match firstTry m i x t with
    | (.done, u) => some (rowIssued d m (rowDone m i 0 (rd64 t (fa m 0xB8)) (getFur t m).tNext x u))
    | _ => none

/-- As `firstRow` for a LOOP, which pushes its loop entry with its carried row (R197). -/
def firstLoop (e : Eng) (x : BitVec 64) (d : Dev) : Option Dev :=
  let m := leadOf d e
  let t := fetched d m
  let i := (getFur (boundary m d) m).pc
  if !mayBegin d m || decodeFault t m x ≠ 0 then none
  else match tryRow m i x (srcOf x) true none id (setFur m { getFur t m with loops := (wf x 0 32, i + 1) :: (getFur t m).loops } t) with
    | (.done, u) => some (rowIssued d m (goTo m (i + 1) i (setFur m { getFur u m with cur := none } u)))
    | _ => none

/-! ### Devices on which nothing happens by itself -/

/-- Nothing falls due by itself before the next command acts on the lanes: none waits in M, holds a step
of its decoder or has an event to come, no reflex rule holds one, no deskew engine runs, no furrow has issued its last row, no
drill waits for one, and no Quench and no release of one is on its way. -/
def calmLanes (d : Dev) : Bool :=
  d.flt.rel.isNone && !d.flt.quenchPend && d.holds.isEmpty && (d.lanes.all fun x => x.2.mSince.isNone && x.2.held.isNone && x.2.evs.isEmpty)
    && (d.cal.all fun x => x.2.dsk.isNone) && (d.drl.all fun x => x.2.haltAt.isNone) && d.fur.all fun x => furState d x.1 != 3 || !lastRow d (leadOf d x.1)

/-- Nothing falls due by itself before the next command acts: on the lanes, in the capture units, at the trigger inputs and PPS,
on the ring, at the acquisition masks and at the injected source. -/
def calmBefore (d : Dev) : Bool :=
  calmLanes d && d.hdl.tins.isEmpty && d.hdl.timeQ.isEmpty && d.hdl.rxq.isEmpty && d.hdl.ppsWait.isEmpty && d.acq.viols.isEmpty
    && (d.gln.slices.all fun x => x.2.pend.isEmpty && x.2.buf.isEmpty) && !srcLive d 0xFF

/-- Nothing follows a command: no fault is raised or LIVE, no site has been used, no wake waits, and no DDR-5 channel
has had the errors of R521. -/
def calmAfter (d : Dev) : Bool :=
  d.raised.isEmpty && (d.flt.srcs.all fun x => x.2.live.isEmpty) && d.flw.sites.isEmpty && d.wakeReq.isNone && d.ueT.all fun x => decide (x.2.length < 16)

/-! ### The non-volatile stores -/

/-- The stores are in order: the slots are in canonical form, numbered 0 to 8,191 and of 256 bytes each (R576), and
every owner slot is BLANK, ACTIVE, reserved or REVOKED (R612). -/
def storesOk (nv : Nv) : Bool :=
  mwf (fun _ => []) 0 nv.slots && (nv.slots.all fun x => decide (x.1 < 8192) && x.2.length == 256)
    && mwf (fun _ => {}) 0 nv.owners && nv.owners.all fun x => decide (x.2.status ≤ 3)

/-- The commands of the engines that write the non-volatile stores (R580, R613). -/
def writesStores : Instr → Bool
  | .hallmarkCommit _ _ _ | .aonSupplyLoss _ _ | .fuseDone _ => true
  | _ => false

/-- The command of the rising supply. -/
def isPowerOn : Instr → Bool
  | .powerOn _ => true
  | _ => false

/-- Every committed record of the store is older than number `q`. -/
def olderThan (nv : Nv) (q : Nat) : Bool := (committed nv).all fun e => decide (e.2 < q)

end Sys2Proof.Machine
end

