-- ==== Sys2Proof/Certificates/Slice0/Obligations.lean ====
section
/-! DEFINITION. The statements about the machine that the provers settle, each as a proposition. A statement about a
command says that it completes and what the device is right after its own effect (`Acts`); `d` is the device at the
command's time, before its effect (`actPre`). -/
open Sys2Proof Sys2Proof.Machine

/-- A register write or read that no shared rule refuses is carried out by the register it names. For a write with all
byte enables at an aligned, assigned, powered, unlocked register out of reset: REGISTER_WRITE, and PAIR_LO_WRITE and
PAIR_HI_WRITE on the halves of an RW pair, end in the next state in which the register named has taken the value
(writeReg). LATCHED_READ of a LO register of a latched group returns the value shown and loads the path's read latch;
RC_READ of a register with RC bits returns what readReg gives and leaves the device it gives. Nothing else changes but
by the time that passes and by what follows every command. Acts c s u says exec c s = next { s with dev := actPost
s.nv u }. Forms shown to complete here (exec = next): registerWrite, pairLoWrite, pairHiWrite, latchedRead, rcRead. -/
def Obligations.RegisterAccessesAct : Prop :=
  ∀ (dt : Nat) (s : State) (d : Dev), s.dev.aon = true → d = actPre dt s.dev →
    (∀ (p : Path) (off : Off) (be : BitVec 4) (v : Word), off.toNat % 4 = 0 → be = 0xF → accepts d off.toNat = true → Acts (.registerWrite dt p off be
      v) s (writeReg s.nv p off.toNat v.toNat d)) ∧
    (∀ (p : Path) (off : Off) (v : Word), off.toNat % 4 = 0 → isPair .pairLo off.toNat = true → accepts d off.toNat = true → Acts (.pairLoWrite dt p
      off v) s (writeReg s.nv p off.toNat v.toNat d)) ∧
    (∀ (p : Path) (off : Off) (v : Word), off.toNat % 4 = 0 → isPair .pairHi off.toNat = true → accepts d off.toNat = true → Acts (.pairHiWrite dt p
      off v) s (writeReg s.nv p off.toNat v.toNat d)) ∧
    (∀ (p : Path) (off : Off) (r : Reg) (k : PageKind) (n : Nat) (t : Dev), off.toNat % 4 = 0 → regAt off.toNat = some r → pageKind (off.toNat /
      0x1000) = some k → r.pairing = .latLo n → readable d off.toNat = true → t = beforeRead k (off.toNat / 0x1000) (off.toNat % 0x1000) d → Acts
      (.latchedRead dt p off) s (emit (.rd p (shown s.nv p r off.toNat t)) (loadLatch s.nv p n off.toNat t))) ∧
    (∀ (p : Path) (off : Off) (r : Reg) (k : PageKind) (t : Dev), off.toNat % 4 = 0 → regAt off.toNat = some r → pageKind (off.toNat / 0x1000) = some
      k → r.pairing = .none → r.rc ≠ 0 → readable d off.toNat = true → t = beforeRead k (off.toNat / 0x1000) (off.toNat % 0x1000) d → Acts (.rcRead dt
      p off) s (emit (.rd p (readReg s.nv p k r off.toNat t).1) (readReg s.nv p k r off.toNat t).2))

/-- Enabling, draining, freezing and resetting a block act on its header as the block control rules say. When no shared
rule refuses the write to BLK_CTL of an assigned page: BLOCK_ENABLE on a block that is not enabled, not draining and
whose enable nothing refuses sets EN and starts it once READY is 1; DRAIN clears EN, and of an ACTIVE block sets
DRAINING and starts its drain; FREEZE takes the snapshot and gives EN its value; BLOCK_RESET resets the block, and the
chip on page 0. DRAIN_DONE of a block whose work is finished clears DRAINING and ACTIVE in the same mc and sets
IRQ_STAT.DRAINED, and of a MEM page then maps its channel out; BLOCK_RESET_DONE ends the reset of the page and starts
the EXTRA time of a shadow that waits for it. Acts c s u says exec c s = next { s with dev := actPost s.nv u }. Forms
shown to complete here (exec = next): blockEnable, drain, freeze, blockReset, drainDone, blockResetDone. -/
def Obligations.BlockControlActs : Prop :=
  ∀ (dt : Nat) (s : State) (d : Dev), s.dev.aon = true → d = actPre dt s.dev →
    (∀ (p : Path) (pg : Page) (fr : Bool) (k : PageKind) (t : Dev), accepts d (A pg.toNat 8) = true → pageKind pg.toNat = some k → enFixed k = false →
      t = writeFreeze s.nv pg.toNat fr d → blkDraining t pg.toNat = false → blkEn t pg.toNat = false → (0x140 ≤ pg.toNat ∧ pg.toNat < 0x150 → timLent
      t (pg.toNat - 0x140) = false) → (k = .jes → jesErr (jesWould t (pg.toNat - 0x1A0)) = 0) → Acts (.blockEnable dt p pg fr) s (blkRise pg.toNat
      (fset (A pg.toNat 8) 0 1 1 t))) ∧
    (∀ (p : Path) (pg : Page) (fr : Bool) (k : PageKind) (t : Dev), accepts d (A pg.toNat 8) = true → pageKind pg.toNat = some k → enFixed k = false →
      t = writeFreeze s.nv pg.toNat fr d → blkEn t pg.toNat = true → blkActive t pg.toNat = true → Acts (.drain dt p pg fr) s (blkDrainStart pg.toNat
      (fset (A pg.toNat 0xC) 1 1 1 (fset (A pg.toNat 8) 0 1 0 t)))) ∧
    (∀ (p : Path) (pg : Page) (en : Bool) (k : PageKind), accepts d (A pg.toNat 8) = true → pageKind pg.toNat = some k → Acts (.freeze dt p pg en) s
      (writeEn pg.toNat en (writeFreeze s.nv pg.toNat true d))) ∧
    (∀ (p : Path) (pg : Page) (k : PageKind), accepts d (A pg.toNat 8) = true → pageKind pg.toNat = some k → srstRO k = false → Acts (.blockReset dt p
      pg) s (if pg.toNat = 0 then chipReset 3 0 d else blkReset pg.toNat d)) ∧
    (∀ (pg : Page) (k : PageKind), pageOn d pg.toNat = true → blkDraining d pg.toNat = true → d.resetting.contains pg.toNat = false → blkIdle d
      pg.toNat = true → pageKind pg.toNat = some k → k ≠ .mem → k ≠ .mem0 → k ≠ .grn → Acts (.drainDone dt pg) s (irqSet pg.toNat 0x40000000 (fset (A
      pg.toNat 0xC) 0 2 0 d))) ∧
    (∀ (pg : Page), pageOn d pg.toNat = true → blkDraining d pg.toNat = true → d.resetting.contains pg.toNat = false → blkIdle d pg.toNat = true →
      pageKind pg.toNat = some .grn → Acts (.drainDone dt pg) s (grnDrained (irqSet pg.toNat 0x40000000 (fset (A pg.toNat 0xC) 0 2 0 d)))) ∧
    (∀ (pg : Page) (k : PageKind), pageOn d pg.toNat = true → blkDraining d pg.toNat = true → d.resetting.contains pg.toNat = false → blkIdle d
      pg.toNat = true → pageKind pg.toNat = some k → k = .mem ∨ k = .mem0 → Acts (.drainDone dt pg) s (mapoutMem (pg.toNat - 0x188) (irqSet pg.toNat
      0x40000000 (fset (A pg.toNat 0xC) 0 2 0 d)))) ∧
    (∀ (pg : Page), d.resetting.contains pg.toNat = true → Acts (.blockResetDone dt pg) s (hostRelease
      { d with resetting := d.resetting.filter (· ≠ pg.toNat), flt := { d.flt with shadows := d.flt.shadows.map fun x => if x.page == some pg.toNat && x.closeAt.isNone then { x with closeAt := some (now d + fget d (A 2 0xD8) 0 16) } else x } }))

/-- Lock keys, forced interrupts, pending messages, the field period, the field tick and an unlock of the main PLL act.
LOCK_KEY writes the LOCK register and sets LOCKED exactly when KEY is not 0x5EED; IRQ_FORCE sets the bits of IRQ_STAT
that are written 1; a pending MSI-X message that nothing blocks is sent and no longer pends; a valid FIELD_CFG value
requests the period and another sets the error bit, which clears when written 1; a field tick on a multiple of the
field period, at least 1,600 mc after the last, counts, loads the latched TS and the new period, takes the snapshots
and paces the service layer; an unlock of a locked main PLL clears MAIN_LOCK and WARM and raises its source. Acts c s
u says exec c s = next { s with dev := actPost s.nv u }. Forms shown to complete here (exec = next): lockKey,
irqForce, msixPendingSend, fieldCfgWrite, fieldTick, mainPllUnlock. -/
def Obligations.HeaderAndTimeBaseCommandsAct : Prop :=
  ∀ (dt : Nat) (s : State) (d : Dev), s.dev.aon = true → d = actPre dt s.dev →
    (∀ (p : Path) (pg : Page) (v : Word), accepts d (A pg.toNat 0x2C) = true → Acts (.lockKey dt p pg v) s (fset (A pg.toNat 0x2C) 31 1 (b2n (bits
      v.toNat 0 16 != 0x5EED)) (plainWrite (A pg.toNat 0x2C) v.toNat d))) ∧
    (∀ (p : Path) (pg : Page) (v : Word), accepts d (A pg.toNat 0x18) = true → Acts (.irqForce dt p pg v) s (irqSet pg.toNat v.toNat d)) ∧
    (∀ (vec : BitVec 11), mget (fun _ => false) d.pci.pba vec.toNat = true → msixBlocked d vec.toNat = false → Acts (.msixPendingSend dt vec) s
      (msixSendNow vec.toNat { d with pci := { d.pci with pba := mset (fun _ => false) vec.toNat false d.pci.pba } })) ∧
    (∀ (p : Path) (v : Word), accepts d (A 0 0x80) = true → 1 ≤ bits v.toNat 0 7 → bits v.toNat 0 7 ≤ 100 → Acts (.fieldCfgWrite dt p v) s (fset (A 0
      0x80) 0 7 (bits v.toNat 0 7) (onlyIf (bit v.toNat 31) (clrHit (A 0 0x80) 31) d))) ∧
    (∀ (p : Path) (v : Word), accepts d (A 0 0x80) = true → bits v.toNat 0 7 = 0 ∨ 100 < bits v.toNat 0 7 → Acts (.fieldCfgWrite dt p v) s (hit (A 0
      0x80) 31 (onlyIf (bit v.toNat 31) (clrHit (A 0 0x80) 31) d))) ∧
    (∀ (t : Dev), d.clk = true → fieldMcs d ≠ 0 → now d % fieldMcs d = 0 → d.fieldMc.all (fun m => decide (m + 1600 ≤ now d)) = true → t = wr64 (A 0
      0x8C) (now d) (wr64 (A 0 0x84) (rd64 { d with fieldMc := some (now d) } (A 0 0x84) + 1) { d with fieldMc := some (now d) }) → Acts (.fieldTick
      dt) s (flwTick (fieldSnapshots (fset (A 0 0x80) 16 7 (fget t (A 0 0x80) 0 7) t)))) ∧
    (d.clk = true → fbit d refStat 26 = true → Acts (.mainPllUnlock dt) s (raise 1 0 (setWarm false (fset refStat 26 1 0
      { d with hdl := { d.hdl with lockFrom := none } }))))

/-- Row issue, row ticks, compare results, decisions, resolutions, waits, loop ends and returns act at their boundaries.
ROW_ISSUE on a furrow that may issue acts at the boundary and then issues what is due; ROW_TICK starts the due row of
every engine of the yoke; COMPARE_RESULT judges the strobes whose results are available and delivers the row flags in
row order; BRANCH_DECIDE gives every sampled condition that is due its value; BRANCH_RESOLVE resolves the oldest
pending branches in order, and a taken oldest branch acts; WAIT_END and WAIT_TIMEOUT end a WAIT as their rule says;
LEND and RET pop the loop or call entry and continue at the body start, the next instruction or the popped index. Acts
c s u says exec c s = next { s with dev := actPost s.nv u }. Forms shown to complete here (exec = next): rowIssue,
rowTick, compareResult, branchDecide, branchResolve, waitEnd, waitTimeout, lend, ret. -/
def Obligations.FurrowBoundaryCommandsAct : Prop :=
  ∀ (dt : Nat) (s : State) (d : Dev), s.dev.aon = true → d = actPre dt s.dev →
    (∀ (e : Eng) (m : Nat) (b : Dev), m = leadOf d e → mayIssue d m = true → b = boundary m d → (getFur b m).ending = none → Acts (.rowIssue dt e) s
      (rowIssued d m (issueGo m b))) ∧
    (∀ (e : Eng) (m : Nat), m = leadOf d e → Acts (.rowTick dt e) s (forAll (yokeEngs d m) (fun n t => match (getFur t n).issued.find? fun r =>
      !r.ticked with | some r => if r.t < nextMcVs t then tickRow n r t else t | none => t) d)) ∧
    (∀ (e : Eng) (m : Nat), m = leadOf d e → Acts (.compareResult dt e) s (deliverFlags m (forAll (yokeEngs d m) judgeRows d))) ∧
    (∀ (e : Eng) (m : Nat) (u : Dev), u = forAll (List.range 24) fenNow d → m = leadOf u e → Acts (.branchDecide dt e) s (setFur m
      { getFur u m with pend := (getFur u m).pend.map fun b => { b with dec := decided u m b.cond b.sel b.k b.tD b.dec }, waitRows := (getFur u m).waitRows.map fun r => (r.1, r.2.1, decided u m ((getFur u m).cur.elim 0 fun c => condOf c.1) ((getFur u m).cur.elim 0 fun c => selOf c.1) r.1 r.2.1 r.2.2) }
      u)) ∧
    (∀ (e : Eng) (m : Nat), m = leadOf d e → furState d m = 3 → Acts (.branchResolve dt e) s (showFur m (resolveGo m 5 (noteSel m d)))) ∧
    (∀ (e : Eng) (m : Nat) (b : Pend) (bs : List Pend) (t : Dev), m = leadOf d e → furState d m = 3 → t = noteSel m d → (getFur t m).pend = b :: bs →
      pendDue (getFur t m) b = true → b.dec = some true → Acts (.branchResolve dt e) s (showFur m (takeBranch m b t))) ∧
    (∀ (e : Eng) (m : Nat) (w : BitVec 64) (i n td : Nat) (u t : Dev), m = leadOf d e → furState d m = 3 → u = noteSel m d → (getFur u m).cur = some
      (w, i, n) → opOf w = 12 → 0 < n → (getFur u m).pend.any (pendDue (getFur u m)) = false → waitHit (getFur u m) = some td → t = onlyIf (wf w 41 1
      == 1) (clearAtBoundary m (condOf w) (selOf w) td) u → Acts (.waitEnd dt e) s (showFur m (goTo m (i + 1) i (setFur m
      { getFur t m with cur := none, waitRows := [] } t)))) ∧
    (∀ (e : Eng) (m : Nat) (w : BitVec 64) (i n : Nat) (u t : Dev), m = leadOf d e → furState d m = 3 → u = noteSel m d → (getFur u m).cur = some (w,
      i, n) → opOf w = 12 → wf w 0 28 ≠ 0 → n = wf w 0 28 → (getFur u m).pend.any (pendDue (getFur u m)) = false → waitOpen (getFur u m) = false →
      waitHit (getFur u m) = none → t = setFur m { getFur u m with cur := none, waitRows := [] } u → Acts (.waitTimeout dt e) s (showFur m (if wf w 42
      1 = 1 then progFault m 9 i t else goTo m (i + 1) i (irqSet (furPage m) 4 (fset (fa m 0x84) 14 1 1 t))))) ∧
    (∀ (e : Eng) (m : Nat) (c st : Nat) (rest : List (Nat × Nat)), m = leadOf d e → furState d m = 3 → (getFur d m).endc = 1 → (getFur d m).pend = []
      → (getFur d m).loops = (c, st) :: rest → Acts (.lend dt e) s (showFur m (if c ≠ 1 then goTo m st (getFur d m).pc (setFur m
      { getFur d m with endc := 0, loops := (c - 1, st) :: rest } d) else goTo m ((getFur d m).pc + 1) (getFur d m).pc (setFur m
      { getFur d m with endc := 0, loops := rest } d)))) ∧
    (∀ (e : Eng) (m : Nat) (r : Nat) (rest : List Nat), m = leadOf d e → furState d m = 3 → (getFur d m).endc = 2 → (getFur d m).pend = [] → (getFur d
      m).calls = r :: rest → Acts (.ret dt e) s (showFur m (goTo m r (getFur d m).pc (setFur m { getFur d m with endc := 0, calls := rest } d))))

/-- Every instruction of a furrow program issues its first row and has its effect when it begins legally. For EMIT, RPT,
AGEN, GSET, JMP, CALL, BR, WAIT, SET, REC, HALT, LOOP and SYNC: when the next instruction of the lead of the engine
begins at this boundary, its word is legal and raises no fault, and its row can be placed, the command ends in the
state in which the row is placed on every engine of the yoke and the instruction has had the effect that goes with its
first row (firstRow, firstLoop, syncRow): registers loaded, branches pending, loop and call entries pushed, records
written, control passed on. Acts c s u says exec c s = next { s with dev := actPost s.nv u }. Forms shown to complete
here (exec = next): emit, rpt, agen, gset, jmp, call, br, wait, setReg, recWrite, halt, loop, sync. -/
def Obligations.ProgramInstructionsIssue : Prop :=
  ∀ (dt : Nat) (s : State) (d : Dev), s.dev.aon = true → d = actPre dt s.dev →
    (∀ (e : Eng) (w : BitVec 64) (t : Dev), firstRow e (opWord 1 w) d = some t → Acts (.emit dt e w) s (t)) ∧
    (∀ (e : Eng) (w : BitVec 64) (t : Dev), firstRow e (opWord 2 w) d = some t → Acts (.rpt dt e w) s (t)) ∧
    (∀ (e : Eng) (w : BitVec 64) (t : Dev), firstRow e (opWord 3 w) d = some t → Acts (.agen dt e w) s (t)) ∧
    (∀ (e : Eng) (w : BitVec 64) (t : Dev), firstRow e (opWord 4 w) d = some t → Acts (.gset dt e w) s (t)) ∧
    (∀ (e : Eng) (w : BitVec 64) (t : Dev), firstRow e (opWord 8 w) d = some t → Acts (.jmp dt e w) s (t)) ∧
    (∀ (e : Eng) (w : BitVec 64) (t : Dev), firstRow e (opWord 9 w) d = some t → Acts (.call dt e w) s (t)) ∧
    (∀ (e : Eng) (w : BitVec 64) (t : Dev), firstRow e (opWord 11 w) d = some t → Acts (.br dt e w) s (t)) ∧
    (∀ (e : Eng) (w : BitVec 64) (t : Dev), firstRow e (opWord 12 w) d = some t → Acts (.wait dt e w) s (t)) ∧
    (∀ (e : Eng) (w : BitVec 64) (t : Dev), firstRow e (opWord 16 w) d = some t → Acts (.setReg dt e w) s (t)) ∧
    (∀ (e : Eng) (w : BitVec 64) (t : Dev), firstRow e (opWord 17 w) d = some t → Acts (.recWrite dt e w) s (t)) ∧
    (∀ (e : Eng) (w : BitVec 64) (t : Dev), firstRow e (opWord 63 w) d = some t → Acts (.halt dt e w) s (t)) ∧
    (∀ (e : Eng) (w : BitVec 64) (t : Dev), firstLoop e (opWord 10 w) d = some t → Acts (.loop dt e w) s (t)) ∧
    (∀ (e : Eng) (w : BitVec 64) (m : Nat) (t : Dev), m = leadOf d e → mayBegin d m = true → t = fetched d m → decodeFault t m (opWord 13 w) = 0 →
      Acts (.sync dt e w) s (rowIssued d m (syncRow m (getFur (boundary m d) m).pc 0 (opWord 13 w) t)))

/-- Mapping, starting, stopping, priming and ending a furrow, and prefetching for it, act as the furrow states say.
MAP_WRITE that nothing refuses moves the logical furrow to the engine and frees its old engine; FURROW_START that no
check refuses initialises every engine of the yoke into PRIMING and its Gleaner slices; FURROW_STOP stops the furrow;
PRIME_COMPLETE of a primed lead enters ARMED, and in mode 0 sets the start 64 mc on; RUN_START in the start window of
the yoke enters RUNNING and issues row 0; FURROW_STOPPED ends a run that is over; PREFETCH_WALK takes a step of the
walk, of a yoke member a step of its own hopper; INSTRUCTION_WORD_READ and TILE_READ bring in a word and a tile;
GENERATOR_WRITE that nothing refuses writes the register of a stopped engine. Acts c s u says exec c s = next { s with
dev := actPost s.nv u }. Forms shown to complete here (exec = next): mapWrite, furrowStart, furrowStop, primeComplete,
runStart, furrowStopped, prefetchWalk, instructionWordRead, tileRead, generatorWrite. -/
def Obligations.FurrowControlCommandsAct : Prop :=
  ∀ (dt : Nat) (s : State) (d : Dev), s.dev.aon = true → d = actPre dt s.dev →
    (∀ (p : Path) (e : Eng) (v : Word) (n : Nat) (t : Dev), accepts d (fa e 0x90) = true → n = bits v.toNat 0 7 → mapRefusedFur d e n = false → n =
      0x7F → logical d e ≠ 0x7F → t = fset (fa e 0x90) 0 7 0x7F d → Acts (.mapWrite dt p e v) s (forAll (ownedLanes t 0x7F) idlePark (degEngines e
      (engDegraded e t)))) ∧
    (∀ (p : Path) (e : Eng) (v : Word) (n o : Nat) (t : Dev), accepts d (fa e 0x90) = true → n = bits v.toNat 0 7 → mapRefusedFur d e n = false → n <
      64 → engOf d n = some o → logical d e ≠ 0x7F → t = engDegraded o (fset (fa e 0x90) 0 7 n (fset (fa o 0x90) 0 7 0x7F d)) → Acts (.mapWrite dt p e
      v) s (forAll (ownedLanes t n) idlePark (degEngines e (engDegraded e t)))) ∧
    (∀ (p : Path) (e : Eng) (v : Word) (n : Nat) (t : Dev), accepts d (fa e 0x90) = true → n = bits v.toNat 0 7 → mapRefusedFur d e n = false → n < 64
      → engOf d n = none → logical d e = 0x7F → t = fset (fa e 0x90) 31 1 (bits v.toNat 31 1) (fset (fa e 0x90) 0 7 n d) → Acts (.mapWrite dt p e v) s
      (forAll (ownedLanes t n) idlePark (degEngines e (engDegraded e t)))) ∧
    (∀ (p : Path) (e : Eng) (v : Word) (w mode : Nat) (t : Dev), accepts d (fa e 0x80) = true → w = v.toNat ||| 0x80000000 → mode = bits w 28 2 → t =
      fset (fa e 0x80) 28 2 mode (if bit w 30 then furStop e 2 d else d) → startErr t e mode = 0 → Acts (.furrowStart dt p e v) s (forAll ((yokeEngs t
      e).map (logical t)) glnStart (forAll (yokeEngs t e) (startInit e mode) t))) ∧
    (∀ (p : Path) (e : Eng) (v : Word) (w : Nat), accepts d (fa e 0x80) = true → w = v.toNat ||| 0x40000000 → bit w 31 = false → Acts (.furrowStop dt
      p e v) s (fset (fa e 0x80) 28 2 (bits w 28 2) (furStop e 2 d))) ∧
    (∀ (e : Eng) (t : Dev), furState d e = 1 → yokeRole d e ≠ 2 → primed d e = true → t = forAll (yokeEngs d e) (fun x y => fset (fa x 0x84) 16 3 2
      (setFur x { getFur y x with armed := now d } y)) d → (getFur t e).mode = 0 → Acts (.primeComplete dt e) s (setFur e
      { getFur t e with startMc := some (now d + 64) } t)) ∧
    (∀ (e : Eng) (c : Nat) (u t : Dev), startTime d e = some c → furState d e = 2 → yokeRole d e ≠ 2 → c = now d + 22 → u = issueNext e none (forAll
      (yokeEngs d e) (fun x y => fset (fa x 0x84) 16 3 3 (setFur x { getFur y x with tNext := c * 1024 } y)) d) → t = (if rd64 u (fa e 0xB8) = 0 then
      u else forAll (yokeEngs u e) (fun m => irqSet (furPage m) 8) u) → furState t e = 3 → Acts (.runStart dt e) s (forAll ((yokeEngs d e).map
      (logical d)) glnRunBegin t)) ∧
    (∀ (e : Eng) (m : Nat) (t : Dev), m = leadOf d e → runOver d m = true → allTaken d m = true → t = furStopped' m (forAll ((yokeEngs d m).map
      (logical d)) (fun f => onlyIf (f < 64) (endRunSl f)) d) → Acts (.furrowStopped dt e) s (forAll ((yokeEngs d m).map (logical t)) (fun f =>
      drlFurStopped f (getFur d m).tNext) t)) ∧
    (∀ (e : Eng), furActive d e = true → yokeRole d e ≠ 2 → Acts (.prefetchWalk dt e) s (walkStep e d)) ∧
    (∀ (e : Eng), furActive d e = true → yokeRole d e = 2 → Acts (.prefetchWalk dt e) s (memberStep e d)) ∧
    (∀ (e : Eng) (err : Bool) (i : Nat) (bad : Bool) (t : Dev), wordWaited d e = some i → furActive d e = true → memHolds d (wordAddr d e i) 8 = false
      → bad = (err || !rangeServed d (wordAddr d e i) 8) → t = setFur e
      { getFur d e with hop := fillWord i (now d) (memWord d e i, bad) (getFur d e).hop } d → Acts (.instructionWordRead dt e err) s (showFur e (inc64
      (fa e 0x238) 8 (walkWord e i (memWord d e i) bad (outCount (wordAddr t e i) 8 t))))) ∧
    (∀ (e : Eng) (tile : BitVec 22) (err bad asked : Bool) (a : Nat) (x : Tile), furActive d e = true → tileOf d e tile.toNat = none ∨ (getFur d
      e).asked.contains tile.toNat = true → memHolds d (tileAddr d e tile.toNat) 4096 = false → a = tileAddr d e tile.toNat → asked = (getFur d
      e).asked.contains tile.toNat → bad = (err || !(if asked then rangeServed d a 4096 else rangeGood d a 4096)) → x = (if bad then
      { cause := 7, rows := 0, next := tile.toNat + 1, runs := [] } else tileParse (getFur d e).slots.length tile.toNat (memBytes d a 4096)) → Acts
      (.tileRead dt e tile err) s (putFur e (tileCome tile.toNat asked { x with since := now d }
      { getFur d e with asked := (getFur d e).asked.filter (· ≠ tile.toNat) }) (inc64 (fa e 0x238) 4096 (outCount a 4096 (onlyIf (!asked) (tagPass
      .rows a 4096) d))))) ∧
    (∀ (p : Path) (e : Eng) (off : BitVec 12) (v : Word), isGenOff off.toNat = true → off.toNat < 0xA00 → accepts d (fa e off.toNat) = true →
      genWriteErr d e off.toNat v.toNat = 0 → Acts (.generatorWrite dt p e off v) s (wrN (fa e off.toNat) v.toNat d)) ∧
    (∀ (p : Path) (e : Eng) (off : BitVec 12) (v : Word), isGenOff off.toNat = true → 0xA00 ≤ off.toNat → accepts d (fa e off.toNat) = true →
      genWriteErr d e off.toNat v.toNat = 0 → Acts (.generatorWrite dt p e off v) s
      ({ d with ovl := mset (fun _ => 0) ((e * 8 + fget d (fa e 0x904) 0 3) * 64 + (off.toNat - 0xA00) / 4) v d.ovl }))

/-- Sense transitions, open detection, ownership, lane failures and spare slices act on their lanes. A sense transition of
a powered bank qualifies what came before and enters the new state; open detection (with OPEN_EN 1 for 1 us) and
recovery set and clear the OPEN condition and HEALTH; a LANE_CFG write that nothing refuses gives OWNER and MAPOUT,
HEALTH and parking, and parks a lane handed to an IDLE furrow; a transmitter or receiver failure makes the lane fail,
parks it and raises its source; a SPARE_MAP that nothing refuses maps the spare slice to the lane, and a SPARE_UNMAP
of a used spare whose lane's owner is stopped frees it. Acts c s u says exec c s = next { s with dev := actPost s.nv u
}. Forms shown to complete here (exec = next): senseTransition, senseOpenDetect, senseOpenRecover, laneCfgWrite,
laneIoFail, spareMap, spareUnmap. -/
def Obligations.LaneCommandsAct : Prop :=
  ∀ (dt : Nat) (s : State) (d : Dev), s.dev.aon = true → d = actPre dt s.dev →
    (∀ (l : LaneId) (vs : BitVec 10) (st : SState) (c : Nat) (q : Dev), domOn d (4 + l / 64) = true → c = nowVs d + vs.toNat → q = senseAll c d → Acts
      (.senseTransition dt l vs st) s (senseUpdate [(l.val, senseChange c (mqual q l) st (getLane q l))] q)) ∧
    (∀ (l : LaneId), openCounted d (l / 64) = true → domOn d (4 + l / 64) = true → Acts (.senseOpenDetect dt l) s (updHealth l (setOpen l true d))) ∧
    (∀ (l : LaneId), domOn d (4 + l / 64) = true → Acts (.senseOpenRecover dt l) s (updHealth l (setOpen l false d))) ∧
    (∀ (p : Path) (l : LaneId) (v : Word), accepts d (laneCfg l) = true → ownErr d l (bits v.toNat 0 7) (bit v.toNat 8) = 0 → Acts (.laneCfgWrite dt p
      l v) s (idlePark l (repark l (updHealth l (fset (laneCfg l) 8 1 (b2n (bit v.toNat 8)) (fset (laneCfg l) 0 7 (bits v.toNat 0 7) d)))))) ∧
    (∀ (l : LaneId) (rx : Bool), domOn d (4 + l / 64) = true → Acts (.laneIoFail dt l rx) s (raiseOn (0x15 + 4 * (l / 64)) (b2n rx) l (laneLost l
      (setLane l { getLane d l with ioFail := true } d)))) ∧
    (∀ (p : Path) (b : Bank) (v : Word) (x l w : Nat), accepts d (A (cfgPage b) 0x84) = true → w = v.toNat ||| 0x80000000 → x = bits w 24 1 → l = 64 *
      b + bits w 16 6 → mapRefused d b x l = false → Acts (.spareMap dt p b v) s (mapSpare b x l (plainWrite (A (cfgPage b) 0x84) w d))) ∧
    (∀ (p : Path) (b : Bank) (v : Word) (x w : Nat), accepts d (A (cfgPage b) 0x84) = true → w = putBits v.toNat 30 2 1 → x = bits w 24 1 → spareUsed
      d b x = true → furStopped d (owner d (spareLane d b x)) = true → spareUsed (plainWrite (A (cfgPage b) 0x84) w d) b x = true → Acts (.spareUnmap
      dt p b v) s (unmapSpare b x (plainWrite (A (cfgPage b) 0x84) w d)))

/-- A front-end command that its page takes waits as an immediate command or joins the open group. WRITE_NOW, READ, POLL
and BCAST_NOW on a page that takes commands, for a present chip (broadcasts address all) and with room among the 64,
wait last among the immediate commands with exactly the chip, kind, address and data given (READ and POLL send no
data, POLL the address of FE_ALARM); WRITE_ARMED and BCAST_ARMED join the open group while no chip would have more
than 16 armed writes in it; CLOSE with a target of a defined kind and fewer than 8 groups queued queues the open group
with that target; FLUSH discards every group and resets the bus; a read of FEC.RSP returns the oldest response and
removes it; STATUS_POLL at the interval adds a poll for each present chip. Acts c s u says exec c s = next { s with
dev := actPost s.nv u }. Forms shown to complete here (exec = next): writeNow, read, poll, bcastNow, writeArmed,
bcastArmed, close, flush, fecRspRead, statusPoll. -/
def Obligations.FrontEndCommandsAreTaken : Prop :=
  ∀ (dt : Nat) (s : State) (d : Dev), s.dev.aon = true → d = actPre dt s.dev →
    (∀ (p : Path) (b : Bank) (ch : BitVec 3) (ad : BitVec 10) (da : BitVec 16), accepts d (A (fecPage b) 0x84) = true → fecTakes d b = true → fbit d
      (A (fecPage b) 0x80) ch.toNat = true → (getFec d b).imm.length < 64 → Acts (.writeNow dt p b ch ad da) s (putFec b
      { getFec d b with imm := (getFec d b).imm ++ [{ chip := ch.toNat, kind := 0, addr := ad.toNat, data := da.toNat, src := 0 }] } d)) ∧
    (∀ (p : Path) (b : Bank) (ch : BitVec 3) (ad : BitVec 10), accepts d (A (fecPage b) 0x84) = true → fecTakes d b = true → fbit d (A (fecPage b)
      0x80) ch.toNat = true → (getFec d b).imm.length < 64 → Acts (.read dt p b ch ad) s (putFec b
      { getFec d b with imm := (getFec d b).imm ++ [{ chip := ch.toNat, kind := 2, addr := ad.toNat, data := 0, src := 0 }] } d)) ∧
    (∀ (p : Path) (b : Bank) (ch : BitVec 3), accepts d (A (fecPage b) 0x84) = true → fecTakes d b = true → fbit d (A (fecPage b) 0x80) ch.toNat =
      true → (getFec d b).imm.length < 64 → Acts (.poll dt p b ch) s (putFec b
      { getFec d b with imm := (getFec d b).imm ++ [{ chip := ch.toNat, kind := 3, addr := 0x201, data := 0, src := 0 }] } d)) ∧
    (∀ (p : Path) (b : Bank) (ad : BitVec 10) (da : BitVec 16), accepts d (A (fecPage b) 0x84) = true → fecTakes d b = true → (getFec d b).imm.length
      < 64 → Acts (.bcastNow dt p b ad da) s (putFec b
      { getFec d b with imm := (getFec d b).imm ++ [{ chip := 0, kind := 4, addr := ad.toNat, data := da.toNat, src := 0 }] } d)) ∧
    (∀ (p : Path) (b : Bank) (ch : BitVec 3) (ad : BitVec 10) (da : BitVec 16) (c : FecCmd), accepts d (A (fecPage b) 0x84) = true → fecTakes d b =
      true → fbit d (A (fecPage b) 0x80) ch.toNat = true → c = { chip := ch.toNat, kind := 1, addr := ad.toNat, data := da.toNat, src := 0 } →
      (List.range 8).any (fun n => decide (armedFor ((getFec d b).opn ++ [c]) n > 16)) = false → Acts (.writeArmed dt p b ch ad da) s (putFec b
      { getFec d b with opn := (getFec d b).opn ++ [c] } d)) ∧
    (∀ (p : Path) (b : Bank) (ad : BitVec 10) (da : BitVec 16) (c : FecCmd), accepts d (A (fecPage b) 0x84) = true → fecTakes d b = true → c =
      { chip := 0, kind := 5, addr := ad.toNat, data := da.toNat, src := 0 } → (List.range 8).any (fun n => decide (armedFor ((getFec d b).opn ++ [c])
      n > 16)) = false → Acts (.bcastArmed dt p b ad da) s (putFec b { getFec d b with opn := (getFec d b).opn ++ [c] } d)) ∧
    (∀ (p : Path) (b : Bank) (v : Word) (w : Nat) (g : GrpTarget) (c : Option Nat), accepts d (A (fecPage b) 0x8C) = true → fecTakes d b = true → w =
      putBits (v.toNat ||| 0x80000000) 27 1 0 → groupTarget d b w = some (g, c) → (getFec d b).groups.length < 8 → Acts (.close dt p b v) s (checkDone
      b (putFec b { getFec d b with opn := [], groups := (getFec d b).groups ++ [{ frames := (getFec d b).opn, target := g, time := c }] } (plainWrite
      (A (fecPage b) 0x8C) w d)))) ∧
    (∀ (p : Path) (b : Bank) (v : Word), accepts d (A (fecPage b) 0x8C) = true → Acts (.flush dt p b v) s (flushGroups b (plainWrite (A (fecPage b)
      0x8C) (putBits (v.toNat ||| 0x08000000) 31 1 0) d))) ∧
    (∀ (p : Path) (b : Bank), readable d (A (fecPage b) 0x88) = true → d.frozen.contains (fecPage b) = false → Acts (.fecRspRead dt p b) s (emit (.rd
      p (rspRead b d).1) (rspRead b d).2)) ∧
    (∀ (b : Bank) (us : Nat) (t : Dev), us = fget d (A (fecPage b) 0x80) 16 8 → us ≠ 0 → fecTakes d b = true → (getFec d b).nextPoll ≤ now d → t =
      forAll ((List.range 8).filter fun n => fbit d (A (fecPage b) 0x80) n) (addPoll b) d → Acts (.statusPoll dt b) s (setFec b
      { getFec t b with nextPoll := now t + us * 1600 } t))

/-- Frames, responses, time-outs, applies and the end of a bus reset act on the front-end bus. FEC_FRAME_SEND sends the
next frame in priority order once its slot is free; FEC_RESPONSE takes the oldest outstanding command: a response
within the window with good CRC, chip and SEQ answers it, one outside the window or with a bad check counts in its
error counter and is a miss; FEC_RESPONSE_TIMEOUT counts a miss; APPLY at the target of a complete head group applies
it on its edge, on time or late with LATE and the lateness recorded; BUS_RESET_END at least 16 cycles on releases the
bus. Acts c s u says exec c s = next { s with dev := actPost s.nv u }. Forms shown to complete here (exec = next):
fecFrameSend, fecResponse, fecResponseTimeout, apply, busResetEnd. -/
def Obligations.FrontEndBusEventsAct : Prop :=
  ∀ (dt : Nat) (s : State) (d : Dev), s.dev.aon = true → d = actPre dt s.dev →
    (∀ (b : Bank) (k : Nat) (c : FecCmd) (y : FecBus), pageOn d (fecPage b) = true → blkActive d (fecPage b) = true → (getFec d b).resetAt = none → k
      = max (getFec d b).freeAt (launchFrom (nowVs d)) → fckFall (k - 1) < nowVs d + 1024 → pickFrame (getFec d b) k (fckFall (k + 47) / 1024) = some
      (c, y) → Acts (.fecFrameSend dt b) s (checkDone b (putFec b
      { y with seq := (y.seq + 1) % 128, freeAt := k + 49, outs := if noResponse c then y.outs else y.outs ++ [(c, k)] } (emit (.fcmd b (fckFall (k -
      1)) (fecFrame c c.seqno)) d)))) ∧
    (∀ (b : Bank) (frame : BitVec 39) (edge : BitVec 5) (c : FecCmd) (k : Nat) (rest : List (FecCmd × Nat)), (getFec d b).outs = (c, k) :: rest →
      fckRise (k + 47 + edge.toNat + 38) + fget d (A (fecPage b) 0x80) 12 4 * 1024 < nowVs d + 1024 → bit frame.toNat 38 = true → 2 ≤ edge.toNat →
      edge.toNat ≤ 8 → crc8 30 (bits frame.toNat 8 30) = bits frame.toNat 0 8 → bits frame.toNat 35 3 = c.chip → bits frame.toNat 24 7 = c.seqno →
      Acts (.fecResponse dt b frame edge) s (answered b c (bits frame.toNat 31 3) (bit frame.toNat 34) (bits frame.toNat 8 16) ((fckRise (k + 47 +
      edge.toNat + 38) + fget d (A (fecPage b) 0x80) 12 4 * 1024) / 1024) (popOut b d))) ∧
    (∀ (b : Bank) (frame : BitVec 39) (edge : BitVec 5) (c : FecCmd) (k : Nat) (rest : List (FecCmd × Nat)), (getFec d b).outs = (c, k) :: rest →
      fckRise (k + 47 + edge.toNat + 38) + fget d (A (fecPage b) 0x80) 12 4 * 1024 < nowVs d + 1024 → bit frame.toNat 38 = true → 2 ≤ edge.toNat →
      edge.toNat ≤ 8 → crc8 30 (bits frame.toNat 8 30) ≠ bits frame.toNat 0 8 ∨ bits frame.toNat 35 3 ≠ c.chip ∨ bits frame.toNat 24 7 ≠ c.seqno →
      Acts (.fecResponse dt b frame edge) s (missed b c (fecErr b 24 (popOut b d)))) ∧
    (∀ (b : Bank) (frame : BitVec 39) (edge : BitVec 5) (c : FecCmd) (k : Nat) (rest : List (FecCmd × Nat)), (getFec d b).outs = (c, k) :: rest →
      fckRise (k + 47 + edge.toNat + 38) + fget d (A (fecPage b) 0x80) 12 4 * 1024 < nowVs d + 1024 → bit frame.toNat 38 = false ∨ edge.toNat < 2 ∨ 8
      < edge.toNat → Acts (.fecResponse dt b frame edge) s (missed b c (fecErr b 16 (popOut b d)))) ∧
    (∀ (b : Bank) (c : FecCmd) (k : Nat) (rest : List (FecCmd × Nat)), (getFec d b).outs = (c, k) :: rest → fckRise (k + 55) + fget d (A (fecPage b)
      0x80) 12 4 * 1024 < nowVs d + 1024 → Acts (.fecResponseTimeout dt b) s (missed b c (fecErr b 16 (popOut b d)))) ∧
    (∀ (b : Bank) (g : Group) (gs : List Group) (k : Nat) (u t : Dev), u = checkDone b d → (getFec u b).groups = g :: gs → (getFec u b).resetAt = none
      → blkActive u (fecPage b) = true → applyEdge u b g = some (k, none) → fckFall (k - 1) < nowVs u + 1024 → t = ampRefill b (checkDone b (irqSet
      (fecPage b) 0x10 (putFec b { getFec u b with groups := gs, syncAt := k + 2, grpAt := k + 1 } (emit (.fapply b (fckRise k)) u)))) → Acts (.apply
      dt b) s (onlyIf ((getFec u b).rstDue && gs.isEmpty) (busReset b) t)) ∧
    (∀ (b : Bank) (g : Group) (gs : List Group) (k c : Nat) (u v t : Dev), u = checkDone b d → (getFec u b).groups = g :: gs → (getFec u b).resetAt =
      none → blkActive u (fecPage b) = true → applyEdge u b g = some (k, some c) → fckFall (k - 1) < nowVs u + 1024 → v = putFec b
      { getFec u b with groups := gs, syncAt := k + 2, grpAt := k + 1 } (emit (.fapply b (fckRise k)) u) → t = ampRefill b (checkDone b (irqSet
      (fecPage b) 0x10 (irqSet (fecPage b) 2 (hit (A (fecPage b) 0x98) 31 (wrN (A (fecPage b) 0x9C) (sat (cdiv (fckRise k + fget v (A (fecPage b)
      0x80) 24 7 * 128 - c) 1024) m32) v))))) → Acts (.apply dt b) s (onlyIf ((getFec u b).rstDue && gs.isEmpty) (busReset b) t)) ∧
    (∀ (b : Bank) (k0 k : Nat), (getFec d b).resetAt = some k0 → k = max (k0 + 16) (launchFrom (nowVs d)) → fckFall (k - 1) < nowVs d + 1024 → Acts
      (.busResetEnd dt b) s (fset (A (fecPage b) 0xA4) 8 1 0 (emit (.freset b (fckFall (k - 1)) false) (setFec b
      { getFec d b with resetAt := none, syncAt := k + 1 } d))))

/-- Period, timing-set, calibration-offset, deskew, recalibration and swap commands write what their rules name.
PER_F_WRITE stages the fraction on its path; a nonzero PER_N_WRITE commits it together with a fraction staged for the
same entry; TS_EDGE_WRITE stages the edge; a TS_FMT_COMMIT whose entry passes the checks is committed; a
CAL_OFFSET_WRITE in range writes the register while busy lanes keep the adjustment in force; DESKEW_START that nothing
refuses starts the engine and holds the TIM channel; DESKEW_DONE writes DSK or FAIL for every masked lane, frees the
channel and sets IRQ bit 1; background recalibration judges every slice and stores the temperature; a SWAP that is
spaced and has something to swap counts, moves the lane's adjustments and shows drift and lag. Acts c s u says exec c
s = next { s with dev := actPost s.nv u }. Forms shown to complete here (exec = next): perNWrite, perFWrite,
tsEdgeWrite, tsFmtCommit, calOffsetWrite, deskewStart, deskewDone, backgroundRecalibration, swap. -/
def Obligations.TimingAndCalibrationCommandsAct : Prop :=
  ∀ (dt : Nat) (s : State) (d : Dev), s.dev.aon = true → d = actPre dt s.dev →
    (∀ (p : Path) (e : Eng) (i : Fin 128) (v : Word) (f : Word), accepts d (perNAddr e i) = true → v.toNat ≠ 0 → (getPath d p).per = some (e.val,
      i.val, f) → Acts (.perNWrite dt p e i v) s (wrN (perNAddr e i) v.toNat (setPath p { getPath d p with per := none } (wr (perNAddr e i + 4) f
      (noteRow (perNAddr e i) d))))) ∧
    (∀ (p : Path) (e : Eng) (i : Fin 128) (v : Word), accepts d (perNAddr e i) = true → v.toNat ≠ 0 → (getPath d p).per.all (fun x => decide (x.1 ≠
      e.val ∨ x.2.1 ≠ i.val)) = true → Acts (.perNWrite dt p e i v) s (wrN (perNAddr e i) v.toNat (setPath p { getPath d p with per := none } (noteRow
      (perNAddr e i) d)))) ∧
    (∀ (p : Path) (e : Eng) (i : Fin 128) (v : Word), accepts d (perNAddr e i + 4) = true → Acts (.perFWrite dt p e i v) s (setPath p
      { getPath d p with per := some (e.val, i.val, v &&& 0x3FF) } d)) ∧
    (∀ (p : Path) (b : Bank) (j : Fin 128) (edge : Fin 6) (v : Word), accepts d (tsFmtAddr b j + 4 + 4 * edge) = true → Acts (.tsEdgeWrite dt p b j
      edge v) s (stageEdge p b j edge v d)) ∧
    (∀ (p : Path) (b : Bank) (j : Fin 128) (v : Word), accepts d (tsFmtAddr b j) = true → tsErr (bits v.toNat 0 3) (bits v.toNat 6 2) (fun i =>
      (edgeAfter d (stagedEdges d p b j) (64 * b + fget d (A (tsPage b) 0x80) 0 6) j i).toNat) = 0 → Acts (.tsFmtCommit dt p b j v) s (commitTs p b j
      v d)) ∧
    (∀ (p : Path) (l : LaneId) (v : Word), accepts d (dskAddr l) = true → adjOk (planeDly d) v.toNat (rdN d (rpoAddr l)) = true → Acts
      (.calOffsetWrite dt p (.dsk l) v) s (wrN (dskAddr l) v.toNat (keepAdj ((busyLanes d).filter (· == l.toNat)) d))) ∧
    (∀ (p : Path) (l : LaneId) (v : Word), accepts d (rpoAddr l) = true → adjOk (planeDly d) (rdN d (dskAddr l)) v.toNat = true → Acts
      (.calOffsetWrite dt p (.rpo l) v) s (wrN (rpoAddr l) v.toNat (keepAdj ((busyLanes d).filter (· == l.toNat)) d))) ∧
    (∀ (p : Path) (v : Word) (t : Dev), accepts d (A 1 0xC0) = true → t = onlyIf (bit v.toNat 31) (clrHit (A 1 0xC0) 31) d → (List.range 512).any (fun
      l => domOn t (4 + l / 64) && !adjOk (bits v.toNat 0 14) (rdN t (dskAddr l)) (rdN t (rpoAddr l))) = false → (List.range 16).filter (fun i =>
      !markOk (bits v.toNat 0 14) (fget t (A (0x160 + i) 0x108) 0 14)) = [] → Acts (.calOffsetWrite dt p .plane v) s (plainWrite (A 1 0xC0) v.toNat
      (keepAdj (busyLanes t) t))) ∧
    (∀ (p : Path) (b : Bank) (v : Word) (w ch : Nat) (ls : List Nat) (t : Dev), accepts d (A (calPage b) 0x90) = true → blkDraining d (calPage b) =
      false → w = v.toNat ||| 0x80000000 → ch = bits w 24 4 → ls = dskLanes d b → ls.any (fun l => owner d l != 0x7F) = false → blkActive d (0x140 +
      ch) = false → fbit d (A (calPage b) 0x84) 28 = false → 4 ≤ bits w 16 4 → bits w 16 4 ≤ 12 → t = wr64 (A (calPage b) 0x9C) 0 (fset (A (calPage b)
      0x84) 28 1 1 (plainWrite (A (calPage b) 0x90) w d)) → Acts (.deskewStart dt p b v) s (showLent ch (setCal b
      { getCal t b with dsk := some { tim := ch, n := 2 ^ bits w 16 4, loop := bits w 0 16, mask := dskLanes t b, todo := dskLanes t b, start := now t + 1 } }
      t))) ∧
    (∀ (b : Bank) (rt : List (Option (BitVec 32))) (x : Dsk), (getCal d b).dsk = some x → x.todo = [] → Acts (.deskewDone dt b rt) s (irqSet (calPage
      b) 2 (fset (A (calPage b) 0x84) 28 1 0 (dskEnd b d)))) ∧
    (∀ (b : Bank) (temp pend : BitVec 16) (bad : List (Fin 66)), fbit d (A (calPage b) 0x80) 31 = true → domOn d (4 + b) = true → blkReady d (cfgPage
      b) = true → (getCal d b).lastBg.all (fun t => decide (t + 102400 ≤ now d)) = true → Acts (.backgroundRecalibration dt b temp pend bad) s (forAll
      (List.range 66) (fun j => judgeSlice b j (bad.any (·.toNat == j))) (lagRule b pend (wrN (A (calPage b) 0xA4) temp.toNat (setCal b
      { getCal d b with lastBg := some (now d), ready := List.range 66 } d))))) ∧
    (∀ (b : Bank) (slice : Fin 66) (pend drift : BitVec 16) (c : CalSt) (cf : Bool) (t : Dev), c = getCal d b → c.lastSwap.all (fun u => decide (u +
      1600 ≤ now d)) = true → fbit d (A (calPage b) 0x80) 31 = true → domOn d (4 + b) = true → swapWaits d b slice = false → cf = (c.ready.contains
      slice.toNat && !fbit d (A (calPage b) 0x80) 30 && !swapMoves d b slice && driftStep (fget d (A (calPage b) 0x8C) 0 16) drift.toNat) → (swapMoves
      d b slice || cf) = true → t = setCal b
      { c with lastSwap := some (now d), swapped := [slice.toNat], swaps := mset (fun _ => 0) slice.toNat (mget (fun _ => 0) c.swaps slice + 1) c.swaps, swapRow := swapRows d b slice, ready := if cf && pend.toNat = 0 then c.ready.filter (· != slice.toNat) else c.ready }
      d → Acts (.swap dt b slice pend drift) s (swapShown b slice pend (if cf then drift.toNat else fget d (A (calPage b) 0x8C) 0 16) (wrN (A (calPage
      b) 0x88) (rdN t (A (calPage b) 0x88) + 1) t)))

/-- A reflex hold begins and ends at its mc, and the reflex registers take their writes. REFLEX_DRIVE at the start of a
pending hold that has not ended begins the hold, sets its active bit when it acts on a lane, and the lanes take its
drive state; REFLEX_HOLD_END of a hold whose end has come lets its lanes go; RFX_CLR ends the holds of the rules
written 1 at the start of the next mc; an RFX_CFG write with the rule disabled and a valid configuration writes it,
and one that clears EN of an enabled rule changing nothing else disables the rule and ends its hold; RFX_HOLD and the
MASK pair are written while EN is 0. Acts c s u says exec c s = next { s with dev := actPost s.nv u }. Forms shown to
complete here (exec = next): reflexDrive, reflexHoldEnd, rfxClr, rfxCfgWrite, rfxHoldWrite. -/
def Obligations.ReflexCommandsAct : Prop :=
  ∀ (dt : Nat) (s : State) (d : Dev), s.dev.aon = true → d = actPre dt s.dev →
    (∀ (b : Bank) (r : Fin 16) (h : Hold), h = getHold d (16 * b.toNat + r.toNat) → h.active = true → h.begun = false → h.start ≤ now d → holdOver h
      h.start = false → Acts (.reflexDrive dt b r) s (forAll h.lanes (fun l => settle l (h.start * 1024)) (onlyIf (!h.lanes.isEmpty) (fset (A (rfxPage
      b) 0x88) r 1 1) (setHold (16 * b.toNat + r.toNat) { h with begun := true } (forAll h.lanes (fun l => laneEvents l (h.start * 1024)) d))))) ∧
    (∀ (b : Bank) (r : Fin 16) (h : Hold) (c : Nat), h = getHold d (16 * b.toNat + r.toNat) → holdEnd h = some c → h.active = true → c ≤ now d →
      h.begun = true ∨ c ≤ h.start → Acts (.reflexHoldEnd dt b r) s (endHold b r c d)) ∧
    (∀ (p : Path) (b : Bank) (v : Word), accepts d (A (rfxPage b) 0x8C) = true → Acts (.rfxClr dt p b v) s (forAll ((List.range 16).filter fun r =>
      v.getLsbD r) (endHoldNext b) d)) ∧
    (∀ (p : Path) (b : Bank) (r : Fin 16) (v : Word) (x : Nat), accepts d (rfxCfg b r) = true → x = v.toNat &&& 0xFF00003F → fbit d (rfxCfg b r) 31 =
      false → bit v.toNat 31 = false → Acts (.rfxCfgWrite dt p b r v) s (wrN (rfxCfg b r) x d)) ∧
    (∀ (p : Path) (b : Bank) (r : Fin 16) (v : Word) (x : Nat), accepts d (rfxCfg b r) = true → x = v.toNat &&& 0xFF00003F → fbit d (rfxCfg b r) 31 =
      false → bit v.toNat 31 = true → bits v.toNat 28 2 ≠ 3 → bits v.toNat 26 2 ≠ 3 → bits v.toNat 28 2 = 1 → rdN d (rfxCfg b r + 4) ≠ 0 → Acts
      (.rfxCfgWrite dt p b r v) s (wrN (rfxCfg b r) x d)) ∧
    (∀ (p : Path) (b : Bank) (r : Fin 16) (v : Word), accepts d (rfxCfg b r) = true → fbit d (rfxCfg b r) 31 = true → (v.toNat &&& 0xFF00003F) % 2 ^
      31 = rdN d (rfxCfg b r) % 2 ^ 31 → bit v.toNat 31 = false → Acts (.rfxCfgWrite dt p b r v) s (endHoldNext b r (fset (rfxCfg b r) 31 1 0 d))) ∧
    (∀ (p : Path) (b : Bank) (r : Fin 16) (v : Word), accepts d (rfxRegAddr b r .hold) = true → fbit d (rfxCfg b r) 31 = false → Acts (.rfxHoldWrite
      dt p b r .hold v) s (wrN (rfxCfg b r + 4) v.toNat d)) ∧
    (∀ (p : Path) (b : Bank) (r : Fin 16) (v : Word), accepts d (rfxRegAddr b r .maskLo) = true → fbit d (rfxCfg b r) 31 = false → Acts (.rfxHoldWrite
      dt p b r .maskLo v) s (stageLo p (rfxCfg b r + 8) v.toNat d)) ∧
    (∀ (p : Path) (b : Bank) (r : Fin 16) (v : Word), accepts d (rfxRegAddr b r .maskHi) = true → fbit d (rfxCfg b r) 31 = false → Acts (.rfxHoldWrite
      dt p b r .maskHi v) s (commitHi p (rfxCfg b r + 8) v.toNat d))

/-- The Gleaner takes rows, ages and drains transition records, and takes its statistics and histogram writes. A slice
whose page runs takes the next row once its results are complete, and a page that does not run counts it in UNSEEN; an
open transition record whose age has come closes; the next slice in rotation that holds staged entries drains one
record's worth; a STAT_CFG write with FLUSH writes the register and closes the open set; HIST_CFG and HIST_BASE are
written while the unit is disabled. Acts c s u says exec c s = next { s with dev := actPost s.nv u }. Forms shown to
complete here (exec = next): rowTake, transitionRecordAge, transitionDrain, statFlush, histCfgWrite. -/
def Obligations.GleanerCommandsAct : Prop :=
  ∀ (dt : Nat) (s : State) (d : Dev), s.dev.aon = true → d = actPre dt s.dev →
    (∀ (f : Fin 64) (e : Nat) (r q : Row) (u t w : Dev), u = caughtUp f d → engOf u f = some e → (getFur u e).issued.find? (fun z => z.k == (getFur u
      e).taken) = some r → r.flagged = true → r.flagT < nextMcVs u → glnOn u f = true → t = markEarly e r.k (setSl f
      { getSl u f with marks := keepMarks u f r } u) → q = ((getFur t e).issued.find? fun z => z.k == r.k).getD r → w = takeRowSl f e
      { q with tinv := rowTinv t e q } t → Acts (.rowTake dt f) s (showSl f (snapDue f ((getFur w e).taken + 1) (setFur e
      { getFur w e with taken := (getFur w e).taken + 1, issued := (getFur w e).issued.filter fun z => (getFur w e).taken < z.k + 64 } w)))) ∧
    (∀ (f : Fin 64) (e : Nat) (r : Row) (u t w : Dev), u = caughtUp f d → engOf u f = some e → (getFur u e).issued.find? (fun z => z.k == (getFur u
      e).taken) = some r → r.flagged = true → r.flagT < nextMcVs u → glnOn u f = false → t = markEarly e r.k (setSl f
      { getSl u f with marks := keepMarks u f r } u) → w = inc64 (ga f 0x60) 1 t → Acts (.rowTake dt f) s (showSl f (snapDue f ((getFur w e).taken +
      1) (setFur e { getFur w e with taken := (getFur w e).taken + 1, issued := (getFur w e).issued.filter fun z => (getFur w e).taken < z.k + 64 }
      w)))) ∧
    (∀ (f : Fin 64) (kind : Fin 2) (r : TRec), openRec (getSl d f) kind = some r → bits (eff d f 5) 0 20 ≠ 0 → r.base + bits (eff d f 5) 0 20 ≤ now d
      → Acts (.transitionRecordAge dt f kind) s (showSl f (closeTrans f kind d))) ∧
    (∀ (l : List Nat) (f : Nat), l = (d.gln.slices.filter fun x => !x.2.stage.isEmpty).map (·.1) → d.gln.freeAt ≤ now d → now d % 2 = 0 → (l.filter
      (fun i => d.gln.next ≤ i) ++ l).head? = some f → Acts (.transitionDrain dt) s (showSl f
      { (drainStage f false d).2 with gln := { (drainStage f false d).2.gln with next := f + 1, freeAt := now (drainStage f false d).2 + 2 * cdiv (2 * (drainStage f false d).1) 5 } })) ∧
    (∀ (p : Path) (f : Fin 64) (u : Fin 4) (v : Word) (w : Nat), accepts d (sa f u 0) = true → w = v.toNat ||| 0x80000000 → bits w 27 3 < 5 → Acts
      (.statFlush dt p f u v) s (flushSet f u (plainWrite (sa f u 0) w d))) ∧
    (∀ (p : Path) (k : Fin 16) (v : Word), accepts d (A (0x100 + k) 0x900) = true → fbit d (A (0x100 + k) 0x900) 31 = false → Acts (.histCfgWrite dt p
      k false v) s (plainWrite (A (0x100 + k) 0x900) v.toNat d)) ∧
    (∀ (p : Path) (k : Fin 16) (v : Word), accepts d (A (0x100 + k) 0x904) = true → fbit d (A (0x100 + k) 0x900) 31 = false → Acts (.histCfgWrite dt p
      k true v) s (plainWrite (A (0x100 + k) 0x904) v.toNat d))

/-- A JES link pulses SYSREF, trains state by state to ALIGNED, accepts multiblocks and goes down. SYSREF_PULSE and
SYSREF_PULSE_END drive SYSREF at the configured TS grid, width and delay; block lock, EMB lock and the release
boundary move STATE to 1, 2 and 3; a multiblock waits in the elastic buffer before ALIGNED and joins the released
samples in ALIGNED, and one later than its release takes the link down with both causes; a lost lock takes a link that
is not DOWN down and raises cause 0. Acts c s u says exec c s = next { s with dev := actPost s.nv u }. Forms shown to
complete here (exec = next): sysrefPulse, sysrefPulseEnd, jesBlockLock, jesEmbLock, jesAligned, jesMultiblock,
jesLinkDown. -/
def Obligations.JesLinkCommandsAct : Prop :=
  ∀ (dt : Nat) (s : State) (d : Dev), s.dev.aon = true → d = actPre dt s.dev →
    (∀ (k : Fin 4) (x y : Jes) (n : Nat) (t u : Dev), x = getJes d k → n = jf x 4 0 8 * lemc x → jesOn d k = true → n ≠ 0 → now d % n = 0 →
      x.sysHigh.any (·.1 == now d) = false → jf x 4 30 2 = 2 → x.burst ≠ 0 → t = doSysrefPulseEnd k d → y = getJes t k → u = setJes k
      { y with sysHigh := some (now t, now t + jf y 4 8 8, jf y 5 0 13), burst := y.burst - 1 } t → Acts (.sysrefPulse dt k) s ((if y.sysHigh.isSome
      then u else emit (.sysref k (nowVs t + jf y 5 0 13) true) u))) ∧
    (∀ (k : Fin 4) (x : Jes) (t e y : Nat), x = getJes d k → x.sysHigh = some (t, e, y) → e ≤ now d → Acts (.sysrefPulseEnd dt k) s (emit (.sysref k
      (e * 1024 + y) false) (setJes k { x with sysHigh := none } d))) ∧
    (∀ (k : Fin 4), jesOn d k = true → jesState d k = 0 → Acts (.jesBlockLock dt k) s (fset (A (jesPage k) 0x98) 24 4 (2 ^ jL (getJes d k) - 1) (fset
      (A (jesPage k) 0x98) 29 3 1 d))) ∧
    (∀ (k : Fin 4), jesOn d k = true → jesState d k = 1 → Acts (.jesEmbLock dt k) s (fset (A (jesPage k) 0x98) 29 3 2 (setJes k
      { getJes d k with elastic := [] } d))) ∧
    (∀ (k : Fin 4) (x : Jes) (b : Nat) (t : Dev), x = getJes d k → jesOn d k = true → jesState d k = 2 → jAlign x ≤ now d → b = now d - jAlign x →
      lemc x ≠ 0 → b % lemc x = 0 → t = forAll x.elastic (mbAccept k) (setJes k { x with b0 := b, next := 0, elastic := [], blocks := [] } (wr64 (A
      (jesPage k) 0xA4) b (irqSet (jesPage k) 1 (fset (A (jesPage k) 0x98) 0 10 1023 (fset (A (jesPage k) 0x98) 16 8 (fget d (A (jesPage k) 0x98) 16 8
      + 1) (fset (A (jesPage k) 0x98) 29 3 3 d)))))) → Acts (.jesAligned dt k) s (forAll ((t.acq.chans.filter fun y => af y.2 0 30 2 == k.toNat &&
      acqState t y.1 == 6).map (·.1)) rearmLinked t)) ∧
    (∀ (k : Fin 4) (first ok : Bool) (data : List (BitVec 16)) (x : Jes), x = getJes d k → jesOn d k = true → data.length = mbWords x → jesState d k =
      2 → first = true ∨ x.elastic ≠ [] → Acts (.jesMultiblock dt k first ok data) s (setJes k
      { x with elastic := x.elastic ++ [{ arr := now d, ok := ok, data := data }] } d)) ∧
    (∀ (k : Fin 4) (first ok : Bool) (data : List (BitVec 16)) (x : Jes), x = getJes d k → jesOn d k = true → data.length = mbWords x → jesState d k =
      3 → now d ≤ releaseMc x (mbLast x x.next) → Acts (.jesMultiblock dt k first ok data) s (mbAccept k { arr := now d, ok := ok, data := data } d)) ∧
    (∀ (k : Fin 4) (first ok : Bool) (data : List (BitVec 16)) (x : Jes), x = getJes d k → jesOn d k = true → data.length = mbWords x → jesState d k =
      3 → releaseMc x (mbLast x x.next) < now d → Acts (.jesMultiblock dt k first ok data) s (raise (0xB6 + k) 1 (raise (0xB6 + k) 0 (jesDown k d)))) ∧
    (∀ (k : Fin 4), jesOn d k = true → jesState d k ≠ 0 → Acts (.jesLinkDown dt k) s (raise (0xB6 + k) 0 (jesDown k d)))

/-- Acquisition channels process samples, close segment records, re-arm, and take ARM, STOP, FORCE and envelope accesses.
A channel that processes samples takes its next received sample in the mc P(n) or after; the oldest complete record
that has reached its ring closes, and its gap record follows; REARM ends at the mc R with the state its rules give;
STOP and FORCE act through the channel's control register, ARM from IDLE, DONE or STOPPED with the page running
latches the settings; ENV_DATA writes the named point outside the armed states, reads give it, and both advance POINT.
Acts c s u says exec c s = next { s with dev := actPost s.nv u }. Forms shown to complete here (exec = next):
sampleProcess, segmentRecordClose, acqRearm, acqArm, acqStop, acqForce, envDataAccess. -/
def Obligations.AcquisitionCommandsAct : Prop :=
  ∀ (dt : Nat) (s : State) (d : Dev), s.dev.aon = true → d = actPre dt s.dev →
    (∀ (c : Fin 64) (x : Acq) (v : BitVec 16) (crc : Bool) (n pm : Nat) (t : Dev), t = retryOpen c 8 d → x = getAcq t c → acqTakes t c = true → n =
      x.next → chanSample t x n = some (v, crc) → pm = procMc (getJes t (af x 0 30 2)) n → pm ≤ now t → Acts (.sampleProcess dt c) s (takeSample c n
      pm v crc x t)) ∧
    (∀ (c : Fin 64) (r : AcqRec) (x : Acq) (rest : List AcqRec) (t : Dev), t = retryOpen c 8 d → x = getAcq t c → x.closing = r :: rest → recWaits t c
      r.tag = false → Acts (.segmentRecordClose dt c) s (gapAfter r (closeTag r.tag r.body (flagTag r.tag (idleFlag t r.site) (setAcq c (recHanded r
      { x with closing := rest, closedAt := now t }) t))))) ∧
    (∀ (c : Fin 64) (r : Nat), rearmMc (getAcq d c) = some r → acqState d c = 3 → r ≤ now d → (getAcq d c).stop = true → Acts (.acqRearm dt c) s
      (setAcqState c 5 d)) ∧
    (∀ (c : Fin 64) (r : Nat) (x : Acq), x = getAcq d c → rearmMc x = some r → acqState d c = 3 → r ≤ now d → x.stop = false → x.segN = segsOf x →
      Acts (.acqRearm dt c) s (irqSet (acqPage c) (2 ^ (c.val % 2)) (setAcqState c 4 d))) ∧
    (∀ (c : Fin 64) (r : Nat) (x : Acq), x = getAcq d c → rearmMc x = some r → acqState d c = 3 → r ≤ now d → x.stop = false → x.segN ≠ segsOf x →
      Acts (.acqRearm dt c) s (setAcqState c 1 (setAcq c { x with armedAt := r } d))) ∧
    (∀ (p : Path) (c : Fin 64) (y : Acq), accepts d (aa c 0) = true → acqState d c = 0 ∨ acqState d c = 4 ∨ acqState d c = 5 → blkEn d (acqPage c) =
      true → running d (acqPage c) = true → y = armedAcq d c → Acts (.acqArm dt p c) s (setAcqState c (if acqLinked (wr64 (aa c 0x44) 0 (wrN (aa c
      0x3C) 0 (wrN (aa c 0x40) 0 (setAcq c y d)))) y then 1 else 6) (wr64 (aa c 0x44) 0 (wrN (aa c 0x3C) 0 (wrN (aa c 0x40) 0 (setAcq c y d)))))) ∧
    (∀ (p : Path) (c : Fin 64), accepts d (aa c 0) = true → Acts (.acqStop dt p c) s (stopAcq c d)) ∧
    (∀ (p : Path) (c : Fin 64), accepts d (aa c 0) = true → Acts (.acqForce dt p c) s (logEv 6 c (nowVs d) d)) ∧
    (∀ (p : Path) (c : Fin 64) (v : Word), accepts d (aa c 0x38) = true → acqState d c = 0 ∨ acqState d c = 4 ∨ acqState d c = 5 → Acts
      (.envDataAccess dt p c true v) s (envNext c
      { d with acq := { d.acq with env := mset (fun _ => 0) (envKey d c) (BitVec.ofNat 16 (bits v.toNat 0 16)) d.acq.env } })) ∧
    (∀ (p : Path) (c : Fin 64) (v : Word), readable d (aa c 0x38) = true → Acts (.envDataAccess dt p c false v) s (envNext c (emit (.rd p ((mget (fun
      _ => 0) d.acq.env (envKey d c)).setWidth 32)) d)))

/-- QCMD operations that nothing refuses act on the selected queue's descriptor and read BUSY until they complete. LOAD
fills the window from the descriptor; WRITE commits the staged words; SET_MARK, CLR_MARK and REWIND set, clear and
return to the rewind mark; CLR_WM and CLR_FLAGS clear the watermark and the flags; SEAL asks for a seal of the epoch;
FLUSH_CACHE writes every cached descriptor back; QCMD_DONE ends BUSY; a QSEL write loads the window of the queue it
selects. Acts c s u says exec c s = next { s with dev := actPost s.nv u }. Forms shown to complete here (exec = next):
load, write, setMark, clrMark, rewind, clrWm, clrFlags, seal, flushCache, qcmdDone, qselWrite. -/
def Obligations.QueueCommandsAct : Prop :=
  ∀ (dt : Nat) (s : State) (d : Dev), s.dev.aon = true → d = actPre dt s.dev →
    (∀ (p : Path) (n : Nat) (t : Dev), accepts d (gna 0x8C) = true → qcmdErr d 1 = 0 → n = fget d (gna 0x88) 0 20 → t = cacheGet n d → Acts (.load dt
      p) s (qcmdTaken 1 n 0 (cacheSettle n (loadWin t)))) ∧
    (∀ (p : Path) (n : Nat) (t : Dev), accepts d (gna 0x8C) = true → qcmdErr d 2 = 0 → n = fget d (gna 0x88) 0 20 → t = cacheGet n d → Acts (.write dt
      p) s (qcmdTaken 2 n 0 (cacheSettle n (qWrite n t)))) ∧
    (∀ (p : Path) (n : Nat) (t : Dev), accepts d (gna 0x8C) = true → qcmdErr d 3 = 0 → n = fget d (gna 0x88) 0 20 → t = cacheGet n d → Acts (.setMark
      dt p) s (qcmdTaken 3 n 0 (cacheSettle n (setQ n { getQ t n with mark := (getQ t n).rdp, markValid := true, markLost := false } t)))) ∧
    (∀ (p : Path) (n : Nat) (t : Dev), accepts d (gna 0x8C) = true → qcmdErr d 4 = 0 → n = fget d (gna 0x88) 0 20 → t = cacheGet n d → Acts (.clrMark
      dt p) s (qcmdTaken 4 n 0 (cacheSettle n (setQ n { getQ t n with markValid := false, markLost := false } t)))) ∧
    (∀ (p : Path) (n : Nat) (t : Dev), accepts d (gna 0x8C) = true → qcmdErr d 5 = 0 → n = fget d (gna 0x88) 0 20 → t = cacheGet n d → Acts (.rewind
      dt p) s (qcmdTaken 5 n 0 (cacheSettle n (armNotice n (setQ n { getQ t n with rdp := (getQ t n).mark, armed := true } t))))) ∧
    (∀ (p : Path) (n : Nat) (t : Dev), accepts d (gna 0x8C) = true → qcmdErr d 6 = 0 → n = fget d (gna 0x88) 0 20 → t = cacheGet n d → Acts (.clrWm dt
      p) s (qcmdTaken 6 n 0 (cacheSettle n (clearWm n t)))) ∧
    (∀ (p : Path) (n : Nat) (t : Dev), accepts d (gna 0x8C) = true → qcmdErr d 7 = 0 → n = fget d (gna 0x88) 0 20 → t = cacheGet n d → Acts (.clrFlags
      dt p) s (qcmdTaken 7 n 0 (cacheSettle n (setQ n { getQ t n with ovf := false, under := false, drops := 0 } t)))) ∧
    (∀ (p : Path) (e : BitVec 8) (n : Nat) (t : Dev), accepts d (gna 0x8C) = true → qcmdErr d 8 = 0 → n = fget d (gna 0x88) 0 20 → t = cacheGet n d →
      Acts (.seal dt p e) s (qcmdTaken 8 n e.toNat (cacheSettle n (setQ n
      { getQ t n with sealReq := (getQ t n).sealReq.filter (· ≠ e.toNat) ++ [e.toNat] } t)))) ∧
    (∀ (p : Path) (n : Nat) (t : Dev), accepts d (gna 0x8C) = true → qcmdErr d 9 = 0 → n = fget d (gna 0x88) 0 20 → t = cacheGet n d → Acts
      (.flushCache dt p) s (qcmdTaken 9 n 0 (cacheSettle n (forAll t.grn.cache qWriteBack t)))) ∧
    (qBusy d = true → Acts (.qcmdDone dt) s (fset (gna 0x8C) 27 1 0 { d with grn := { d.grn with busy := none } })) ∧
    (∀ (p : Path) (v : Word), accepts d (gna 0x88) = true → qBusy d = false → Acts (.qselWrite dt p v) s (loadWin (plainWrite (gna 0x88) v.toNat d)))

/-- Records open, close, commit and seal, and doorbells, pop ports, notice rings, the table and SITE_CUR act. RECORD_OPEN
offers a record to the site's current queue; RECORD_CLOSE closes it with at most the bytes it reserved;
COMMIT_ADVANCE, SEAL_PLACE and CACHE_FILL act while domain 2 is on; DOORBELL_WRITE acts while the PCI page runs; the
pop port claims, releases and reads for its path; NR_RD re-arms its ring, sending a message while notices wait;
NR_BASE_HI starts the ring afresh; DESC_BASE_HI while the Granary is disabled starts the table's initialisation, whose
end zeroes the table and sets READY and IRQ bit 3; SITE_CUR is written and reopens a new epoch. Acts c s u says exec c
s = next { s with dev := actPost s.nv u }. Forms shown to complete here (exec = next): recordOpen, recordClose,
commitAdvance, sealPlace, cacheFill, doorbellWrite, popSel, popRelease, popDataRead, nrRdWrite, nrBaseHiWrite,
descBaseHiWrite, descInitDone, siteCurWrite. -/
def Obligations.QueueRecordCommandsAct : Prop :=
  ∀ (dt : Nat) (s : State) (d : Dev), s.dev.aon = true → d = actPre dt s.dev →
    (∀ (site : Fin 64) (typ flags epoch : BitVec 8) (len tag : Nat), domOn d 2 = true → 16 ≤ len → len % 16 = 0 → Acts (.recordOpen dt site typ flags
      epoch len tag) s (offer
      { q := siteQueue d site, typ := typ.toNat % 128, flags := flags.toNat &&& 0x80, epoch := epoch.toNat, sys := false, len := len, ts := now d, body := [], whole := false, tag := tag % 2 ^ 80 }
      d)) ∧
    (∀ (tag : Nat) (body : List Byte) (q pos t : Nat) (r : GRec), d.grn.opens.find? (·.1 == tag % 2 ^ 80) = some (t, q, pos) → (getQ d q).recs.find?
      (fun r => r.pos == pos && r.opn) = some r → Acts (.recordClose dt tag body) s (closeTag (tag % 2 ^ 80) (body.take (16 * r.units - 16)) d)) ∧
    (∀ (q : BitVec 20), domOn d 2 = true → Acts (.commitAdvance dt q) s (commitQ q.toNat d)) ∧
    (∀ (q : BitVec 20) (e : BitVec 8), domOn d 2 = true → grnClosed d = false → Acts (.sealPlace dt q e) s (placeSeal q.toNat e.toNat d)) ∧
    (∀ (q : BitVec 20) (t : Dev), domOn d 2 = true → d.grn.intake.any (·.q == q.toNat) = true → t = cacheLoad q.toNat d → qCached t q.toNat = true →
      Acts (.cacheFill dt q) s (pumpProducers (placeIntake q.toNat t))) ∧
    (∀ (q : BitVec 20) (v : Word), running d 0x190 = true → hostOn d = true → Acts (.doorbellWrite dt q v) s (doorbell q.toNat v.toNat d)) ∧
    (∀ (p : Path) (v : Word), accepts d (A 0x171 0x80) = true → Acts (.popSel dt p v) s (popSel p (bits v.toNat 0 20) d)) ∧
    (∀ (p : Path), accepts d (A 0x171 0x80) = true → Acts (.popRelease dt p) s (setPath p { getPath d p with claim := none, popWord := 0 } d)) ∧
    (∀ (p : Path), readable d (A 0x171 0x84) = true → Acts (.popDataRead dt p) s (emit (.rd p (popRead p d).1) (popRead p d).2)) ∧
    (∀ (p : Path) (n : Fin 16) (v : Word), accepts d (gna (0x200 + 4 * n)) = true → v.toNat ≠ rdN d (gna (0x240 + 4 * n)) → Acts (.nrRdWrite dt p n v)
      s (nrMessage n (fset (gna (0x108 + 16 * n)) 29 1 1 (wrN (gna (0x200 + 4 * n)) v.toNat d)))) ∧
    (∀ (p : Path) (n : Fin 16) (v : Word), accepts d (gna (0x104 + 16 * n)) = true → Acts (.nrBaseHiWrite dt p n v) s (wrN (gna (0x240 + 4 * n)) 0
      (wrN (gna (0x200 + 4 * n)) 0 (commitHi p (gna (0x100 + 16 * n)) v.toNat d)))) ∧
    (∀ (p : Path) (v : Word), accepts d (gna 0x84) = true → blkEn d grnPage = false → Acts (.descBaseHiWrite dt p v) s (fset (A grnPage 0xC) 2 1 0
      { commitHi p (gna 0x80) v.toNat d with grn := { d.grn with initing := true } })) ∧
    (∀ (t : Dev), d.grn.initing = true → domOn d 2 = true → t =
      { d with mem := d.mem.filter fun e => !(descBase d ≤ e.1 && e.1 < descBase d + 32 * 2 ^ 20 && memGood d e.1), grn := { d.grn with initing := false, queues := [], cache := [] } }
      → Acts (.descInitDone dt) s (irqSet grnPage 8 (fset (A grnPage 0xC) 2 1 1 (if blkEn t grnPage && !t.resetting.contains grnPage then fset (A
      grnPage 0xC) 0 1 1 t else t)))) ∧
    (∀ (p : Path) (site : Fin 64) (v : Word), accepts d (gna (0x300 + 4 * site)) = true → Acts (.siteCurWrite dt p site v) s (writeSiteCur site
      v.toNat d))

/-- Time-interval meters arm, stop and flush, decide events and limits, end dead times, and follow their inputs and
interpolators. A channel that can be armed and has no DIFF partner takes its settings and waits for its first event;
an odd DIFF channel arms with its partner; STOP ends the arm and FLUSH closes the open set; the earliest waiting event
is decided once 48 mc after it have come, with the limit and the dead time that come before it; a limit that has come
without an ending event ends the measurement without a value; a dead time that has come ends; an edge of an enabled
input is an event at its corrected time; TIN_CFG is written and its input marked; a bin table sets its table bit and
locks its loop; a lost loop shows CAL_LOCK 0 and, from lock, raises cause 0 with IRQ bit 4. Acts c s u says exec c s =
next { s with dev := actPost s.nv u }. Forms shown to complete here (exec = next): timArm, timStop, timFlush,
timEvent, timTimeout, deadTimeEnd, timInEdge, tinCfgWrite, binTableBuilt, calLockLoss. -/
def Obligations.MeterCommandsAct : Prop :=
  ∀ (dt : Nat) (s : State) (d : Dev), s.dev.aon = true → d = actPre dt s.dev →
    (∀ (p : Path) (k : Fin 16), accepts d (ta k 0x80) = true → canArm d k = true → fbit d (ta (k / 2 * 2 + 1) 0x88) 31 = false → Acts (.timArm dt p k)
      s (armOne k d)) ∧
    (∀ (p : Path) (k : Fin 16), accepts d (ta k 0x80) = true → k.val % 2 = 1 → canArm d k = true → canArm d (k - 1 : Nat) = true → fbit d (ta k 0x88)
      31 = true → Acts (.timArm dt p k) s (armOne (k - 1 : Nat) (armOne k d))) ∧
    (∀ (p : Path) (k : Fin 16), accepts d (ta k 0x80) = true → Acts (.timStop dt p k) s (stopTim k 2 d)) ∧
    (∀ (p : Path) (k : Fin 16), accepts d (ta k 0x80) = true → Acts (.timFlush dt p k) s (closeTimSet k 3 d)) ∧
    (∀ (k : Fin 16) (x : Tim) (e : TimEv) (es : List TimEv), x = getTim d k → x.evs = e :: es → e.t + 48 * 1024 ≤ nowVs d + 1023 → running d (timPage
      k) = true → Acts (.timEvent dt k) s (takeEvent k e (deadBefore k e (limitBefore k x e (setTim k { x with evs := es } d))))) ∧
    (∀ (k : Fin 16) (x : Tim) (f : TimFirst), x = getTim d k → x.first = some f → timState d k = 2 → running d (timPage k) = true → limitOf x f + 48 *
      1024 ≤ nowVs d + 1023 → x.evs.any (fun e => decide (e.t ≤ limitOf x f)) = false → Acts (.timTimeout dt k) s (endNone k f d)) ∧
    (∀ (k : Fin 16), (getTim d k).dead ≤ nowVs d + 1023 → running d (timPage k) = true → Acts (.deadTimeEnd dt k) s (endDead k d)) ∧
    (∀ (i : Fin 4) (vs : BitVec 10) (rising : Bool) (t : Int) (tinv : Bool), domOn d 19 = true → fbit d (ta 0 (0x200 + 8 * i)) 31 = true → t = ((nowVs
      d + vs.toNat : Nat) : Int) - sgn (rdN d (ta 0 (0x200 + 8 * i) + 4)) 32 → tinv = tinInvalid d i vs.toNat → Acts (.timInEdge dt i vs rising) s
      (timEvent 2 i (fun c => c == 2 || c == b2n (!rising)) t tinv none d)) ∧
    (∀ (p : Path) (i : Fin 4) (v : Word), accepts d (ta 0 (0x200 + 8 * i)) = true → Acts (.tinCfgWrite dt p i v) s (writeTin i v.toNat d)) ∧
    (∀ (k : Fin 16), domOn d 19 = true → Acts (.binTableBuilt dt k true) s (showCal k (setTim k
      { getTim d k with cal := putBits (putBits (getTim d k).cal 1 1 1) 3 1 0 } d))) ∧
    (∀ (k : Fin 16), domOn d 19 = true → Acts (.binTableBuilt dt k false) s (showCal k (setTim k
      { getTim d k with cal := putBits (putBits (getTim d k).cal 0 1 1) 2 1 0 } d))) ∧
    (∀ (k : Fin 16) (stop : Bool), domOn d 19 = true → calLock (getTim d k) = true → Acts (.calLockLoss dt k stop) s (raise (0xBA + k) 0 (irqSet
      (timPage k) 0x10 (showCal k (setTim k { getTim d k with cal := putBits (getTim d k).cal (if stop then 3 else 2) 1 1 } d))))) ∧
    (∀ (k : Fin 16) (stop : Bool), domOn d 19 = true → calLock (getTim d k) = false → Acts (.calLockLoss dt k stop) s (showCal k (setTim k
      { getTim d k with cal := putBits (getTim d k).cal (if stop then 3 else 2) 1 1 } d)))

/-- Fence inputs, settings, test mode and holds act on the fence brought up to now, and ramp commands act on the ramp.
Each fence command first takes the filter samples that have come; a crossing moves the input and both latches follow
unless held; a settled DAC loads the written code and hysteresis; a mode hold or a power-up response that has come
ends; window writes that no rule refuses are written with their effects; START triggers an idle ramp, STOP holds a
running one, REARM returns a held one to IDLE, and tied comparators follow. Acts c s u says exec c s = next { s with
dev := actPost s.nv u }. Forms shown to complete here (exec = next): fenceCrossing, fenceFilterSample,
fenceWindowWrite, dacSettle, modeHoldEnd, powerUpResponseEnd, fenceTestWrite, rampStart, rampStop, rampRearm,
rampStep. -/
def Obligations.FenceCommandsAct : Prop :=
  ∀ (dt : Nat) (s : State) (d : Dev), s.dev.aon = true → d = actPre dt s.dev →
    (∀ (f : Fin 24) (u : Bool) (pos : Fin 3) (t : Dev), t = fenNow f d → Acts (.fenceCrossing dt f u pos) s (refreshFen f (setFen f (putCmp u
      { fcmp (getFen t f) u with pos := pos } (getFen t f)) t))) ∧
    (∀ (f : Fin 24), Acts (.fenceFilterSample dt f) s (fenNow f d)) ∧
    (∀ (p : Path) (f : Fin 24) (v : Word) (t : Dev), accepts d (na f 0) = true → t = fenNow f d → bits v.toNat 19 3 ≤ 4 → bits v.toNat 16 3 ≤ 4 → Acts
      (.fenceWindowWrite dt p f 0 v) s (writeFenCfg f v.toNat t)) ∧
    (∀ (p : Path) (f : Fin 24) (r : Fin 5) (v : Word) (t : Dev), accepts d (na f (fenOff r)) = true → t = fenNow f d → r = 1 ∨ r = 2 → Acts
      (.fenceWindowWrite dt p f r v) s (plainWrite (na f (fenOff r)) v.toNat t)) ∧
    (∀ (p : Path) (f : Fin 24) (v : Word) (t : Dev), accepts d (na f 0xC) = true → t = fenNow f d → bits v.toNat 24 5 ≠ 0 → bits v.toNat 16 5 ≠ 0 →
      bits v.toNat 16 5 ≤ bits v.toNat 24 5 → bits v.toNat 24 5 < 2 * bits v.toNat 16 5 → bits v.toNat 0 16 ≠ 0 → Acts (.fenceWindowWrite dt p f 3 v)
      s (fenInit f (plainWrite (na f 0xC) v.toNat t))) ∧
    (∀ (f : Fin 24) (u : Bool) (t : Dev), t = fenNow f d → Acts (.dacSettle dt f u) s (refreshFen f (setFen f (putCmp u
      { fcmp (getFen t f) u with code := bits (rdN t (na f (if u then 4 else 8))) 0 12, hyst := bits (rdN t (na f (if u then 4 else 8))) 16 6 }
      (getFen t f)) t))) ∧
    (∀ (f : Fin 24) (u : Bool) (t : Dev) (m : Nat), t = fenNow f d → (fcmp (getFen t f) u).hold = some (m, true) → m ≤ fenT t → Acts (.modeHoldEnd dt
      f u) s (fenInit f (refreshFen f (setFen f (putCmp u { fcmp (getFen t f) u with hold := none } (getFen t f)) t)))) ∧
    (∀ (f : Fin 24) (u : Bool) (t : Dev) (m : Nat), t = fenNow f d → (fcmp (getFen t f) u).hold = some (m, false) → m ≤ fenT t → Acts
      (.powerUpResponseEnd dt f u) s (refreshFen f (setFen f (putCmp u { fcmp (getFen t f) u with hold := none } (getFen t f)) t))) ∧
    (∀ (p : Path) (f : Fin 24) (v : Word) (t : Dev), accepts d (na f 0x10) = true → t = fenUpTo f (fenT d - 1) d → Acts (.fenceTestWrite dt p f v) s
      (writeFenTest f v.toNat t)) ∧
    (∀ (p : Path) (r : Fin 4) (t : Dev), accepts d (A (rmpPage r) 0x80) = true → t = rmpNow r d → rmpState t r = 0 → running t (rmpPage r) = true →
      Acts (.rampStart dt p r) s (incSat (A (rmpPage r) 0x98) 0 32 1 (rmpPut r (fenT d) 1 (rmpStart t r) t))) ∧
    (∀ (p : Path) (r : Fin 4) (t : Dev), accepts d (A (rmpPage r) 0x80) = true → t = rmpNow r d → rmpState t r = 1 → Acts (.rampStop dt p r) s (rmpPut
      r (fenT t) 2 (rmpValue t r) t)) ∧
    (∀ (p : Path) (r : Fin 4) (t : Dev), accepts d (A (rmpPage r) 0x80) = true → t = rmpNow r d → rmpState t r = 2 → Acts (.rampRearm dt p r) s
      (rmpPut r (fenT t) 0 (rmpStart t r) t)) ∧
    (∀ (r : Fin 4), Acts (.rampStep dt r) s (rmpNow r d))

/-- Drills start, step, make edges and stop, markers release, lists commit, and sync events arrive, qualify and end their
pulse. A START that is not refused arms the drill with its mode, its start time and its first entry; a step whose time
has come begins or ends; a crossing that has come makes its edge; STOP ends an armed or running drill in STOPPED; list
words are staged and a legal entry is committed; an amplitude group that the queue has room for is refilled or built;
a marker whose time has come is released; MK_DLY in range is written; a pulse of SYNC_IN or FIRE with no event pending
computes Q and is pending for it; at Q the event counts and its markers and TRIG_OUT fire; SYNC_OUT falls after 8 mc.
Acts c s u says exec c s = next { s with dev := actPost s.nv u }. Forms shown to complete here (exec = next):
drillStart, drillStop, drillStep, drillEdge, listStage, listCommit, ampGroupClose, markerRelease, mkDlyWrite,
syncInPulse, fire, syncQualified, syncOutPulseEnd. -/
def Obligations.DrillMarkerAndSyncCommandsAct : Prop :=
  ∀ (dt : Nat) (s : State) (d : Dev), s.dev.aon = true → d = actPre dt s.dev →
    (∀ (p : Path) (k : Fin 16) (mo : Fin 4) (t u v w : Dev), accepts d (da k 0x80) = true → t = fset (da k 0x80) 28 2 mo d → drlRefused t k mo = false
      → u = onlyIf (startIsLate t k mo) (hit (da k 0x84) 31) t → v = setDrl k
      { armed := now t, mode := mo, start := (drlStart t k mo).map (· * 1024), segs := (getDrl u k).segs } u → w = setDrlState k 1 (fset (da k 0x84) 0
      12 (drlFirst v k) v) → Acts (.drillStart dt p k mo) s (if fbit w (da k 0x98) 31 then forAll (ampBanks w k) (fun b => ampBuild k b (drlFirst w k)
      none) w else w)) ∧
    (∀ (p : Path) (k : Fin 16), accepts d (da k 0x80) = true → drlState d k = 1 ∨ drlState d k = 2 → Acts (.drillStop dt p k) s (drlEnd k 4 (nowVs d)
      (drlAdvance (nowVs d) k d))) ∧
    (∀ (k : Fin 16) (t : Nat), drlState d k = 1 → (getDrl d k).start = some t → t ≤ nowVs d + 1023 → Acts (.drillStep dt k) s (beginStep k (drlFirst d
      k) t 0 true d)) ∧
    (∀ (k : Fin 16) (t : Nat), drlState d k = 2 → (getDrl d k).endAt = some t → t ≤ nowVs d + 1023 → Acts (.drillStep dt k) s (endStep k t ((getDrl d
      k).endRow.getD 0) d)) ∧
    (∀ (k : Fin 16) (t : Nat), drlState d k = 2 → nextCross (getDrl d k) = some t → t < nextMcVs d → Acts (.drillEdge dt k) s (drlEdge k t ((getDrl d
      k).half % 2 == 0) (setDrl k { getDrl d k with half := (getDrl d k).half + 1 } d))) ∧
    (∀ (p : Path) (k : Fin 16) (w : Fin 3) (v : Word), accepts d (da k (0xB4 + 4 * w)) = true → Acts (.listStage dt p k w v) s (stageList p k w
      v.toNat d)) ∧
    (∀ (p : Path) (k : Fin 16) (v : Word), accepts d (da k 0xC0) = true → Acts (.listCommit dt p k v) s (commitList p k v.toNat d)) ∧
    (∀ (k : Fin 16) (b : Bank), fecTakes d b = true → (getFec d b).groups.any (isAmp k) = false → (getDrl d k).held.any (·.1 == b.toNat) = true → Acts
      (.ampGroupClose dt k b) s (ampRefill b d)) ∧
    (∀ (k : Fin 16) (b : Bank) (j : Nat), fecTakes d b = true → (getFec d b).groups.any (isAmp k) = false → (getDrl d k).held.any (·.1 == b.toNat) =
      false → fbit d (da k 0x98) 31 = true → drlState d k = 1 ∨ drlState d k = 2 → (mget (fun _ => none) (getDrl d k).ahead b).bind (ampNext d k 4097)
      = some j → Acts (.ampGroupClose dt k b) s (ampBuild k b j none d)) ∧
    (∀ (k : Fin 16), Acts (.markerRelease dt k) s (mkRelease k (nowVs d + 1023) d)) ∧
    (∀ (p : Path) (k : Fin 16) (v : Word), accepts d (da k 0x108) = true → markOk (planeDly d) (bits v.toNat 0 14) = true → Acts (.mkDlyWrite dt p k
      v) s (plainWrite (da k 0x108) v.toNat d)) ∧
    (∀ (t : Dev), running d 1 = true → fget d (A 1 0x100) 30 2 = 1 → t = syncDone (syncOutEnd d) → fbit t (A 1 0x10C) 29 = false → fbit t (A 1 0x100)
      29 = false → fbit t (A ringPage 0x80) 26 = false → fget t (A 1 0x108) 0 16 ≤ fget t (A 1 0x104) 0 16 → Acts (.syncInPulse dt) s (syncLate (now
      d) (syncQ t (now d)) { fset (A 1 0x10C) 29 1 1 t with syncEv := some (now d, syncQ t (now d)) })) ∧
    (∀ (p : Path) (t : Dev), accepts d (A 1 0x100) = true → running d 1 = true → t = syncDone (syncOutEnd d) → fbit t (A 1 0x10C) 29 = false → fbit t
      (A 1 0x100) 29 = false → fbit t (A ringPage 0x80) 26 = false → fget t (A 1 0x108) 0 16 ≤ fget t (A 1 0x104) 0 16 → Acts (.fire dt p) s (syncLate
      (now d) (syncQ t (now d)) { fset (A 1 0x10C) 29 1 1 t with syncEv := some (now d, syncQ t (now d)) })) ∧
    (∀ (a q : Nat) (t : Dev), d.syncEv = some (a, q) → fbit d (A 1 0x10C) 29 = true → q ≤ now d → t = fset (A 1 0x10C) 29 1 0 (fset (A 1 0x10C) 0 29
      (fget d (A 1 0x10C) 0 29 + 1) (wr64 (A 1 0x110) q d)) → Acts (.syncQualified dt) s (toutBy 5 q (fun _ => true) (mkBy 3 none (q * 1024) (fun _ =>
      true) t))) ∧
    (∀ (a : Nat), d.syncOut = some a → a + 8 ≤ now d → Acts (.syncOutPulseEnd dt) s ({ emit (.pin .syncOut false) d with syncOut := none }))

/-- A mailbox command is taken while BUSY is 0 and the work of each code ends with its result; step timeouts and limits
act. Each mailbox row writes MB_CMD with its code, which sets BUSY and queues the command with MB_ARG[0..3] (as they
stand at the write, the model's reading: log 98); the work of every code 1 to 8 ends with result 0, its response words
and its effect where no rule refuses it; a step that has run TLIMIT field ticks is stopped; a site whose steps have
reached SLIMIT ends its flow in bin 254. Acts c s u says exec c s = next { s with dev := actPost s.nv u }. Forms shown
to complete here (exec = next): ping, siteSet, siteClear, flowStart, flowAbort, siteStatus, migrate, yieldClear,
stepTimeout, stepLimit. -/
def Obligations.MailboxCommandsAct : Prop :=
  ∀ (dt : Nat) (s : State) (d : Dev), s.dev.aon = true → d = actPre dt s.dev →
    (∀ (p : Path), accepts d (fw 0x100) = true → fbit d (fw 0x114) 31 = false → Acts (.ping dt p) s (fset (fw 0x114) 31 1 1
      { d with flw := { d.flw with cmd := some 1, args := (List.range 4).map fun n => rdN d (fw (0x104 + 4 * n)), cmdOld := false } })) ∧
    (∀ (p : Path), accepts d (fw 0x100) = true → fbit d (fw 0x114) 31 = false → Acts (.siteSet dt p) s (fset (fw 0x114) 31 1 1
      { d with flw := { d.flw with cmd := some 2, args := (List.range 4).map fun n => rdN d (fw (0x104 + 4 * n)), cmdOld := false } })) ∧
    (∀ (p : Path), accepts d (fw 0x100) = true → fbit d (fw 0x114) 31 = false → Acts (.siteClear dt p) s (fset (fw 0x114) 31 1 1
      { d with flw := { d.flw with cmd := some 3, args := (List.range 4).map fun n => rdN d (fw (0x104 + 4 * n)), cmdOld := false } })) ∧
    (∀ (p : Path), accepts d (fw 0x100) = true → fbit d (fw 0x114) 31 = false → Acts (.flowStart dt p) s (fset (fw 0x114) 31 1 1
      { d with flw := { d.flw with cmd := some 4, args := (List.range 4).map fun n => rdN d (fw (0x104 + 4 * n)), cmdOld := false } })) ∧
    (∀ (p : Path), accepts d (fw 0x100) = true → fbit d (fw 0x114) 31 = false → Acts (.flowAbort dt p) s (fset (fw 0x114) 31 1 1
      { d with flw := { d.flw with cmd := some 5, args := (List.range 4).map fun n => rdN d (fw (0x104 + 4 * n)), cmdOld := false } })) ∧
    (∀ (p : Path), accepts d (fw 0x100) = true → fbit d (fw 0x114) 31 = false → Acts (.siteStatus dt p) s (fset (fw 0x114) 31 1 1
      { d with flw := { d.flw with cmd := some 6, args := (List.range 4).map fun n => rdN d (fw (0x104 + 4 * n)), cmdOld := false } })) ∧
    (∀ (p : Path), accepts d (fw 0x100) = true → fbit d (fw 0x114) 31 = false → Acts (.migrate dt p) s (fset (fw 0x114) 31 1 1
      { d with flw := { d.flw with cmd := some 7, args := (List.range 4).map fun n => rdN d (fw (0x104 + 4 * n)), cmdOld := false } })) ∧
    (∀ (p : Path), accepts d (fw 0x100) = true → fbit d (fw 0x114) 31 = false → Acts (.yieldClear dt p) s (fset (fw 0x114) 31 1 1
      { d with flw := { d.flw with cmd := some 8, args := (List.range 4).map fun n => rdN d (fw (0x104 + 4 * n)), cmdOld := false } })) ∧
    (mbRun 1 d = mbDone 0 [d.fwBuild, flowCap d] d) ∧
    (∀ (i f : Nat), i = bits (mbArg d 0) 16 6 → f = bits (mbArg d 0) 0 7 → f ≤ 63 → siteState d i = 0 ∨ siteIdle d i = true → (engOf d f).elim 0
      (yokeRole d) ≠ 2 → (siteFurs d f).all (fun g => (siteOfFur d g).all (· == i) && (promised d g).all (· == i)) = true → flwReady d = true → mbRun
      2 d = mbDone 0 [] (setSiteState i 1 (fset (siteStat i) 16 7 f (setSite i { getSite d i with furs := siteFurs d f } d)))) ∧
    (∀ (i : Nat), i = bits (mbArg d 0) 16 6 → siteIdle d i = true → flwReady d = true → mbRun 3 d = mbDone 0 [] (setSiteState i 0 (fset (siteStat i)
      16 7 0x7F (setSite i { getSite d i with furs := [] } d)))) ∧
    ((List.range 64).any (mbStarts d) = true → flwReady d = true → rd64 d (fw 0x80) ≠ 0 → rd64 d (fw 0x8C) ≠ 0 → mbRun 4 d = mbDone 0 [boolBits
      (((List.range 64).map fun i => mbMasked d i && !mbStarts d i).take 32), boolBits (((List.range 64).map fun i => mbMasked d i && !mbStarts d
      i).drop 32)] (forAll ((List.range 64).filter (mbStarts d)) startFlow d)) ∧
    (flwReady d = true → mbRun 5 d = mbDone 0 [] (forAll ((List.range 64).filter fun i => mbMasked d i && siteState d i == 2) (fun i t => watchStep i
      (stopStep i (setSite i { getSite t i with aborted := true } t))) d)) ∧
    (∀ (i : Nat), i = bits (mbArg d 0) 16 6 → mbRun 6 d = mbDone 0 [rdN d (siteStat i), (getSite d i).flow.getD m32, rdN d (sw i 0x10), rdN d (sw i
      0x1C)] d) ∧
    (∀ (i : Nat), i = bits (mbArg d 0) 16 6 → migBadArg d = false → siteState d i ≠ 0 → siteState d i ≠ 4 → (getSite d i).mig = none → migBadFur d i =
      false → migGroup d i = false → flwReady d = true → mbRun 7 d = mbDone 0 [] (setSite i { getSite d i with mig := some (migFurs d i, now d) } d)) ∧
    (flwReady d = true → rd64 d (fw 0x8C) ≠ 0 → mbRun 8 d = mbDone 0 [] (forAll ((List.range 64).filter (mbMasked d)) (fun i t => wrN (sw i 0x18) 0
      (wrN (sw i 0x14) 0 (memWrite .service (yieldAddr t i 0) (zeros 1024) (setSite i
      { getSite t i with flow := if (getSite t i).busy then (getSite t i).flow else none } t)))) d)) ∧
    (∀ (i : Fin 64) (x : Site) (lim : Nat), x = getSite d i → siteState d i = 2 → lim = stepF d i (fget d (siteStat i) 0 14) 12 4 → lim ≠ 0 → x.tick0
      + lim ≤ fieldCount d → x.tmoed = false → Acts (.stepTimeout dt i) s (watchStep i (stopStep i (setSite i { x with tmoed := true } d)))) ∧
    (∀ (i : Fin 64), siteState d i = 3 → (getSite d i).limit = true → Acts (.stepLimit dt i) s (flowEnd i 254 d))

/-- Headland ports train, rise, fall and retry, express words go out and come in, and frames for the device are consumed.
TRAIN writes PORT_CTL and trains the port; the end of training raises the port on four lanes, or on a pair with
FALLBACK and the degraded cause, or leaves it DOWN to retry; a lost lane counts and trains again; a port DOWN long
enough retries; a waiting express word leaves in its slot with its wait; a good express word that is not the device's
own is used and passed on with its distance; good RESULT, PAGE_REQ and PAGE_RSP frames for the device are consumed;
good WALK, REPORT and BREAK frames act; DISC START starts a walk. Acts c s u says exec c s = next { s with dev :=
actPost s.nv u }. Forms shown to complete here (exec = next): train, trainingDone, portLockLoss, trainRetry,
expressSend, expressReceive, result, pageReq, pageRsp, walk, report, breakFrame, discStart. -/
def Obligations.HeadlandLinkCommandsAct : Prop :=
  ∀ (dt : Nat) (s : State) (d : Dev), s.dev.aon = true → d = actPre dt s.dev →
    (∀ (p : Path) (i : Fin 2) (v : Word), accepts d (A (portPage i) 0x80) = true → Acts (.train dt p i v) s (portTrain i 0 (plainWrite (A (portPage i)
      0x80) v.toNat d))) ∧
    (∀ (i : Fin 2) (l : BitVec 16) (peer : BitVec 10), running d (portPage i) = true → portState d i = 1 → (getPort d i).pair = 0 → Acts
      (.trainingDone dt i 15 l peer) s (portRises i 2 15 l.toNat peer.toNat d)) ∧
    (∀ (i : Fin 2) (l : BitVec 16) (peer : BitVec 10) (lanes : BitVec 4) (pair : Nat), running d (portPage i) = true → portState d i = 1 → (getPort d
      i).pair ≠ 0 ∨ lanes.toNat ≠ 15 → fbit d (A (portPage i) 0x80) 30 = true → pair = (if (getPort d i).pair ≠ 0 then (if lanes.toNat &&& (getPort d
      i).pair = (getPort d i).pair then (getPort d i).pair else 0) else if bits lanes.toNat 0 2 = 3 then 3 else if bits lanes.toNat 2 2 = 3 then 12
      else 0) → pair ≠ 0 → Acts (.trainingDone dt i lanes l peer) s (raise (0xEA + i) 1 (irqSet (portPage i) 4 (portRises i 3 pair l.toNat peer.toNat
      d)))) ∧
    (∀ (i : Fin 2) (lane : Fin 4), portUp d i = true → fbit d (A (portPage i) 0x84) (24 + lane) = true → Acts (.portLockLoss dt i lane) s (raise (0xEA
      + i) 0 (portTrain i (if decide (portState d i = 2) && fbit d (A (portPage i) 0x80) 30 then (if lane.toNat < 2 then 12 else 3) else 0) (irqSet
      (portPage i) 2 (incSat (A (portPage i) 0x8C) 16 8 1 d))))) ∧
    (∀ (i : Fin 2), running d (portPage i) = true → portState d i = 0 → (getPort d i).downAt ≤ now d → Acts (.trainRetry dt i) s (portTrain i 0 d)) ∧
    (∀ (i : Fin 2) (x : HPort) (w : ExpWord) (rest : List ExpWord) (q : Nat × Bool), x = getPort d i → x.txq = w :: rest → portUp d i = true →
      x.slot.all (fun m => decide (m + 4 ≤ now d)) = true → w.take ≤ now d → now d ≤ w.take + 12 → q = distAdd w.dist 0 w.satd → Acts (.expressSend dt
      i) s (emit (.express i (BitVec.ofNat 64 (expEncode w q.1 q.2 (now d - w.take)))) (setPort i { x with txq := rest, slot := some (now d) } d))) ∧
    (∀ (i : Fin 2) (w : BitVec 64) (kind : Nat), portUp d i = true → kind = bits w.toNat 60 4 → crc8 56 (w.toNat / 256) = bits w.toNat 0 8 → kind ≠ 0
      → kind ≤ 3 → bits w.toNat 28 4 < 12 → Acts (.expressReceive dt i w) s
      ({ d with hdl := { d.hdl with rxq := d.hdl.rxq ++ [(i.val, w.toNat, now d + 12 - bits w.toNat 28 4)] } })) ∧
    (∀ (i : Fin 2) (w : BitVec 64) (kind origin : Nat) (q : Nat × Bool) (t : Dev), portUp d i = true → kind = bits w.toNat 60 4 → crc8 56 (w.toNat /
      256) = bits w.toNat 0 8 → kind ≠ 0 → kind ≤ 3 → origin = bits w.toNat 50 10 → 12 ≤ bits w.toNat 28 4 → hdlChain d = true ∨ origin ≠ hdlId d → q
      = distAdd (bits w.toNat 32 16) (fget d (A (portPage i) 0x88) 0 16) (bit w.toNat 49) → t = useExpress (now d) kind origin (bits w.toNat 8 20) q.1
      q.2 d → Acts (.expressReceive dt i w) s (queueExp (if hdlChain t then otherPort i else 0)
      { kind := kind, origin := origin, satd := q.2, dist := q.1, data := bits w.toNat 8 20, take := now d, fwd := true } t)) ∧
    (∀ (i : Fin 2) (frame : List (BitVec 64)) (ws : List Nat), ws = frame.map (·.toNat) → portUp d i = true → frameBad ws = false → bits (nth 0 ws 0)
      60 4 = 8 → bits (nth 0 ws 0) 50 10 = hdlId d → hdlMember d = true → hdlId d ≠ 0 → Acts (.result dt i frame) s (takeResult ws d)) ∧
    (∀ (i : Fin 2) (frame : List (BitVec 64)) (ws : List Nat), ws = frame.map (·.toNat) → portUp d i = true → frameBad ws = false → bits (nth 0 ws 0)
      60 4 = 9 → bits (nth 0 ws 0) 50 10 = hdlId d → hdlMember d = true → hdlId d ≠ 0 → Acts (.pageReq dt i frame) s (serveReq s.nv ws d)) ∧
    (∀ (i : Fin 2) (frame : List (BitVec 64)) (ws : List Nat), ws = frame.map (·.toNat) → portUp d i = true → frameBad ws = false → bits (nth 0 ws 0)
      60 4 = 0xA → bits (nth 0 ws 0) 50 10 = hdlId d → hdlMember d = true → hdlId d ≠ 0 → Acts (.pageRsp dt i frame) s (takeRsp ws d)) ∧
    (∀ (i : Fin 2) (frame : List (BitVec 64)) (ws : List Nat) (least : BitVec 16), ws = frame.map (·.toNat) → portUp d i = true → frameBad ws = false
      → bits (nth 0 ws 0) 60 4 = 0xB → bits (nth 0 ws 0) 20 4 = 1 → ws.length = 19 → d.hdl.walk ≠ 0 → Acts (.walk dt i frame least) s (walkRoot i
      ((ws.drop 1).take 16) (bits (nth 0 ws 17) 16 16) (bits (nth 0 ws 17) 0 16 + bits (nth 0 ws 17) 32 32) least.toNat d)) ∧
    (∀ (i : Fin 2) (frame : List (BitVec 64)) (ws : List Nat) (least : BitVec 16), ws = frame.map (·.toNat) → portUp d i = true → frameBad ws = false
      → bits (nth 0 ws 0) 60 4 = 0xB → bits (nth 0 ws 0) 20 4 = 1 → ws.length = 19 → d.hdl.walk = 0 → Acts (.walk dt i frame least) s (walkVisit i
      ((ws.drop 1).take 16) (bits (nth 0 ws 17) 16 16) (bits (nth 0 ws 17) 0 16 + bits (nth 0 ws 17) 32 32) d)) ∧
    (∀ (i : Fin 2) (frame : List (BitVec 64)) (ws : List Nat), ws = frame.map (·.toNat) → portUp d i = true → frameBad ws = false → bits (nth 0 ws 0)
      60 4 = 0xB → bits (nth 0 ws 0) 20 4 = 2 → ws.length = 3 → bits (nth 0 ws 0) 40 10 ≠ hdlId d → Acts (.report dt i frame) s (onlyIf (portUp (fset
      (A ringPage 0x8C) 31 1 (b2n (!d.hdl.walkRing)) (fset (A ringPage 0x8C) 0 16 (bits (nth 0 ws 1) 0 16) d)) (otherPort i)) (sendBulk (otherPort i)
      ws) (fset (A ringPage 0x8C) 31 1 (b2n (!d.hdl.walkRing)) (fset (A ringPage 0x8C) 0 16 (bits (nth 0 ws 1) 0 16) d)))) ∧
    (∀ (i : Fin 2) (frame : List (BitVec 64)) (ws : List Nat), ws = frame.map (·.toNat) → portUp d i = true → frameBad ws = false → bits (nth 0 ws 0)
      60 4 = 0xB → bits (nth 0 ws 0) 20 4 = 3 → Acts (.breakFrame dt i frame) s (setBroken (onlyIf (portUp d (otherPort i)) (sendBulk (otherPort i)
      ws) d))) ∧
    (∀ (p : Path) (v : Word), accepts d discReg = true → Acts (.discStart dt p v) s (startWalk (plainWrite discReg (v.toNat ||| 0x80000000) d)))

/-- Reference losses, returns and selections switch, hold over and re-lock, and WARM rises and expires. A loss of EXT in
use starts holdover with IRQ bit 1 and the fault, switching to OCXO when AUTO allows and it is ready; a fall of
OCXO_RDY in use clears WARM with the same and switches to EXT when AUTO allows; EXT present again for 10 s ends
holdover by slewing; the slew ends; WARM rises after its settling time and falls when holdover expires; REF_CFG
selects a present source by a switch; the presence of references not in use shows. Acts c s u says exec c s = next { s
with dev := actPost s.nv u }. Forms shown to complete here (exec = next): extRefLoss, ocxoRdyFall, extRefReturn,
slewDone, warmRise, holdoverExpiry, refSelWrite, extRefPresence, ocxoRdyChange. -/
def Obligations.ReferenceCommandsAct : Prop :=
  ∀ (dt : Nat) (s : State) (d : Dev), s.dev.aon = true → d = actPre dt s.dev →
    (∀ (u t : Dev), timeOn d = true → refSel d = 2 → d.hdl.extFrom.isSome = true → u = raise 0x05 4 (irqSet 1 2 (setExt false d)) → t = fset refStat
      28 1 1 (onlyIf (!fbit u refStat 28) (fun x => { x with hdl := { x.hdl with holdFrom := some (now x) } }) u) → Acts (.extRefLoss dt) s (if fbit t
      (A 1 0x80) 31 && t.hdl.ocxoFrom.isSome then switchRef 1 t else t)) ∧
    (∀ (t : Dev), timeOn d = true → refSel d = 1 → d.hdl.ocxoFrom.isSome = true → t = raise 0x05 4 (irqSet 1 2 (setWarm false (setOcxo false d))) →
      Acts (.ocxoRdyFall dt) s (if fbit t (A 1 0x80) 31 && t.hdl.extFrom.isSome then switchRef 2 t else t)) ∧
    (∀ (m : Nat), d.hdl.extFrom = some m → timeOn d = true → refSel d = 2 → fbit d refStat 28 = true → m + 10 * mcPerSec ≤ now d → Acts (.extRefReturn
      dt) s (setWarm false (fset refStat 28 1 0 (fset refStat 27 1 1 { d with hdl := { d.hdl with holdFrom := none } })))) ∧
    (timeOn d = true → Acts (.slewDone dt) s (fset refStat 27 1 0 d)) ∧
    (∀ (m : Nat), warmSince d = some m → timeOn d = true → fbit d refStat 27 = false → fbit d refStat 28 = false → m + fget d (A 1 0x80) 0 16 *
      mcPerSec ≤ now d → Acts (.warmRise dt) s (setWarm true d)) ∧
    (∀ (m : Nat), d.hdl.holdFrom = some m → timeOn d = true → fbit d refStat 28 = true → m + fget d (A 1 0x88) 0 16 * mcPerSec ≤ now d → Acts
      (.holdoverExpiry dt) s (setWarm false d)) ∧
    (∀ (p : Path) (v : Word) (u t : Dev), accepts d (A 1 0x80) = true → u = fset (A 1 0x80) 28 2 (refSel d) (plainWrite (A 1 0x80) v.toNat d) → t =
      onlyIf (warmFails u) (setWarm false) u → bits v.toNat 28 2 ≠ refSel d → (bits v.toNat 28 2 = 1 ∧ t.hdl.ocxoFrom.isSome = true) ∨ (bits v.toNat
      28 2 = 2 ∧ t.hdl.extFrom.isSome = true) → Acts (.refSelWrite dt p v) s (switchRef (bits v.toNat 28 2) t)) ∧
    (∀ (p : Path) (v : Word) (u t : Dev), accepts d (A 1 0x80) = true → u = fset (A 1 0x80) 28 2 (refSel d) (plainWrite (A 1 0x80) v.toNat d) → t =
      onlyIf (warmFails u) (setWarm false) u → bits v.toNat 28 2 = refSel d → (bits v.toNat 28 2 = 1 ∧ t.hdl.ocxoFrom.isSome = true) ∨ (bits v.toNat
      28 2 = 2 ∧ t.hdl.extFrom.isSome = true) → Acts (.refSelWrite dt p v) s (t)) ∧
    (∀ (p : Path) (v : Word) (u t : Dev), accepts d (A 1 0x80) = true → u = fset (A 1 0x80) 28 2 (refSel d) (plainWrite (A 1 0x80) v.toNat d) → t =
      onlyIf (warmFails u) (setWarm false) u → bits v.toNat 28 2 = 0 ∨ bits v.toNat 28 2 = 3 ∨ (bits v.toNat 28 2 = 1 ∧ t.hdl.ocxoFrom = none) ∨ (bits
      v.toNat 28 2 = 2 ∧ t.hdl.extFrom = none) → Acts (.refSelWrite dt p v) s (hit refStat 25 t)) ∧
    (∀ (b : Bool), d.clk = true → b = true ∨ refSel d ≠ 2 → Acts (.extRefPresence dt b) s (setExt b d)) ∧
    (∀ (b : Bool), d.clk = true → b = true ∨ refSel d ≠ 1 → Acts (.ocxoRdyChange dt b) s (setOcxo b d))

/-- TIME frames go out, TS reloads, and the second follows PPS_IN, rolls, is latched, armed and loses its pulse. A member
that holds the ring's time sends its four TIME words when due; RELOAD clears LOCK on a follower; an edge of the
selected polarity takes the second at its boundary with the armed, rolled or next value and notes a jump; the second
rolls by itself; two seconds without an edge clear PPS_OK with IRQ bit 3; LATCH copies TS, SEC and MCS; a write of
SEC_NEXT_HI commits and arms it. Acts c s u says exec c s = next { s with dev := actPost s.nv u }. Forms shown to
complete here (exec = next): timeFrame, reload, ppsEdge, secondRoll, ppsLoss, latch, secNextArm. -/
def Obligations.TimeOfDayCommandsAct : Prop :=
  ∀ (dt : Nat) (s : State) (d : Dev), s.dev.aon = true → d = actPre dt s.dev →
    (d.clk = true → fbit d (A ringPage 0x80) 30 = true → hdlMember d = true → running d ringPage = true → timeDue d = true → Acts (.timeFrame dt) s
      (timeWords (now d) { d with hdl := { d.hdl with timeTx := some (now d) } })) ∧
    (∀ (p : Path), accepts d (A 6 0x80) = true → fbit d (A ringPage 0x80) 30 = false → fbit d (A 6 0x84) 31 = true → Acts (.reload dt p) s (fset
      todStat 31 1 0 d)) ∧
    (∀ (rising : Bool) (b : Int) (t : Dev), timeOn d = true → fbit d (A 6 0x80) 29 = true → rising ≠ fbit d (A 6 0x80) 28 → running d 6 = true → b =
      ppsBound d → d.hdl.ppsWait = [] → t = { d with hdl := { d.hdl with ppsWait := [], lastPps := some (now d) } } → b ≤ (now d : Int) → Acts
      (.ppsEdge dt rising) s (ppsTake b (ppsSec t b) (ppsJumps t b) t)) ∧
    (∀ (rising : Bool) (b : Int), timeOn d = true → fbit d (A 6 0x80) 29 = true → rising ≠ fbit d (A 6 0x80) 28 → running d 6 = true → b = ppsBound d
      → d.hdl.ppsWait.all (fun x => decide ((now d : Int) < x.2)) = true → (now d : Int) < b → Acts (.ppsEdge dt rising) s
      ({ d with hdl := { d.hdl with ppsWait := d.hdl.ppsWait ++ [((now d : Int), b)], lastPps := some (now d) } })) ∧
    (timeOn d = true → d.hdl.bound + mcPerSec ≤ (now d : Int) → ppsHolds d (d.hdl.bound + mcPerSec) = false → Acts (.secondRoll dt) s (setSec (todSec
      d + 1) { d with hdl := { d.hdl with bound := d.hdl.bound + mcPerSec, rolled := some (d.hdl.bound + mcPerSec) } })) ∧
    (∀ (b : Int), d.hdl.lastPps = some b → timeOn d = true → fbit d todStat 27 = true → b + 2 * mcPerSec ≤ (now d : Int) → Acts (.ppsLoss dt) s
      (irqSet 6 8 (fset todStat 27 1 0 d))) ∧
    (∀ (p : Path), accepts d (A 6 0x80) = true → Acts (.latch dt p) s (wrN (A 6 0xC0) (todMcs d) (wr64 (A 6 0xB8) (todSec d) (wr64 (A 6 0xB0) (now d)
      d)))) ∧
    (∀ (p : Path) (v : Word), accepts d (A 6 0xA8) = true → Acts (.secNextArm dt p v) s (fset todStat 25 1 1 (commitHi p (A 6 0xA4) v.toNat d)))

/-- Trigger inputs, ring lines, outputs, remote page access and result forwarding act. An edge of an enabled input counts
at once with filter 0 and waits for its filter else; LINE_FIRE raises the software lines written 1; ring lines whose
mc has come are applied in it; LINE_SRC and TOUT_CFG with defined codes are written; TOUT_FIRE pulses the software
outputs written 1 and a pulse ends at its time; RPA GO with a legal destination sends its request with BUSY 1, and one
without an answer ends with code 2; the next record of the lowest HDL queue goes out as RESULT frames. Acts c s u says
exec c s = next { s with dev := actPost s.nv u }. Forms shown to complete here (exec = next): trigInEvent, lineFire,
ringLineApply, lineSrcWrite, toutCfgWrite, toutFire, trigOutPulseEnd, rpaGo, rpaTimeout, resultForward. -/
def Obligations.TriggerAndForwardingCommandsAct : Prop :=
  ∀ (dt : Nat) (s : State) (d : Dev), s.dev.aon = true → d = actPre dt s.dev →
    (∀ (i : Fin 4) (rising : Bool) (vs : BitVec 10) (c : Nat) (t u : Dev), running d trgPage = true → c = nowVs d + vs.toNat → t = tinFilter i c d →
      bits (tinCfg t i) 0 8 = 0 → u = setTin i { getTin t i with pend := none, lvl := rising } t → Acts (.trigInEvent dt i rising vs) s (onlyIf
      (running t trgPage && bit (tinCfg t i) 31) (tinCount i c (rising != bit (tinCfg t i) 30)) u)) ∧
    (∀ (i : Fin 4) (rising : Bool) (vs : BitVec 10) (c : Nat) (t : Dev), running d trgPage = true → c = nowVs d + vs.toNat → t = tinFilter i c d →
      bits (tinCfg t i) 0 8 ≠ 0 → Acts (.trigInEvent dt i rising vs) s (setTin i { getTin t i with pend := some (c, rising) } t)) ∧
    (∀ (p : Path) (v : Word), accepts d (A trgPage 0x140) = true → Acts (.lineFire dt p v) s (fireLines v.toNat d)) ∧
    (∀ (m : Nat) (t : Dev), t = { d with hdl := { d.hdl with apps := [] } } → m ≤ now d → d.hdl.apps = [(4, m, false)] → Acts (.ringLineApply dt) s
      (applyLine m 2 t)) ∧
    (∀ (p : Path) (j : Fin 16) (v : Word), accepts d (A trgPage (0x100 + 4 * j)) = true → bits v.toNat 28 3 < 5 → Acts (.lineSrcWrite dt p j v) s
      (plainWrite (A trgPage (0x100 + 4 * j)) v.toNat d)) ∧
    (∀ (p : Path) (i : Fin 4) (v : Word), accepts d (A trgPage (0xC0 + 4 * i)) = true → Acts (.toutCfgWrite dt p i v) s (writeToutCfg p i v.toNat d)) ∧
    (∀ (p : Path) (v : Word), accepts d (A trgPage 0xD0) = true → Acts (.toutFire dt p v) s (forAll ((List.range 4).filter fun i => bit v.toNat i &&
      fget d (A trgPage (0xC0 + 4 * i)) 27 3 == 4) (fun i t => toutPulse i (now t) t) d)) ∧
    (∀ (i : Fin 4), Acts (.trigOutPulseEnd dt i) s (toutEnd i (now d) d)) ∧
    (∀ (p : Path) (v : Word), accepts d (A rpaPage 0x80) = true → running d rpaPage = true → Acts (.rpaGo dt p v) s (writeRpaCtl (v.toNat |||
      0x80000000) d)) ∧
    (∀ (v dst : Nat) (t : Dev), bit v 31 = true → dst = bits v 16 10 → t = plainWrite (A rpaPage 0x80) v d → t.hdl.rpa = none → hdlMember t = true →
      dst ≠ 0 → dst ≠ hdlId t → writeRpaCtl v d = originate (bulkFrame (bulkHdr 9 dst (hdlId t) t.hdl.rpaTag 1 (b2n (bit v 30) * 2 ^ 23 + fget t (A
      rpaPage 0x84) 2 20)) [if bit v 30 then rdN t (A rpaPage 0x88) else 0]) (fset (A rpaPage 0x8C) 31 1 1
      { t with hdl := { t.hdl with rpa := some (t.hdl.rpaTag, now t + fget t (A rpaPage 0x90) 0 16 * 1600, !bit v 30), rpaTag := (t.hdl.rpaTag + 1) % 256 } })) ∧
    (∀ (tag m : Nat) (rd : Bool), d.hdl.rpa = some (tag, m, rd) → m ≤ now d → Acts (.rpaTimeout dt) s (rpaEnd 2 d)) ∧
    (∀ (q : Nat) (t : Dev) (bs : List Byte) (fs : List (List Nat)), running d resPage = true → fbit d (A resPage 0x80) 31 = true → domOn d 2 = true →
      classNext d 2 = some q → (bs, t) = consumeRec q d → isPad bs = false → fs = resFrames (fget t (A resPage 0x80) 16 10) (hdlId t) q bs (bs.length
      / 1024 + 1) 0 t.hdl.resTag → Acts (.resultForward dt) s (incSat (A resPage 0x88) 0 32 1 (forAll fs originate
      { t with hdl := { t.hdl with resTag := (t.hdl.resTag + fs.length) % 256 } })))

/-- DDR-5 errors are logged and counted, the scrubber moves, heat and lost training act, and channels are mapped out and
restored. An uncorrectable error of an UP channel counts, is logged and raises cause 0 with IRQ bit 1; a corrected
error counts and is logged, and at CE_THR within an hour sets the degradation; the scrubber moves on 64 bytes; 95 °C
sets HOT with IRQ bit 3 and cause 2; an UP channel that cannot train, or MAPOUT, is mapped out while none is, and
reported else; RESTORE forgets the map-out for the next boot. Acts c s u says exec c s = next { s with dev := actPost
s.nv u }. Forms shown to complete here (exec = next): uncorrectableError, correctedError, patrolScrub, memThermal,
memTrainingLoss, mapout, restore. -/
def Obligations.MemoryCommandsAct : Prop :=
  ∀ (dt : Nat) (s : State) (d : Dev), s.dev.aon = true → d = actPre dt s.dev →
    (∀ (a : BitVec 48) (n : Nat), n = memChannel d a.toNat → memInside d a.toNat = true → memUp d n = true → Acts (.uncorrectableError dt a) s (raise
      (0xE2 + n) 0 (irqSet (memPage n) 2 (errAddr n a.toNat true (ueCount n
      { d with ueNow := (a.toNat / 64, now d) :: d.ueNow.filter fun e => e.2 == now d }))))) ∧
    (∀ (a : BitVec 48) (n thr : Nat) (ts : List Nat) (t : Dev), n = memChannel d a.toNat → memInside d a.toNat = true → memUp d n = true → t = errAddr
      n a.toNat false (incSat (A (memPage n) 0x8C) 0 32 1 d) → thr = fget t (A (memPage n) 0x94) 0 16 → ts = t.opMc :: (mget (fun _ => []) t.ceT
      n).filter (fun u => t.opMc < u + mcPerHour) → Acts (.correctedError dt a) s (if thr ≠ 0 ∧ thr ≤ ts.length then degBit 4 5 n true (irqSet
      (memPage n) 1 { t with ceT := mset (fun _ => []) n [] t.ceT }) else { t with ceT := mset (fun _ => []) n ts t.ceT })) ∧
    (∀ (k : Fin 8), memUp d k = true → fget d (A (memPage k) 0xA0) 0 8 ≠ 0 → d.resetting.contains (memPage k) = false → Acts (.patrolScrub dt k) s
      (tagPass .service 0 64
      { d with scrub := mset (fun _ => 0) k ((mget (fun _ => 0) d.scrub k + 64) % (fget d (A (memPage k) 0x88) 24 8 * 2 ^ 30)) d.scrub })) ∧
    (∀ (k : Fin 8) (temp : BitVec 8), pageOn d (memPage k) = true → memState d k ≠ 0 → temp.toInt < 95 → Acts (.memThermal dt k temp) s (fset (A
      (memPage k) 0x84) 0 8 temp.toNat d)) ∧
    (∀ (k : Fin 8) (temp : BitVec 8), pageOn d (memPage k) = true → memState d k ≠ 0 → 95 ≤ temp.toInt → Acts (.memThermal dt k temp) s (raise (0xE2 +
      k) 2 (irqSet (memPage k) 8 (hit (A (memPage k) 0x84) 29 (fset (A (memPage k) 0x84) 0 8 temp.toNat d))))) ∧
    (∀ (k : Fin 8), memUp d k = true → (List.range 8).any (fun j => memState d j == 3) = true → Acts (.memTrainingLoss dt k) s (raise (0xE2 + k) 3
      { d with ueT := mset (fun _ => []) k [] d.ueT })) ∧
    (∀ (k : Fin 8) (t : Dev), memUp d k = true → (List.range 8).any (fun j => memState d j == 3) = false → t = irqSet (memPage k) 4 (fset (A (memPage
      k) 0x84) 30 2 3 d) → Acts (.memTrainingLoss dt k) s (raise (0xE2 + k) 1 (degMem k (setDegraded (memPage k) true
      { t with memOut := t.memOut.filter (· ≠ k.val) ++ [k.val], ueT := mset (fun _ => []) k [] t.ueT })))) ∧
    (∀ (p : Path) (k : Fin 8), accepts d (A (memPage k) 0x80) = true → Acts (.mapout dt p k) s (mapoutMem k d)) ∧
    (∀ (p : Path) (k : Fin 8), accepts d (A (memPage k) 0x80) = true → Acts (.restore dt p k) s (hmkQueue 2 6 0 (leBytes 1 k)
      { d with memOut := d.memOut.filter (· ≠ k.val) }))

/-- BAR2 reads and writes reach memory, queues and the MSI-X tables, and the PCIe link rises, falls and is reset. With the
host connected, a read or write of the window above 2^35 reaches memory inside the capacity and outside mapped-out
channels, below 4 MiB it reads COMMIT or writes a doorbell, and the MSI-X tables read and take words; LINK_UP records
speed and width with IRQ bit 0 on a rise; LINK_DOWN with IRQ bit 1; FLR, HOT_RESET and a falling PERST# reset the
function; a rising PERST# requests wake when WAKE_CFG.PERST is set. Acts c s u says exec c s = next { s with dev :=
actPost s.nv u }. Forms shown to complete here (exec = next): windowRead, windowWrite, linkUp, linkDown, flr,
hotReset, perst. -/
def Obligations.HostPortCommandsAct : Prop :=
  ∀ (dt : Nat) (s : State) (d : Dev), s.dev.aon = true → d = actPre dt s.dev →
    (∀ (off : BitVec 36) (n : Fin 4097) (err : Bool), hostOn d = true → 2 ^ 35 ≤ off.toNat → Acts (.windowRead dt off n err) s (hostReq
      { write := false, a := winAddr d (off.toNat - 2 ^ 35), n := n, err := err } d)) ∧
    (∀ (a n : Nat) (t : Dev), memHolds d a n = false → t = tagPass .host a n d → a + n ≤ memCapacity t → rangeMapped t a n = false → hostReq
      { write := false, a := a, n := n, err := false } d = emit (.win (memBytes t a n) false false) t) ∧
    (∀ (r : HostReq), memHolds d r.a (if r.write then r.data.length else r.n) = true → hostReq r d =
      { d with pci := { d.pci with held := d.pci.held ++ [r] } }) ∧
    (∀ (off : BitVec 36) (n : Fin 4097) (err ok : Bool) (t : Dev), hostOn d = true → off.toNat < 0x400000 → n.toNat = 4 ∧ off.toNat % 4 = 0 → ok =
      (domOn d 2 && blkReady d grnPage) → t = (if ok then cacheGet (off.toNat / 4) d else d) → Acts (.windowRead dt off n err) s (emit (.win (leBytes
      4 (if ok then (getQ t (off.toNat / 4)).commit else 0)) false false) t)) ∧
    (∀ (off : BitVec 36) (n : Fin 4097) (err : Bool) (x : List Byte × Dev), hostOn d = true → off.toNat < 0x400000 → x = commitBytes (off.toNat / 4)
      ((off.toNat + n.toNat + 3) / 4 - off.toNat / 4) d → Acts (.windowRead dt off n err) s (emit (.win ((x.1.drop (off.toNat % 4)).take n.toNat)
      false false) x.2)) ∧
    (∀ (off : BitVec 36) (n : Fin 4097) (err : Bool), hostOn d = true → 0x400000 ≤ off.toNat → off.toNat + n ≤ 0x408100 → Acts (.windowRead dt off n
      err) s (emit (.win ((List.range n).map fun i => BitVec.ofNat 8 (bits (msixWord d ((off.toNat + i) / 4 * 4)).toNat (8 * ((off.toNat + i) % 4))
      8)) false false) d)) ∧
    (∀ (off : BitVec 36) (w : List Byte) (a : Nat), hostOn d = true → 2 ^ 35 ≤ off.toNat → a = winAddr d (off.toNat - 2 ^ 35) → a + w.length ≤
      memCapacity d → rangeMapped d a w.length = false → memHolds d a w.length = false → Acts (.windowWrite dt off w) s (memWrite .host a w d)) ∧
    (∀ (off : BitVec 36) (w : List Byte), hostOn d = true → off.toNat < 0x400000 → w.length % 4 = 0 → off.toNat % 4 = 0 → Acts (.windowWrite dt off w)
      s (forAll (List.range (w.length / 4)) (fun i => doorbell (off.toNat / 4 + i) (leNat ((w.drop (4 * i)).take 4))) d)) ∧
    (∀ (off : BitVec 36) (w : List Byte), hostOn d = true → 0x400000 ≤ off.toNat → off.toNat + w.length ≤ 0x408000 → w.length % 4 = 0 → off.toNat % 4
      = 0 → Acts (.windowWrite dt off w) s (forAll (List.range (w.length / 4)) (fun i => writeMsix ((off.toNat - 0x400000) / 4 + i) (w32 (leNat
      ((w.drop (4 * i)).take 4)))) d)) ∧
    (∀ (speed : Fin 6) (width : Fin 9) (bme fmask : Bool), domOn d 3 = true → speed.val ≠ 0 → width.val = 1 ∨ width.val = 2 ∨ width.val = 4 ∨
      width.val = 8 → fbit d (A pciPage 0x80) 0 = false → Acts (.linkUp dt speed width bme fmask) s (irqSet pciPage 1 (wrN (A pciPage 0x80) (speed * 2
      ^ 28 + width * 2 ^ 24 + 1) { d with pci := { d.pci with bme := bme, fmask := fmask } }))) ∧
    (∀ (speed : Fin 6) (width : Fin 9) (bme fmask : Bool), domOn d 3 = true → speed.val ≠ 0 → width.val = 1 ∨ width.val = 2 ∨ width.val = 4 ∨
      width.val = 8 → fbit d (A pciPage 0x80) 0 = true → Acts (.linkUp dt speed width bme fmask) s (wrN (A pciPage 0x80) (speed * 2 ^ 28 + width * 2 ^
      24 + 1) { d with pci := { d.pci with bme := bme, fmask := fmask } })) ∧
    (fbit d (A pciPage 0x80) 0 = true → Acts (.linkDown dt) s (irqSet pciPage 2 (wrN (A pciPage 0x80) 0
      { d with pci := { d.pci with held := heldWrites d } }))) ∧
    (hostOn d = true → Acts (.flr dt) s (pciFunReset d)) ∧
    (hostOn d = true → Acts (.hotReset dt) s (pciFunReset d)) ∧
    (Acts (.perst dt false) s (pciFunReset (pciDown d))) ∧
    (fbit d (A 5 0x90) 31 = true → Acts (.perst dt true) s (requestWake 2 d))

/-- The exporter sends records, fragments and heartbeats, counts dropped frames, and follows its link and module. With the
exporter enabled, its link up and the Granary powered, the next queue in rotation sends whole records, or a part of
one that does not fit in a frame, and goes on with the next part of a record it has begun; HEARTBEAT sends an idle
item of the lowest ETH queue once its time has come; received frames are dropped and counted; the link's rise and fall
and the module's levels show with IRQ bits 0, 1 and 2, and TX_FAULT raises its cause. Acts c s u says exec c s = next
{ s with dev := actPost s.nv u }. Forms shown to complete here (exec = next): ethFrameSend, heartbeat, ethRxDrop,
ethLinkUp, ethLinkDown, ethModuleChange. -/
def Obligations.ExporterCommandsAct : Prop :=
  ∀ (dt : Nat) (s : State) (d : Dev), s.dev.aon = true → d = actPre dt s.dev →
    (∀ (q : Nat), ethOn d = true → domOn d 2 = true → ethNext d = some q → Acts (.ethFrameSend dt) s (ethFrom q d)) ∧
    (∀ (q off : Nat) (t : Dev), t = cacheLoad q d → off = ethOff t q → off ≠ 0 → ethFrom q d = ethPart q off t) ∧
    (∀ (ms q : Nat) (y : Queue), ethOn d = true → ms = fget d (A ethPage 0x84) 0 16 → ms ≠ 0 → d.eth.sent + ms * 1600000 ≤ now d →
      (d.grn.queues.filter fun x => qClass x.2 == 1 && x.2.en).head? = some (q, y) → Acts (.heartbeat dt) s (ethSend 0 false q 1 (header 1 2 0 0
      (qSite q) 16 y.seq (now d)) d)) ∧
    (pageOn d ethPage = true → Acts (.ethRxDrop dt) s (incSat (A ethPage 0x90) 0 32 1 d)) ∧
    (pageOn d ethPage = true → fbit d (A ethPage 0x88) 31 = false → Acts (.ethLinkUp dt) s (irqSet ethPage 1 (fset (A ethPage 0x88) 31 1 1 d))) ∧
    (fbit d (A ethPage 0x88) 31 = true → Acts (.ethLinkDown dt) s (irqSet ethPage 2 (fset (A ethPage 0x88) 31 1 0 d))) ∧
    (∀ (modAbs txFault : Bool) (t : Dev), pageOn d ethPage = true → t = fset (A ethPage 0x88) 29 1 (b2n txFault) (fset (A ethPage 0x88) 30 1 (b2n
      (!modAbs)) d) → fget t (A ethPage 0x88) 29 2 = fget d (A ethPage 0x88) 29 2 → Acts (.ethModuleChange dt modAbs txFault) s (onlyIf (txFault &&
      !fbit d (A ethPage 0x88) 29) (raise 0xF0 0) t)) ∧
    (∀ (modAbs txFault : Bool) (t : Dev), pageOn d ethPage = true → t = fset (A ethPage 0x88) 29 1 (b2n txFault) (fset (A ethPage 0x88) 30 1 (b2n
      (!modAbs)) d) → fget t (A ethPage 0x88) 29 2 ≠ fget d (A ethPage 0x88) 29 2 → Acts (.ethModuleChange dt modAbs txFault) s (onlyIf (txFault &&
      !fbit d (A ethPage 0x88) 29) (raise 0xF0 0) (irqSet ethPage 4 t)))

/-- SMBus commands that are not NACKed count and act, and flash commands that nothing refuses start and complete. On a
running SMBus page with a right PEC, or none where none is required, each command counts and returns its bytes, sets
its address or selection, writes its register, or asks for wake; FLASH_READ, PROGRAM and ERASE with READY, no command
running, the range inside the flash and, for the last two, WREN, start with BUSY; the command's end fills BUF,
programs the bytes or erases the 64 KiB block, with DONE and IRQ bit 0, or ends with the error. Acts c s u says exec c
s = next { s with dev := actPost s.nv u }. Forms shown to complete here (exec = next): smbStatus, regAddr, regRead,
regWrite, hmkSel, hmkRead, hmkRange, wake, flashRead, program, erase, xspComplete. -/
def Obligations.SmbusAndFlashCommandsAct : Prop :=
  ∀ (dt : Nat) (s : State) (d : Dev), s.dev.aon = true → d = actPre dt s.dev →
    (∀ (pec : Option Bool) (t : Dev), running d 0x192 = true → pec = some true ∨ (pec = none ∧ fbit d (A 0x192 0x80) 31 = false) → t = incSat (A 0x192
      0x84) 16 16 1 d → Acts (.smbStatus dt pec) s (emit (.smb (leBytes 2 (smbWord t))) t)) ∧
    (∀ (off : Word) (pec : Option Bool) (t : Dev), running d 0x192 = true → pec = some true ∨ (pec = none ∧ fbit d (A 0x192 0x80) 31 = false) → t =
      incSat (A 0x192 0x84) 16 16 1 d → Acts (.regAddr dt off pec) s ({ t with smb := { t.smb with addr := off.toNat } })) ∧
    (∀ (pec : Option Bool) (t : Dev), running d 0x192 = true → pec = some true ∨ (pec = none ∧ fbit d (A 0x192 0x80) 31 = false) → t = incSat (A 0x192
      0x84) 16 16 1 d → Acts (.regRead dt pec) s (emit (.smb (leBytes 1 (if t.smb.wst ≠ 0 then t.smb.wst else if regOff t t.smb.addr then 1 else 0) ++
      leBytes 4 (busRead s.nv .smbus t.smb.addr t).1.toNat))
      { (busRead s.nv .smbus t.smb.addr t).2 with smb := { (busRead s.nv .smbus t.smb.addr t).2.smb with wst := 0 } })) ∧
    (∀ (v : Word) (pec : Option Bool) (t : Dev), running d 0x192 = true → pec = some true ∨ (pec = none ∧ fbit d (A 0x192 0x80) 31 = false) → t =
      incSat (A 0x192 0x84) 16 16 1 d → Acts (.regWrite dt v pec) s (smbWrite s.nv t.smb.addr v t)) ∧
    (∀ (v : Word) (pec : Option Bool) (t : Dev), running d 0x192 = true → pec = some true ∨ (pec = none ∧ fbit d (A 0x192 0x80) 31 = false) → t =
      incSat (A 0x192 0x84) 16 16 1 d → Acts (.hmkSel dt v pec) s ({ t with smb := { t.smb with sel := v.toNat / 2, half := v.toNat % 2 } })) ∧
    (∀ (pec : Option Bool) (t : Dev), running d 0x192 = true → pec = some true ∨ (pec = none ∧ fbit d (A 0x192 0x80) 31 = false) → t = incSat (A 0x192
      0x84) 16 16 1 d → Acts (.hmkRead dt pec) s
      ({ emit (.smb (((slotBytes s.nv t.smb.sel).drop (128 * t.smb.half)).take 128)) t with smb := if t.smb.half = 0 then { t.smb with half := 1 } else { t.smb with half := 0, sel := (t.smb.sel + 1) % 8192 } })) ∧
    (∀ (pec : Option Bool) (t : Dev), running d 0x192 = true → pec = some true ∨ (pec = none ∧ fbit d (A 0x192 0x80) 31 = false) → t = incSat (A 0x192
      0x84) 16 16 1 d → Acts (.hmkRange dt pec) s (emit (.smb (leBytes 4 (rdN t (A 3 0x88)) ++ leBytes 4 (rdN t (A 3 0x84)))) t)) ∧
    (∀ (pec : Option Bool) (t : Dev), running d 0x192 = true → pec = some true ∨ (pec = none ∧ fbit d (A 0x192 0x80) 31 = false) → t = incSat (A 0x192
      0x84) 16 16 1 d → Acts (.wake dt pec) s (smbWrite s.nv (A 5 0x80) 0x40000000 t)) ∧
    (∀ (p : Path) (len : BitVec 8) (a : Nat), accepts d (A xspPage 0x84) = true → a = fget d (A xspPage 0x88) 0 28 → blkReady d xspPage = true → d.xsp
      = none → running d xspPage = true → a + (len.toNat + 1) ≤ flashSize d → Acts (.flashRead dt p len) s (fset (A xspPage 0x84) 30 1 1
      { plainWrite (A xspPage 0x84) (2 ^ 31 + len.toNat) d with xsp := some (0, a, len.toNat + 1) })) ∧
    (∀ (p : Path) (len : BitVec 8) (a : Nat), accepts d (A xspPage 0x84) = true → a = fget d (A xspPage 0x88) 0 28 → blkReady d xspPage = true → d.xsp
      = none → running d xspPage = true → a + (len.toNat + 1) ≤ flashSize d → fbit d (A xspPage 0x90) 31 = true → Acts (.program dt p len) s (fset (A
      xspPage 0x84) 30 1 1 { plainWrite (A xspPage 0x84) (2 ^ 31 + 2 ^ 28 + len.toNat) d with xsp := some (1, a, len.toNat + 1) })) ∧
    (∀ (p : Path) (a : Nat), accepts d (A xspPage 0x84) = true → a = fget d (A xspPage 0x88) 0 28 → blkReady d xspPage = true → d.xsp = none → running
      d xspPage = true → a + (1) ≤ flashSize d → fbit d (A xspPage 0x90) 31 = true → Acts (.erase dt p) s (fset (A xspPage 0x84) 30 1 1
      { plainWrite (A xspPage 0x84) (2 ^ 31 + 2 ^ 29) d with xsp := some (2, a, 1) })) ∧
    (∀ (op a n : Nat) (t u : Dev), d.xsp = some (op, a, n) → t = fset (A xspPage 0x84) 30 1 0 { d with xsp := none } → u = (if op = 0 then putBuf
      (freeBytes n t).1 (freeBytes n t).2 else flashTorn op a n t) → Acts (.xspComplete dt true) s (irqSet xspPage 1 (hit (A xspPage 0x8C) 31 (raise
      0xF1 0 (xspErr 2 u))))) ∧
    (∀ (a n : Nat) (t : Dev), d.xsp = some (0, a, n) → t = fset (A xspPage 0x84) 30 1 0 { d with xsp := none } → Acts (.xspComplete dt false) s
      (irqSet xspPage 1 (hit (A xspPage 0x8C) 31 (putBuf (flashBytes t a n) t)))) ∧
    (∀ (a n : Nat) (t : Dev), d.xsp = some (1, a, n) → t = fset (A xspPage 0x84) 30 1 0 { d with xsp := none } → Acts (.xspComplete dt false) s
      (irqSet xspPage 1 (hit (A xspPage 0x8C) 31 (flashPuts a (xspBuf t n) t)))) ∧
    (∀ (a n : Nat) (t : Dev), d.xsp = some (2, a, n) → t = fset (A xspPage 0x84) 30 1 0 { d with xsp := none } → Acts (.xspComplete dt false) s
      (irqSet xspPage 1 (hit (A xspPage 0x8C) 31 { t with flash := t.flash.filter fun e => e.1 / 65536 != a / 65536 })))

/-- Fault occurrences are raised, LIVE falls, shadows close, and the evidence of a source is selected, read and cleared.
FAULT_OCCURRENCE raises its source with its cause and resource after its own effects; LIVE_FALL removes a resource,
and LIVE with the last; SHADOW_CLOSE closes the shadows that have run out; writes of SRC_SEL, STICKY, TRAP, INJECT and
DEG and a read of SRC_STAT have their effects. Acts c s u says exec c s = next { s with dev := actPost s.nv u }. Forms
shown to complete here (exec = next): faultOccurrence, liveFall, shadowClose, stickyClear, srcSelWrite, srcStatRead,
trapClear, injectPulse, injectLevel, degClear. -/
def Obligations.FaultEvidenceCommandsAct : Prop :=
  ∀ (dt : Nat) (s : State) (d : Dev), s.dev.aon = true → d = actPre dt s.dev →
    (∀ (src : BitVec 8) (cause : BitVec 5) (res : BitVec 9), externalCause src.toNat cause.toNat = true → (srcPage src.toNat).any (pageOn d) = true →
      (getSrc d src.toNat).live.contains res.toNat = false → resFits d src.toNat res.toNat = true → Acts (.faultOccurrence dt src cause res) s
      (raiseOn src.toNat cause.toNat res.toNat (externalEffect src.toNat res.toNat d))) ∧
    (∀ (src : BitVec 8) (res : BitVec 9) (t : Dev) (l : List Nat), [1, 2, 3, 4, 6, 7, 8, 9, 0xE].contains src.toNat = true → (getSrc d
      src.toNat).live.contains res.toNat = true → l = (getSrc d src.toNat).live.filter (· ≠ res.toNat) → t = (if src.toNat = 1 then fset refStat 26 1
      1 { d with hdl := { d.hdl with lockFrom := some (now d) } } else d) → Acts (.liveFall dt src res) s (if l.isEmpty then liveFell src.toNat t else
      setSrc src.toNat { getSrc d src.toNat with live := l } t)) ∧
    (∀ (due : List Shadow), due = d.flt.shadows.filter (shadowDue d) → Acts (.shadowClose dt) s (forAll due shadowEnd
      { d with flt := { d.flt with shadows := d.flt.shadows.filter fun x => !due.contains x } })) ∧
    (∀ (p : Path) (i : Nat) (x : SrcSt), accepts d (A 2 0x88) = true → i = fget d (A 2 0x80) 0 8 → (srcPage i).isSome = true → srcLive d i = false → x
      = getSrc d i → (x.sticky && !x.prereset && d.clk && x.last = now d) = false → Acts (.stickyClear dt p) s (setSrc i
      { x with sticky := false, transient := false, conseq := false, prereset := false, parent := 0, undo := if x.sticky then some (aT d, x.transient, x.conseq, x.prereset, x.parent) else x.undo }
      d)) ∧
    (∀ (p : Path) (v : Word), accepts d (A 2 0x80) = true → Acts (.srcSelWrite dt p v) s (plainWrite (A 2 0x80) v.toNat d)) ∧
    (∀ (p : Path) (r : Reg), readable d (A 2 0x88) = true → regAt (A 2 0x88) = some r → Acts (.srcStatRead dt p) s (emit (.rd p (shown s.nv p r (A 2
      0x88) d)) (lookSrc d))) ∧
    (∀ (p : Path), accepts d (A 2 0xDC) = true → Acts (.trapClear dt p) s (plainWrite (A 2 0xDC) 0x80000000 d)) ∧
    (∀ (p : Path) (v : Word) (t : Dev), accepts d (A 2 0xE0) = true → t =
      { fset (A 2 0xE0) 30 1 (bits v.toNat 30 1) d with flt := { d.flt with pulse := some (aT d) } } → Acts (.injectPulse dt p v) s (if srcLive d 0xFF
      || d.flt.pulse.any (fun m => m + 1 == aT d) then t else raise 0xFF 0 t)) ∧
    (∀ (p : Path) (v : Word), accepts d (A 2 0xE0) = true → bit v.toNat 30 = false → Acts (.injectLevel dt p v) s (fset (A 2 0xE0) 30 1 0 d)) ∧
    (∀ (p : Path) (v : Word), accepts d (A 2 0xE0) = true → bit v.toNat 30 = true → Acts (.injectLevel dt p v) s (if srcLive d 0xFF || d.flt.pulse.any
      (fun m => m + 1 == aT d) then fset (A 2 0xE0) 30 1 1 d else raise 0xFF 0 (fset (A 2 0xE0) 30 1 1 d))) ∧
    (∀ (p : Path) (v : Word) (w : Nat), accepts d (A 2 0xE8) = true → w = v.toNat ^^^ (v.toNat &&& rdN d (A 2 0xE8) &&& (m32 ^^^ (mget regReset
      d.mcRegs (A 2 0xE8)).toNat)) → Acts (.degClear dt p v) s (onlyIf (bit w 5) (degBit 5 6 0 false) (onlyIf (bit w 4) (degBit 4 5 0 false) d)))

/-- ERR# ends its pulse, is cleared and reasserted; Quench is released; a CHIP_RST reaction resets the device. After its
width ERR# rises in pulse mode or when CLR was written in the pulse, and is held otherwise; CLR in the pulse waits,
and in the held state raises ERR#; a pending ERR falls after 100 ns high; an accepted RELEASE makes every formatted
state P and ends Quench; a CHIP_RST resets once its record has committed or 64 us have passed. Acts c s u says exec c
s = next { s with dev := actPost s.nv u }. Forms shown to complete here (exec = next): errPulseEnd, errClr,
errReassert, quenchRelease, chipRst. -/
def Obligations.ErrQuenchAndChipResetCommandsAct : Prop :=
  ∀ (dt : Nat) (s : State) (d : Dev), s.dev.aon = true → d = actPre dt s.dev →
    (fbit d (A 2 0xC0) 28 = true → d.flt.errEnd ≤ aT d → fbit d (A 2 0xC0) 31 = false ∨ d.flt.errClr = true → Acts (.errPulseEnd dt) s (errRise
      d.flt.errEnd d)) ∧
    (fbit d (A 2 0xC0) 28 = true → d.flt.errEnd ≤ aT d → fbit d (A 2 0xC0) 31 = true → d.flt.errClr = false → Acts (.errPulseEnd dt) s (fset (A 2
      0xC0) 28 1 0 d)) ∧
    (∀ (p : Path) (v : Word) (w : Nat) (t : Dev), accepts d (A 2 0xC0) = true → w = v.toNat ||| 0x40000000 → t = fset (A 2 0xC0) 31 1 (bits w 31 1)
      (if bits w 0 14 = 0 ∨ 10000 < bits w 0 14 then errNow d else fset (A 2 0xC0) 0 14 (bits w 0 14) (errNow d)) → fbit t (A 2 0xC0) 28 = true → Acts
      (.errClr dt p v) s ({ t with flt := { t.flt with errClr := true } })) ∧
    (∀ (p : Path) (v : Word) (w : Nat) (t : Dev), accepts d (A 2 0xC0) = true → w = v.toNat ||| 0x40000000 → t = fset (A 2 0xC0) 31 1 (bits w 31 1)
      (if bits w 0 14 = 0 ∨ 10000 < bits w 0 14 then errNow d else fset (A 2 0xC0) 0 14 (bits w 0 14) (errNow d)) → fbit t (A 2 0xC0) 28 = false →
      fbit t (A 2 0xC0) 29 = true → Acts (.errClr dt p v) s (errRise (aT t) t)) ∧
    (∀ (m : Nat), d.flt.errHigh = some m → d.flt.errPend = true → m + 160 ≤ aT d → fbit d (A 2 0xC0) 29 = false → Acts (.errReassert dt) s (errFall (m
      + 160) d)) ∧
    (∀ (p : Path) (v : Word) (t : Dev) (u : Dev), accepts d (A 2 0xC8) = true → t = plainWrite (A 2 0xC8) (v.toNat ||| 0x40000000) d → inQuench t =
      true → quenchLive t = false → (List.range 66).all (engStopped t) = true → bit (actedAt t (aT t)).1 5 = false → u = lanesP (if t.flt.quenchPend
      then quenchPark (nowVs t) t else t) → Acts (.quenchRelease dt p v) s (fset (A 2 0xC8) 31 1 0
      { u with flt := { u.flt with rel := some (aT u) } })) ∧
    (∀ (i : Nat) (m : Nat) (done : Bool), d.flt.chipRst = some (i, m, done) → done = true ∨ m + 102400 ≤ aT d → Acts (.chipRst dt) s (chipReset 4 i
      d))

/-- Domains are requested, come up or time out, standby is asked for, entered and woken from, and an hour of operation is
counted. An allowed DOM_REQ is stored, the domains it clears go down and the switches of those it sets close;
POWER_GOOD in time turns the domain ON; its absence is a PWR error and source 0x0D; STANDBY enters Quench,
STANDBY_ENTERED turns every domain but AON off and stops the clock; the timer asks for a wake; each hour counts and
places its record. Acts c s u says exec c s = next { s with dev := actPost s.nv u }. Forms shown to complete here
(exec = next): domReqWrite, powerGood, powerGoodTimeout, standby, standbyEntered, wakeTimer, hourOfOperation. -/
def Obligations.DomainAndStandbyCommandsAct : Prop :=
  ∀ (dt : Nat) (s : State) (d : Dev), s.dev.aon = true → d = actPre dt s.dev →
    (∀ (p : Path) (v : Word), accepts d (A 5 0x84) = true → switchables.find? (onErr d v.toNat) = none → switchables.find? (offErr d v.toNat) = none →
      Acts (.domReqWrite dt p v) s (bootSwitches (forAll (switchables.filter fun g => bit v.toNat g && !fbit d (A 5 0x84) g) closeSwitch (forAll
      (switchables.filter fun g => !bit v.toNat g) powerDown (plainWrite (A 5 0x84) v.toNat d))))) ∧
    (∀ (g : Fin 20) (t : Dev), d.sw.any (fun x => x.1 == g.val && decide (aT d ≤ x.2 + 32000)) = true → d.booting = true ∨ g.val < 4 ∨ 12 ≤ g.val → t
      = fset (A 5 0x88) g 1 1 { d with sw := d.sw.filter fun x => x.1 != g.val } → Acts (.powerGood dt g) s (bootSwitches t)) ∧
    (∀ (g : Fin 20) (t : Dev), d.sw.any (fun x => x.1 == g.val && decide (aT d ≤ x.2 + 32000)) = true → d.booting = false → 4 ≤ g.val → g.val < 12 → t
      = fset (A 5 0x88) g 1 1 { d with sw := d.sw.filter fun x => x.1 != g.val } → Acts (.powerGood dt g) s (bootSwitches (bankAgain (g.val - 4) t))) ∧
    (∀ (g : Fin 20) (n : Nat) (m : Nat) (t : Dev), d.sw.find? (·.1 == g.val) = some (n, m) → m + 32000 ≤ aT d → t = raise 0x0D 13 (domErr 1 g
      { d with sw := d.sw.filter fun x => x.1 != g.val }) → Acts (.powerGoodTimeout dt g) s (if t.booting then recovery s.nv 3 t else t)) ∧
    (∀ (p : Path), accepts d (A 5 0x80) = true → d.standby = 0 → (List.range 66).all (engStopped d) = true → Acts (.standby dt p) s
      ({ quenchNow d with standby := 1 })) ∧
    (d.standby = 1 → d.hmk.queue = [] → Acts (.standbyEntered dt) s ({ clockOff (allDown d) with standby := 2, booting := false })) ∧
    (d.standby = 2 → fbit d (A 5 0x90) 30 = true → rdN d (A 5 0x94) * 25000000 ≤ d.aonT → Acts (.wakeTimer dt) s (requestWake 3 d)) ∧
    (∀ (hi : BitVec 16) (lo : BitVec 16) (t : Dev) (u : Dev), (d.hmk.hours + 1) * mcPerHour ≤ d.opMc → t = incSat (A 3 0x98) 0 32 1
      { d with hmk := { d.hmk with hours := d.hmk.hours + 1 } } → u = hmkQueue 5 3 0 (leBytes 4 (rdN t (A 3 0x9C)) ++ leBytes 4 (rdN t (A 3 0xA0)) ++
      leBytes 4 (rdN t (A 3 0xA8)) ++ leBytes 2 hi.toNat ++ leBytes 2 lo.toNat ++ leBytes 4 (rdN t (A 2 0xE8)) ++ leBytes 4 t.flt.sramHour) t → Acts
      (.hourOfOperation dt hi lo) s (if rdN u (A 2 0xE8) = 0 then { u with flt := { u.flt with sramHour := 0 } } else irqSet 2 4 (degEvent 0x10 0
      { u with flt := { u.flt with sramHour := 0 } })))

/-- A commit writes the next slot, a fuse operation its fuses, and the loss of supply a torn slot at most. HALLMARK_COMMIT
writes the record to NEXT, moves on past a slot whose read-back fails and loses the record when both fail; FUSE_DONE
blows the fuses of the operation and shows DONE; AON_SUPPLY_LOSS leaves a device without supply and the slot of a
commit in progress torn. Acts c s u says exec c s = next { s with dev := actPost s.nv u }. Forms shown to complete
here (exec = next): hallmarkCommit, fuseDone, aonSupplyLoss. -/
def Obligations.HallmarkAndFuseStoresAct : Prop :=
  ∀ (dt : Nat) (s : State) (d : Dev), s.dev.aon = true → d = actPre dt s.dev →
    (∀ (bad2 : Option (List Byte)) (r : HmkRec) (rest : List HmkRec) (k : Nat) (bytes : List Byte) (nv : Nv) (t : Dev), hmkBusy d = true → d.hmk.queue
      = r :: rest → k = fget d (A 3 0x84) 0 13 → bytes = hmkBytes r (rd64 d (A 3 0x8C)) → nv = putSlot k bytes s.nv → t = wrN (A 3 0x84) (slotAfter k)
      (showHmk { d with hmk := { d.hmk with queue := rest } }) → exec (.hallmarkCommit dt none bad2) s = .next
      { s with nv := nv, dev := actPost nv (recordKept nv r t) }) ∧
    (∀ (x : List Byte) (r : HmkRec) (rest : List HmkRec) (k : Nat) (bytes : List Byte) (nv : Nv) (t : Dev), hmkBusy d = true → d.hmk.queue = r :: rest
      → k = fget d (A 3 0x84) 0 13 → bytes = hmkBytes r (rd64 d (A 3 0x8C)) → nv = putSlot (slotAfter k) bytes (putSlot k (tornSlot x) s.nv) → t =
      raise 0xF3 0 (wrN (A 3 0x84) (slotAfter (slotAfter k)) (showHmk { d with hmk := { d.hmk with queue := rest } })) → exec (.hallmarkCommit dt
      (some x) none) s = .next { s with nv := nv, dev := actPost nv (recordKept nv r t) }) ∧
    (∀ (x : List Byte) (y : List Byte) (r : HmkRec) (rest : List HmkRec) (k : Nat) (nv : Nv), hmkBusy d = true → d.hmk.queue = r :: rest → k = fget d
      (A 3 0x84) 0 13 → nv = putSlot (slotAfter k) (tornSlot y) (putSlot k (tornSlot x) s.nv) → exec (.hallmarkCommit dt (some x) (some y)) s = .next
      { s with nv := nv, dev := actPost nv (hmkDropped (raise 0xF3 0 (wrN (A 3 0x84) (slotAfter (slotAfter k)) (showHmk { d with hmk := { d.hmk with queue := rest } })))) }) ∧
    (∀ (op : Nat) (slot : Nat) (val : Nat) (hash : Nat) (nv : Nv), d.sec.fuse = some (op, slot, val, hash) → nv = blow (op, slot, val, hash) s.nv →
      exec (.fuseDone dt) s = .next
      { s with nv := nv, dev := actPost nv (irqSet 4 4 (fset fuseRes 30 1 0 (hit fuseRes 31 { d with sec := { d.sec with fuse := none } }))) }) ∧
    (∀ (torn : Option (List Byte)) (nv : Nv), nv = lossNv torn d s.nv → d.aon = true → exec (.aonSupplyLoss dt torn) s = .next
      { s with nv := nv, dev := actPost nv (emit (.undriven none) (coldDev false (xspReset d))) })

/-- POWER_ON acts on a device without supply: the AON domain is at its power-on values and QUENCH# is low. On a device
whose AON domain has no supply, POWER_ON leaves the AON domain alone at its power-on values with RESET# low and
QUENCH# low, the clock not running and every other domain off; queue and non-volatile stores are unchanged. -/
def Obligations.PowerOnActs : Prop :=
  ∀ (dt : Nat) (s : State), s.dev.aon = false →
    ∃ d : Dev, exec (.powerOn dt) s = .next { s with dev := d } ∧ d.aon = true ∧ d.rstLow = true ∧ d.booting = false ∧ d.clk = false ∧ d.standby = 0 ∧
      d.out = s.dev.out ++ [.pin .quenchN false] ∧ d.flash = s.dev.flash ∧ d.mem = [] ∧ d.lanes = [] ∧ d.sw = [] ∧
      (∀ a, rd d a = regReset a) ∧ (∀ g : Fin 20, domOn d g = decide (g.val = 0))

/-- RESET#, SRST and the boot: the chip reset, the release, and every stage from SCAN to BLOCKS. RESET_PIN and CHIP_RESET
are chip resets with causes 2 and 3; the release of RESET# begins the boot; SCAN counts the boot and goes to CLOCKS;
CLOCKS chooses a reference and starts TS; IMAGE accepts the first image that passes every check; MEMORY trains the
channels; BLOCKS makes the device READY and queues the BOOT record. Acts c s u says exec c s = next { s with dev :=
actPost s.nv u }. Forms shown to complete here (exec = next): resetPin, chipReset, resetPinRelease, bootStage. -/
def Obligations.ResetAndBootCommandsAct : Prop :=
  ∀ (dt : Nat) (s : State) (d : Dev), s.dev.aon = true → d = actPre dt s.dev →
    (d.rstLow = false → Acts (.resetPin dt) s (chipReset 2 0 { d with rstLow := true })) ∧
    (∀ (p : Path), accepts d (A 0 8) = true → Acts (.chipReset dt p) s (chipReset 3 0 d)) ∧
    (d.rstLow = true → Acts (.resetPinRelease dt) s ({ d with rstLow := false, booting := true, bootT := d.aonT })) ∧
    (∀ (t : Dev), d.booting = true → bootStage d = 0 → t = (if fbit d (A 3 0x80) 31 then d else hmkScan s.nv d) → Acts (.bootStage dt .scan) s
      (bootSwitches (fset (A 0 0xA4) 29 3 1 (incSat (A 3 0xA4) 0 32 1 (setReady 3 true t))))) ∧
    (∀ (ext : Bool) (ocxo : Bool) (t : Dev) (u : Dev), d.booting = true → bootStage d = 1 → stageUp d = true → t = rebase true d → u =
      { t with hdl := { t.hdl with extFrom := if ext then some 0 else none, ocxoFrom := if ocxo then some 0 else none, lockFrom := some 0 } } → Acts
      (.bootStage dt (.clocks ext ocxo)) s (bootSwitches (fset (A 0 0xA4) 29 3 2 (secReady (setReady 1 true (fset refStat 26 1 1 (showRef (fset (A 1
      0x80) 28 2 (if ext then 2 else 1) u)))))))) ∧
    (∀ (octal : Bool) (size : Fin 29) (mhz : BitVec 8) (err : Bool) (k : Nat) (c : Nat) (t : Dev) (u : Dev) (img : Image), d.booting = true →
      bootStage d = 2 → t = wrN (A xspPage 0x80) (b2n octal * 2 ^ 31 + size.val % 32 * 2 ^ 16 + mhz.toNat) d → k = (if t.sec.tried then 1 - fget t (A
      4 0x84) 0 1 else fget t (A 4 0x84) 0 1) → c = imgCode s.nv t (slotBase k) err → u = fset (A 0 0xA4) (if k = 0 then 8 else 0) 8 c t → img = imgOf
      s.nv u k → Acts (.bootStage dt (.image true octal size mhz err)) s (if c = 0 then toStage 3 (setReady xspPage true (fset (A 0 0xA4) 28 1 k
      { u with sec := { u.sec with image := some img }, fwBuild := img.build })) else if (raise 0xF2 0 u).sec.tried then recovery s.nv 1 (raise 0xF2 0
      u) else { raise 0xF2 0 u with sec := { (raise 0xF2 0 u).sec with tried := true } })) ∧
    (∀ (octal : Bool) (size : Fin 29) (mhz : BitVec 8) (err : Bool), d.booting = true → bootStage d = 2 → Acts (.bootStage dt (.image false octal size
      mhz err)) s (recovery s.nv 4 d)) ∧
    (∀ (dimms : List (Option Dimm)) (out : List Nat) (use : List Nat) (t : Dev), d.booting = true → bootStage d = 3 → stageUp d = true → out =
      (List.range 8).filter (fun k => (mappedBy514 dimms).contains k || d.memOut.contains k) → out.length ≤ 1 → use = (List.range 8).filter (fun k =>
      !out.contains k) → t = forAll (List.range 8) (channelBoots dimms out) d → Acts (.bootStage dt (.memory dimms)) s (toStage 4 (degMem (out.headD
      0) (wrN (A 0x188 0xC4) (use.length * 2 ^ 8 + use.foldl (fun m k => m + 2 ^ k) 0) { t with memOut := out })))) ∧
    (∀ (banks : List Nat) (t : Dev) (part : Bool) (u : Dev) (x : Dev) (hash : Nat) (y : Dev), d.booting = true → bootStage d = 4 → stageUp d = true →
      banks = (List.range 8).filter (fun b => domOn d (4 + b)) → t = forAll banks restoreSpares (forAll banks loadCoefs d) → (part, u) = (if bcalState
      t = 1 then bcalAll t else (false, t)) → x = forAll banks bankReady u → hash = (if bcalState t = 0 then 0 else (Config.sha384 (flashBytes t
      bcalBase 4224)).toNat) → y = fset (A 0 0xA4) 26 2 (if bcalState t = 1 && part then 3 else bcalState t)
      { x with booting := false, sec := { x.sec with bcal := hash } } → Acts (.bootStage dt .blocks) s (bootRecord s.nv (wrN (A 0 0xA8) (((y.aonT -
      y.bootT) * 64 + now y) / 1600) (setReady 0 true (fset (A 0 0xA4) 29 3 5 y)))))

/-- Fuse operations begin, the Assay report is made, debug access is challenged, answered and locked, and the JTAG
instructions act. A fuse operation that nothing refuses is in progress with BUSY; ASSAY_GO takes the nonce and sets
BUSY; ASSAY_DONE writes the signed report, sets DONE and IRQ bit 0, and ends BUSY; NEW makes a challenge; SUBMIT takes
the level when the answer verifies, or counts a failure and raises source 0xF2; LOCK returns to level 0. BYPASS sends
TDI through one stage that captures 0; IDCODE sends the identification code, least significant bit first;
SAMPLE/PRELOAD sends free levels; EXTEST drives QUENCH# and the DL pairs as given, but in Quench neither raises
QUENCH# nor drives a pair out of park. Acts c s u says exec c s = next { s with dev := actPost s.nv u }. Forms shown
to complete here (exec = next): ownerProgram, ownerRevoke, arbAdvance, assayGo, assayDone, dbgNew, dbgSubmit, dbgLock,
bypass, idcode, samplePreload, extest. -/
def Obligations.SecurityAndJtagCommandsAct : Prop :=
  ∀ (dt : Nat) (s : State) (d : Dev), s.dev.aon = true → d = actPre dt s.dev →
    (∀ (p : Path) (v : Word) (w : Nat) (t : Dev), accepts d fuseCtl = true → w = putBits v.toNat 28 4 9 → t = plainWrite fuseCtl w d → t.sec.fuse =
      none → fuseErr s.nv t 1 (bits w 24 2) (bits w 0 7) = 0 → Acts (.ownerProgram dt p v) s (fset fuseRes 27 4 8
      { t with sec := { t.sec with fuse := some (1, bits w 24 2, bits w 0 7, fuseData t) } })) ∧
    (∀ (p : Path) (v : Word) (w : Nat) (t : Dev), accepts d fuseCtl = true → w = putBits v.toNat 28 4 10 → t = plainWrite fuseCtl w d → t.sec.fuse =
      none → fuseErr s.nv t 2 (bits w 24 2) (bits w 0 7) = 0 → Acts (.ownerRevoke dt p v) s (fset fuseRes 27 4 8
      { t with sec := { t.sec with fuse := some (2, bits w 24 2, bits w 0 7, fuseData t) } })) ∧
    (∀ (p : Path) (v : Word) (w : Nat) (t : Dev), accepts d fuseCtl = true → w = putBits v.toNat 28 4 11 → t = plainWrite fuseCtl w d → t.sec.fuse =
      none → fuseErr s.nv t 3 (bits w 24 2) (bits w 0 7) = 0 → Acts (.arbAdvance dt p v) s (fset fuseRes 27 4 8
      { t with sec := { t.sec with fuse := some (3, bits w 24 2, bits w 0 7, fuseData t) } })) ∧
    (∀ (p : Path) (t : Dev), accepts d assayCtl = true → t = plainWrite assayCtl 0x80000000 d → t.sec.assay = none → 3 ≤ bootStage t → Acts (.assayGo
      dt p) s (fset assayCtl 30 1 1 { t with sec := { t.sec with assay := some ((List.range 8).map fun w => rd t (A 4 (0x100 + 4 * w))) } })) ∧
    (∀ (nonce : List Word) (t : Dev), d.sec.assay = some nonce → t = secWindow 0x200 128 (assayReport s.nv nonce d) d → Acts (.assayDone dt) s (irqSet
      4 1 (fset assayCtl 30 1 0 (hit assayCtl 29 { t with sec := { t.sec with assay := none } })))) ∧
    (∀ (p : Path) (t : Dev), accepts d dbgCtl = true → t = secWindow 0x400 16 (serialBytes ++ beBytes 48 (Config.random384 d.freeCtr).toNat ++ leBytes
      4 (rdN d (A 3 0xA4)) ++ zeros 4) { d with freeCtr := d.freeCtr + 1 } → Acts (.dbgNew dt p) s (fset dbgStat 29 1 1 t)) ∧
    (∀ (p : Path) (v : Word) (w : Nat) (lv : Nat) (t : Dev) (key : List Byte) (ok : Bool), accepts d dbgCtl = true → w = putBits v.toNat 29 3 2 → t =
      plainWrite dbgCtl w d → lv = bits w 24 2 → fget t dbgStat 26 2 ≠ 3 → key = (secBytes t 0x440 48).take 96 → ok = (fbit t dbgStat 29 && (lv == 1
      || lv == 2) && dbgKeyOk s.nv (bits w 20 3) key && Config.ecdsaVerify key (Config.sha384 (secBytes t 0x400 16 ++ leBytes 1 lv)) ((secBytes t
      0x440 48).drop 96)) → Acts (.dbgSubmit dt p v) s (if ok then fset dbgStat 30 2 lv
      { fset dbgStat 29 1 0 t with sec := { t.sec with dbgMax := max t.sec.dbgMax lv } } else raise 0xF2 1 (irqSet 4 2 (incSat dbgStat 26 2 1 (hit
      dbgStat 28 (fset dbgStat 29 1 0 t)))))) ∧
    (∀ (p : Path), accepts d dbgCtl = true → Acts (.dbgLock dt p) s (fset dbgStat 30 2 0 d)) ∧
    (∀ (tdi : List Bool), Acts (.bypass dt tdi) s (emit (.tdo ((false :: tdi).take tdi.length)) { d with jtag := 0 })) ∧
    (Acts (.idcode dt) s (emit (.tdo ((List.range 32).map fun i => Config.idcode.getLsbD i)) { d with jtag := 1 })) ∧
    (∀ (n : Fin 4096), Acts (.samplePreload dt n) s (emit (.tdo ((List.range n).map fun i => (Config.freeWord (d.freeCtr + i)).getLsbD 0))
      { d with jtag := 2, freeCtr := d.freeCtr + n })) ∧
    (∀ (quench : Option Bool) (lanes : List (LaneId × Fin 3)) (t : Dev), t = { d with jtag := 3 } → inQuench d = false → Acts (.extest dt quench
      lanes) s (forAll lanes (fun x u => emit (.dl x.1 (nowVs u) (drvCode x.2)) u) (quench.elim t fun b => emit (.pin .quenchN b) t))) ∧
    (∀ (quench : Option Bool) (lanes : List (LaneId × Fin 3)) (t : Dev), t = { d with jtag := 3 } → inQuench d = true → Acts (.extest dt quench lanes)
      s (forAll (lanes.filter (·.2 == 2)) (fun x u => emit (.dl x.1 (nowVs u) (drvCode x.2)) u) (quench.elim t fun b => if b then t else emit (.pin
      .quenchN b) t)))

/-- A step carries out the command at the front of the queue on the state with the queue's rest; on an empty queue the
block idles (idling: log 1). For every command c, rest of queue and state s: step of s with c in front is exec of c on
s with the rest; step on an empty queue answers the same state. -/
def Obligations.StepTakesTheFrontCommand : Prop :=
  (∀ (c : Instr) (rest : List Instr) (s : State), step { s with pending := c :: rest } = exec c { s with pending := rest }) ∧
    ∀ s : State, s.pending = [] → step s = .next s

/-- The state after reset: an empty queue, every register at its reset value, Quench in force, RESET# low and only the AON
domain on. State.reset has an empty queue, stores in order, every register at its reset value, empty memory, the clock
stopped, RESET# low, no boot under way, Quench in force with FIRST 0, only domain 0 on, furrow k on engine k with two
spare engines, ERR width 100, shadow EXTRA 1,600 and a field period of 10 us. -/
def Obligations.ResetIsTheStateAfterPowerOn : Prop :=
  State.reset.pending = [] ∧ storesOk State.reset.nv = true ∧ (∀ a, rd State.reset.dev a = regReset a) ∧ State.reset.dev.mem = [] ∧
    State.reset.dev.clk = false ∧ State.reset.dev.rstLow = true ∧ State.reset.dev.booting = false ∧
    inQuench State.reset.dev = true ∧ fget State.reset.dev (A 2 0xC8) 0 8 = 0 ∧ (∀ g : Fin 20, domOn State.reset.dev g = decide (g.val = 0)) ∧
    (∀ e : Fin 66, logical State.reset.dev e = if e.val < 64 then e.val else 0x7F) ∧
    calmBefore State.reset.dev = true ∧ calmAfter State.reset.dev = true ∧
    fget State.reset.dev (A 2 0xC0) 0 14 = 100 ∧ fget State.reset.dev (A 2 0xD8) 0 16 = 1600 ∧ fget State.reset.dev (A 0 0x80) 0 7 = 10

/-- Every command answers a next state and leaves the waiting commands as they are: none faults and none is refused. For
every command c and state s, exec c s is a next state whose queue is that of s. Forms shown to complete here (exec =
next): registerWrite, msixPendingSend, latchedRead, rcRead, pairLoWrite, pairHiWrite, blockEnable, drain, drainDone,
blockReset, blockResetDone, freeze, lockKey, irqForce, fieldCfgWrite, fieldTick, mainPllUnlock, rowIssue, rowTick,
compareResult, senseTransition, senseOpenDetect, senseOpenRecover, laneCfgWrite, laneIoFail, spareMap, spareUnmap,
writeNow, writeArmed, read, poll, bcastNow, bcastArmed, fecFrameSend, fecResponse, fecResponseTimeout, apply, close,
flush, statusPoll, fecRspRead, perNWrite, perFWrite, tsEdgeWrite, tsFmtCommit, calOffsetWrite, deskewStart,
deskewDone, backgroundRecalibration, swap, reflexDrive, reflexHoldEnd, rfxClr, rfxCfgWrite, rfxHoldWrite, mapWrite,
furrowStart, furrowStop, primeComplete, runStart, furrowStopped, emit, rpt, agen, gset, jmp, call, loop, br, wait,
sync, setReg, recWrite, halt, lend, ret, branchDecide, branchResolve, waitEnd, waitTimeout, prefetchWalk, tileRead,
generatorWrite, rowTake, transitionRecordAge, transitionDrain, statFlush, histCfgWrite, sysrefPulse, jesBlockLock,
jesEmbLock, jesAligned, jesMultiblock, jesLinkDown, sampleProcess, segmentRecordClose, acqRearm, acqArm, acqStop,
acqForce, envDataAccess, recordOpen, recordClose, commitAdvance, qselWrite, load, write, setMark, clrMark, rewind,
clrWm, clrFlags, seal, sealPlace, flushCache, qcmdDone, cacheFill, doorbellWrite, popSel, popRelease, popDataRead,
nrRdWrite, nrBaseHiWrite, descBaseHiWrite, descInitDone, siteCurWrite, timArm, timStop, timFlush, timEvent,
timTimeout, deadTimeEnd, timInEdge, tinCfgWrite, binTableBuilt, calLockLoss, fenceCrossing, fenceFilterSample,
fenceWindowWrite, dacSettle, modeHoldEnd, fenceTestWrite, rampStart, rampStop, rampRearm, rampStep,
powerUpResponseEnd, drillStart, drillStop, drillStep, drillEdge, listStage, listCommit, ampGroupClose, markerRelease,
mkDlyWrite, syncInPulse, fire, syncQualified, syncOutPulseEnd, ping, siteSet, siteClear, flowStart, flowAbort,
siteStatus, migrate, yieldClear, stepTimeout, stepLimit, train, trainingDone, portLockLoss, trainRetry, expressSend,
expressReceive, result, pageReq, pageRsp, walk, report, breakFrame, discStart, extRefLoss, ocxoRdyFall, extRefReturn,
slewDone, warmRise, holdoverExpiry, refSelWrite, timeFrame, reload, ppsEdge, secondRoll, ppsLoss, latch, secNextArm,
trigInEvent, lineFire, ringLineApply, lineSrcWrite, toutCfgWrite, toutFire, trigOutPulseEnd, rpaGo, rpaTimeout,
resultForward, uncorrectableError, correctedError, patrolScrub, memThermal, memTrainingLoss, mapout, restore,
windowRead, windowWrite, linkUp, linkDown, flr, hotReset, perst, ethFrameSend, heartbeat, ethRxDrop, smbStatus,
regAddr, regRead, regWrite, hmkSel, hmkRead, hmkRange, flashRead, program, erase, xspComplete, faultOccurrence,
chipRst, liveFall, shadowClose, quenchRelease, errPulseEnd, errClr, errReassert, stickyClear, srcSelWrite,
srcStatRead, trapClear, injectPulse, injectLevel, degClear, hallmarkCommit, hourOfOperation, domReqWrite, powerGood,
powerGoodTimeout, standby, standbyEntered, wake, wakeTimer, powerOn, aonSupplyLoss, resetPin, chipReset, bootStage,
ownerProgram, ownerRevoke, arbAdvance, fuseDone, assayGo, assayDone, dbgNew, dbgSubmit, dbgLock, bypass, idcode,
samplePreload, extest, resetPinRelease, extRefPresence, ocxoRdyChange, ethLinkUp, ethLinkDown, ethModuleChange,
instructionWordRead, sysrefPulseEnd, busResetEnd. -/
def Obligations.EveryCommandAnswersANextState : Prop :=
  ∀ (c : Instr) (s : State), ∃ t : State, exec c s = .next t ∧ t.pending = s.pending

/-- A run of k steps never stops and takes exactly the first k commands of the queue, in order. For every state s and
every k up to the length of its queue, k steps of the machine end in a next state whose queue is that of s without its
first k commands; and the run is the composition of exec over those commands. -/
def Obligations.RunTakesTheCommandsInOrder : Prop :=
  ∀ (k : Nat) (s : State), k ≤ s.pending.length →
    ∃ t : State, Sys2Proof.core.run k s = .next t ∧ t.pending = s.pending.drop k

/-- Every step keeps the non-volatile stores in order: slots 0 to 8,191 of 256 bytes in canonical form, owner slots in a
legal state. If the stores of s are in order and step s answers t, the stores of t are in order. -/
def Obligations.StoresStayInOrderAtEveryStep : Prop :=
  ∀ s t : State, storesOk s.nv = true → step s = .next t → storesOk t.nv = true

/-- Only a commit, a loss of supply and the end of a fuse operation change the non-volatile stores, and each only its own.
Every command but HALLMARK_COMMIT, AON_SUPPLY_LOSS and FUSE_DONE leaves the stores as they are; the first two leave
the fuses, and FUSE_DONE the slots. -/
def Obligations.OnlyTheirEnginesWriteTheStores : Prop :=
  (∀ (c : Instr) (s t : State), exec c s = .next t → writesStores c = false → t.nv = s.nv) ∧
    (∀ (dt : Nat) (b1 b2 : Option (List Byte)) (s t : State), exec (.hallmarkCommit dt b1 b2) s = .next t → t.nv.owners = s.nv.owners ∧ t.nv.arb = s.nv.arb) ∧
    (∀ (dt : Nat) (x : Option (List Byte)) (s t : State), exec (.aonSupplyLoss dt x) s = .next t → t.nv.owners = s.nv.owners ∧ t.nv.arb = s.nv.arb) ∧
    (∀ (dt : Nat) (s t : State), exec (.fuseDone dt) s = .next t → t.nv.slots = s.nv.slots)

/-- Without AON supply no command but POWER_ON has any effect (the model's choice: log 40). On a device whose AON domain
is off, every command but POWER_ON answers the same state. -/
def Obligations.WithoutSupplyNothingActs : Prop :=
  ∀ (c : Instr) (s : State), s.dev.aon = false → isPowerOn c = false → exec c s = .next s

/-- A record as its slot holds it is committed, and its SEQ, KIND and body read back. For every record and SEQ: the slot
has 256 bytes, passes MAGIC, CRC and COMMIT, and its SEQ, KIND and 208 body bytes are those of the record. -/
def Obligations.CommittedRecordReadsBack : Prop :=
  ∀ (r : HmkRec) (seq : Nat), (hmkBytes r seq).length = 256 ∧ slotOk (hmkBytes r seq) = true ∧ slotNum (hmkBytes r seq) 8 8 = seq % 2 ^ 64 ∧
    slotNum (hmkBytes r seq) 2 1 = r.kind % 256 ∧ ((hmkBytes r seq).drop 40).take 208 = fitBytes 208 r.body

/-- After a commit whose write verifies, the scan at the next power-on takes that record as the newest and goes on after
it. When the first queued record commits in slot k with SEQ q, and every committed record of the store is older, a
scan of the store sets NEXT to the slot after k and SEQ to q + 1, whatever device scans it. -/
def Obligations.ScanFindsTheLastCommit : Prop :=
  ∀ (dt : Nat) (b : Option (List Byte)) (s t : State) (d : Dev) (r : HmkRec) (rest : List HmkRec) (k q : Nat), s.dev.aon = true → d = actPre dt s.dev →
    hmkBusy d = true → d.hmk.queue = r :: rest → k = fget d (A 3 0x84) 0 13 → q = rd64 d (A 3 0x8C) → q + 1 < 2 ^ 64 → olderThan s.nv q = true →
    exec (.hallmarkCommit dt none b) s = .next t →
    ∀ u : Dev, mwf regReset 0 u.regs = true → rdN (hmkScan t.nv u) (A 3 0x84) = slotAfter k ∧ rd64 (hmkScan t.nv u) (A 3 0x8C) = q + 1

/-- A loss of supply touches at most the slot of the commit in progress, and never leaves there a committed record it did
not hold. After AON_SUPPLY_LOSS every slot but NEXT holds what it held, and NEXT holds what it held or content that is
not a committed record; a commit touches no slot but NEXT and the slot after it. -/
def Obligations.LossOfPowerTearsOneSlotAtMost : Prop :=
  (∀ (dt : Nat) (x : Option (List Byte)) (s t : State) (k j : Nat), storesOk s.nv = true → s.dev.aon = true → k = fget (actPre dt s.dev) (A 3 0x84) 0 13 →
      exec (.aonSupplyLoss dt x) s = .next t → (j ≠ k → getSlot t.nv j = getSlot s.nv j) ∧ (getSlot t.nv k = getSlot s.nv k ∨ slotOk (getSlot t.nv k) = false)) ∧
    (∀ (dt : Nat) (b1 b2 : Option (List Byte)) (s t : State) (k j : Nat), storesOk s.nv = true → s.dev.aon = true → k = fget (actPre dt s.dev) (A 3 0x84) 0 13 →
      exec (.hallmarkCommit dt b1 b2) s = .next t → j ≠ k → j ≠ slotAfter k → getSlot t.nv j = getSlot s.nv j)

/-- A fuse operation that nothing refuses never lowers ARB, never brings back a REVOKED slot, changes one slot at most and
keeps an ACTIVE one. For an operation 1 to 3 with no refusal cause: ARB does not fall; a REVOKED slot stays REVOKED;
an ACTIVE slot stays so unless the operation revokes it; every other slot keeps its content; a revocation leaves
another ACTIVE slot. -/
def Obligations.FusesOnlyAdvance : Prop :=
  ∀ (nv : Nv) (d : Dev) (op slot val hash : Nat), storesOk nv = true → 1 ≤ op ∧ op ≤ 3 → fuseErr nv d op slot val = 0 →
    nv.arb ≤ (blow (op, slot, val, hash) nv).arb ∧
    (∀ k, ownerState nv k = 3 → ownerState (blow (op, slot, val, hash) nv) k = 3) ∧
    (∀ k, ownerState nv k = 1 → ownerState (blow (op, slot, val, hash) nv) k = 1 ∨ (op = 2 ∧ k = slot ∧ ownerState (blow (op, slot, val, hash) nv) k = 3)) ∧
    (∀ k, k ≠ slot → (mget (fun _ => {}) (blow (op, slot, val, hash) nv).owners k : OwnerSlot) = mget (fun _ => {}) nv.owners k) ∧
    ((∃ k, ownerState nv k = 1) → slot < 4 → op = 2 → ∃ k, k ≠ slot ∧ ownerState (blow (op, slot, val, hash) nv) k = 1)

/-- A register reads the value last written to it, every other register keeps its own, and the register file stays in
canonical form. In a register file in canonical form, a write of n to register a makes a read n modulo 2^32, leaves
every other register, and keeps the form; so do the field writes and the setting of interrupt bits. -/
def Obligations.RegisterFileReadsWhatIsWritten : Prop :=
  ∀ (d : Dev) (a n : Nat), mwf regReset 0 d.regs = true →
    rdN (wrN a n d) a = n % 2 ^ 32 ∧ (∀ b, b ≠ a → rdN (wrN a n d) b = rdN d b) ∧ mwf regReset 0 (wrN a n d).regs = true ∧
    (∀ lo w v, mwf regReset 0 (fset a lo w v d).regs = true ∧ ∀ b, b ≠ a → rdN (fset a lo w v d) b = rdN d b) ∧
    (∀ p m, mwf regReset 0 (irqSet p m d).regs = true ∧ ∀ b, b ≠ A p 0x10 → b ≠ A 0x190 0x94 → rdN (irqSet p m d) b = rdN d b)

/-- A write through the host window to DDR-5 memory stores its bytes at the window's address and changes nothing else. On
a calm device, a WINDOW_WRITE within the capacity that meets no mapped-out channel and no channel in a block reset
leaves every byte outside its range, reads back inside it, keeps memory in canonical form, and changes nothing but
memory, time and the highest tag count of SCHED. -/
def Obligations.WindowWriteStoresItsBytesAlone : Prop :=
  ∀ (dt : Nat) (off : BitVec 36) (w : List Byte) (s t : State) (d : Dev) (a : Nat), s.dev.aon = true → d = tick dt s.dev → calmBefore s.dev = true → calmAfter s.dev = true →
    hostOn d = true → 2 ^ 35 ≤ off.toNat → a = winAddr d (off.toNat - 2 ^ 35) → a + w.length ≤ memCapacity d → rangeMapped d a w.length = false →
    memHolds d a w.length = false → mwf memDflt 0 s.dev.mem = true → exec (.windowWrite dt off w) s = .next t →
    t = { s with dev := { d with mem := t.dev.mem, tagPeak := t.dev.tagPeak } } ∧ mwf memDflt 0 t.dev.mem = true ∧ (∀ x, x < a ∨ a + w.length ≤ x → memByte t.dev x = memByte s.dev x) ∧
      ∀ (i : Nat) (b : Byte), w[i]? = some b → memGood d (a + i) = true → memByte t.dev (a + i) = b

/-- On a calm device only time passes before a command acts, and nothing follows its effect. When nothing falls due, what
comes before a command is the passing of its time; when nothing is raised or live, what follows a command is nothing:
the next state is the command's own effect. -/
def Obligations.CalmCommandsActAlone : Prop :=
  (∀ (dt : Nat) (d : Dev), calmBefore d = true → actPre dt d = tick dt d) ∧ (∀ (nv : Nv) (d : Dev), calmAfter d = true → actPost nv d = d) ∧
    ∀ (c : Instr) (s : State) (u : Dev), Acts c s u → calmAfter u = true → exec c s = .next { s with dev := u }

/-- On a calm device SRC_SEL_WRITE, TRAP_CLEAR and DBG_LOCK change one register and nothing else; BYPASS and IDCODE change
none. For each of these commands on a powered, calm device that lets the write through: only the named register and
time change; memory, stores, queue and every other register keep their values. BYPASS and IDCODE change only the JTAG
instruction, the outputs and time. -/
def Obligations.PlainCommandsChangeOneRegister : Prop :=
  ∀ (dt : Nat) (s : State), s.dev.aon = true → calmBefore s.dev = true → calmAfter s.dev = true →
    (∀ (p : Path) (v : Word) (t : State), accepts (tick dt s.dev) (A 2 0x80) = true → exec (.srcSelWrite dt p v) s = .next t →
      t = { s with dev := { tick dt s.dev with regs := t.dev.regs } } ∧ ∀ b, b ≠ A 2 0x80 → rd t.dev b = rd s.dev b) ∧
    (∀ (p : Path) (t : State), accepts (tick dt s.dev) (A 2 0xDC) = true → exec (.trapClear dt p) s = .next t →
      t = { s with dev := { tick dt s.dev with regs := t.dev.regs } } ∧ ∀ b, b ≠ A 2 0xDC → rd t.dev b = rd s.dev b) ∧
    (∀ (p : Path) (t : State), accepts (tick dt s.dev) dbgCtl = true → exec (.dbgLock dt p) s = .next t →
      t = { s with dev := { tick dt s.dev with regs := t.dev.regs } } ∧ ∀ b, b ≠ dbgStat → rd t.dev b = rd s.dev b) ∧
    (∀ (tdi : List Bool) (t : State), exec (.bypass dt tdi) s = .next t ∨ exec (.idcode dt) s = .next t →
      t = { s with dev := { tick dt s.dev with jtag := t.dev.jtag, out := t.dev.out } })

/-- A page whose domain is off, a reserved page and a reserved offset read 0; writes there are ignored and reported in
CHIP.ACCESS_ERR. Reads at an offset with no assigned register, or of a page whose power domain is off, return 0 and
change nothing; writes there change nothing but the report in CHIP.ACCESS_ERR: cause 1 when not aligned or not of all
four bytes, else 2 for a reserved offset, else 3. No register is assigned on a page outside Table 02-1 or at 0x030 to
0x07F. -/
def Obligations.ReservedAndUnpoweredOffsetsReadZero : Prop :=
  (∀ (dt : Nat) (s : State) (d : Dev) (p : Path) (off : Off) (be : BitVec 4) (v : Word), s.dev.aon = true → d = actPre dt s.dev →
      (regAt (off.toNat / 4 * 4) = none ∨ pageOn d (off.toNat / 0x1000) = false → Acts (.latchedRead dt p off) s (emit (.rd p 0) d) ∧ Acts (.rcRead dt p off) s (emit (.rd p 0) d)) ∧
      (regAt off.toNat = none ∨ pageOn d (off.toNat / 0x1000) = false → Acts (.registerWrite dt p off be v) s
        (accessErr p off.toNat (if off.toNat % 4 ≠ 0 || be ≠ 0xF then 1 else if regAt off.toNat = none then 2 else 3) d))) ∧
    (∀ a, pageKind (a / 0x1000) = none → regAt a = none) ∧ ∀ p o, 0x30 ≤ o → o < 0x80 → regAt (A p o) = none

/-- CHIP.ACCESS_ERR records the first refused or ignored access after it was last cleared; later ones set only OVF; each
sets IRQ_STAT bit 0. A refusal with VALID 0 loads ACCESS_ERR with VALID, cause, path and offset; with VALID 1 it sets
OVF alone; either sets bit 0 of CHIP.IRQ_STAT and leaves every other register but the count of messages sent. -/
def Obligations.RefusalsAreRecorded : Prop :=
  ∀ (p : Path) (a c : Nat) (d : Dev), mwf regReset 0 d.regs = true → c < 8 →
    (fbit d (A 0 0x94) 31 = false → rdN (accessErr p a c d) (A 0 0x94) = 2 ^ 31 + c * 2 ^ 28 + pathCode p * 2 ^ 26 + (a % 2 ^ 22 / 4) * 4) ∧
    (fbit d (A 0 0x94) 31 = true → rdN (accessErr p a c d) (A 0 0x94) = putBits (rdN d (A 0 0x94)) 25 1 1) ∧
    rdN (accessErr p a c d) (A 0 0x10) = rdN d (A 0 0x10) ||| 1 ∧
    ∀ b, b ≠ A 0 0x94 → b ≠ A 0 0x10 → b ≠ A 0x190 0x94 → rdN (accessErr p a c d) b = rdN d b

/-- A write to LOCK with KEY 0x5EED clears LOCKED, with any other KEY sets it, and changes no other register.
REGISTER_WRITE of v to LOCK of a powered page out of reset leaves LOCKED at 0 exactly when v[15:0] is 0x5EED, locked
or not before, and leaves every other register. -/
def Obligations.LockKeyDecides : Prop :=
  ∀ (dt : Nat) (s : State) (d : Dev) (p : Path) (off : Off) (v : Word) (pg : Nat) (k : PageKind), s.dev.aon = true → d = actPre dt s.dev →
    off.toNat = A pg 0x2C → pageKind pg = some k → pageOn d pg = true → d.resetting.contains pg = false → mwf regReset 0 d.regs = true →
    ∃ t : Dev, Acts (.registerWrite dt p off 0xF v) s t ∧ locked t pg = (v.toNat % 2 ^ 16 != 0x5EED) ∧ ∀ b, b ≠ A pg 0x2C → rd t b = rd d b

/-- While LOCKED is 1, writes to BLK_CTL and to assigned offsets from 0x080 on are ignored, set VIOL and LOCKVIOL and are
reported with cause 4. On a locked page a write to BLK_CTL or to an assigned offset of 0x080 and above changes only
VIOL, IRQ_STAT.LOCKVIOL and the report with cause 4; writes to IRQ_STAT, IRQ_EN, IRQ_FORCE, FAULT_CAUSE and LOCK act
all the same; a write to an unassigned offset is reported with cause 2 and sets neither bit. -/
def Obligations.LockedPagesRefuseWrites : Prop :=
  ∀ (dt : Nat) (s : State) (d : Dev) (p : Path) (off : Off) (v : Word) (pg o : Nat) (k : PageKind), s.dev.aon = true → d = actPre dt s.dev →
    off.toNat = A pg o → o < 0x1000 → o % 4 = 0 → pageKind pg = some k → pageOn d pg = true → locked d pg = true →
    ((regAt (A pg o)).isSome = true → (o = 8 ∨ 0x80 ≤ o) → mwf regReset 0 d.regs = true →
      ∃ t : Dev, Acts (.registerWrite dt p off 0xF v) s t ∧ t = accessErr p (A pg o) 4 (irqSet pg 0x10000000 (hit (A pg 0x2C) 30 d)) ∧
        fbit t (A pg 0x2C) 30 = true ∧ fbit t (A pg 0x10) 28 = true) ∧
    (o = 0x10 ∨ o = 0x14 ∨ o = 0x18 ∨ o = 0x1C ∨ o = 0x2C → d.resetting.contains pg = false → Acts (.registerWrite dt p off 0xF v) s (writeHdr s.nv pg o v.toNat d)) ∧
    (regAt (A pg o) = none → Acts (.registerWrite dt p off 0xF v) s (accessErr p (A pg o) 2 d))

/-- The other registers of a latched group read, on the path that read LO, the values they had when LO was read. After a
read of the LO register at a on path p, a read of member i of its group on that path, made on any device on which the
path still holds that latch, returns what member i showed when LO was read. -/
def Obligations.LatchedGroupsReadAtOneTime : Prop :=
  ∀ (nv nv' : Nv) (p : Path) (a i n : Nat) (r r' : Reg) (k k' : PageKind) (d t e u : Dev), mwf (fun _ => {}) 0 (beforeRead k (a / 0x1000) (a % 0x1000) d).paths = true →
    a % 4 = 0 → regAt a = some r → r.pairing = .latLo n → readable d a = true → pageKind (a / 0x1000) = some k → t = (busRead nv p a d).2 →
    regAt (a + 4 * i) = some r' → r'.pairing = .latMem i → 1 ≤ i ∧ i ≤ n → readable e (a + 4 * i) = true → pageKind ((a + 4 * i) / 0x1000) = some k' →
    u = beforeRead k' ((a + 4 * i) / 0x1000) ((a + 4 * i) % 0x1000) e → getPath u p = getPath t p →
    (busRead nv' p (a + 4 * i) e).1 = shown nv p r' (a + 4 * i) (beforeRead k (a / 0x1000) (a % 0x1000) d)

/-- Loss of lock of the main PLL is a Quench-class fault whose Quench reaction no write can mask; so is every source of
class SAFETY. Source 0x01 has class SAFETY, and for every device the reaction mask in force of every source of class
SAFETY holds QUENCH. -/
def Obligations.MainPllLossAlwaysQuenches : Prop :=
  srcClass 1 = 4 ∧ ∀ (d : Dev) (i : Nat), srcClass i = 4 → bit (srcReact d i) 5 = true

/-- A W1C of STICKY while LIVE is 1 has no effect, else it clears the evidence flags; an IRQ reaction sets PEND and, on a
rise, IRQ_STAT bit 0. STICKY_CLEAR lets through leaves a source that is LIVE, and one whose STICKY was set in the same
mc (R17); of any other it clears STICKY, TRANSIENT, CONSEQ, PRERESET and PARENT. The IRQ reaction sets the source's
bit of PEND, with IRQ_STAT bit 0 when the bit was 0. -/
def Obligations.StickyAndPendFollowTheirRules : Prop :=
  (∀ (dt : Nat) (p : Path) (s : State) (d : Dev) (i : Nat) (x : SrcSt), s.dev.aon = true → d = actPre dt s.dev → accepts d (A 2 0x88) = true → i = fget d (A 2 0x80) 0 8 → x = getSrc d i →
      (srcLive d i = true → Acts (.stickyClear dt p) s d) ∧
      (srcLive d i = false → (srcPage i).isSome = true → (x.sticky && !x.prereset && d.clk && decide (x.last = now d)) = true → Acts (.stickyClear dt p) s d) ∧
      (srcLive d i = false → (srcPage i).isSome = true → (x.sticky && !x.prereset && d.clk && decide (x.last = now d)) = false →
        Acts (.stickyClear dt p) s (setSrc i { x with sticky := false, transient := false, conseq := false, prereset := false, parent := 0, undo := if x.sticky then some (aT d, x.transient, x.conseq, x.prereset, x.parent) else x.undo } d))) ∧
    ∀ (d : Dev) (i : Nat), (fbit d (A 2 (0xA0 + 4 * (i / 32))) (i % 32) = true → irqReact i d = hit (A 2 (0xA0 + 4 * (i / 32))) (i % 32) d) ∧
      (fbit d (A 2 (0xA0 + 4 * (i / 32))) (i % 32) = false → irqReact i d = irqSet 2 1 (hit (A 2 (0xA0 + 4 * (i / 32))) (i % 32) d))

/-- A WIDTH of 0 or above 10,000 is not taken; a new WIDTH applies from the next ERR# pulse. A write to ERR_CFG keeps
WIDTH when the written one is 0 or above 10,000, takes it otherwise, and leaves the end of the pulse in progress; a
pulse that begins in mc t ends WIDTH times 160 mc later. -/
def Obligations.ErrWidthIsTakenWithinItsRange : Prop :=
  ∀ (d : Dev) (v : Nat), mwf regReset 0 d.regs = true →
    (v % 2 ^ 14 = 0 ∨ 10000 < v % 2 ^ 14 → fget (writeErrCfg v d) (A 2 0xC0) 0 14 = fget d (A 2 0xC0) 0 14) ∧
    (v % 2 ^ 14 ≠ 0 → v % 2 ^ 14 ≤ 10000 → fget (writeErrCfg v d) (A 2 0xC0) 0 14 = v % 2 ^ 14) ∧
    (writeErrCfg v d).flt.errEnd = (errNow d).flt.errEnd ∧ ∀ t, (errFall t d).flt.errEnd = t + fget d (A 2 0xC0) 0 14 * 160

/-- After chip reset furrow k runs on engine k, engines 64 and 65 are spares, and every register outside Table 19-3 holds
its reset value. After a chip reset of any cause on any device: engine k below 64 serves furrow k, engines 64 and 65
serve none; every register that Table 19-3 does not keep, but for RESET_CAUSE and the HMK status and count that the
reset writes, reads its reset value. -/
def Obligations.ChipResetRestoresTheFurrowMap : Prop :=
  ∀ (c i : Nat) (d : Dev), (∀ e, e < 66 → logical (chipReset c i d) e = if e < 64 then e else 0x7F) ∧
    (∀ a, resetKeepsReg a = false → a ≠ A 3 0x80 → a ≠ A 3 0xA8 → a ≠ A 0 0xA0 → rd (chipReset c i d) a = regReset a) ∧
    (chipReset c i d).paths = [] ∧ (chipReset c i d).standby = 0 ∧ (chipReset c i d).wakeReq = none ∧ (chipReset c i d).flt.shadows = [] ∧
    (chipReset c i d).flt.chipRst = none ∧ (chipReset c i d).booting = !(chipReset c i d).rstLow

/-- A commit of timing-set entry j changes only entry j of the lanes that it addresses. TS_FMT_COMMIT that the guard lets
through acts by the commit; every word of every other entry, and of entry j of every other lane, is unchanged. -/
def Obligations.TimingSetCommitWritesOneEntry : Prop :=
  ∀ (dt : Nat) (p : Path) (b : Bank) (j : Fin 128) (v : Word) (s : State) (d : Dev), s.dev.aon = true → d = actPre dt s.dev → accepts d (tsFmtAddr b j) = true →
    Acts (.tsFmtCommit dt p b j v) s (commitTs p b j v d) ∧
    ∀ l' j' w', j' < 128 → w' < 7 → (l' ∉ tsTargets d b ∨ j' ≠ j.val) → tsWord (commitTs p b j v d) l' j' w' = tsWord d l' j' w'
end

