-- ==== Sys2Proof/Laws/State.lean ====
section
/-! SUPPORT. The updates of the device, field by field: what each named update leaves as it was, so that no proof unfolds a
record update. -/
namespace Sys2Proof.Machine

/-! ### emit -/

@[simp] theorem emit_ts (o : Out) (s : Dev) : (emit o s).ts = s.ts := rfl
@[simp] theorem emit_mcRegs (o : Out) (s : Dev) : (emit o s).mcRegs = s.mcRegs := rfl
@[simp] theorem emit_clk (o : Out) (s : Dev) : (emit o s).clk = s.clk := rfl
@[simp] theorem emit_aon (o : Out) (s : Dev) : (emit o s).aon = s.aon := rfl
@[simp] theorem emit_regs (o : Out) (s : Dev) : (emit o s).regs = s.regs := rfl
@[simp] theorem emit_snap (o : Out) (s : Dev) : (emit o s).snap = s.snap := rfl
@[simp] theorem emit_frozen (o : Out) (s : Dev) : (emit o s).frozen = s.frozen := rfl
@[simp] theorem emit_resetting (o : Out) (s : Dev) : (emit o s).resetting = s.resetting := rfl
@[simp] theorem emit_mem (o : Out) (s : Dev) : (emit o s).mem = s.mem := rfl
@[simp] theorem emit_flash (o : Out) (s : Dev) : (emit o s).flash = s.flash := rfl
@[simp] theorem emit_paths (o : Out) (s : Dev) : (emit o s).paths = s.paths := rfl
@[simp] theorem emit_lanes (o : Out) (s : Dev) : (emit o s).lanes = s.lanes := rfl
@[simp] theorem emit_fec (o : Out) (s : Dev) : (emit o s).fec = s.fec := rfl
@[simp] theorem emit_cal (o : Out) (s : Dev) : (emit o s).cal = s.cal := rfl
@[simp] theorem emit_adj (o : Out) (s : Dev) : (emit o s).adj = s.adj := rfl
@[simp] theorem emit_tsets (o : Out) (s : Dev) : (emit o s).tsets = s.tsets := rfl
@[simp] theorem emit_holds (o : Out) (s : Dev) : (emit o s).holds = s.holds := rfl
@[simp] theorem emit_fur (o : Out) (s : Dev) : (emit o s).fur = s.fur := rfl
@[simp] theorem emit_rowHist (o : Out) (s : Dev) : (emit o s).rowHist = s.rowHist := rfl
@[simp] theorem emit_ovl (o : Out) (s : Dev) : (emit o s).ovl = s.ovl := rfl
@[simp] theorem emit_pci (o : Out) (s : Dev) : (emit o s).pci = s.pci := rfl
@[simp] theorem emit_eth (o : Out) (s : Dev) : (emit o s).eth = s.eth := rfl
@[simp] theorem emit_smb (o : Out) (s : Dev) : (emit o s).smb = s.smb := rfl
@[simp] theorem emit_xsp (o : Out) (s : Dev) : (emit o s).xsp = s.xsp := rfl
@[simp] theorem emit_ueT (o : Out) (s : Dev) : (emit o s).ueT = s.ueT := rfl
@[simp] theorem emit_ceT (o : Out) (s : Dev) : (emit o s).ceT = s.ceT := rfl
@[simp] theorem emit_tagPeak (o : Out) (s : Dev) : (emit o s).tagPeak = s.tagPeak := rfl
@[simp] theorem emit_scrub (o : Out) (s : Dev) : (emit o s).scrub = s.scrub := rfl
@[simp] theorem emit_memOut (o : Out) (s : Dev) : (emit o s).memOut = s.memOut := rfl
@[simp] theorem emit_grn (o : Out) (s : Dev) : (emit o s).grn = s.grn := rfl
@[simp] theorem emit_flw (o : Out) (s : Dev) : (emit o s).flw = s.flw := rfl
@[simp] theorem emit_fwBuild (o : Out) (s : Dev) : (emit o s).fwBuild = s.fwBuild := rfl
@[simp] theorem emit_gln (o : Out) (s : Dev) : (emit o s).gln = s.gln := rfl
@[simp] theorem emit_acq (o : Out) (s : Dev) : (emit o s).acq = s.acq := rfl
@[simp] theorem emit_tim (o : Out) (s : Dev) : (emit o s).tim = s.tim := rfl
@[simp] theorem emit_fen (o : Out) (s : Dev) : (emit o s).fen = s.fen := rfl
@[simp] theorem emit_hdl (o : Out) (s : Dev) : (emit o s).hdl = s.hdl := rfl
@[simp] theorem emit_drl (o : Out) (s : Dev) : (emit o s).drl = s.drl := rfl
@[simp] theorem emit_mks (o : Out) (s : Dev) : (emit o s).mks = s.mks := rfl
@[simp] theorem emit_lists (o : Out) (s : Dev) : (emit o s).lists = s.lists := rfl
@[simp] theorem emit_syncOut (o : Out) (s : Dev) : (emit o s).syncOut = s.syncOut := rfl
@[simp] theorem emit_rmp (o : Out) (s : Dev) : (emit o s).rmp = s.rmp := rfl
@[simp] theorem emit_standby (o : Out) (s : Dev) : (emit o s).standby = s.standby := rfl
@[simp] theorem emit_wakeReq (o : Out) (s : Dev) : (emit o s).wakeReq = s.wakeReq := rfl
@[simp] theorem emit_ueNow (o : Out) (s : Dev) : (emit o s).ueNow = s.ueNow := rfl
@[simp] theorem emit_wakeT (o : Out) (s : Dev) : (emit o s).wakeT = s.wakeT := rfl
@[simp] theorem emit_aonT (o : Out) (s : Dev) : (emit o s).aonT = s.aonT := rfl
@[simp] theorem emit_cold (o : Out) (s : Dev) : (emit o s).cold = s.cold := rfl
@[simp] theorem emit_syncEv (o : Out) (s : Dev) : (emit o s).syncEv = s.syncEv := rfl
@[simp] theorem emit_flt (o : Out) (s : Dev) : (emit o s).flt = s.flt := rfl
@[simp] theorem emit_hmk (o : Out) (s : Dev) : (emit o s).hmk = s.hmk := rfl
@[simp] theorem emit_opMc (o : Out) (s : Dev) : (emit o s).opMc = s.opMc := rfl
@[simp] theorem emit_raised (o : Out) (s : Dev) : (emit o s).raised = s.raised := rfl
@[simp] theorem emit_fieldMc (o : Out) (s : Dev) : (emit o s).fieldMc = s.fieldMc := rfl
@[simp] theorem emit_spareKeep (o : Out) (s : Dev) : (emit o s).spareKeep = s.spareKeep := rfl
@[simp] theorem emit_sw (o : Out) (s : Dev) : (emit o s).sw = s.sw := rfl
@[simp] theorem emit_rstLow (o : Out) (s : Dev) : (emit o s).rstLow = s.rstLow := rfl
@[simp] theorem emit_booting (o : Out) (s : Dev) : (emit o s).booting = s.booting := rfl
@[simp] theorem emit_bootT (o : Out) (s : Dev) : (emit o s).bootT = s.bootT := rfl
@[simp] theorem emit_sec (o : Out) (s : Dev) : (emit o s).sec = s.sec := rfl
@[simp] theorem emit_jtag (o : Out) (s : Dev) : (emit o s).jtag = s.jtag := rfl
@[simp] theorem emit_freeCtr (o : Out) (s : Dev) : (emit o s).freeCtr = s.freeCtr := rfl

/-! ### wr -/

@[simp] theorem wr_ts (a : Nat) (v : Word) (s : Dev) : (wr a v s).ts = s.ts := rfl
@[simp] theorem wr_mcRegs (a : Nat) (v : Word) (s : Dev) : (wr a v s).mcRegs = s.mcRegs := rfl
@[simp] theorem wr_clk (a : Nat) (v : Word) (s : Dev) : (wr a v s).clk = s.clk := rfl
@[simp] theorem wr_aon (a : Nat) (v : Word) (s : Dev) : (wr a v s).aon = s.aon := rfl
@[simp] theorem wr_snap (a : Nat) (v : Word) (s : Dev) : (wr a v s).snap = s.snap := rfl
@[simp] theorem wr_frozen (a : Nat) (v : Word) (s : Dev) : (wr a v s).frozen = s.frozen := rfl
@[simp] theorem wr_resetting (a : Nat) (v : Word) (s : Dev) : (wr a v s).resetting = s.resetting := rfl
@[simp] theorem wr_mem (a : Nat) (v : Word) (s : Dev) : (wr a v s).mem = s.mem := rfl
@[simp] theorem wr_flash (a : Nat) (v : Word) (s : Dev) : (wr a v s).flash = s.flash := rfl
@[simp] theorem wr_paths (a : Nat) (v : Word) (s : Dev) : (wr a v s).paths = s.paths := rfl
@[simp] theorem wr_lanes (a : Nat) (v : Word) (s : Dev) : (wr a v s).lanes = s.lanes := rfl
@[simp] theorem wr_fec (a : Nat) (v : Word) (s : Dev) : (wr a v s).fec = s.fec := rfl
@[simp] theorem wr_cal (a : Nat) (v : Word) (s : Dev) : (wr a v s).cal = s.cal := rfl
@[simp] theorem wr_adj (a : Nat) (v : Word) (s : Dev) : (wr a v s).adj = s.adj := rfl
@[simp] theorem wr_tsets (a : Nat) (v : Word) (s : Dev) : (wr a v s).tsets = s.tsets := rfl
@[simp] theorem wr_holds (a : Nat) (v : Word) (s : Dev) : (wr a v s).holds = s.holds := rfl
@[simp] theorem wr_fur (a : Nat) (v : Word) (s : Dev) : (wr a v s).fur = s.fur := rfl
@[simp] theorem wr_rowHist (a : Nat) (v : Word) (s : Dev) : (wr a v s).rowHist = s.rowHist := rfl
@[simp] theorem wr_ovl (a : Nat) (v : Word) (s : Dev) : (wr a v s).ovl = s.ovl := rfl
@[simp] theorem wr_pci (a : Nat) (v : Word) (s : Dev) : (wr a v s).pci = s.pci := rfl
@[simp] theorem wr_eth (a : Nat) (v : Word) (s : Dev) : (wr a v s).eth = s.eth := rfl
@[simp] theorem wr_smb (a : Nat) (v : Word) (s : Dev) : (wr a v s).smb = s.smb := rfl
@[simp] theorem wr_xsp (a : Nat) (v : Word) (s : Dev) : (wr a v s).xsp = s.xsp := rfl
@[simp] theorem wr_ueT (a : Nat) (v : Word) (s : Dev) : (wr a v s).ueT = s.ueT := rfl
@[simp] theorem wr_ceT (a : Nat) (v : Word) (s : Dev) : (wr a v s).ceT = s.ceT := rfl
@[simp] theorem wr_tagPeak (a : Nat) (v : Word) (s : Dev) : (wr a v s).tagPeak = s.tagPeak := rfl
@[simp] theorem wr_scrub (a : Nat) (v : Word) (s : Dev) : (wr a v s).scrub = s.scrub := rfl
@[simp] theorem wr_memOut (a : Nat) (v : Word) (s : Dev) : (wr a v s).memOut = s.memOut := rfl
@[simp] theorem wr_grn (a : Nat) (v : Word) (s : Dev) : (wr a v s).grn = s.grn := rfl
@[simp] theorem wr_flw (a : Nat) (v : Word) (s : Dev) : (wr a v s).flw = s.flw := rfl
@[simp] theorem wr_fwBuild (a : Nat) (v : Word) (s : Dev) : (wr a v s).fwBuild = s.fwBuild := rfl
@[simp] theorem wr_gln (a : Nat) (v : Word) (s : Dev) : (wr a v s).gln = s.gln := rfl
@[simp] theorem wr_acq (a : Nat) (v : Word) (s : Dev) : (wr a v s).acq = s.acq := rfl
@[simp] theorem wr_tim (a : Nat) (v : Word) (s : Dev) : (wr a v s).tim = s.tim := rfl
@[simp] theorem wr_fen (a : Nat) (v : Word) (s : Dev) : (wr a v s).fen = s.fen := rfl
@[simp] theorem wr_hdl (a : Nat) (v : Word) (s : Dev) : (wr a v s).hdl = s.hdl := rfl
@[simp] theorem wr_drl (a : Nat) (v : Word) (s : Dev) : (wr a v s).drl = s.drl := rfl
@[simp] theorem wr_mks (a : Nat) (v : Word) (s : Dev) : (wr a v s).mks = s.mks := rfl
@[simp] theorem wr_lists (a : Nat) (v : Word) (s : Dev) : (wr a v s).lists = s.lists := rfl
@[simp] theorem wr_syncOut (a : Nat) (v : Word) (s : Dev) : (wr a v s).syncOut = s.syncOut := rfl
@[simp] theorem wr_rmp (a : Nat) (v : Word) (s : Dev) : (wr a v s).rmp = s.rmp := rfl
@[simp] theorem wr_standby (a : Nat) (v : Word) (s : Dev) : (wr a v s).standby = s.standby := rfl
@[simp] theorem wr_wakeReq (a : Nat) (v : Word) (s : Dev) : (wr a v s).wakeReq = s.wakeReq := rfl
@[simp] theorem wr_ueNow (a : Nat) (v : Word) (s : Dev) : (wr a v s).ueNow = s.ueNow := rfl
@[simp] theorem wr_wakeT (a : Nat) (v : Word) (s : Dev) : (wr a v s).wakeT = s.wakeT := rfl
@[simp] theorem wr_aonT (a : Nat) (v : Word) (s : Dev) : (wr a v s).aonT = s.aonT := rfl
@[simp] theorem wr_cold (a : Nat) (v : Word) (s : Dev) : (wr a v s).cold = s.cold := rfl
@[simp] theorem wr_syncEv (a : Nat) (v : Word) (s : Dev) : (wr a v s).syncEv = s.syncEv := rfl
@[simp] theorem wr_flt (a : Nat) (v : Word) (s : Dev) : (wr a v s).flt = s.flt := rfl
@[simp] theorem wr_hmk (a : Nat) (v : Word) (s : Dev) : (wr a v s).hmk = s.hmk := rfl
@[simp] theorem wr_opMc (a : Nat) (v : Word) (s : Dev) : (wr a v s).opMc = s.opMc := rfl
@[simp] theorem wr_raised (a : Nat) (v : Word) (s : Dev) : (wr a v s).raised = s.raised := rfl
@[simp] theorem wr_fieldMc (a : Nat) (v : Word) (s : Dev) : (wr a v s).fieldMc = s.fieldMc := rfl
@[simp] theorem wr_spareKeep (a : Nat) (v : Word) (s : Dev) : (wr a v s).spareKeep = s.spareKeep := rfl
@[simp] theorem wr_sw (a : Nat) (v : Word) (s : Dev) : (wr a v s).sw = s.sw := rfl
@[simp] theorem wr_rstLow (a : Nat) (v : Word) (s : Dev) : (wr a v s).rstLow = s.rstLow := rfl
@[simp] theorem wr_booting (a : Nat) (v : Word) (s : Dev) : (wr a v s).booting = s.booting := rfl
@[simp] theorem wr_bootT (a : Nat) (v : Word) (s : Dev) : (wr a v s).bootT = s.bootT := rfl
@[simp] theorem wr_sec (a : Nat) (v : Word) (s : Dev) : (wr a v s).sec = s.sec := rfl
@[simp] theorem wr_jtag (a : Nat) (v : Word) (s : Dev) : (wr a v s).jtag = s.jtag := rfl
@[simp] theorem wr_out (a : Nat) (v : Word) (s : Dev) : (wr a v s).out = s.out := rfl
@[simp] theorem wr_freeCtr (a : Nat) (v : Word) (s : Dev) : (wr a v s).freeCtr = s.freeCtr := rfl

/-! ### wrN -/

@[simp] theorem wrN_ts (a n : Nat) (s : Dev) : (wrN a n s).ts = s.ts := rfl
@[simp] theorem wrN_mcRegs (a n : Nat) (s : Dev) : (wrN a n s).mcRegs = s.mcRegs := rfl
@[simp] theorem wrN_clk (a n : Nat) (s : Dev) : (wrN a n s).clk = s.clk := rfl
@[simp] theorem wrN_aon (a n : Nat) (s : Dev) : (wrN a n s).aon = s.aon := rfl
@[simp] theorem wrN_snap (a n : Nat) (s : Dev) : (wrN a n s).snap = s.snap := rfl
@[simp] theorem wrN_frozen (a n : Nat) (s : Dev) : (wrN a n s).frozen = s.frozen := rfl
@[simp] theorem wrN_resetting (a n : Nat) (s : Dev) : (wrN a n s).resetting = s.resetting := rfl
@[simp] theorem wrN_mem (a n : Nat) (s : Dev) : (wrN a n s).mem = s.mem := rfl
@[simp] theorem wrN_flash (a n : Nat) (s : Dev) : (wrN a n s).flash = s.flash := rfl
@[simp] theorem wrN_paths (a n : Nat) (s : Dev) : (wrN a n s).paths = s.paths := rfl
@[simp] theorem wrN_lanes (a n : Nat) (s : Dev) : (wrN a n s).lanes = s.lanes := rfl
@[simp] theorem wrN_fec (a n : Nat) (s : Dev) : (wrN a n s).fec = s.fec := rfl
@[simp] theorem wrN_cal (a n : Nat) (s : Dev) : (wrN a n s).cal = s.cal := rfl
@[simp] theorem wrN_adj (a n : Nat) (s : Dev) : (wrN a n s).adj = s.adj := rfl
@[simp] theorem wrN_tsets (a n : Nat) (s : Dev) : (wrN a n s).tsets = s.tsets := rfl
@[simp] theorem wrN_holds (a n : Nat) (s : Dev) : (wrN a n s).holds = s.holds := rfl
@[simp] theorem wrN_fur (a n : Nat) (s : Dev) : (wrN a n s).fur = s.fur := rfl
@[simp] theorem wrN_rowHist (a n : Nat) (s : Dev) : (wrN a n s).rowHist = s.rowHist := rfl
@[simp] theorem wrN_ovl (a n : Nat) (s : Dev) : (wrN a n s).ovl = s.ovl := rfl
@[simp] theorem wrN_pci (a n : Nat) (s : Dev) : (wrN a n s).pci = s.pci := rfl
@[simp] theorem wrN_eth (a n : Nat) (s : Dev) : (wrN a n s).eth = s.eth := rfl
@[simp] theorem wrN_smb (a n : Nat) (s : Dev) : (wrN a n s).smb = s.smb := rfl
@[simp] theorem wrN_xsp (a n : Nat) (s : Dev) : (wrN a n s).xsp = s.xsp := rfl
@[simp] theorem wrN_ueT (a n : Nat) (s : Dev) : (wrN a n s).ueT = s.ueT := rfl
@[simp] theorem wrN_ceT (a n : Nat) (s : Dev) : (wrN a n s).ceT = s.ceT := rfl
@[simp] theorem wrN_tagPeak (a n : Nat) (s : Dev) : (wrN a n s).tagPeak = s.tagPeak := rfl
@[simp] theorem wrN_scrub (a n : Nat) (s : Dev) : (wrN a n s).scrub = s.scrub := rfl
@[simp] theorem wrN_memOut (a n : Nat) (s : Dev) : (wrN a n s).memOut = s.memOut := rfl
@[simp] theorem wrN_grn (a n : Nat) (s : Dev) : (wrN a n s).grn = s.grn := rfl
@[simp] theorem wrN_flw (a n : Nat) (s : Dev) : (wrN a n s).flw = s.flw := rfl
@[simp] theorem wrN_fwBuild (a n : Nat) (s : Dev) : (wrN a n s).fwBuild = s.fwBuild := rfl
@[simp] theorem wrN_gln (a n : Nat) (s : Dev) : (wrN a n s).gln = s.gln := rfl
@[simp] theorem wrN_acq (a n : Nat) (s : Dev) : (wrN a n s).acq = s.acq := rfl
@[simp] theorem wrN_tim (a n : Nat) (s : Dev) : (wrN a n s).tim = s.tim := rfl
@[simp] theorem wrN_fen (a n : Nat) (s : Dev) : (wrN a n s).fen = s.fen := rfl
@[simp] theorem wrN_hdl (a n : Nat) (s : Dev) : (wrN a n s).hdl = s.hdl := rfl
@[simp] theorem wrN_drl (a n : Nat) (s : Dev) : (wrN a n s).drl = s.drl := rfl
@[simp] theorem wrN_mks (a n : Nat) (s : Dev) : (wrN a n s).mks = s.mks := rfl
@[simp] theorem wrN_lists (a n : Nat) (s : Dev) : (wrN a n s).lists = s.lists := rfl
@[simp] theorem wrN_syncOut (a n : Nat) (s : Dev) : (wrN a n s).syncOut = s.syncOut := rfl
@[simp] theorem wrN_rmp (a n : Nat) (s : Dev) : (wrN a n s).rmp = s.rmp := rfl
@[simp] theorem wrN_standby (a n : Nat) (s : Dev) : (wrN a n s).standby = s.standby := rfl
@[simp] theorem wrN_wakeReq (a n : Nat) (s : Dev) : (wrN a n s).wakeReq = s.wakeReq := rfl
@[simp] theorem wrN_ueNow (a n : Nat) (s : Dev) : (wrN a n s).ueNow = s.ueNow := rfl
@[simp] theorem wrN_wakeT (a n : Nat) (s : Dev) : (wrN a n s).wakeT = s.wakeT := rfl
@[simp] theorem wrN_aonT (a n : Nat) (s : Dev) : (wrN a n s).aonT = s.aonT := rfl
@[simp] theorem wrN_cold (a n : Nat) (s : Dev) : (wrN a n s).cold = s.cold := rfl
@[simp] theorem wrN_syncEv (a n : Nat) (s : Dev) : (wrN a n s).syncEv = s.syncEv := rfl
@[simp] theorem wrN_flt (a n : Nat) (s : Dev) : (wrN a n s).flt = s.flt := rfl
@[simp] theorem wrN_hmk (a n : Nat) (s : Dev) : (wrN a n s).hmk = s.hmk := rfl
@[simp] theorem wrN_opMc (a n : Nat) (s : Dev) : (wrN a n s).opMc = s.opMc := rfl
@[simp] theorem wrN_raised (a n : Nat) (s : Dev) : (wrN a n s).raised = s.raised := rfl
@[simp] theorem wrN_fieldMc (a n : Nat) (s : Dev) : (wrN a n s).fieldMc = s.fieldMc := rfl
@[simp] theorem wrN_spareKeep (a n : Nat) (s : Dev) : (wrN a n s).spareKeep = s.spareKeep := rfl
@[simp] theorem wrN_sw (a n : Nat) (s : Dev) : (wrN a n s).sw = s.sw := rfl
@[simp] theorem wrN_rstLow (a n : Nat) (s : Dev) : (wrN a n s).rstLow = s.rstLow := rfl
@[simp] theorem wrN_booting (a n : Nat) (s : Dev) : (wrN a n s).booting = s.booting := rfl
@[simp] theorem wrN_bootT (a n : Nat) (s : Dev) : (wrN a n s).bootT = s.bootT := rfl
@[simp] theorem wrN_sec (a n : Nat) (s : Dev) : (wrN a n s).sec = s.sec := rfl
@[simp] theorem wrN_jtag (a n : Nat) (s : Dev) : (wrN a n s).jtag = s.jtag := rfl
@[simp] theorem wrN_out (a n : Nat) (s : Dev) : (wrN a n s).out = s.out := rfl
@[simp] theorem wrN_freeCtr (a n : Nat) (s : Dev) : (wrN a n s).freeCtr = s.freeCtr := rfl

/-! ### fset -/

@[simp] theorem fset_ts (a lo w v : Nat) (s : Dev) : (fset a lo w v s).ts = s.ts := rfl
@[simp] theorem fset_mcRegs (a lo w v : Nat) (s : Dev) : (fset a lo w v s).mcRegs = s.mcRegs := rfl
@[simp] theorem fset_clk (a lo w v : Nat) (s : Dev) : (fset a lo w v s).clk = s.clk := rfl
@[simp] theorem fset_aon (a lo w v : Nat) (s : Dev) : (fset a lo w v s).aon = s.aon := rfl
@[simp] theorem fset_snap (a lo w v : Nat) (s : Dev) : (fset a lo w v s).snap = s.snap := rfl
@[simp] theorem fset_frozen (a lo w v : Nat) (s : Dev) : (fset a lo w v s).frozen = s.frozen := rfl
@[simp] theorem fset_resetting (a lo w v : Nat) (s : Dev) : (fset a lo w v s).resetting = s.resetting := rfl
@[simp] theorem fset_mem (a lo w v : Nat) (s : Dev) : (fset a lo w v s).mem = s.mem := rfl
@[simp] theorem fset_flash (a lo w v : Nat) (s : Dev) : (fset a lo w v s).flash = s.flash := rfl
@[simp] theorem fset_paths (a lo w v : Nat) (s : Dev) : (fset a lo w v s).paths = s.paths := rfl
@[simp] theorem fset_lanes (a lo w v : Nat) (s : Dev) : (fset a lo w v s).lanes = s.lanes := rfl
@[simp] theorem fset_fec (a lo w v : Nat) (s : Dev) : (fset a lo w v s).fec = s.fec := rfl
@[simp] theorem fset_cal (a lo w v : Nat) (s : Dev) : (fset a lo w v s).cal = s.cal := rfl
@[simp] theorem fset_adj (a lo w v : Nat) (s : Dev) : (fset a lo w v s).adj = s.adj := rfl
@[simp] theorem fset_tsets (a lo w v : Nat) (s : Dev) : (fset a lo w v s).tsets = s.tsets := rfl
@[simp] theorem fset_holds (a lo w v : Nat) (s : Dev) : (fset a lo w v s).holds = s.holds := rfl
@[simp] theorem fset_fur (a lo w v : Nat) (s : Dev) : (fset a lo w v s).fur = s.fur := rfl
@[simp] theorem fset_rowHist (a lo w v : Nat) (s : Dev) : (fset a lo w v s).rowHist = s.rowHist := rfl
@[simp] theorem fset_ovl (a lo w v : Nat) (s : Dev) : (fset a lo w v s).ovl = s.ovl := rfl
@[simp] theorem fset_pci (a lo w v : Nat) (s : Dev) : (fset a lo w v s).pci = s.pci := rfl
@[simp] theorem fset_eth (a lo w v : Nat) (s : Dev) : (fset a lo w v s).eth = s.eth := rfl
@[simp] theorem fset_smb (a lo w v : Nat) (s : Dev) : (fset a lo w v s).smb = s.smb := rfl
@[simp] theorem fset_xsp (a lo w v : Nat) (s : Dev) : (fset a lo w v s).xsp = s.xsp := rfl
@[simp] theorem fset_ueT (a lo w v : Nat) (s : Dev) : (fset a lo w v s).ueT = s.ueT := rfl
@[simp] theorem fset_ceT (a lo w v : Nat) (s : Dev) : (fset a lo w v s).ceT = s.ceT := rfl
@[simp] theorem fset_tagPeak (a lo w v : Nat) (s : Dev) : (fset a lo w v s).tagPeak = s.tagPeak := rfl
@[simp] theorem fset_scrub (a lo w v : Nat) (s : Dev) : (fset a lo w v s).scrub = s.scrub := rfl
@[simp] theorem fset_memOut (a lo w v : Nat) (s : Dev) : (fset a lo w v s).memOut = s.memOut := rfl
@[simp] theorem fset_grn (a lo w v : Nat) (s : Dev) : (fset a lo w v s).grn = s.grn := rfl
@[simp] theorem fset_flw (a lo w v : Nat) (s : Dev) : (fset a lo w v s).flw = s.flw := rfl
@[simp] theorem fset_fwBuild (a lo w v : Nat) (s : Dev) : (fset a lo w v s).fwBuild = s.fwBuild := rfl
@[simp] theorem fset_gln (a lo w v : Nat) (s : Dev) : (fset a lo w v s).gln = s.gln := rfl
@[simp] theorem fset_acq (a lo w v : Nat) (s : Dev) : (fset a lo w v s).acq = s.acq := rfl
@[simp] theorem fset_tim (a lo w v : Nat) (s : Dev) : (fset a lo w v s).tim = s.tim := rfl
@[simp] theorem fset_fen (a lo w v : Nat) (s : Dev) : (fset a lo w v s).fen = s.fen := rfl
@[simp] theorem fset_hdl (a lo w v : Nat) (s : Dev) : (fset a lo w v s).hdl = s.hdl := rfl
@[simp] theorem fset_drl (a lo w v : Nat) (s : Dev) : (fset a lo w v s).drl = s.drl := rfl
@[simp] theorem fset_mks (a lo w v : Nat) (s : Dev) : (fset a lo w v s).mks = s.mks := rfl
@[simp] theorem fset_lists (a lo w v : Nat) (s : Dev) : (fset a lo w v s).lists = s.lists := rfl
@[simp] theorem fset_syncOut (a lo w v : Nat) (s : Dev) : (fset a lo w v s).syncOut = s.syncOut := rfl
@[simp] theorem fset_rmp (a lo w v : Nat) (s : Dev) : (fset a lo w v s).rmp = s.rmp := rfl
@[simp] theorem fset_standby (a lo w v : Nat) (s : Dev) : (fset a lo w v s).standby = s.standby := rfl
@[simp] theorem fset_wakeReq (a lo w v : Nat) (s : Dev) : (fset a lo w v s).wakeReq = s.wakeReq := rfl
@[simp] theorem fset_ueNow (a lo w v : Nat) (s : Dev) : (fset a lo w v s).ueNow = s.ueNow := rfl
@[simp] theorem fset_wakeT (a lo w v : Nat) (s : Dev) : (fset a lo w v s).wakeT = s.wakeT := rfl
@[simp] theorem fset_aonT (a lo w v : Nat) (s : Dev) : (fset a lo w v s).aonT = s.aonT := rfl
@[simp] theorem fset_cold (a lo w v : Nat) (s : Dev) : (fset a lo w v s).cold = s.cold := rfl
@[simp] theorem fset_syncEv (a lo w v : Nat) (s : Dev) : (fset a lo w v s).syncEv = s.syncEv := rfl
@[simp] theorem fset_flt (a lo w v : Nat) (s : Dev) : (fset a lo w v s).flt = s.flt := rfl
@[simp] theorem fset_hmk (a lo w v : Nat) (s : Dev) : (fset a lo w v s).hmk = s.hmk := rfl
@[simp] theorem fset_opMc (a lo w v : Nat) (s : Dev) : (fset a lo w v s).opMc = s.opMc := rfl
@[simp] theorem fset_raised (a lo w v : Nat) (s : Dev) : (fset a lo w v s).raised = s.raised := rfl
@[simp] theorem fset_fieldMc (a lo w v : Nat) (s : Dev) : (fset a lo w v s).fieldMc = s.fieldMc := rfl
@[simp] theorem fset_spareKeep (a lo w v : Nat) (s : Dev) : (fset a lo w v s).spareKeep = s.spareKeep := rfl
@[simp] theorem fset_sw (a lo w v : Nat) (s : Dev) : (fset a lo w v s).sw = s.sw := rfl
@[simp] theorem fset_rstLow (a lo w v : Nat) (s : Dev) : (fset a lo w v s).rstLow = s.rstLow := rfl
@[simp] theorem fset_booting (a lo w v : Nat) (s : Dev) : (fset a lo w v s).booting = s.booting := rfl
@[simp] theorem fset_bootT (a lo w v : Nat) (s : Dev) : (fset a lo w v s).bootT = s.bootT := rfl
@[simp] theorem fset_sec (a lo w v : Nat) (s : Dev) : (fset a lo w v s).sec = s.sec := rfl
@[simp] theorem fset_jtag (a lo w v : Nat) (s : Dev) : (fset a lo w v s).jtag = s.jtag := rfl
@[simp] theorem fset_out (a lo w v : Nat) (s : Dev) : (fset a lo w v s).out = s.out := rfl
@[simp] theorem fset_freeCtr (a lo w v : Nat) (s : Dev) : (fset a lo w v s).freeCtr = s.freeCtr := rfl

/-! ### orReg -/

@[simp] theorem orReg_ts (a m : Nat) (s : Dev) : (orReg a m s).ts = s.ts := rfl
@[simp] theorem orReg_clk (a m : Nat) (s : Dev) : (orReg a m s).clk = s.clk := rfl
@[simp] theorem orReg_aon (a m : Nat) (s : Dev) : (orReg a m s).aon = s.aon := rfl
@[simp] theorem orReg_snap (a m : Nat) (s : Dev) : (orReg a m s).snap = s.snap := rfl
@[simp] theorem orReg_frozen (a m : Nat) (s : Dev) : (orReg a m s).frozen = s.frozen := rfl
@[simp] theorem orReg_resetting (a m : Nat) (s : Dev) : (orReg a m s).resetting = s.resetting := rfl
@[simp] theorem orReg_mem (a m : Nat) (s : Dev) : (orReg a m s).mem = s.mem := rfl
@[simp] theorem orReg_flash (a m : Nat) (s : Dev) : (orReg a m s).flash = s.flash := rfl
@[simp] theorem orReg_paths (a m : Nat) (s : Dev) : (orReg a m s).paths = s.paths := rfl
@[simp] theorem orReg_lanes (a m : Nat) (s : Dev) : (orReg a m s).lanes = s.lanes := rfl
@[simp] theorem orReg_fec (a m : Nat) (s : Dev) : (orReg a m s).fec = s.fec := rfl
@[simp] theorem orReg_cal (a m : Nat) (s : Dev) : (orReg a m s).cal = s.cal := rfl
@[simp] theorem orReg_adj (a m : Nat) (s : Dev) : (orReg a m s).adj = s.adj := rfl
@[simp] theorem orReg_tsets (a m : Nat) (s : Dev) : (orReg a m s).tsets = s.tsets := rfl
@[simp] theorem orReg_holds (a m : Nat) (s : Dev) : (orReg a m s).holds = s.holds := rfl
@[simp] theorem orReg_fur (a m : Nat) (s : Dev) : (orReg a m s).fur = s.fur := rfl
@[simp] theorem orReg_rowHist (a m : Nat) (s : Dev) : (orReg a m s).rowHist = s.rowHist := rfl
@[simp] theorem orReg_ovl (a m : Nat) (s : Dev) : (orReg a m s).ovl = s.ovl := rfl
@[simp] theorem orReg_pci (a m : Nat) (s : Dev) : (orReg a m s).pci = s.pci := rfl
@[simp] theorem orReg_eth (a m : Nat) (s : Dev) : (orReg a m s).eth = s.eth := rfl
@[simp] theorem orReg_smb (a m : Nat) (s : Dev) : (orReg a m s).smb = s.smb := rfl
@[simp] theorem orReg_xsp (a m : Nat) (s : Dev) : (orReg a m s).xsp = s.xsp := rfl
@[simp] theorem orReg_ueT (a m : Nat) (s : Dev) : (orReg a m s).ueT = s.ueT := rfl
@[simp] theorem orReg_ceT (a m : Nat) (s : Dev) : (orReg a m s).ceT = s.ceT := rfl
@[simp] theorem orReg_tagPeak (a m : Nat) (s : Dev) : (orReg a m s).tagPeak = s.tagPeak := rfl
@[simp] theorem orReg_scrub (a m : Nat) (s : Dev) : (orReg a m s).scrub = s.scrub := rfl
@[simp] theorem orReg_memOut (a m : Nat) (s : Dev) : (orReg a m s).memOut = s.memOut := rfl
@[simp] theorem orReg_grn (a m : Nat) (s : Dev) : (orReg a m s).grn = s.grn := rfl
@[simp] theorem orReg_flw (a m : Nat) (s : Dev) : (orReg a m s).flw = s.flw := rfl
@[simp] theorem orReg_fwBuild (a m : Nat) (s : Dev) : (orReg a m s).fwBuild = s.fwBuild := rfl
@[simp] theorem orReg_gln (a m : Nat) (s : Dev) : (orReg a m s).gln = s.gln := rfl
@[simp] theorem orReg_acq (a m : Nat) (s : Dev) : (orReg a m s).acq = s.acq := rfl
@[simp] theorem orReg_tim (a m : Nat) (s : Dev) : (orReg a m s).tim = s.tim := rfl
@[simp] theorem orReg_fen (a m : Nat) (s : Dev) : (orReg a m s).fen = s.fen := rfl
@[simp] theorem orReg_hdl (a m : Nat) (s : Dev) : (orReg a m s).hdl = s.hdl := rfl
@[simp] theorem orReg_drl (a m : Nat) (s : Dev) : (orReg a m s).drl = s.drl := rfl
@[simp] theorem orReg_mks (a m : Nat) (s : Dev) : (orReg a m s).mks = s.mks := rfl
@[simp] theorem orReg_lists (a m : Nat) (s : Dev) : (orReg a m s).lists = s.lists := rfl
@[simp] theorem orReg_syncOut (a m : Nat) (s : Dev) : (orReg a m s).syncOut = s.syncOut := rfl
@[simp] theorem orReg_rmp (a m : Nat) (s : Dev) : (orReg a m s).rmp = s.rmp := rfl
@[simp] theorem orReg_standby (a m : Nat) (s : Dev) : (orReg a m s).standby = s.standby := rfl
@[simp] theorem orReg_wakeReq (a m : Nat) (s : Dev) : (orReg a m s).wakeReq = s.wakeReq := rfl
@[simp] theorem orReg_ueNow (a m : Nat) (s : Dev) : (orReg a m s).ueNow = s.ueNow := rfl
@[simp] theorem orReg_wakeT (a m : Nat) (s : Dev) : (orReg a m s).wakeT = s.wakeT := rfl
@[simp] theorem orReg_aonT (a m : Nat) (s : Dev) : (orReg a m s).aonT = s.aonT := rfl
@[simp] theorem orReg_cold (a m : Nat) (s : Dev) : (orReg a m s).cold = s.cold := rfl
@[simp] theorem orReg_syncEv (a m : Nat) (s : Dev) : (orReg a m s).syncEv = s.syncEv := rfl
@[simp] theorem orReg_flt (a m : Nat) (s : Dev) : (orReg a m s).flt = s.flt := rfl
@[simp] theorem orReg_hmk (a m : Nat) (s : Dev) : (orReg a m s).hmk = s.hmk := rfl
@[simp] theorem orReg_opMc (a m : Nat) (s : Dev) : (orReg a m s).opMc = s.opMc := rfl
@[simp] theorem orReg_raised (a m : Nat) (s : Dev) : (orReg a m s).raised = s.raised := rfl
@[simp] theorem orReg_fieldMc (a m : Nat) (s : Dev) : (orReg a m s).fieldMc = s.fieldMc := rfl
@[simp] theorem orReg_spareKeep (a m : Nat) (s : Dev) : (orReg a m s).spareKeep = s.spareKeep := rfl
@[simp] theorem orReg_sw (a m : Nat) (s : Dev) : (orReg a m s).sw = s.sw := rfl
@[simp] theorem orReg_rstLow (a m : Nat) (s : Dev) : (orReg a m s).rstLow = s.rstLow := rfl
@[simp] theorem orReg_booting (a m : Nat) (s : Dev) : (orReg a m s).booting = s.booting := rfl
@[simp] theorem orReg_bootT (a m : Nat) (s : Dev) : (orReg a m s).bootT = s.bootT := rfl
@[simp] theorem orReg_sec (a m : Nat) (s : Dev) : (orReg a m s).sec = s.sec := rfl
@[simp] theorem orReg_jtag (a m : Nat) (s : Dev) : (orReg a m s).jtag = s.jtag := rfl
@[simp] theorem orReg_out (a m : Nat) (s : Dev) : (orReg a m s).out = s.out := rfl
@[simp] theorem orReg_freeCtr (a m : Nat) (s : Dev) : (orReg a m s).freeCtr = s.freeCtr := rfl

/-! ### markSet -/

@[simp] theorem markSet_ts (a m : Nat) (s : Dev) : (markSet a m s).ts = s.ts := rfl
@[simp] theorem markSet_clk (a m : Nat) (s : Dev) : (markSet a m s).clk = s.clk := rfl
@[simp] theorem markSet_aon (a m : Nat) (s : Dev) : (markSet a m s).aon = s.aon := rfl
@[simp] theorem markSet_regs (a m : Nat) (s : Dev) : (markSet a m s).regs = s.regs := rfl
@[simp] theorem markSet_snap (a m : Nat) (s : Dev) : (markSet a m s).snap = s.snap := rfl
@[simp] theorem markSet_frozen (a m : Nat) (s : Dev) : (markSet a m s).frozen = s.frozen := rfl
@[simp] theorem markSet_resetting (a m : Nat) (s : Dev) : (markSet a m s).resetting = s.resetting := rfl
@[simp] theorem markSet_mem (a m : Nat) (s : Dev) : (markSet a m s).mem = s.mem := rfl
@[simp] theorem markSet_flash (a m : Nat) (s : Dev) : (markSet a m s).flash = s.flash := rfl
@[simp] theorem markSet_paths (a m : Nat) (s : Dev) : (markSet a m s).paths = s.paths := rfl
@[simp] theorem markSet_lanes (a m : Nat) (s : Dev) : (markSet a m s).lanes = s.lanes := rfl
@[simp] theorem markSet_fec (a m : Nat) (s : Dev) : (markSet a m s).fec = s.fec := rfl
@[simp] theorem markSet_cal (a m : Nat) (s : Dev) : (markSet a m s).cal = s.cal := rfl
@[simp] theorem markSet_adj (a m : Nat) (s : Dev) : (markSet a m s).adj = s.adj := rfl
@[simp] theorem markSet_tsets (a m : Nat) (s : Dev) : (markSet a m s).tsets = s.tsets := rfl
@[simp] theorem markSet_holds (a m : Nat) (s : Dev) : (markSet a m s).holds = s.holds := rfl
@[simp] theorem markSet_fur (a m : Nat) (s : Dev) : (markSet a m s).fur = s.fur := rfl
@[simp] theorem markSet_rowHist (a m : Nat) (s : Dev) : (markSet a m s).rowHist = s.rowHist := rfl
@[simp] theorem markSet_ovl (a m : Nat) (s : Dev) : (markSet a m s).ovl = s.ovl := rfl
@[simp] theorem markSet_pci (a m : Nat) (s : Dev) : (markSet a m s).pci = s.pci := rfl
@[simp] theorem markSet_eth (a m : Nat) (s : Dev) : (markSet a m s).eth = s.eth := rfl
@[simp] theorem markSet_smb (a m : Nat) (s : Dev) : (markSet a m s).smb = s.smb := rfl
@[simp] theorem markSet_xsp (a m : Nat) (s : Dev) : (markSet a m s).xsp = s.xsp := rfl
@[simp] theorem markSet_ueT (a m : Nat) (s : Dev) : (markSet a m s).ueT = s.ueT := rfl
@[simp] theorem markSet_ceT (a m : Nat) (s : Dev) : (markSet a m s).ceT = s.ceT := rfl
@[simp] theorem markSet_tagPeak (a m : Nat) (s : Dev) : (markSet a m s).tagPeak = s.tagPeak := rfl
@[simp] theorem markSet_scrub (a m : Nat) (s : Dev) : (markSet a m s).scrub = s.scrub := rfl
@[simp] theorem markSet_memOut (a m : Nat) (s : Dev) : (markSet a m s).memOut = s.memOut := rfl
@[simp] theorem markSet_grn (a m : Nat) (s : Dev) : (markSet a m s).grn = s.grn := rfl
@[simp] theorem markSet_flw (a m : Nat) (s : Dev) : (markSet a m s).flw = s.flw := rfl
@[simp] theorem markSet_fwBuild (a m : Nat) (s : Dev) : (markSet a m s).fwBuild = s.fwBuild := rfl
@[simp] theorem markSet_gln (a m : Nat) (s : Dev) : (markSet a m s).gln = s.gln := rfl
@[simp] theorem markSet_acq (a m : Nat) (s : Dev) : (markSet a m s).acq = s.acq := rfl
@[simp] theorem markSet_tim (a m : Nat) (s : Dev) : (markSet a m s).tim = s.tim := rfl
@[simp] theorem markSet_fen (a m : Nat) (s : Dev) : (markSet a m s).fen = s.fen := rfl
@[simp] theorem markSet_hdl (a m : Nat) (s : Dev) : (markSet a m s).hdl = s.hdl := rfl
@[simp] theorem markSet_drl (a m : Nat) (s : Dev) : (markSet a m s).drl = s.drl := rfl
@[simp] theorem markSet_mks (a m : Nat) (s : Dev) : (markSet a m s).mks = s.mks := rfl
@[simp] theorem markSet_lists (a m : Nat) (s : Dev) : (markSet a m s).lists = s.lists := rfl
@[simp] theorem markSet_syncOut (a m : Nat) (s : Dev) : (markSet a m s).syncOut = s.syncOut := rfl
@[simp] theorem markSet_rmp (a m : Nat) (s : Dev) : (markSet a m s).rmp = s.rmp := rfl
@[simp] theorem markSet_standby (a m : Nat) (s : Dev) : (markSet a m s).standby = s.standby := rfl
@[simp] theorem markSet_wakeReq (a m : Nat) (s : Dev) : (markSet a m s).wakeReq = s.wakeReq := rfl
@[simp] theorem markSet_ueNow (a m : Nat) (s : Dev) : (markSet a m s).ueNow = s.ueNow := rfl
@[simp] theorem markSet_wakeT (a m : Nat) (s : Dev) : (markSet a m s).wakeT = s.wakeT := rfl
@[simp] theorem markSet_aonT (a m : Nat) (s : Dev) : (markSet a m s).aonT = s.aonT := rfl
@[simp] theorem markSet_cold (a m : Nat) (s : Dev) : (markSet a m s).cold = s.cold := rfl
@[simp] theorem markSet_syncEv (a m : Nat) (s : Dev) : (markSet a m s).syncEv = s.syncEv := rfl
@[simp] theorem markSet_flt (a m : Nat) (s : Dev) : (markSet a m s).flt = s.flt := rfl
@[simp] theorem markSet_hmk (a m : Nat) (s : Dev) : (markSet a m s).hmk = s.hmk := rfl
@[simp] theorem markSet_opMc (a m : Nat) (s : Dev) : (markSet a m s).opMc = s.opMc := rfl
@[simp] theorem markSet_raised (a m : Nat) (s : Dev) : (markSet a m s).raised = s.raised := rfl
@[simp] theorem markSet_fieldMc (a m : Nat) (s : Dev) : (markSet a m s).fieldMc = s.fieldMc := rfl
@[simp] theorem markSet_spareKeep (a m : Nat) (s : Dev) : (markSet a m s).spareKeep = s.spareKeep := rfl
@[simp] theorem markSet_sw (a m : Nat) (s : Dev) : (markSet a m s).sw = s.sw := rfl
@[simp] theorem markSet_rstLow (a m : Nat) (s : Dev) : (markSet a m s).rstLow = s.rstLow := rfl
@[simp] theorem markSet_booting (a m : Nat) (s : Dev) : (markSet a m s).booting = s.booting := rfl
@[simp] theorem markSet_bootT (a m : Nat) (s : Dev) : (markSet a m s).bootT = s.bootT := rfl
@[simp] theorem markSet_sec (a m : Nat) (s : Dev) : (markSet a m s).sec = s.sec := rfl
@[simp] theorem markSet_jtag (a m : Nat) (s : Dev) : (markSet a m s).jtag = s.jtag := rfl
@[simp] theorem markSet_out (a m : Nat) (s : Dev) : (markSet a m s).out = s.out := rfl
@[simp] theorem markSet_freeCtr (a m : Nat) (s : Dev) : (markSet a m s).freeCtr = s.freeCtr := rfl

/-! ### incSat -/

@[simp] theorem incSat_ts (a lo w n : Nat) (s : Dev) : (incSat a lo w n s).ts = s.ts := rfl
@[simp] theorem incSat_mcRegs (a lo w n : Nat) (s : Dev) : (incSat a lo w n s).mcRegs = s.mcRegs := rfl
@[simp] theorem incSat_clk (a lo w n : Nat) (s : Dev) : (incSat a lo w n s).clk = s.clk := rfl
@[simp] theorem incSat_aon (a lo w n : Nat) (s : Dev) : (incSat a lo w n s).aon = s.aon := rfl
@[simp] theorem incSat_snap (a lo w n : Nat) (s : Dev) : (incSat a lo w n s).snap = s.snap := rfl
@[simp] theorem incSat_frozen (a lo w n : Nat) (s : Dev) : (incSat a lo w n s).frozen = s.frozen := rfl
@[simp] theorem incSat_resetting (a lo w n : Nat) (s : Dev) : (incSat a lo w n s).resetting = s.resetting := rfl
@[simp] theorem incSat_mem (a lo w n : Nat) (s : Dev) : (incSat a lo w n s).mem = s.mem := rfl
@[simp] theorem incSat_flash (a lo w n : Nat) (s : Dev) : (incSat a lo w n s).flash = s.flash := rfl
@[simp] theorem incSat_paths (a lo w n : Nat) (s : Dev) : (incSat a lo w n s).paths = s.paths := rfl
@[simp] theorem incSat_lanes (a lo w n : Nat) (s : Dev) : (incSat a lo w n s).lanes = s.lanes := rfl
@[simp] theorem incSat_fec (a lo w n : Nat) (s : Dev) : (incSat a lo w n s).fec = s.fec := rfl
@[simp] theorem incSat_cal (a lo w n : Nat) (s : Dev) : (incSat a lo w n s).cal = s.cal := rfl
@[simp] theorem incSat_adj (a lo w n : Nat) (s : Dev) : (incSat a lo w n s).adj = s.adj := rfl
@[simp] theorem incSat_tsets (a lo w n : Nat) (s : Dev) : (incSat a lo w n s).tsets = s.tsets := rfl
@[simp] theorem incSat_holds (a lo w n : Nat) (s : Dev) : (incSat a lo w n s).holds = s.holds := rfl
@[simp] theorem incSat_fur (a lo w n : Nat) (s : Dev) : (incSat a lo w n s).fur = s.fur := rfl
@[simp] theorem incSat_rowHist (a lo w n : Nat) (s : Dev) : (incSat a lo w n s).rowHist = s.rowHist := rfl
@[simp] theorem incSat_ovl (a lo w n : Nat) (s : Dev) : (incSat a lo w n s).ovl = s.ovl := rfl
@[simp] theorem incSat_pci (a lo w n : Nat) (s : Dev) : (incSat a lo w n s).pci = s.pci := rfl
@[simp] theorem incSat_eth (a lo w n : Nat) (s : Dev) : (incSat a lo w n s).eth = s.eth := rfl
@[simp] theorem incSat_smb (a lo w n : Nat) (s : Dev) : (incSat a lo w n s).smb = s.smb := rfl
@[simp] theorem incSat_xsp (a lo w n : Nat) (s : Dev) : (incSat a lo w n s).xsp = s.xsp := rfl
@[simp] theorem incSat_ueT (a lo w n : Nat) (s : Dev) : (incSat a lo w n s).ueT = s.ueT := rfl
@[simp] theorem incSat_ceT (a lo w n : Nat) (s : Dev) : (incSat a lo w n s).ceT = s.ceT := rfl
@[simp] theorem incSat_tagPeak (a lo w n : Nat) (s : Dev) : (incSat a lo w n s).tagPeak = s.tagPeak := rfl
@[simp] theorem incSat_scrub (a lo w n : Nat) (s : Dev) : (incSat a lo w n s).scrub = s.scrub := rfl
@[simp] theorem incSat_memOut (a lo w n : Nat) (s : Dev) : (incSat a lo w n s).memOut = s.memOut := rfl
@[simp] theorem incSat_grn (a lo w n : Nat) (s : Dev) : (incSat a lo w n s).grn = s.grn := rfl
@[simp] theorem incSat_flw (a lo w n : Nat) (s : Dev) : (incSat a lo w n s).flw = s.flw := rfl
@[simp] theorem incSat_fwBuild (a lo w n : Nat) (s : Dev) : (incSat a lo w n s).fwBuild = s.fwBuild := rfl
@[simp] theorem incSat_gln (a lo w n : Nat) (s : Dev) : (incSat a lo w n s).gln = s.gln := rfl
@[simp] theorem incSat_acq (a lo w n : Nat) (s : Dev) : (incSat a lo w n s).acq = s.acq := rfl
@[simp] theorem incSat_tim (a lo w n : Nat) (s : Dev) : (incSat a lo w n s).tim = s.tim := rfl
@[simp] theorem incSat_fen (a lo w n : Nat) (s : Dev) : (incSat a lo w n s).fen = s.fen := rfl
@[simp] theorem incSat_hdl (a lo w n : Nat) (s : Dev) : (incSat a lo w n s).hdl = s.hdl := rfl
@[simp] theorem incSat_drl (a lo w n : Nat) (s : Dev) : (incSat a lo w n s).drl = s.drl := rfl
@[simp] theorem incSat_mks (a lo w n : Nat) (s : Dev) : (incSat a lo w n s).mks = s.mks := rfl
@[simp] theorem incSat_lists (a lo w n : Nat) (s : Dev) : (incSat a lo w n s).lists = s.lists := rfl
@[simp] theorem incSat_syncOut (a lo w n : Nat) (s : Dev) : (incSat a lo w n s).syncOut = s.syncOut := rfl
@[simp] theorem incSat_rmp (a lo w n : Nat) (s : Dev) : (incSat a lo w n s).rmp = s.rmp := rfl
@[simp] theorem incSat_standby (a lo w n : Nat) (s : Dev) : (incSat a lo w n s).standby = s.standby := rfl
@[simp] theorem incSat_wakeReq (a lo w n : Nat) (s : Dev) : (incSat a lo w n s).wakeReq = s.wakeReq := rfl
@[simp] theorem incSat_ueNow (a lo w n : Nat) (s : Dev) : (incSat a lo w n s).ueNow = s.ueNow := rfl
@[simp] theorem incSat_wakeT (a lo w n : Nat) (s : Dev) : (incSat a lo w n s).wakeT = s.wakeT := rfl
@[simp] theorem incSat_aonT (a lo w n : Nat) (s : Dev) : (incSat a lo w n s).aonT = s.aonT := rfl
@[simp] theorem incSat_cold (a lo w n : Nat) (s : Dev) : (incSat a lo w n s).cold = s.cold := rfl
@[simp] theorem incSat_syncEv (a lo w n : Nat) (s : Dev) : (incSat a lo w n s).syncEv = s.syncEv := rfl
@[simp] theorem incSat_flt (a lo w n : Nat) (s : Dev) : (incSat a lo w n s).flt = s.flt := rfl
@[simp] theorem incSat_hmk (a lo w n : Nat) (s : Dev) : (incSat a lo w n s).hmk = s.hmk := rfl
@[simp] theorem incSat_opMc (a lo w n : Nat) (s : Dev) : (incSat a lo w n s).opMc = s.opMc := rfl
@[simp] theorem incSat_raised (a lo w n : Nat) (s : Dev) : (incSat a lo w n s).raised = s.raised := rfl
@[simp] theorem incSat_fieldMc (a lo w n : Nat) (s : Dev) : (incSat a lo w n s).fieldMc = s.fieldMc := rfl
@[simp] theorem incSat_spareKeep (a lo w n : Nat) (s : Dev) : (incSat a lo w n s).spareKeep = s.spareKeep := rfl
@[simp] theorem incSat_sw (a lo w n : Nat) (s : Dev) : (incSat a lo w n s).sw = s.sw := rfl
@[simp] theorem incSat_rstLow (a lo w n : Nat) (s : Dev) : (incSat a lo w n s).rstLow = s.rstLow := rfl
@[simp] theorem incSat_booting (a lo w n : Nat) (s : Dev) : (incSat a lo w n s).booting = s.booting := rfl
@[simp] theorem incSat_bootT (a lo w n : Nat) (s : Dev) : (incSat a lo w n s).bootT = s.bootT := rfl
@[simp] theorem incSat_sec (a lo w n : Nat) (s : Dev) : (incSat a lo w n s).sec = s.sec := rfl
@[simp] theorem incSat_jtag (a lo w n : Nat) (s : Dev) : (incSat a lo w n s).jtag = s.jtag := rfl
@[simp] theorem incSat_out (a lo w n : Nat) (s : Dev) : (incSat a lo w n s).out = s.out := rfl
@[simp] theorem incSat_freeCtr (a lo w n : Nat) (s : Dev) : (incSat a lo w n s).freeCtr = s.freeCtr := rfl

/-! ### wr64 -/

@[simp] theorem wr64_ts (a v : Nat) (s : Dev) : (wr64 a v s).ts = s.ts := rfl
@[simp] theorem wr64_mcRegs (a v : Nat) (s : Dev) : (wr64 a v s).mcRegs = s.mcRegs := rfl
@[simp] theorem wr64_clk (a v : Nat) (s : Dev) : (wr64 a v s).clk = s.clk := rfl
@[simp] theorem wr64_aon (a v : Nat) (s : Dev) : (wr64 a v s).aon = s.aon := rfl
@[simp] theorem wr64_snap (a v : Nat) (s : Dev) : (wr64 a v s).snap = s.snap := rfl
@[simp] theorem wr64_frozen (a v : Nat) (s : Dev) : (wr64 a v s).frozen = s.frozen := rfl
@[simp] theorem wr64_resetting (a v : Nat) (s : Dev) : (wr64 a v s).resetting = s.resetting := rfl
@[simp] theorem wr64_mem (a v : Nat) (s : Dev) : (wr64 a v s).mem = s.mem := rfl
@[simp] theorem wr64_flash (a v : Nat) (s : Dev) : (wr64 a v s).flash = s.flash := rfl
@[simp] theorem wr64_paths (a v : Nat) (s : Dev) : (wr64 a v s).paths = s.paths := rfl
@[simp] theorem wr64_lanes (a v : Nat) (s : Dev) : (wr64 a v s).lanes = s.lanes := rfl
@[simp] theorem wr64_fec (a v : Nat) (s : Dev) : (wr64 a v s).fec = s.fec := rfl
@[simp] theorem wr64_cal (a v : Nat) (s : Dev) : (wr64 a v s).cal = s.cal := rfl
@[simp] theorem wr64_adj (a v : Nat) (s : Dev) : (wr64 a v s).adj = s.adj := rfl
@[simp] theorem wr64_tsets (a v : Nat) (s : Dev) : (wr64 a v s).tsets = s.tsets := rfl
@[simp] theorem wr64_holds (a v : Nat) (s : Dev) : (wr64 a v s).holds = s.holds := rfl
@[simp] theorem wr64_fur (a v : Nat) (s : Dev) : (wr64 a v s).fur = s.fur := rfl
@[simp] theorem wr64_rowHist (a v : Nat) (s : Dev) : (wr64 a v s).rowHist = s.rowHist := rfl
@[simp] theorem wr64_ovl (a v : Nat) (s : Dev) : (wr64 a v s).ovl = s.ovl := rfl
@[simp] theorem wr64_pci (a v : Nat) (s : Dev) : (wr64 a v s).pci = s.pci := rfl
@[simp] theorem wr64_eth (a v : Nat) (s : Dev) : (wr64 a v s).eth = s.eth := rfl
@[simp] theorem wr64_smb (a v : Nat) (s : Dev) : (wr64 a v s).smb = s.smb := rfl
@[simp] theorem wr64_xsp (a v : Nat) (s : Dev) : (wr64 a v s).xsp = s.xsp := rfl
@[simp] theorem wr64_ueT (a v : Nat) (s : Dev) : (wr64 a v s).ueT = s.ueT := rfl
@[simp] theorem wr64_ceT (a v : Nat) (s : Dev) : (wr64 a v s).ceT = s.ceT := rfl
@[simp] theorem wr64_tagPeak (a v : Nat) (s : Dev) : (wr64 a v s).tagPeak = s.tagPeak := rfl
@[simp] theorem wr64_scrub (a v : Nat) (s : Dev) : (wr64 a v s).scrub = s.scrub := rfl
@[simp] theorem wr64_memOut (a v : Nat) (s : Dev) : (wr64 a v s).memOut = s.memOut := rfl
@[simp] theorem wr64_grn (a v : Nat) (s : Dev) : (wr64 a v s).grn = s.grn := rfl
@[simp] theorem wr64_flw (a v : Nat) (s : Dev) : (wr64 a v s).flw = s.flw := rfl
@[simp] theorem wr64_fwBuild (a v : Nat) (s : Dev) : (wr64 a v s).fwBuild = s.fwBuild := rfl
@[simp] theorem wr64_gln (a v : Nat) (s : Dev) : (wr64 a v s).gln = s.gln := rfl
@[simp] theorem wr64_acq (a v : Nat) (s : Dev) : (wr64 a v s).acq = s.acq := rfl
@[simp] theorem wr64_tim (a v : Nat) (s : Dev) : (wr64 a v s).tim = s.tim := rfl
@[simp] theorem wr64_fen (a v : Nat) (s : Dev) : (wr64 a v s).fen = s.fen := rfl
@[simp] theorem wr64_hdl (a v : Nat) (s : Dev) : (wr64 a v s).hdl = s.hdl := rfl
@[simp] theorem wr64_drl (a v : Nat) (s : Dev) : (wr64 a v s).drl = s.drl := rfl
@[simp] theorem wr64_mks (a v : Nat) (s : Dev) : (wr64 a v s).mks = s.mks := rfl
@[simp] theorem wr64_lists (a v : Nat) (s : Dev) : (wr64 a v s).lists = s.lists := rfl
@[simp] theorem wr64_syncOut (a v : Nat) (s : Dev) : (wr64 a v s).syncOut = s.syncOut := rfl
@[simp] theorem wr64_rmp (a v : Nat) (s : Dev) : (wr64 a v s).rmp = s.rmp := rfl
@[simp] theorem wr64_standby (a v : Nat) (s : Dev) : (wr64 a v s).standby = s.standby := rfl
@[simp] theorem wr64_wakeReq (a v : Nat) (s : Dev) : (wr64 a v s).wakeReq = s.wakeReq := rfl
@[simp] theorem wr64_ueNow (a v : Nat) (s : Dev) : (wr64 a v s).ueNow = s.ueNow := rfl
@[simp] theorem wr64_wakeT (a v : Nat) (s : Dev) : (wr64 a v s).wakeT = s.wakeT := rfl
@[simp] theorem wr64_aonT (a v : Nat) (s : Dev) : (wr64 a v s).aonT = s.aonT := rfl
@[simp] theorem wr64_cold (a v : Nat) (s : Dev) : (wr64 a v s).cold = s.cold := rfl
@[simp] theorem wr64_syncEv (a v : Nat) (s : Dev) : (wr64 a v s).syncEv = s.syncEv := rfl
@[simp] theorem wr64_flt (a v : Nat) (s : Dev) : (wr64 a v s).flt = s.flt := rfl
@[simp] theorem wr64_hmk (a v : Nat) (s : Dev) : (wr64 a v s).hmk = s.hmk := rfl
@[simp] theorem wr64_opMc (a v : Nat) (s : Dev) : (wr64 a v s).opMc = s.opMc := rfl
@[simp] theorem wr64_raised (a v : Nat) (s : Dev) : (wr64 a v s).raised = s.raised := rfl
@[simp] theorem wr64_fieldMc (a v : Nat) (s : Dev) : (wr64 a v s).fieldMc = s.fieldMc := rfl
@[simp] theorem wr64_spareKeep (a v : Nat) (s : Dev) : (wr64 a v s).spareKeep = s.spareKeep := rfl
@[simp] theorem wr64_sw (a v : Nat) (s : Dev) : (wr64 a v s).sw = s.sw := rfl
@[simp] theorem wr64_rstLow (a v : Nat) (s : Dev) : (wr64 a v s).rstLow = s.rstLow := rfl
@[simp] theorem wr64_booting (a v : Nat) (s : Dev) : (wr64 a v s).booting = s.booting := rfl
@[simp] theorem wr64_bootT (a v : Nat) (s : Dev) : (wr64 a v s).bootT = s.bootT := rfl
@[simp] theorem wr64_sec (a v : Nat) (s : Dev) : (wr64 a v s).sec = s.sec := rfl
@[simp] theorem wr64_jtag (a v : Nat) (s : Dev) : (wr64 a v s).jtag = s.jtag := rfl
@[simp] theorem wr64_out (a v : Nat) (s : Dev) : (wr64 a v s).out = s.out := rfl
@[simp] theorem wr64_freeCtr (a v : Nat) (s : Dev) : (wr64 a v s).freeCtr = s.freeCtr := rfl

/-! ### inc64 -/

@[simp] theorem inc64_ts (a n : Nat) (s : Dev) : (inc64 a n s).ts = s.ts := rfl
@[simp] theorem inc64_mcRegs (a n : Nat) (s : Dev) : (inc64 a n s).mcRegs = s.mcRegs := rfl
@[simp] theorem inc64_clk (a n : Nat) (s : Dev) : (inc64 a n s).clk = s.clk := rfl
@[simp] theorem inc64_aon (a n : Nat) (s : Dev) : (inc64 a n s).aon = s.aon := rfl
@[simp] theorem inc64_snap (a n : Nat) (s : Dev) : (inc64 a n s).snap = s.snap := rfl
@[simp] theorem inc64_frozen (a n : Nat) (s : Dev) : (inc64 a n s).frozen = s.frozen := rfl
@[simp] theorem inc64_resetting (a n : Nat) (s : Dev) : (inc64 a n s).resetting = s.resetting := rfl
@[simp] theorem inc64_mem (a n : Nat) (s : Dev) : (inc64 a n s).mem = s.mem := rfl
@[simp] theorem inc64_flash (a n : Nat) (s : Dev) : (inc64 a n s).flash = s.flash := rfl
@[simp] theorem inc64_paths (a n : Nat) (s : Dev) : (inc64 a n s).paths = s.paths := rfl
@[simp] theorem inc64_lanes (a n : Nat) (s : Dev) : (inc64 a n s).lanes = s.lanes := rfl
@[simp] theorem inc64_fec (a n : Nat) (s : Dev) : (inc64 a n s).fec = s.fec := rfl
@[simp] theorem inc64_cal (a n : Nat) (s : Dev) : (inc64 a n s).cal = s.cal := rfl
@[simp] theorem inc64_adj (a n : Nat) (s : Dev) : (inc64 a n s).adj = s.adj := rfl
@[simp] theorem inc64_tsets (a n : Nat) (s : Dev) : (inc64 a n s).tsets = s.tsets := rfl
@[simp] theorem inc64_holds (a n : Nat) (s : Dev) : (inc64 a n s).holds = s.holds := rfl
@[simp] theorem inc64_fur (a n : Nat) (s : Dev) : (inc64 a n s).fur = s.fur := rfl
@[simp] theorem inc64_rowHist (a n : Nat) (s : Dev) : (inc64 a n s).rowHist = s.rowHist := rfl
@[simp] theorem inc64_ovl (a n : Nat) (s : Dev) : (inc64 a n s).ovl = s.ovl := rfl
@[simp] theorem inc64_pci (a n : Nat) (s : Dev) : (inc64 a n s).pci = s.pci := rfl
@[simp] theorem inc64_eth (a n : Nat) (s : Dev) : (inc64 a n s).eth = s.eth := rfl
@[simp] theorem inc64_smb (a n : Nat) (s : Dev) : (inc64 a n s).smb = s.smb := rfl
@[simp] theorem inc64_xsp (a n : Nat) (s : Dev) : (inc64 a n s).xsp = s.xsp := rfl
@[simp] theorem inc64_ueT (a n : Nat) (s : Dev) : (inc64 a n s).ueT = s.ueT := rfl
@[simp] theorem inc64_ceT (a n : Nat) (s : Dev) : (inc64 a n s).ceT = s.ceT := rfl
@[simp] theorem inc64_tagPeak (a n : Nat) (s : Dev) : (inc64 a n s).tagPeak = s.tagPeak := rfl
@[simp] theorem inc64_scrub (a n : Nat) (s : Dev) : (inc64 a n s).scrub = s.scrub := rfl
@[simp] theorem inc64_memOut (a n : Nat) (s : Dev) : (inc64 a n s).memOut = s.memOut := rfl
@[simp] theorem inc64_grn (a n : Nat) (s : Dev) : (inc64 a n s).grn = s.grn := rfl
@[simp] theorem inc64_flw (a n : Nat) (s : Dev) : (inc64 a n s).flw = s.flw := rfl
@[simp] theorem inc64_fwBuild (a n : Nat) (s : Dev) : (inc64 a n s).fwBuild = s.fwBuild := rfl
@[simp] theorem inc64_gln (a n : Nat) (s : Dev) : (inc64 a n s).gln = s.gln := rfl
@[simp] theorem inc64_acq (a n : Nat) (s : Dev) : (inc64 a n s).acq = s.acq := rfl
@[simp] theorem inc64_tim (a n : Nat) (s : Dev) : (inc64 a n s).tim = s.tim := rfl
@[simp] theorem inc64_fen (a n : Nat) (s : Dev) : (inc64 a n s).fen = s.fen := rfl
@[simp] theorem inc64_hdl (a n : Nat) (s : Dev) : (inc64 a n s).hdl = s.hdl := rfl
@[simp] theorem inc64_drl (a n : Nat) (s : Dev) : (inc64 a n s).drl = s.drl := rfl
@[simp] theorem inc64_mks (a n : Nat) (s : Dev) : (inc64 a n s).mks = s.mks := rfl
@[simp] theorem inc64_lists (a n : Nat) (s : Dev) : (inc64 a n s).lists = s.lists := rfl
@[simp] theorem inc64_syncOut (a n : Nat) (s : Dev) : (inc64 a n s).syncOut = s.syncOut := rfl
@[simp] theorem inc64_rmp (a n : Nat) (s : Dev) : (inc64 a n s).rmp = s.rmp := rfl
@[simp] theorem inc64_standby (a n : Nat) (s : Dev) : (inc64 a n s).standby = s.standby := rfl
@[simp] theorem inc64_wakeReq (a n : Nat) (s : Dev) : (inc64 a n s).wakeReq = s.wakeReq := rfl
@[simp] theorem inc64_ueNow (a n : Nat) (s : Dev) : (inc64 a n s).ueNow = s.ueNow := rfl
@[simp] theorem inc64_wakeT (a n : Nat) (s : Dev) : (inc64 a n s).wakeT = s.wakeT := rfl
@[simp] theorem inc64_aonT (a n : Nat) (s : Dev) : (inc64 a n s).aonT = s.aonT := rfl
@[simp] theorem inc64_cold (a n : Nat) (s : Dev) : (inc64 a n s).cold = s.cold := rfl
@[simp] theorem inc64_syncEv (a n : Nat) (s : Dev) : (inc64 a n s).syncEv = s.syncEv := rfl
@[simp] theorem inc64_flt (a n : Nat) (s : Dev) : (inc64 a n s).flt = s.flt := rfl
@[simp] theorem inc64_hmk (a n : Nat) (s : Dev) : (inc64 a n s).hmk = s.hmk := rfl
@[simp] theorem inc64_opMc (a n : Nat) (s : Dev) : (inc64 a n s).opMc = s.opMc := rfl
@[simp] theorem inc64_raised (a n : Nat) (s : Dev) : (inc64 a n s).raised = s.raised := rfl
@[simp] theorem inc64_fieldMc (a n : Nat) (s : Dev) : (inc64 a n s).fieldMc = s.fieldMc := rfl
@[simp] theorem inc64_spareKeep (a n : Nat) (s : Dev) : (inc64 a n s).spareKeep = s.spareKeep := rfl
@[simp] theorem inc64_sw (a n : Nat) (s : Dev) : (inc64 a n s).sw = s.sw := rfl
@[simp] theorem inc64_rstLow (a n : Nat) (s : Dev) : (inc64 a n s).rstLow = s.rstLow := rfl
@[simp] theorem inc64_booting (a n : Nat) (s : Dev) : (inc64 a n s).booting = s.booting := rfl
@[simp] theorem inc64_bootT (a n : Nat) (s : Dev) : (inc64 a n s).bootT = s.bootT := rfl
@[simp] theorem inc64_sec (a n : Nat) (s : Dev) : (inc64 a n s).sec = s.sec := rfl
@[simp] theorem inc64_jtag (a n : Nat) (s : Dev) : (inc64 a n s).jtag = s.jtag := rfl
@[simp] theorem inc64_out (a n : Nat) (s : Dev) : (inc64 a n s).out = s.out := rfl
@[simp] theorem inc64_freeCtr (a n : Nat) (s : Dev) : (inc64 a n s).freeCtr = s.freeCtr := rfl

/-! ### dropPage -/

@[simp] theorem dropPage_ts (p : Nat) (k : Nat → Bool) (s : Dev) : (dropPage p k s).ts = s.ts := rfl
@[simp] theorem dropPage_mcRegs (p : Nat) (k : Nat → Bool) (s : Dev) : (dropPage p k s).mcRegs = s.mcRegs := rfl
@[simp] theorem dropPage_clk (p : Nat) (k : Nat → Bool) (s : Dev) : (dropPage p k s).clk = s.clk := rfl
@[simp] theorem dropPage_aon (p : Nat) (k : Nat → Bool) (s : Dev) : (dropPage p k s).aon = s.aon := rfl
@[simp] theorem dropPage_snap (p : Nat) (k : Nat → Bool) (s : Dev) : (dropPage p k s).snap = s.snap := rfl
@[simp] theorem dropPage_frozen (p : Nat) (k : Nat → Bool) (s : Dev) : (dropPage p k s).frozen = s.frozen := rfl
@[simp] theorem dropPage_resetting (p : Nat) (k : Nat → Bool) (s : Dev) : (dropPage p k s).resetting = s.resetting := rfl
@[simp] theorem dropPage_mem (p : Nat) (k : Nat → Bool) (s : Dev) : (dropPage p k s).mem = s.mem := rfl
@[simp] theorem dropPage_flash (p : Nat) (k : Nat → Bool) (s : Dev) : (dropPage p k s).flash = s.flash := rfl
@[simp] theorem dropPage_paths (p : Nat) (k : Nat → Bool) (s : Dev) : (dropPage p k s).paths = s.paths := rfl
@[simp] theorem dropPage_lanes (p : Nat) (k : Nat → Bool) (s : Dev) : (dropPage p k s).lanes = s.lanes := rfl
@[simp] theorem dropPage_fec (p : Nat) (k : Nat → Bool) (s : Dev) : (dropPage p k s).fec = s.fec := rfl
@[simp] theorem dropPage_cal (p : Nat) (k : Nat → Bool) (s : Dev) : (dropPage p k s).cal = s.cal := rfl
@[simp] theorem dropPage_adj (p : Nat) (k : Nat → Bool) (s : Dev) : (dropPage p k s).adj = s.adj := rfl
@[simp] theorem dropPage_tsets (p : Nat) (k : Nat → Bool) (s : Dev) : (dropPage p k s).tsets = s.tsets := rfl
@[simp] theorem dropPage_holds (p : Nat) (k : Nat → Bool) (s : Dev) : (dropPage p k s).holds = s.holds := rfl
@[simp] theorem dropPage_fur (p : Nat) (k : Nat → Bool) (s : Dev) : (dropPage p k s).fur = s.fur := rfl
@[simp] theorem dropPage_rowHist (p : Nat) (k : Nat → Bool) (s : Dev) : (dropPage p k s).rowHist = s.rowHist := rfl
@[simp] theorem dropPage_ovl (p : Nat) (k : Nat → Bool) (s : Dev) : (dropPage p k s).ovl = s.ovl := rfl
@[simp] theorem dropPage_pci (p : Nat) (k : Nat → Bool) (s : Dev) : (dropPage p k s).pci = s.pci := rfl
@[simp] theorem dropPage_eth (p : Nat) (k : Nat → Bool) (s : Dev) : (dropPage p k s).eth = s.eth := rfl
@[simp] theorem dropPage_smb (p : Nat) (k : Nat → Bool) (s : Dev) : (dropPage p k s).smb = s.smb := rfl
@[simp] theorem dropPage_xsp (p : Nat) (k : Nat → Bool) (s : Dev) : (dropPage p k s).xsp = s.xsp := rfl
@[simp] theorem dropPage_ueT (p : Nat) (k : Nat → Bool) (s : Dev) : (dropPage p k s).ueT = s.ueT := rfl
@[simp] theorem dropPage_ceT (p : Nat) (k : Nat → Bool) (s : Dev) : (dropPage p k s).ceT = s.ceT := rfl
@[simp] theorem dropPage_tagPeak (p : Nat) (k : Nat → Bool) (s : Dev) : (dropPage p k s).tagPeak = s.tagPeak := rfl
@[simp] theorem dropPage_scrub (p : Nat) (k : Nat → Bool) (s : Dev) : (dropPage p k s).scrub = s.scrub := rfl
@[simp] theorem dropPage_memOut (p : Nat) (k : Nat → Bool) (s : Dev) : (dropPage p k s).memOut = s.memOut := rfl
@[simp] theorem dropPage_grn (p : Nat) (k : Nat → Bool) (s : Dev) : (dropPage p k s).grn = s.grn := rfl
@[simp] theorem dropPage_flw (p : Nat) (k : Nat → Bool) (s : Dev) : (dropPage p k s).flw = s.flw := rfl
@[simp] theorem dropPage_fwBuild (p : Nat) (k : Nat → Bool) (s : Dev) : (dropPage p k s).fwBuild = s.fwBuild := rfl
@[simp] theorem dropPage_gln (p : Nat) (k : Nat → Bool) (s : Dev) : (dropPage p k s).gln = s.gln := rfl
@[simp] theorem dropPage_acq (p : Nat) (k : Nat → Bool) (s : Dev) : (dropPage p k s).acq = s.acq := rfl
@[simp] theorem dropPage_tim (p : Nat) (k : Nat → Bool) (s : Dev) : (dropPage p k s).tim = s.tim := rfl
@[simp] theorem dropPage_fen (p : Nat) (k : Nat → Bool) (s : Dev) : (dropPage p k s).fen = s.fen := rfl
@[simp] theorem dropPage_hdl (p : Nat) (k : Nat → Bool) (s : Dev) : (dropPage p k s).hdl = s.hdl := rfl
@[simp] theorem dropPage_drl (p : Nat) (k : Nat → Bool) (s : Dev) : (dropPage p k s).drl = s.drl := rfl
@[simp] theorem dropPage_mks (p : Nat) (k : Nat → Bool) (s : Dev) : (dropPage p k s).mks = s.mks := rfl
@[simp] theorem dropPage_lists (p : Nat) (k : Nat → Bool) (s : Dev) : (dropPage p k s).lists = s.lists := rfl
@[simp] theorem dropPage_syncOut (p : Nat) (k : Nat → Bool) (s : Dev) : (dropPage p k s).syncOut = s.syncOut := rfl
@[simp] theorem dropPage_rmp (p : Nat) (k : Nat → Bool) (s : Dev) : (dropPage p k s).rmp = s.rmp := rfl
@[simp] theorem dropPage_standby (p : Nat) (k : Nat → Bool) (s : Dev) : (dropPage p k s).standby = s.standby := rfl
@[simp] theorem dropPage_wakeReq (p : Nat) (k : Nat → Bool) (s : Dev) : (dropPage p k s).wakeReq = s.wakeReq := rfl
@[simp] theorem dropPage_ueNow (p : Nat) (k : Nat → Bool) (s : Dev) : (dropPage p k s).ueNow = s.ueNow := rfl
@[simp] theorem dropPage_wakeT (p : Nat) (k : Nat → Bool) (s : Dev) : (dropPage p k s).wakeT = s.wakeT := rfl
@[simp] theorem dropPage_aonT (p : Nat) (k : Nat → Bool) (s : Dev) : (dropPage p k s).aonT = s.aonT := rfl
@[simp] theorem dropPage_cold (p : Nat) (k : Nat → Bool) (s : Dev) : (dropPage p k s).cold = s.cold := rfl
@[simp] theorem dropPage_syncEv (p : Nat) (k : Nat → Bool) (s : Dev) : (dropPage p k s).syncEv = s.syncEv := rfl
@[simp] theorem dropPage_flt (p : Nat) (k : Nat → Bool) (s : Dev) : (dropPage p k s).flt = s.flt := rfl
@[simp] theorem dropPage_hmk (p : Nat) (k : Nat → Bool) (s : Dev) : (dropPage p k s).hmk = s.hmk := rfl
@[simp] theorem dropPage_opMc (p : Nat) (k : Nat → Bool) (s : Dev) : (dropPage p k s).opMc = s.opMc := rfl
@[simp] theorem dropPage_raised (p : Nat) (k : Nat → Bool) (s : Dev) : (dropPage p k s).raised = s.raised := rfl
@[simp] theorem dropPage_fieldMc (p : Nat) (k : Nat → Bool) (s : Dev) : (dropPage p k s).fieldMc = s.fieldMc := rfl
@[simp] theorem dropPage_spareKeep (p : Nat) (k : Nat → Bool) (s : Dev) : (dropPage p k s).spareKeep = s.spareKeep := rfl
@[simp] theorem dropPage_sw (p : Nat) (k : Nat → Bool) (s : Dev) : (dropPage p k s).sw = s.sw := rfl
@[simp] theorem dropPage_rstLow (p : Nat) (k : Nat → Bool) (s : Dev) : (dropPage p k s).rstLow = s.rstLow := rfl
@[simp] theorem dropPage_booting (p : Nat) (k : Nat → Bool) (s : Dev) : (dropPage p k s).booting = s.booting := rfl
@[simp] theorem dropPage_bootT (p : Nat) (k : Nat → Bool) (s : Dev) : (dropPage p k s).bootT = s.bootT := rfl
@[simp] theorem dropPage_sec (p : Nat) (k : Nat → Bool) (s : Dev) : (dropPage p k s).sec = s.sec := rfl
@[simp] theorem dropPage_jtag (p : Nat) (k : Nat → Bool) (s : Dev) : (dropPage p k s).jtag = s.jtag := rfl
@[simp] theorem dropPage_out (p : Nat) (k : Nat → Bool) (s : Dev) : (dropPage p k s).out = s.out := rfl
@[simp] theorem dropPage_freeCtr (p : Nat) (k : Nat → Bool) (s : Dev) : (dropPage p k s).freeCtr = s.freeCtr := rfl

/-! ### setPath -/

@[simp] theorem setPath_ts (p : Path) (x : PathSt) (s : Dev) : (setPath p x s).ts = s.ts := rfl
@[simp] theorem setPath_mcRegs (p : Path) (x : PathSt) (s : Dev) : (setPath p x s).mcRegs = s.mcRegs := rfl
@[simp] theorem setPath_clk (p : Path) (x : PathSt) (s : Dev) : (setPath p x s).clk = s.clk := rfl
@[simp] theorem setPath_aon (p : Path) (x : PathSt) (s : Dev) : (setPath p x s).aon = s.aon := rfl
@[simp] theorem setPath_regs (p : Path) (x : PathSt) (s : Dev) : (setPath p x s).regs = s.regs := rfl
@[simp] theorem setPath_snap (p : Path) (x : PathSt) (s : Dev) : (setPath p x s).snap = s.snap := rfl
@[simp] theorem setPath_frozen (p : Path) (x : PathSt) (s : Dev) : (setPath p x s).frozen = s.frozen := rfl
@[simp] theorem setPath_resetting (p : Path) (x : PathSt) (s : Dev) : (setPath p x s).resetting = s.resetting := rfl
@[simp] theorem setPath_mem (p : Path) (x : PathSt) (s : Dev) : (setPath p x s).mem = s.mem := rfl
@[simp] theorem setPath_flash (p : Path) (x : PathSt) (s : Dev) : (setPath p x s).flash = s.flash := rfl
@[simp] theorem setPath_lanes (p : Path) (x : PathSt) (s : Dev) : (setPath p x s).lanes = s.lanes := rfl
@[simp] theorem setPath_fec (p : Path) (x : PathSt) (s : Dev) : (setPath p x s).fec = s.fec := rfl
@[simp] theorem setPath_cal (p : Path) (x : PathSt) (s : Dev) : (setPath p x s).cal = s.cal := rfl
@[simp] theorem setPath_adj (p : Path) (x : PathSt) (s : Dev) : (setPath p x s).adj = s.adj := rfl
@[simp] theorem setPath_tsets (p : Path) (x : PathSt) (s : Dev) : (setPath p x s).tsets = s.tsets := rfl
@[simp] theorem setPath_holds (p : Path) (x : PathSt) (s : Dev) : (setPath p x s).holds = s.holds := rfl
@[simp] theorem setPath_fur (p : Path) (x : PathSt) (s : Dev) : (setPath p x s).fur = s.fur := rfl
@[simp] theorem setPath_rowHist (p : Path) (x : PathSt) (s : Dev) : (setPath p x s).rowHist = s.rowHist := rfl
@[simp] theorem setPath_ovl (p : Path) (x : PathSt) (s : Dev) : (setPath p x s).ovl = s.ovl := rfl
@[simp] theorem setPath_pci (p : Path) (x : PathSt) (s : Dev) : (setPath p x s).pci = s.pci := rfl
@[simp] theorem setPath_eth (p : Path) (x : PathSt) (s : Dev) : (setPath p x s).eth = s.eth := rfl
@[simp] theorem setPath_smb (p : Path) (x : PathSt) (s : Dev) : (setPath p x s).smb = s.smb := rfl
@[simp] theorem setPath_xsp (p : Path) (x : PathSt) (s : Dev) : (setPath p x s).xsp = s.xsp := rfl
@[simp] theorem setPath_ueT (p : Path) (x : PathSt) (s : Dev) : (setPath p x s).ueT = s.ueT := rfl
@[simp] theorem setPath_ceT (p : Path) (x : PathSt) (s : Dev) : (setPath p x s).ceT = s.ceT := rfl
@[simp] theorem setPath_tagPeak (p : Path) (x : PathSt) (s : Dev) : (setPath p x s).tagPeak = s.tagPeak := rfl
@[simp] theorem setPath_scrub (p : Path) (x : PathSt) (s : Dev) : (setPath p x s).scrub = s.scrub := rfl
@[simp] theorem setPath_memOut (p : Path) (x : PathSt) (s : Dev) : (setPath p x s).memOut = s.memOut := rfl
@[simp] theorem setPath_grn (p : Path) (x : PathSt) (s : Dev) : (setPath p x s).grn = s.grn := rfl
@[simp] theorem setPath_flw (p : Path) (x : PathSt) (s : Dev) : (setPath p x s).flw = s.flw := rfl
@[simp] theorem setPath_fwBuild (p : Path) (x : PathSt) (s : Dev) : (setPath p x s).fwBuild = s.fwBuild := rfl
@[simp] theorem setPath_gln (p : Path) (x : PathSt) (s : Dev) : (setPath p x s).gln = s.gln := rfl
@[simp] theorem setPath_acq (p : Path) (x : PathSt) (s : Dev) : (setPath p x s).acq = s.acq := rfl
@[simp] theorem setPath_tim (p : Path) (x : PathSt) (s : Dev) : (setPath p x s).tim = s.tim := rfl
@[simp] theorem setPath_fen (p : Path) (x : PathSt) (s : Dev) : (setPath p x s).fen = s.fen := rfl
@[simp] theorem setPath_hdl (p : Path) (x : PathSt) (s : Dev) : (setPath p x s).hdl = s.hdl := rfl
@[simp] theorem setPath_drl (p : Path) (x : PathSt) (s : Dev) : (setPath p x s).drl = s.drl := rfl
@[simp] theorem setPath_mks (p : Path) (x : PathSt) (s : Dev) : (setPath p x s).mks = s.mks := rfl
@[simp] theorem setPath_lists (p : Path) (x : PathSt) (s : Dev) : (setPath p x s).lists = s.lists := rfl
@[simp] theorem setPath_syncOut (p : Path) (x : PathSt) (s : Dev) : (setPath p x s).syncOut = s.syncOut := rfl
@[simp] theorem setPath_rmp (p : Path) (x : PathSt) (s : Dev) : (setPath p x s).rmp = s.rmp := rfl
@[simp] theorem setPath_standby (p : Path) (x : PathSt) (s : Dev) : (setPath p x s).standby = s.standby := rfl
@[simp] theorem setPath_wakeReq (p : Path) (x : PathSt) (s : Dev) : (setPath p x s).wakeReq = s.wakeReq := rfl
@[simp] theorem setPath_ueNow (p : Path) (x : PathSt) (s : Dev) : (setPath p x s).ueNow = s.ueNow := rfl
@[simp] theorem setPath_wakeT (p : Path) (x : PathSt) (s : Dev) : (setPath p x s).wakeT = s.wakeT := rfl
@[simp] theorem setPath_aonT (p : Path) (x : PathSt) (s : Dev) : (setPath p x s).aonT = s.aonT := rfl
@[simp] theorem setPath_cold (p : Path) (x : PathSt) (s : Dev) : (setPath p x s).cold = s.cold := rfl
@[simp] theorem setPath_syncEv (p : Path) (x : PathSt) (s : Dev) : (setPath p x s).syncEv = s.syncEv := rfl
@[simp] theorem setPath_flt (p : Path) (x : PathSt) (s : Dev) : (setPath p x s).flt = s.flt := rfl
@[simp] theorem setPath_hmk (p : Path) (x : PathSt) (s : Dev) : (setPath p x s).hmk = s.hmk := rfl
@[simp] theorem setPath_opMc (p : Path) (x : PathSt) (s : Dev) : (setPath p x s).opMc = s.opMc := rfl
@[simp] theorem setPath_raised (p : Path) (x : PathSt) (s : Dev) : (setPath p x s).raised = s.raised := rfl
@[simp] theorem setPath_fieldMc (p : Path) (x : PathSt) (s : Dev) : (setPath p x s).fieldMc = s.fieldMc := rfl
@[simp] theorem setPath_spareKeep (p : Path) (x : PathSt) (s : Dev) : (setPath p x s).spareKeep = s.spareKeep := rfl
@[simp] theorem setPath_sw (p : Path) (x : PathSt) (s : Dev) : (setPath p x s).sw = s.sw := rfl
@[simp] theorem setPath_rstLow (p : Path) (x : PathSt) (s : Dev) : (setPath p x s).rstLow = s.rstLow := rfl
@[simp] theorem setPath_booting (p : Path) (x : PathSt) (s : Dev) : (setPath p x s).booting = s.booting := rfl
@[simp] theorem setPath_bootT (p : Path) (x : PathSt) (s : Dev) : (setPath p x s).bootT = s.bootT := rfl
@[simp] theorem setPath_sec (p : Path) (x : PathSt) (s : Dev) : (setPath p x s).sec = s.sec := rfl
@[simp] theorem setPath_jtag (p : Path) (x : PathSt) (s : Dev) : (setPath p x s).jtag = s.jtag := rfl
@[simp] theorem setPath_out (p : Path) (x : PathSt) (s : Dev) : (setPath p x s).out = s.out := rfl
@[simp] theorem setPath_freeCtr (p : Path) (x : PathSt) (s : Dev) : (setPath p x s).freeCtr = s.freeCtr := rfl

/-! ### setLane -/

@[simp] theorem setLane_ts (l : Nat) (x : Lane) (s : Dev) : (setLane l x s).ts = s.ts := rfl
@[simp] theorem setLane_mcRegs (l : Nat) (x : Lane) (s : Dev) : (setLane l x s).mcRegs = s.mcRegs := rfl
@[simp] theorem setLane_clk (l : Nat) (x : Lane) (s : Dev) : (setLane l x s).clk = s.clk := rfl
@[simp] theorem setLane_aon (l : Nat) (x : Lane) (s : Dev) : (setLane l x s).aon = s.aon := rfl
@[simp] theorem setLane_regs (l : Nat) (x : Lane) (s : Dev) : (setLane l x s).regs = s.regs := rfl
@[simp] theorem setLane_snap (l : Nat) (x : Lane) (s : Dev) : (setLane l x s).snap = s.snap := rfl
@[simp] theorem setLane_frozen (l : Nat) (x : Lane) (s : Dev) : (setLane l x s).frozen = s.frozen := rfl
@[simp] theorem setLane_resetting (l : Nat) (x : Lane) (s : Dev) : (setLane l x s).resetting = s.resetting := rfl
@[simp] theorem setLane_mem (l : Nat) (x : Lane) (s : Dev) : (setLane l x s).mem = s.mem := rfl
@[simp] theorem setLane_flash (l : Nat) (x : Lane) (s : Dev) : (setLane l x s).flash = s.flash := rfl
@[simp] theorem setLane_paths (l : Nat) (x : Lane) (s : Dev) : (setLane l x s).paths = s.paths := rfl
@[simp] theorem setLane_fec (l : Nat) (x : Lane) (s : Dev) : (setLane l x s).fec = s.fec := rfl
@[simp] theorem setLane_cal (l : Nat) (x : Lane) (s : Dev) : (setLane l x s).cal = s.cal := rfl
@[simp] theorem setLane_adj (l : Nat) (x : Lane) (s : Dev) : (setLane l x s).adj = s.adj := rfl
@[simp] theorem setLane_tsets (l : Nat) (x : Lane) (s : Dev) : (setLane l x s).tsets = s.tsets := rfl
@[simp] theorem setLane_holds (l : Nat) (x : Lane) (s : Dev) : (setLane l x s).holds = s.holds := rfl
@[simp] theorem setLane_fur (l : Nat) (x : Lane) (s : Dev) : (setLane l x s).fur = s.fur := rfl
@[simp] theorem setLane_rowHist (l : Nat) (x : Lane) (s : Dev) : (setLane l x s).rowHist = s.rowHist := rfl
@[simp] theorem setLane_ovl (l : Nat) (x : Lane) (s : Dev) : (setLane l x s).ovl = s.ovl := rfl
@[simp] theorem setLane_pci (l : Nat) (x : Lane) (s : Dev) : (setLane l x s).pci = s.pci := rfl
@[simp] theorem setLane_eth (l : Nat) (x : Lane) (s : Dev) : (setLane l x s).eth = s.eth := rfl
@[simp] theorem setLane_smb (l : Nat) (x : Lane) (s : Dev) : (setLane l x s).smb = s.smb := rfl
@[simp] theorem setLane_xsp (l : Nat) (x : Lane) (s : Dev) : (setLane l x s).xsp = s.xsp := rfl
@[simp] theorem setLane_ueT (l : Nat) (x : Lane) (s : Dev) : (setLane l x s).ueT = s.ueT := rfl
@[simp] theorem setLane_ceT (l : Nat) (x : Lane) (s : Dev) : (setLane l x s).ceT = s.ceT := rfl
@[simp] theorem setLane_tagPeak (l : Nat) (x : Lane) (s : Dev) : (setLane l x s).tagPeak = s.tagPeak := rfl
@[simp] theorem setLane_scrub (l : Nat) (x : Lane) (s : Dev) : (setLane l x s).scrub = s.scrub := rfl
@[simp] theorem setLane_memOut (l : Nat) (x : Lane) (s : Dev) : (setLane l x s).memOut = s.memOut := rfl
@[simp] theorem setLane_grn (l : Nat) (x : Lane) (s : Dev) : (setLane l x s).grn = s.grn := rfl
@[simp] theorem setLane_flw (l : Nat) (x : Lane) (s : Dev) : (setLane l x s).flw = s.flw := rfl
@[simp] theorem setLane_fwBuild (l : Nat) (x : Lane) (s : Dev) : (setLane l x s).fwBuild = s.fwBuild := rfl
@[simp] theorem setLane_gln (l : Nat) (x : Lane) (s : Dev) : (setLane l x s).gln = s.gln := rfl
@[simp] theorem setLane_acq (l : Nat) (x : Lane) (s : Dev) : (setLane l x s).acq = s.acq := rfl
@[simp] theorem setLane_tim (l : Nat) (x : Lane) (s : Dev) : (setLane l x s).tim = s.tim := rfl
@[simp] theorem setLane_fen (l : Nat) (x : Lane) (s : Dev) : (setLane l x s).fen = s.fen := rfl
@[simp] theorem setLane_hdl (l : Nat) (x : Lane) (s : Dev) : (setLane l x s).hdl = s.hdl := rfl
@[simp] theorem setLane_drl (l : Nat) (x : Lane) (s : Dev) : (setLane l x s).drl = s.drl := rfl
@[simp] theorem setLane_mks (l : Nat) (x : Lane) (s : Dev) : (setLane l x s).mks = s.mks := rfl
@[simp] theorem setLane_lists (l : Nat) (x : Lane) (s : Dev) : (setLane l x s).lists = s.lists := rfl
@[simp] theorem setLane_syncOut (l : Nat) (x : Lane) (s : Dev) : (setLane l x s).syncOut = s.syncOut := rfl
@[simp] theorem setLane_rmp (l : Nat) (x : Lane) (s : Dev) : (setLane l x s).rmp = s.rmp := rfl
@[simp] theorem setLane_standby (l : Nat) (x : Lane) (s : Dev) : (setLane l x s).standby = s.standby := rfl
@[simp] theorem setLane_wakeReq (l : Nat) (x : Lane) (s : Dev) : (setLane l x s).wakeReq = s.wakeReq := rfl
@[simp] theorem setLane_ueNow (l : Nat) (x : Lane) (s : Dev) : (setLane l x s).ueNow = s.ueNow := rfl
@[simp] theorem setLane_wakeT (l : Nat) (x : Lane) (s : Dev) : (setLane l x s).wakeT = s.wakeT := rfl
@[simp] theorem setLane_aonT (l : Nat) (x : Lane) (s : Dev) : (setLane l x s).aonT = s.aonT := rfl
@[simp] theorem setLane_cold (l : Nat) (x : Lane) (s : Dev) : (setLane l x s).cold = s.cold := rfl
@[simp] theorem setLane_syncEv (l : Nat) (x : Lane) (s : Dev) : (setLane l x s).syncEv = s.syncEv := rfl
@[simp] theorem setLane_flt (l : Nat) (x : Lane) (s : Dev) : (setLane l x s).flt = s.flt := rfl
@[simp] theorem setLane_hmk (l : Nat) (x : Lane) (s : Dev) : (setLane l x s).hmk = s.hmk := rfl
@[simp] theorem setLane_opMc (l : Nat) (x : Lane) (s : Dev) : (setLane l x s).opMc = s.opMc := rfl
@[simp] theorem setLane_raised (l : Nat) (x : Lane) (s : Dev) : (setLane l x s).raised = s.raised := rfl
@[simp] theorem setLane_fieldMc (l : Nat) (x : Lane) (s : Dev) : (setLane l x s).fieldMc = s.fieldMc := rfl
@[simp] theorem setLane_spareKeep (l : Nat) (x : Lane) (s : Dev) : (setLane l x s).spareKeep = s.spareKeep := rfl
@[simp] theorem setLane_sw (l : Nat) (x : Lane) (s : Dev) : (setLane l x s).sw = s.sw := rfl
@[simp] theorem setLane_rstLow (l : Nat) (x : Lane) (s : Dev) : (setLane l x s).rstLow = s.rstLow := rfl
@[simp] theorem setLane_booting (l : Nat) (x : Lane) (s : Dev) : (setLane l x s).booting = s.booting := rfl
@[simp] theorem setLane_bootT (l : Nat) (x : Lane) (s : Dev) : (setLane l x s).bootT = s.bootT := rfl
@[simp] theorem setLane_sec (l : Nat) (x : Lane) (s : Dev) : (setLane l x s).sec = s.sec := rfl
@[simp] theorem setLane_jtag (l : Nat) (x : Lane) (s : Dev) : (setLane l x s).jtag = s.jtag := rfl
@[simp] theorem setLane_out (l : Nat) (x : Lane) (s : Dev) : (setLane l x s).out = s.out := rfl
@[simp] theorem setLane_freeCtr (l : Nat) (x : Lane) (s : Dev) : (setLane l x s).freeCtr = s.freeCtr := rfl

/-! ### setFec -/

@[simp] theorem setFec_ts (b : Nat) (x : FecBus) (s : Dev) : (setFec b x s).ts = s.ts := rfl
@[simp] theorem setFec_mcRegs (b : Nat) (x : FecBus) (s : Dev) : (setFec b x s).mcRegs = s.mcRegs := rfl
@[simp] theorem setFec_clk (b : Nat) (x : FecBus) (s : Dev) : (setFec b x s).clk = s.clk := rfl
@[simp] theorem setFec_aon (b : Nat) (x : FecBus) (s : Dev) : (setFec b x s).aon = s.aon := rfl
@[simp] theorem setFec_regs (b : Nat) (x : FecBus) (s : Dev) : (setFec b x s).regs = s.regs := rfl
@[simp] theorem setFec_snap (b : Nat) (x : FecBus) (s : Dev) : (setFec b x s).snap = s.snap := rfl
@[simp] theorem setFec_frozen (b : Nat) (x : FecBus) (s : Dev) : (setFec b x s).frozen = s.frozen := rfl
@[simp] theorem setFec_resetting (b : Nat) (x : FecBus) (s : Dev) : (setFec b x s).resetting = s.resetting := rfl
@[simp] theorem setFec_mem (b : Nat) (x : FecBus) (s : Dev) : (setFec b x s).mem = s.mem := rfl
@[simp] theorem setFec_flash (b : Nat) (x : FecBus) (s : Dev) : (setFec b x s).flash = s.flash := rfl
@[simp] theorem setFec_paths (b : Nat) (x : FecBus) (s : Dev) : (setFec b x s).paths = s.paths := rfl
@[simp] theorem setFec_lanes (b : Nat) (x : FecBus) (s : Dev) : (setFec b x s).lanes = s.lanes := rfl
@[simp] theorem setFec_cal (b : Nat) (x : FecBus) (s : Dev) : (setFec b x s).cal = s.cal := rfl
@[simp] theorem setFec_adj (b : Nat) (x : FecBus) (s : Dev) : (setFec b x s).adj = s.adj := rfl
@[simp] theorem setFec_tsets (b : Nat) (x : FecBus) (s : Dev) : (setFec b x s).tsets = s.tsets := rfl
@[simp] theorem setFec_holds (b : Nat) (x : FecBus) (s : Dev) : (setFec b x s).holds = s.holds := rfl
@[simp] theorem setFec_fur (b : Nat) (x : FecBus) (s : Dev) : (setFec b x s).fur = s.fur := rfl
@[simp] theorem setFec_rowHist (b : Nat) (x : FecBus) (s : Dev) : (setFec b x s).rowHist = s.rowHist := rfl
@[simp] theorem setFec_ovl (b : Nat) (x : FecBus) (s : Dev) : (setFec b x s).ovl = s.ovl := rfl
@[simp] theorem setFec_pci (b : Nat) (x : FecBus) (s : Dev) : (setFec b x s).pci = s.pci := rfl
@[simp] theorem setFec_eth (b : Nat) (x : FecBus) (s : Dev) : (setFec b x s).eth = s.eth := rfl
@[simp] theorem setFec_smb (b : Nat) (x : FecBus) (s : Dev) : (setFec b x s).smb = s.smb := rfl
@[simp] theorem setFec_xsp (b : Nat) (x : FecBus) (s : Dev) : (setFec b x s).xsp = s.xsp := rfl
@[simp] theorem setFec_ueT (b : Nat) (x : FecBus) (s : Dev) : (setFec b x s).ueT = s.ueT := rfl
@[simp] theorem setFec_ceT (b : Nat) (x : FecBus) (s : Dev) : (setFec b x s).ceT = s.ceT := rfl
@[simp] theorem setFec_tagPeak (b : Nat) (x : FecBus) (s : Dev) : (setFec b x s).tagPeak = s.tagPeak := rfl
@[simp] theorem setFec_scrub (b : Nat) (x : FecBus) (s : Dev) : (setFec b x s).scrub = s.scrub := rfl
@[simp] theorem setFec_memOut (b : Nat) (x : FecBus) (s : Dev) : (setFec b x s).memOut = s.memOut := rfl
@[simp] theorem setFec_grn (b : Nat) (x : FecBus) (s : Dev) : (setFec b x s).grn = s.grn := rfl
@[simp] theorem setFec_flw (b : Nat) (x : FecBus) (s : Dev) : (setFec b x s).flw = s.flw := rfl
@[simp] theorem setFec_fwBuild (b : Nat) (x : FecBus) (s : Dev) : (setFec b x s).fwBuild = s.fwBuild := rfl
@[simp] theorem setFec_gln (b : Nat) (x : FecBus) (s : Dev) : (setFec b x s).gln = s.gln := rfl
@[simp] theorem setFec_acq (b : Nat) (x : FecBus) (s : Dev) : (setFec b x s).acq = s.acq := rfl
@[simp] theorem setFec_tim (b : Nat) (x : FecBus) (s : Dev) : (setFec b x s).tim = s.tim := rfl
@[simp] theorem setFec_fen (b : Nat) (x : FecBus) (s : Dev) : (setFec b x s).fen = s.fen := rfl
@[simp] theorem setFec_hdl (b : Nat) (x : FecBus) (s : Dev) : (setFec b x s).hdl = s.hdl := rfl
@[simp] theorem setFec_drl (b : Nat) (x : FecBus) (s : Dev) : (setFec b x s).drl = s.drl := rfl
@[simp] theorem setFec_mks (b : Nat) (x : FecBus) (s : Dev) : (setFec b x s).mks = s.mks := rfl
@[simp] theorem setFec_lists (b : Nat) (x : FecBus) (s : Dev) : (setFec b x s).lists = s.lists := rfl
@[simp] theorem setFec_syncOut (b : Nat) (x : FecBus) (s : Dev) : (setFec b x s).syncOut = s.syncOut := rfl
@[simp] theorem setFec_rmp (b : Nat) (x : FecBus) (s : Dev) : (setFec b x s).rmp = s.rmp := rfl
@[simp] theorem setFec_standby (b : Nat) (x : FecBus) (s : Dev) : (setFec b x s).standby = s.standby := rfl
@[simp] theorem setFec_wakeReq (b : Nat) (x : FecBus) (s : Dev) : (setFec b x s).wakeReq = s.wakeReq := rfl
@[simp] theorem setFec_ueNow (b : Nat) (x : FecBus) (s : Dev) : (setFec b x s).ueNow = s.ueNow := rfl
@[simp] theorem setFec_wakeT (b : Nat) (x : FecBus) (s : Dev) : (setFec b x s).wakeT = s.wakeT := rfl
@[simp] theorem setFec_aonT (b : Nat) (x : FecBus) (s : Dev) : (setFec b x s).aonT = s.aonT := rfl
@[simp] theorem setFec_cold (b : Nat) (x : FecBus) (s : Dev) : (setFec b x s).cold = s.cold := rfl
@[simp] theorem setFec_syncEv (b : Nat) (x : FecBus) (s : Dev) : (setFec b x s).syncEv = s.syncEv := rfl
@[simp] theorem setFec_flt (b : Nat) (x : FecBus) (s : Dev) : (setFec b x s).flt = s.flt := rfl
@[simp] theorem setFec_hmk (b : Nat) (x : FecBus) (s : Dev) : (setFec b x s).hmk = s.hmk := rfl
@[simp] theorem setFec_opMc (b : Nat) (x : FecBus) (s : Dev) : (setFec b x s).opMc = s.opMc := rfl
@[simp] theorem setFec_raised (b : Nat) (x : FecBus) (s : Dev) : (setFec b x s).raised = s.raised := rfl
@[simp] theorem setFec_fieldMc (b : Nat) (x : FecBus) (s : Dev) : (setFec b x s).fieldMc = s.fieldMc := rfl
@[simp] theorem setFec_spareKeep (b : Nat) (x : FecBus) (s : Dev) : (setFec b x s).spareKeep = s.spareKeep := rfl
@[simp] theorem setFec_sw (b : Nat) (x : FecBus) (s : Dev) : (setFec b x s).sw = s.sw := rfl
@[simp] theorem setFec_rstLow (b : Nat) (x : FecBus) (s : Dev) : (setFec b x s).rstLow = s.rstLow := rfl
@[simp] theorem setFec_booting (b : Nat) (x : FecBus) (s : Dev) : (setFec b x s).booting = s.booting := rfl
@[simp] theorem setFec_bootT (b : Nat) (x : FecBus) (s : Dev) : (setFec b x s).bootT = s.bootT := rfl
@[simp] theorem setFec_sec (b : Nat) (x : FecBus) (s : Dev) : (setFec b x s).sec = s.sec := rfl
@[simp] theorem setFec_jtag (b : Nat) (x : FecBus) (s : Dev) : (setFec b x s).jtag = s.jtag := rfl
@[simp] theorem setFec_out (b : Nat) (x : FecBus) (s : Dev) : (setFec b x s).out = s.out := rfl
@[simp] theorem setFec_freeCtr (b : Nat) (x : FecBus) (s : Dev) : (setFec b x s).freeCtr = s.freeCtr := rfl

/-! ### setCal -/

@[simp] theorem setCal_ts (b : Nat) (x : CalSt) (s : Dev) : (setCal b x s).ts = s.ts := rfl
@[simp] theorem setCal_mcRegs (b : Nat) (x : CalSt) (s : Dev) : (setCal b x s).mcRegs = s.mcRegs := rfl
@[simp] theorem setCal_clk (b : Nat) (x : CalSt) (s : Dev) : (setCal b x s).clk = s.clk := rfl
@[simp] theorem setCal_aon (b : Nat) (x : CalSt) (s : Dev) : (setCal b x s).aon = s.aon := rfl
@[simp] theorem setCal_regs (b : Nat) (x : CalSt) (s : Dev) : (setCal b x s).regs = s.regs := rfl
@[simp] theorem setCal_snap (b : Nat) (x : CalSt) (s : Dev) : (setCal b x s).snap = s.snap := rfl
@[simp] theorem setCal_frozen (b : Nat) (x : CalSt) (s : Dev) : (setCal b x s).frozen = s.frozen := rfl
@[simp] theorem setCal_resetting (b : Nat) (x : CalSt) (s : Dev) : (setCal b x s).resetting = s.resetting := rfl
@[simp] theorem setCal_mem (b : Nat) (x : CalSt) (s : Dev) : (setCal b x s).mem = s.mem := rfl
@[simp] theorem setCal_flash (b : Nat) (x : CalSt) (s : Dev) : (setCal b x s).flash = s.flash := rfl
@[simp] theorem setCal_paths (b : Nat) (x : CalSt) (s : Dev) : (setCal b x s).paths = s.paths := rfl
@[simp] theorem setCal_lanes (b : Nat) (x : CalSt) (s : Dev) : (setCal b x s).lanes = s.lanes := rfl
@[simp] theorem setCal_fec (b : Nat) (x : CalSt) (s : Dev) : (setCal b x s).fec = s.fec := rfl
@[simp] theorem setCal_adj (b : Nat) (x : CalSt) (s : Dev) : (setCal b x s).adj = s.adj := rfl
@[simp] theorem setCal_tsets (b : Nat) (x : CalSt) (s : Dev) : (setCal b x s).tsets = s.tsets := rfl
@[simp] theorem setCal_holds (b : Nat) (x : CalSt) (s : Dev) : (setCal b x s).holds = s.holds := rfl
@[simp] theorem setCal_fur (b : Nat) (x : CalSt) (s : Dev) : (setCal b x s).fur = s.fur := rfl
@[simp] theorem setCal_rowHist (b : Nat) (x : CalSt) (s : Dev) : (setCal b x s).rowHist = s.rowHist := rfl
@[simp] theorem setCal_ovl (b : Nat) (x : CalSt) (s : Dev) : (setCal b x s).ovl = s.ovl := rfl
@[simp] theorem setCal_pci (b : Nat) (x : CalSt) (s : Dev) : (setCal b x s).pci = s.pci := rfl
@[simp] theorem setCal_eth (b : Nat) (x : CalSt) (s : Dev) : (setCal b x s).eth = s.eth := rfl
@[simp] theorem setCal_smb (b : Nat) (x : CalSt) (s : Dev) : (setCal b x s).smb = s.smb := rfl
@[simp] theorem setCal_xsp (b : Nat) (x : CalSt) (s : Dev) : (setCal b x s).xsp = s.xsp := rfl
@[simp] theorem setCal_ueT (b : Nat) (x : CalSt) (s : Dev) : (setCal b x s).ueT = s.ueT := rfl
@[simp] theorem setCal_ceT (b : Nat) (x : CalSt) (s : Dev) : (setCal b x s).ceT = s.ceT := rfl
@[simp] theorem setCal_tagPeak (b : Nat) (x : CalSt) (s : Dev) : (setCal b x s).tagPeak = s.tagPeak := rfl
@[simp] theorem setCal_scrub (b : Nat) (x : CalSt) (s : Dev) : (setCal b x s).scrub = s.scrub := rfl
@[simp] theorem setCal_memOut (b : Nat) (x : CalSt) (s : Dev) : (setCal b x s).memOut = s.memOut := rfl
@[simp] theorem setCal_grn (b : Nat) (x : CalSt) (s : Dev) : (setCal b x s).grn = s.grn := rfl
@[simp] theorem setCal_flw (b : Nat) (x : CalSt) (s : Dev) : (setCal b x s).flw = s.flw := rfl
@[simp] theorem setCal_fwBuild (b : Nat) (x : CalSt) (s : Dev) : (setCal b x s).fwBuild = s.fwBuild := rfl
@[simp] theorem setCal_gln (b : Nat) (x : CalSt) (s : Dev) : (setCal b x s).gln = s.gln := rfl
@[simp] theorem setCal_acq (b : Nat) (x : CalSt) (s : Dev) : (setCal b x s).acq = s.acq := rfl
@[simp] theorem setCal_tim (b : Nat) (x : CalSt) (s : Dev) : (setCal b x s).tim = s.tim := rfl
@[simp] theorem setCal_fen (b : Nat) (x : CalSt) (s : Dev) : (setCal b x s).fen = s.fen := rfl
@[simp] theorem setCal_hdl (b : Nat) (x : CalSt) (s : Dev) : (setCal b x s).hdl = s.hdl := rfl
@[simp] theorem setCal_drl (b : Nat) (x : CalSt) (s : Dev) : (setCal b x s).drl = s.drl := rfl
@[simp] theorem setCal_mks (b : Nat) (x : CalSt) (s : Dev) : (setCal b x s).mks = s.mks := rfl
@[simp] theorem setCal_lists (b : Nat) (x : CalSt) (s : Dev) : (setCal b x s).lists = s.lists := rfl
@[simp] theorem setCal_syncOut (b : Nat) (x : CalSt) (s : Dev) : (setCal b x s).syncOut = s.syncOut := rfl
@[simp] theorem setCal_rmp (b : Nat) (x : CalSt) (s : Dev) : (setCal b x s).rmp = s.rmp := rfl
@[simp] theorem setCal_standby (b : Nat) (x : CalSt) (s : Dev) : (setCal b x s).standby = s.standby := rfl
@[simp] theorem setCal_wakeReq (b : Nat) (x : CalSt) (s : Dev) : (setCal b x s).wakeReq = s.wakeReq := rfl
@[simp] theorem setCal_ueNow (b : Nat) (x : CalSt) (s : Dev) : (setCal b x s).ueNow = s.ueNow := rfl
@[simp] theorem setCal_wakeT (b : Nat) (x : CalSt) (s : Dev) : (setCal b x s).wakeT = s.wakeT := rfl
@[simp] theorem setCal_aonT (b : Nat) (x : CalSt) (s : Dev) : (setCal b x s).aonT = s.aonT := rfl
@[simp] theorem setCal_cold (b : Nat) (x : CalSt) (s : Dev) : (setCal b x s).cold = s.cold := rfl
@[simp] theorem setCal_syncEv (b : Nat) (x : CalSt) (s : Dev) : (setCal b x s).syncEv = s.syncEv := rfl
@[simp] theorem setCal_flt (b : Nat) (x : CalSt) (s : Dev) : (setCal b x s).flt = s.flt := rfl
@[simp] theorem setCal_hmk (b : Nat) (x : CalSt) (s : Dev) : (setCal b x s).hmk = s.hmk := rfl
@[simp] theorem setCal_opMc (b : Nat) (x : CalSt) (s : Dev) : (setCal b x s).opMc = s.opMc := rfl
@[simp] theorem setCal_raised (b : Nat) (x : CalSt) (s : Dev) : (setCal b x s).raised = s.raised := rfl
@[simp] theorem setCal_fieldMc (b : Nat) (x : CalSt) (s : Dev) : (setCal b x s).fieldMc = s.fieldMc := rfl
@[simp] theorem setCal_spareKeep (b : Nat) (x : CalSt) (s : Dev) : (setCal b x s).spareKeep = s.spareKeep := rfl
@[simp] theorem setCal_sw (b : Nat) (x : CalSt) (s : Dev) : (setCal b x s).sw = s.sw := rfl
@[simp] theorem setCal_rstLow (b : Nat) (x : CalSt) (s : Dev) : (setCal b x s).rstLow = s.rstLow := rfl
@[simp] theorem setCal_booting (b : Nat) (x : CalSt) (s : Dev) : (setCal b x s).booting = s.booting := rfl
@[simp] theorem setCal_bootT (b : Nat) (x : CalSt) (s : Dev) : (setCal b x s).bootT = s.bootT := rfl
@[simp] theorem setCal_sec (b : Nat) (x : CalSt) (s : Dev) : (setCal b x s).sec = s.sec := rfl
@[simp] theorem setCal_jtag (b : Nat) (x : CalSt) (s : Dev) : (setCal b x s).jtag = s.jtag := rfl
@[simp] theorem setCal_out (b : Nat) (x : CalSt) (s : Dev) : (setCal b x s).out = s.out := rfl
@[simp] theorem setCal_freeCtr (b : Nat) (x : CalSt) (s : Dev) : (setCal b x s).freeCtr = s.freeCtr := rfl

/-! ### setHold -/

@[simp] theorem setHold_ts (i : Nat) (x : Hold) (s : Dev) : (setHold i x s).ts = s.ts := rfl
@[simp] theorem setHold_mcRegs (i : Nat) (x : Hold) (s : Dev) : (setHold i x s).mcRegs = s.mcRegs := rfl
@[simp] theorem setHold_clk (i : Nat) (x : Hold) (s : Dev) : (setHold i x s).clk = s.clk := rfl
@[simp] theorem setHold_aon (i : Nat) (x : Hold) (s : Dev) : (setHold i x s).aon = s.aon := rfl
@[simp] theorem setHold_regs (i : Nat) (x : Hold) (s : Dev) : (setHold i x s).regs = s.regs := rfl
@[simp] theorem setHold_snap (i : Nat) (x : Hold) (s : Dev) : (setHold i x s).snap = s.snap := rfl
@[simp] theorem setHold_frozen (i : Nat) (x : Hold) (s : Dev) : (setHold i x s).frozen = s.frozen := rfl
@[simp] theorem setHold_resetting (i : Nat) (x : Hold) (s : Dev) : (setHold i x s).resetting = s.resetting := rfl
@[simp] theorem setHold_mem (i : Nat) (x : Hold) (s : Dev) : (setHold i x s).mem = s.mem := rfl
@[simp] theorem setHold_flash (i : Nat) (x : Hold) (s : Dev) : (setHold i x s).flash = s.flash := rfl
@[simp] theorem setHold_paths (i : Nat) (x : Hold) (s : Dev) : (setHold i x s).paths = s.paths := rfl
@[simp] theorem setHold_lanes (i : Nat) (x : Hold) (s : Dev) : (setHold i x s).lanes = s.lanes := rfl
@[simp] theorem setHold_fec (i : Nat) (x : Hold) (s : Dev) : (setHold i x s).fec = s.fec := rfl
@[simp] theorem setHold_cal (i : Nat) (x : Hold) (s : Dev) : (setHold i x s).cal = s.cal := rfl
@[simp] theorem setHold_adj (i : Nat) (x : Hold) (s : Dev) : (setHold i x s).adj = s.adj := rfl
@[simp] theorem setHold_tsets (i : Nat) (x : Hold) (s : Dev) : (setHold i x s).tsets = s.tsets := rfl
@[simp] theorem setHold_fur (i : Nat) (x : Hold) (s : Dev) : (setHold i x s).fur = s.fur := rfl
@[simp] theorem setHold_rowHist (i : Nat) (x : Hold) (s : Dev) : (setHold i x s).rowHist = s.rowHist := rfl
@[simp] theorem setHold_ovl (i : Nat) (x : Hold) (s : Dev) : (setHold i x s).ovl = s.ovl := rfl
@[simp] theorem setHold_pci (i : Nat) (x : Hold) (s : Dev) : (setHold i x s).pci = s.pci := rfl
@[simp] theorem setHold_eth (i : Nat) (x : Hold) (s : Dev) : (setHold i x s).eth = s.eth := rfl
@[simp] theorem setHold_smb (i : Nat) (x : Hold) (s : Dev) : (setHold i x s).smb = s.smb := rfl
@[simp] theorem setHold_xsp (i : Nat) (x : Hold) (s : Dev) : (setHold i x s).xsp = s.xsp := rfl
@[simp] theorem setHold_ueT (i : Nat) (x : Hold) (s : Dev) : (setHold i x s).ueT = s.ueT := rfl
@[simp] theorem setHold_ceT (i : Nat) (x : Hold) (s : Dev) : (setHold i x s).ceT = s.ceT := rfl
@[simp] theorem setHold_tagPeak (i : Nat) (x : Hold) (s : Dev) : (setHold i x s).tagPeak = s.tagPeak := rfl
@[simp] theorem setHold_scrub (i : Nat) (x : Hold) (s : Dev) : (setHold i x s).scrub = s.scrub := rfl
@[simp] theorem setHold_memOut (i : Nat) (x : Hold) (s : Dev) : (setHold i x s).memOut = s.memOut := rfl
@[simp] theorem setHold_grn (i : Nat) (x : Hold) (s : Dev) : (setHold i x s).grn = s.grn := rfl
@[simp] theorem setHold_flw (i : Nat) (x : Hold) (s : Dev) : (setHold i x s).flw = s.flw := rfl
@[simp] theorem setHold_fwBuild (i : Nat) (x : Hold) (s : Dev) : (setHold i x s).fwBuild = s.fwBuild := rfl
@[simp] theorem setHold_gln (i : Nat) (x : Hold) (s : Dev) : (setHold i x s).gln = s.gln := rfl
@[simp] theorem setHold_acq (i : Nat) (x : Hold) (s : Dev) : (setHold i x s).acq = s.acq := rfl
@[simp] theorem setHold_tim (i : Nat) (x : Hold) (s : Dev) : (setHold i x s).tim = s.tim := rfl
@[simp] theorem setHold_fen (i : Nat) (x : Hold) (s : Dev) : (setHold i x s).fen = s.fen := rfl
@[simp] theorem setHold_hdl (i : Nat) (x : Hold) (s : Dev) : (setHold i x s).hdl = s.hdl := rfl
@[simp] theorem setHold_drl (i : Nat) (x : Hold) (s : Dev) : (setHold i x s).drl = s.drl := rfl
@[simp] theorem setHold_mks (i : Nat) (x : Hold) (s : Dev) : (setHold i x s).mks = s.mks := rfl
@[simp] theorem setHold_lists (i : Nat) (x : Hold) (s : Dev) : (setHold i x s).lists = s.lists := rfl
@[simp] theorem setHold_syncOut (i : Nat) (x : Hold) (s : Dev) : (setHold i x s).syncOut = s.syncOut := rfl
@[simp] theorem setHold_rmp (i : Nat) (x : Hold) (s : Dev) : (setHold i x s).rmp = s.rmp := rfl
@[simp] theorem setHold_standby (i : Nat) (x : Hold) (s : Dev) : (setHold i x s).standby = s.standby := rfl
@[simp] theorem setHold_wakeReq (i : Nat) (x : Hold) (s : Dev) : (setHold i x s).wakeReq = s.wakeReq := rfl
@[simp] theorem setHold_ueNow (i : Nat) (x : Hold) (s : Dev) : (setHold i x s).ueNow = s.ueNow := rfl
@[simp] theorem setHold_wakeT (i : Nat) (x : Hold) (s : Dev) : (setHold i x s).wakeT = s.wakeT := rfl
@[simp] theorem setHold_aonT (i : Nat) (x : Hold) (s : Dev) : (setHold i x s).aonT = s.aonT := rfl
@[simp] theorem setHold_cold (i : Nat) (x : Hold) (s : Dev) : (setHold i x s).cold = s.cold := rfl
@[simp] theorem setHold_syncEv (i : Nat) (x : Hold) (s : Dev) : (setHold i x s).syncEv = s.syncEv := rfl
@[simp] theorem setHold_flt (i : Nat) (x : Hold) (s : Dev) : (setHold i x s).flt = s.flt := rfl
@[simp] theorem setHold_hmk (i : Nat) (x : Hold) (s : Dev) : (setHold i x s).hmk = s.hmk := rfl
@[simp] theorem setHold_opMc (i : Nat) (x : Hold) (s : Dev) : (setHold i x s).opMc = s.opMc := rfl
@[simp] theorem setHold_raised (i : Nat) (x : Hold) (s : Dev) : (setHold i x s).raised = s.raised := rfl
@[simp] theorem setHold_fieldMc (i : Nat) (x : Hold) (s : Dev) : (setHold i x s).fieldMc = s.fieldMc := rfl
@[simp] theorem setHold_spareKeep (i : Nat) (x : Hold) (s : Dev) : (setHold i x s).spareKeep = s.spareKeep := rfl
@[simp] theorem setHold_sw (i : Nat) (x : Hold) (s : Dev) : (setHold i x s).sw = s.sw := rfl
@[simp] theorem setHold_rstLow (i : Nat) (x : Hold) (s : Dev) : (setHold i x s).rstLow = s.rstLow := rfl
@[simp] theorem setHold_booting (i : Nat) (x : Hold) (s : Dev) : (setHold i x s).booting = s.booting := rfl
@[simp] theorem setHold_bootT (i : Nat) (x : Hold) (s : Dev) : (setHold i x s).bootT = s.bootT := rfl
@[simp] theorem setHold_sec (i : Nat) (x : Hold) (s : Dev) : (setHold i x s).sec = s.sec := rfl
@[simp] theorem setHold_jtag (i : Nat) (x : Hold) (s : Dev) : (setHold i x s).jtag = s.jtag := rfl
@[simp] theorem setHold_out (i : Nat) (x : Hold) (s : Dev) : (setHold i x s).out = s.out := rfl
@[simp] theorem setHold_freeCtr (i : Nat) (x : Hold) (s : Dev) : (setHold i x s).freeCtr = s.freeCtr := rfl

/-! ### setFur -/

@[simp] theorem setFur_ts (e : Nat) (x : Furrow) (s : Dev) : (setFur e x s).ts = s.ts := rfl
@[simp] theorem setFur_mcRegs (e : Nat) (x : Furrow) (s : Dev) : (setFur e x s).mcRegs = s.mcRegs := rfl
@[simp] theorem setFur_clk (e : Nat) (x : Furrow) (s : Dev) : (setFur e x s).clk = s.clk := rfl
@[simp] theorem setFur_aon (e : Nat) (x : Furrow) (s : Dev) : (setFur e x s).aon = s.aon := rfl
@[simp] theorem setFur_regs (e : Nat) (x : Furrow) (s : Dev) : (setFur e x s).regs = s.regs := rfl
@[simp] theorem setFur_snap (e : Nat) (x : Furrow) (s : Dev) : (setFur e x s).snap = s.snap := rfl
@[simp] theorem setFur_frozen (e : Nat) (x : Furrow) (s : Dev) : (setFur e x s).frozen = s.frozen := rfl
@[simp] theorem setFur_resetting (e : Nat) (x : Furrow) (s : Dev) : (setFur e x s).resetting = s.resetting := rfl
@[simp] theorem setFur_mem (e : Nat) (x : Furrow) (s : Dev) : (setFur e x s).mem = s.mem := rfl
@[simp] theorem setFur_flash (e : Nat) (x : Furrow) (s : Dev) : (setFur e x s).flash = s.flash := rfl
@[simp] theorem setFur_paths (e : Nat) (x : Furrow) (s : Dev) : (setFur e x s).paths = s.paths := rfl
@[simp] theorem setFur_lanes (e : Nat) (x : Furrow) (s : Dev) : (setFur e x s).lanes = s.lanes := rfl
@[simp] theorem setFur_fec (e : Nat) (x : Furrow) (s : Dev) : (setFur e x s).fec = s.fec := rfl
@[simp] theorem setFur_cal (e : Nat) (x : Furrow) (s : Dev) : (setFur e x s).cal = s.cal := rfl
@[simp] theorem setFur_adj (e : Nat) (x : Furrow) (s : Dev) : (setFur e x s).adj = s.adj := rfl
@[simp] theorem setFur_tsets (e : Nat) (x : Furrow) (s : Dev) : (setFur e x s).tsets = s.tsets := rfl
@[simp] theorem setFur_holds (e : Nat) (x : Furrow) (s : Dev) : (setFur e x s).holds = s.holds := rfl
@[simp] theorem setFur_rowHist (e : Nat) (x : Furrow) (s : Dev) : (setFur e x s).rowHist = s.rowHist := rfl
@[simp] theorem setFur_ovl (e : Nat) (x : Furrow) (s : Dev) : (setFur e x s).ovl = s.ovl := rfl
@[simp] theorem setFur_pci (e : Nat) (x : Furrow) (s : Dev) : (setFur e x s).pci = s.pci := rfl
@[simp] theorem setFur_eth (e : Nat) (x : Furrow) (s : Dev) : (setFur e x s).eth = s.eth := rfl
@[simp] theorem setFur_smb (e : Nat) (x : Furrow) (s : Dev) : (setFur e x s).smb = s.smb := rfl
@[simp] theorem setFur_xsp (e : Nat) (x : Furrow) (s : Dev) : (setFur e x s).xsp = s.xsp := rfl
@[simp] theorem setFur_ueT (e : Nat) (x : Furrow) (s : Dev) : (setFur e x s).ueT = s.ueT := rfl
@[simp] theorem setFur_ceT (e : Nat) (x : Furrow) (s : Dev) : (setFur e x s).ceT = s.ceT := rfl
@[simp] theorem setFur_tagPeak (e : Nat) (x : Furrow) (s : Dev) : (setFur e x s).tagPeak = s.tagPeak := rfl
@[simp] theorem setFur_scrub (e : Nat) (x : Furrow) (s : Dev) : (setFur e x s).scrub = s.scrub := rfl
@[simp] theorem setFur_memOut (e : Nat) (x : Furrow) (s : Dev) : (setFur e x s).memOut = s.memOut := rfl
@[simp] theorem setFur_grn (e : Nat) (x : Furrow) (s : Dev) : (setFur e x s).grn = s.grn := rfl
@[simp] theorem setFur_flw (e : Nat) (x : Furrow) (s : Dev) : (setFur e x s).flw = s.flw := rfl
@[simp] theorem setFur_fwBuild (e : Nat) (x : Furrow) (s : Dev) : (setFur e x s).fwBuild = s.fwBuild := rfl
@[simp] theorem setFur_gln (e : Nat) (x : Furrow) (s : Dev) : (setFur e x s).gln = s.gln := rfl
@[simp] theorem setFur_acq (e : Nat) (x : Furrow) (s : Dev) : (setFur e x s).acq = s.acq := rfl
@[simp] theorem setFur_tim (e : Nat) (x : Furrow) (s : Dev) : (setFur e x s).tim = s.tim := rfl
@[simp] theorem setFur_fen (e : Nat) (x : Furrow) (s : Dev) : (setFur e x s).fen = s.fen := rfl
@[simp] theorem setFur_hdl (e : Nat) (x : Furrow) (s : Dev) : (setFur e x s).hdl = s.hdl := rfl
@[simp] theorem setFur_drl (e : Nat) (x : Furrow) (s : Dev) : (setFur e x s).drl = s.drl := rfl
@[simp] theorem setFur_mks (e : Nat) (x : Furrow) (s : Dev) : (setFur e x s).mks = s.mks := rfl
@[simp] theorem setFur_lists (e : Nat) (x : Furrow) (s : Dev) : (setFur e x s).lists = s.lists := rfl
@[simp] theorem setFur_syncOut (e : Nat) (x : Furrow) (s : Dev) : (setFur e x s).syncOut = s.syncOut := rfl
@[simp] theorem setFur_rmp (e : Nat) (x : Furrow) (s : Dev) : (setFur e x s).rmp = s.rmp := rfl
@[simp] theorem setFur_standby (e : Nat) (x : Furrow) (s : Dev) : (setFur e x s).standby = s.standby := rfl
@[simp] theorem setFur_wakeReq (e : Nat) (x : Furrow) (s : Dev) : (setFur e x s).wakeReq = s.wakeReq := rfl
@[simp] theorem setFur_ueNow (e : Nat) (x : Furrow) (s : Dev) : (setFur e x s).ueNow = s.ueNow := rfl
@[simp] theorem setFur_wakeT (e : Nat) (x : Furrow) (s : Dev) : (setFur e x s).wakeT = s.wakeT := rfl
@[simp] theorem setFur_aonT (e : Nat) (x : Furrow) (s : Dev) : (setFur e x s).aonT = s.aonT := rfl
@[simp] theorem setFur_cold (e : Nat) (x : Furrow) (s : Dev) : (setFur e x s).cold = s.cold := rfl
@[simp] theorem setFur_syncEv (e : Nat) (x : Furrow) (s : Dev) : (setFur e x s).syncEv = s.syncEv := rfl
@[simp] theorem setFur_flt (e : Nat) (x : Furrow) (s : Dev) : (setFur e x s).flt = s.flt := rfl
@[simp] theorem setFur_hmk (e : Nat) (x : Furrow) (s : Dev) : (setFur e x s).hmk = s.hmk := rfl
@[simp] theorem setFur_opMc (e : Nat) (x : Furrow) (s : Dev) : (setFur e x s).opMc = s.opMc := rfl
@[simp] theorem setFur_raised (e : Nat) (x : Furrow) (s : Dev) : (setFur e x s).raised = s.raised := rfl
@[simp] theorem setFur_fieldMc (e : Nat) (x : Furrow) (s : Dev) : (setFur e x s).fieldMc = s.fieldMc := rfl
@[simp] theorem setFur_spareKeep (e : Nat) (x : Furrow) (s : Dev) : (setFur e x s).spareKeep = s.spareKeep := rfl
@[simp] theorem setFur_sw (e : Nat) (x : Furrow) (s : Dev) : (setFur e x s).sw = s.sw := rfl
@[simp] theorem setFur_rstLow (e : Nat) (x : Furrow) (s : Dev) : (setFur e x s).rstLow = s.rstLow := rfl
@[simp] theorem setFur_booting (e : Nat) (x : Furrow) (s : Dev) : (setFur e x s).booting = s.booting := rfl
@[simp] theorem setFur_bootT (e : Nat) (x : Furrow) (s : Dev) : (setFur e x s).bootT = s.bootT := rfl
@[simp] theorem setFur_sec (e : Nat) (x : Furrow) (s : Dev) : (setFur e x s).sec = s.sec := rfl
@[simp] theorem setFur_jtag (e : Nat) (x : Furrow) (s : Dev) : (setFur e x s).jtag = s.jtag := rfl
@[simp] theorem setFur_out (e : Nat) (x : Furrow) (s : Dev) : (setFur e x s).out = s.out := rfl
@[simp] theorem setFur_freeCtr (e : Nat) (x : Furrow) (s : Dev) : (setFur e x s).freeCtr = s.freeCtr := rfl

/-! ### setTsWord -/

@[simp] theorem setTsWord_ts (l j w : Nat) (v : Word) (s : Dev) : (setTsWord l j w v s).ts = s.ts := rfl
@[simp] theorem setTsWord_mcRegs (l j w : Nat) (v : Word) (s : Dev) : (setTsWord l j w v s).mcRegs = s.mcRegs := rfl
@[simp] theorem setTsWord_clk (l j w : Nat) (v : Word) (s : Dev) : (setTsWord l j w v s).clk = s.clk := rfl
@[simp] theorem setTsWord_aon (l j w : Nat) (v : Word) (s : Dev) : (setTsWord l j w v s).aon = s.aon := rfl
@[simp] theorem setTsWord_regs (l j w : Nat) (v : Word) (s : Dev) : (setTsWord l j w v s).regs = s.regs := rfl
@[simp] theorem setTsWord_snap (l j w : Nat) (v : Word) (s : Dev) : (setTsWord l j w v s).snap = s.snap := rfl
@[simp] theorem setTsWord_frozen (l j w : Nat) (v : Word) (s : Dev) : (setTsWord l j w v s).frozen = s.frozen := rfl
@[simp] theorem setTsWord_resetting (l j w : Nat) (v : Word) (s : Dev) : (setTsWord l j w v s).resetting = s.resetting := rfl
@[simp] theorem setTsWord_mem (l j w : Nat) (v : Word) (s : Dev) : (setTsWord l j w v s).mem = s.mem := rfl
@[simp] theorem setTsWord_flash (l j w : Nat) (v : Word) (s : Dev) : (setTsWord l j w v s).flash = s.flash := rfl
@[simp] theorem setTsWord_paths (l j w : Nat) (v : Word) (s : Dev) : (setTsWord l j w v s).paths = s.paths := rfl
@[simp] theorem setTsWord_lanes (l j w : Nat) (v : Word) (s : Dev) : (setTsWord l j w v s).lanes = s.lanes := rfl
@[simp] theorem setTsWord_fec (l j w : Nat) (v : Word) (s : Dev) : (setTsWord l j w v s).fec = s.fec := rfl
@[simp] theorem setTsWord_cal (l j w : Nat) (v : Word) (s : Dev) : (setTsWord l j w v s).cal = s.cal := rfl
@[simp] theorem setTsWord_adj (l j w : Nat) (v : Word) (s : Dev) : (setTsWord l j w v s).adj = s.adj := rfl
@[simp] theorem setTsWord_holds (l j w : Nat) (v : Word) (s : Dev) : (setTsWord l j w v s).holds = s.holds := rfl
@[simp] theorem setTsWord_fur (l j w : Nat) (v : Word) (s : Dev) : (setTsWord l j w v s).fur = s.fur := rfl
@[simp] theorem setTsWord_rowHist (l j w : Nat) (v : Word) (s : Dev) : (setTsWord l j w v s).rowHist = s.rowHist := rfl
@[simp] theorem setTsWord_ovl (l j w : Nat) (v : Word) (s : Dev) : (setTsWord l j w v s).ovl = s.ovl := rfl
@[simp] theorem setTsWord_pci (l j w : Nat) (v : Word) (s : Dev) : (setTsWord l j w v s).pci = s.pci := rfl
@[simp] theorem setTsWord_eth (l j w : Nat) (v : Word) (s : Dev) : (setTsWord l j w v s).eth = s.eth := rfl
@[simp] theorem setTsWord_smb (l j w : Nat) (v : Word) (s : Dev) : (setTsWord l j w v s).smb = s.smb := rfl
@[simp] theorem setTsWord_xsp (l j w : Nat) (v : Word) (s : Dev) : (setTsWord l j w v s).xsp = s.xsp := rfl
@[simp] theorem setTsWord_ueT (l j w : Nat) (v : Word) (s : Dev) : (setTsWord l j w v s).ueT = s.ueT := rfl
@[simp] theorem setTsWord_ceT (l j w : Nat) (v : Word) (s : Dev) : (setTsWord l j w v s).ceT = s.ceT := rfl
@[simp] theorem setTsWord_tagPeak (l j w : Nat) (v : Word) (s : Dev) : (setTsWord l j w v s).tagPeak = s.tagPeak := rfl
@[simp] theorem setTsWord_scrub (l j w : Nat) (v : Word) (s : Dev) : (setTsWord l j w v s).scrub = s.scrub := rfl
@[simp] theorem setTsWord_memOut (l j w : Nat) (v : Word) (s : Dev) : (setTsWord l j w v s).memOut = s.memOut := rfl
@[simp] theorem setTsWord_grn (l j w : Nat) (v : Word) (s : Dev) : (setTsWord l j w v s).grn = s.grn := rfl
@[simp] theorem setTsWord_flw (l j w : Nat) (v : Word) (s : Dev) : (setTsWord l j w v s).flw = s.flw := rfl
@[simp] theorem setTsWord_fwBuild (l j w : Nat) (v : Word) (s : Dev) : (setTsWord l j w v s).fwBuild = s.fwBuild := rfl
@[simp] theorem setTsWord_gln (l j w : Nat) (v : Word) (s : Dev) : (setTsWord l j w v s).gln = s.gln := rfl
@[simp] theorem setTsWord_acq (l j w : Nat) (v : Word) (s : Dev) : (setTsWord l j w v s).acq = s.acq := rfl
@[simp] theorem setTsWord_tim (l j w : Nat) (v : Word) (s : Dev) : (setTsWord l j w v s).tim = s.tim := rfl
@[simp] theorem setTsWord_fen (l j w : Nat) (v : Word) (s : Dev) : (setTsWord l j w v s).fen = s.fen := rfl
@[simp] theorem setTsWord_hdl (l j w : Nat) (v : Word) (s : Dev) : (setTsWord l j w v s).hdl = s.hdl := rfl
@[simp] theorem setTsWord_drl (l j w : Nat) (v : Word) (s : Dev) : (setTsWord l j w v s).drl = s.drl := rfl
@[simp] theorem setTsWord_mks (l j w : Nat) (v : Word) (s : Dev) : (setTsWord l j w v s).mks = s.mks := rfl
@[simp] theorem setTsWord_lists (l j w : Nat) (v : Word) (s : Dev) : (setTsWord l j w v s).lists = s.lists := rfl
@[simp] theorem setTsWord_syncOut (l j w : Nat) (v : Word) (s : Dev) : (setTsWord l j w v s).syncOut = s.syncOut := rfl
@[simp] theorem setTsWord_rmp (l j w : Nat) (v : Word) (s : Dev) : (setTsWord l j w v s).rmp = s.rmp := rfl
@[simp] theorem setTsWord_standby (l j w : Nat) (v : Word) (s : Dev) : (setTsWord l j w v s).standby = s.standby := rfl
@[simp] theorem setTsWord_wakeReq (l j w : Nat) (v : Word) (s : Dev) : (setTsWord l j w v s).wakeReq = s.wakeReq := rfl
@[simp] theorem setTsWord_ueNow (l j w : Nat) (v : Word) (s : Dev) : (setTsWord l j w v s).ueNow = s.ueNow := rfl
@[simp] theorem setTsWord_wakeT (l j w : Nat) (v : Word) (s : Dev) : (setTsWord l j w v s).wakeT = s.wakeT := rfl
@[simp] theorem setTsWord_aonT (l j w : Nat) (v : Word) (s : Dev) : (setTsWord l j w v s).aonT = s.aonT := rfl
@[simp] theorem setTsWord_cold (l j w : Nat) (v : Word) (s : Dev) : (setTsWord l j w v s).cold = s.cold := rfl
@[simp] theorem setTsWord_syncEv (l j w : Nat) (v : Word) (s : Dev) : (setTsWord l j w v s).syncEv = s.syncEv := rfl
@[simp] theorem setTsWord_flt (l j w : Nat) (v : Word) (s : Dev) : (setTsWord l j w v s).flt = s.flt := rfl
@[simp] theorem setTsWord_hmk (l j w : Nat) (v : Word) (s : Dev) : (setTsWord l j w v s).hmk = s.hmk := rfl
@[simp] theorem setTsWord_opMc (l j w : Nat) (v : Word) (s : Dev) : (setTsWord l j w v s).opMc = s.opMc := rfl
@[simp] theorem setTsWord_raised (l j w : Nat) (v : Word) (s : Dev) : (setTsWord l j w v s).raised = s.raised := rfl
@[simp] theorem setTsWord_fieldMc (l j w : Nat) (v : Word) (s : Dev) : (setTsWord l j w v s).fieldMc = s.fieldMc := rfl
@[simp] theorem setTsWord_spareKeep (l j w : Nat) (v : Word) (s : Dev) : (setTsWord l j w v s).spareKeep = s.spareKeep := rfl
@[simp] theorem setTsWord_sw (l j w : Nat) (v : Word) (s : Dev) : (setTsWord l j w v s).sw = s.sw := rfl
@[simp] theorem setTsWord_rstLow (l j w : Nat) (v : Word) (s : Dev) : (setTsWord l j w v s).rstLow = s.rstLow := rfl
@[simp] theorem setTsWord_booting (l j w : Nat) (v : Word) (s : Dev) : (setTsWord l j w v s).booting = s.booting := rfl
@[simp] theorem setTsWord_bootT (l j w : Nat) (v : Word) (s : Dev) : (setTsWord l j w v s).bootT = s.bootT := rfl
@[simp] theorem setTsWord_sec (l j w : Nat) (v : Word) (s : Dev) : (setTsWord l j w v s).sec = s.sec := rfl
@[simp] theorem setTsWord_jtag (l j w : Nat) (v : Word) (s : Dev) : (setTsWord l j w v s).jtag = s.jtag := rfl
@[simp] theorem setTsWord_out (l j w : Nat) (v : Word) (s : Dev) : (setTsWord l j w v s).out = s.out := rfl
@[simp] theorem setTsWord_freeCtr (l j w : Nat) (v : Word) (s : Dev) : (setTsWord l j w v s).freeCtr = s.freeCtr := rfl

/-! ### setDrl -/

@[simp] theorem setDrl_ts (d : Nat) (x : Drill) (s : Dev) : (setDrl d x s).ts = s.ts := rfl
@[simp] theorem setDrl_mcRegs (d : Nat) (x : Drill) (s : Dev) : (setDrl d x s).mcRegs = s.mcRegs := rfl
@[simp] theorem setDrl_clk (d : Nat) (x : Drill) (s : Dev) : (setDrl d x s).clk = s.clk := rfl
@[simp] theorem setDrl_aon (d : Nat) (x : Drill) (s : Dev) : (setDrl d x s).aon = s.aon := rfl
@[simp] theorem setDrl_regs (d : Nat) (x : Drill) (s : Dev) : (setDrl d x s).regs = s.regs := rfl
@[simp] theorem setDrl_snap (d : Nat) (x : Drill) (s : Dev) : (setDrl d x s).snap = s.snap := rfl
@[simp] theorem setDrl_frozen (d : Nat) (x : Drill) (s : Dev) : (setDrl d x s).frozen = s.frozen := rfl
@[simp] theorem setDrl_resetting (d : Nat) (x : Drill) (s : Dev) : (setDrl d x s).resetting = s.resetting := rfl
@[simp] theorem setDrl_mem (d : Nat) (x : Drill) (s : Dev) : (setDrl d x s).mem = s.mem := rfl
@[simp] theorem setDrl_flash (d : Nat) (x : Drill) (s : Dev) : (setDrl d x s).flash = s.flash := rfl
@[simp] theorem setDrl_paths (d : Nat) (x : Drill) (s : Dev) : (setDrl d x s).paths = s.paths := rfl
@[simp] theorem setDrl_lanes (d : Nat) (x : Drill) (s : Dev) : (setDrl d x s).lanes = s.lanes := rfl
@[simp] theorem setDrl_fec (d : Nat) (x : Drill) (s : Dev) : (setDrl d x s).fec = s.fec := rfl
@[simp] theorem setDrl_cal (d : Nat) (x : Drill) (s : Dev) : (setDrl d x s).cal = s.cal := rfl
@[simp] theorem setDrl_adj (d : Nat) (x : Drill) (s : Dev) : (setDrl d x s).adj = s.adj := rfl
@[simp] theorem setDrl_tsets (d : Nat) (x : Drill) (s : Dev) : (setDrl d x s).tsets = s.tsets := rfl
@[simp] theorem setDrl_holds (d : Nat) (x : Drill) (s : Dev) : (setDrl d x s).holds = s.holds := rfl
@[simp] theorem setDrl_fur (d : Nat) (x : Drill) (s : Dev) : (setDrl d x s).fur = s.fur := rfl
@[simp] theorem setDrl_rowHist (d : Nat) (x : Drill) (s : Dev) : (setDrl d x s).rowHist = s.rowHist := rfl
@[simp] theorem setDrl_ovl (d : Nat) (x : Drill) (s : Dev) : (setDrl d x s).ovl = s.ovl := rfl
@[simp] theorem setDrl_pci (d : Nat) (x : Drill) (s : Dev) : (setDrl d x s).pci = s.pci := rfl
@[simp] theorem setDrl_eth (d : Nat) (x : Drill) (s : Dev) : (setDrl d x s).eth = s.eth := rfl
@[simp] theorem setDrl_smb (d : Nat) (x : Drill) (s : Dev) : (setDrl d x s).smb = s.smb := rfl
@[simp] theorem setDrl_xsp (d : Nat) (x : Drill) (s : Dev) : (setDrl d x s).xsp = s.xsp := rfl
@[simp] theorem setDrl_ueT (d : Nat) (x : Drill) (s : Dev) : (setDrl d x s).ueT = s.ueT := rfl
@[simp] theorem setDrl_ceT (d : Nat) (x : Drill) (s : Dev) : (setDrl d x s).ceT = s.ceT := rfl
@[simp] theorem setDrl_tagPeak (d : Nat) (x : Drill) (s : Dev) : (setDrl d x s).tagPeak = s.tagPeak := rfl
@[simp] theorem setDrl_scrub (d : Nat) (x : Drill) (s : Dev) : (setDrl d x s).scrub = s.scrub := rfl
@[simp] theorem setDrl_memOut (d : Nat) (x : Drill) (s : Dev) : (setDrl d x s).memOut = s.memOut := rfl
@[simp] theorem setDrl_grn (d : Nat) (x : Drill) (s : Dev) : (setDrl d x s).grn = s.grn := rfl
@[simp] theorem setDrl_flw (d : Nat) (x : Drill) (s : Dev) : (setDrl d x s).flw = s.flw := rfl
@[simp] theorem setDrl_fwBuild (d : Nat) (x : Drill) (s : Dev) : (setDrl d x s).fwBuild = s.fwBuild := rfl
@[simp] theorem setDrl_gln (d : Nat) (x : Drill) (s : Dev) : (setDrl d x s).gln = s.gln := rfl
@[simp] theorem setDrl_acq (d : Nat) (x : Drill) (s : Dev) : (setDrl d x s).acq = s.acq := rfl
@[simp] theorem setDrl_tim (d : Nat) (x : Drill) (s : Dev) : (setDrl d x s).tim = s.tim := rfl
@[simp] theorem setDrl_fen (d : Nat) (x : Drill) (s : Dev) : (setDrl d x s).fen = s.fen := rfl
@[simp] theorem setDrl_hdl (d : Nat) (x : Drill) (s : Dev) : (setDrl d x s).hdl = s.hdl := rfl
@[simp] theorem setDrl_mks (d : Nat) (x : Drill) (s : Dev) : (setDrl d x s).mks = s.mks := rfl
@[simp] theorem setDrl_lists (d : Nat) (x : Drill) (s : Dev) : (setDrl d x s).lists = s.lists := rfl
@[simp] theorem setDrl_syncOut (d : Nat) (x : Drill) (s : Dev) : (setDrl d x s).syncOut = s.syncOut := rfl
@[simp] theorem setDrl_rmp (d : Nat) (x : Drill) (s : Dev) : (setDrl d x s).rmp = s.rmp := rfl
@[simp] theorem setDrl_standby (d : Nat) (x : Drill) (s : Dev) : (setDrl d x s).standby = s.standby := rfl
@[simp] theorem setDrl_wakeReq (d : Nat) (x : Drill) (s : Dev) : (setDrl d x s).wakeReq = s.wakeReq := rfl
@[simp] theorem setDrl_ueNow (d : Nat) (x : Drill) (s : Dev) : (setDrl d x s).ueNow = s.ueNow := rfl
@[simp] theorem setDrl_wakeT (d : Nat) (x : Drill) (s : Dev) : (setDrl d x s).wakeT = s.wakeT := rfl
@[simp] theorem setDrl_aonT (d : Nat) (x : Drill) (s : Dev) : (setDrl d x s).aonT = s.aonT := rfl
@[simp] theorem setDrl_cold (d : Nat) (x : Drill) (s : Dev) : (setDrl d x s).cold = s.cold := rfl
@[simp] theorem setDrl_syncEv (d : Nat) (x : Drill) (s : Dev) : (setDrl d x s).syncEv = s.syncEv := rfl
@[simp] theorem setDrl_flt (d : Nat) (x : Drill) (s : Dev) : (setDrl d x s).flt = s.flt := rfl
@[simp] theorem setDrl_hmk (d : Nat) (x : Drill) (s : Dev) : (setDrl d x s).hmk = s.hmk := rfl
@[simp] theorem setDrl_opMc (d : Nat) (x : Drill) (s : Dev) : (setDrl d x s).opMc = s.opMc := rfl
@[simp] theorem setDrl_raised (d : Nat) (x : Drill) (s : Dev) : (setDrl d x s).raised = s.raised := rfl
@[simp] theorem setDrl_fieldMc (d : Nat) (x : Drill) (s : Dev) : (setDrl d x s).fieldMc = s.fieldMc := rfl
@[simp] theorem setDrl_spareKeep (d : Nat) (x : Drill) (s : Dev) : (setDrl d x s).spareKeep = s.spareKeep := rfl
@[simp] theorem setDrl_sw (d : Nat) (x : Drill) (s : Dev) : (setDrl d x s).sw = s.sw := rfl
@[simp] theorem setDrl_rstLow (d : Nat) (x : Drill) (s : Dev) : (setDrl d x s).rstLow = s.rstLow := rfl
@[simp] theorem setDrl_booting (d : Nat) (x : Drill) (s : Dev) : (setDrl d x s).booting = s.booting := rfl
@[simp] theorem setDrl_bootT (d : Nat) (x : Drill) (s : Dev) : (setDrl d x s).bootT = s.bootT := rfl
@[simp] theorem setDrl_sec (d : Nat) (x : Drill) (s : Dev) : (setDrl d x s).sec = s.sec := rfl
@[simp] theorem setDrl_jtag (d : Nat) (x : Drill) (s : Dev) : (setDrl d x s).jtag = s.jtag := rfl
@[simp] theorem setDrl_out (d : Nat) (x : Drill) (s : Dev) : (setDrl d x s).out = s.out := rfl
@[simp] theorem setDrl_freeCtr (d : Nat) (x : Drill) (s : Dev) : (setDrl d x s).freeCtr = s.freeCtr := rfl

/-! ### setMk -/

@[simp] theorem setMk_ts (i : Nat) (x : Marker) (s : Dev) : (setMk i x s).ts = s.ts := rfl
@[simp] theorem setMk_mcRegs (i : Nat) (x : Marker) (s : Dev) : (setMk i x s).mcRegs = s.mcRegs := rfl
@[simp] theorem setMk_clk (i : Nat) (x : Marker) (s : Dev) : (setMk i x s).clk = s.clk := rfl
@[simp] theorem setMk_aon (i : Nat) (x : Marker) (s : Dev) : (setMk i x s).aon = s.aon := rfl
@[simp] theorem setMk_regs (i : Nat) (x : Marker) (s : Dev) : (setMk i x s).regs = s.regs := rfl
@[simp] theorem setMk_snap (i : Nat) (x : Marker) (s : Dev) : (setMk i x s).snap = s.snap := rfl
@[simp] theorem setMk_frozen (i : Nat) (x : Marker) (s : Dev) : (setMk i x s).frozen = s.frozen := rfl
@[simp] theorem setMk_resetting (i : Nat) (x : Marker) (s : Dev) : (setMk i x s).resetting = s.resetting := rfl
@[simp] theorem setMk_mem (i : Nat) (x : Marker) (s : Dev) : (setMk i x s).mem = s.mem := rfl
@[simp] theorem setMk_flash (i : Nat) (x : Marker) (s : Dev) : (setMk i x s).flash = s.flash := rfl
@[simp] theorem setMk_paths (i : Nat) (x : Marker) (s : Dev) : (setMk i x s).paths = s.paths := rfl
@[simp] theorem setMk_lanes (i : Nat) (x : Marker) (s : Dev) : (setMk i x s).lanes = s.lanes := rfl
@[simp] theorem setMk_fec (i : Nat) (x : Marker) (s : Dev) : (setMk i x s).fec = s.fec := rfl
@[simp] theorem setMk_cal (i : Nat) (x : Marker) (s : Dev) : (setMk i x s).cal = s.cal := rfl
@[simp] theorem setMk_adj (i : Nat) (x : Marker) (s : Dev) : (setMk i x s).adj = s.adj := rfl
@[simp] theorem setMk_tsets (i : Nat) (x : Marker) (s : Dev) : (setMk i x s).tsets = s.tsets := rfl
@[simp] theorem setMk_holds (i : Nat) (x : Marker) (s : Dev) : (setMk i x s).holds = s.holds := rfl
@[simp] theorem setMk_fur (i : Nat) (x : Marker) (s : Dev) : (setMk i x s).fur = s.fur := rfl
@[simp] theorem setMk_rowHist (i : Nat) (x : Marker) (s : Dev) : (setMk i x s).rowHist = s.rowHist := rfl
@[simp] theorem setMk_ovl (i : Nat) (x : Marker) (s : Dev) : (setMk i x s).ovl = s.ovl := rfl
@[simp] theorem setMk_pci (i : Nat) (x : Marker) (s : Dev) : (setMk i x s).pci = s.pci := rfl
@[simp] theorem setMk_eth (i : Nat) (x : Marker) (s : Dev) : (setMk i x s).eth = s.eth := rfl
@[simp] theorem setMk_smb (i : Nat) (x : Marker) (s : Dev) : (setMk i x s).smb = s.smb := rfl
@[simp] theorem setMk_xsp (i : Nat) (x : Marker) (s : Dev) : (setMk i x s).xsp = s.xsp := rfl
@[simp] theorem setMk_ueT (i : Nat) (x : Marker) (s : Dev) : (setMk i x s).ueT = s.ueT := rfl
@[simp] theorem setMk_ceT (i : Nat) (x : Marker) (s : Dev) : (setMk i x s).ceT = s.ceT := rfl
@[simp] theorem setMk_tagPeak (i : Nat) (x : Marker) (s : Dev) : (setMk i x s).tagPeak = s.tagPeak := rfl
@[simp] theorem setMk_scrub (i : Nat) (x : Marker) (s : Dev) : (setMk i x s).scrub = s.scrub := rfl
@[simp] theorem setMk_memOut (i : Nat) (x : Marker) (s : Dev) : (setMk i x s).memOut = s.memOut := rfl
@[simp] theorem setMk_grn (i : Nat) (x : Marker) (s : Dev) : (setMk i x s).grn = s.grn := rfl
@[simp] theorem setMk_flw (i : Nat) (x : Marker) (s : Dev) : (setMk i x s).flw = s.flw := rfl
@[simp] theorem setMk_fwBuild (i : Nat) (x : Marker) (s : Dev) : (setMk i x s).fwBuild = s.fwBuild := rfl
@[simp] theorem setMk_gln (i : Nat) (x : Marker) (s : Dev) : (setMk i x s).gln = s.gln := rfl
@[simp] theorem setMk_acq (i : Nat) (x : Marker) (s : Dev) : (setMk i x s).acq = s.acq := rfl
@[simp] theorem setMk_tim (i : Nat) (x : Marker) (s : Dev) : (setMk i x s).tim = s.tim := rfl
@[simp] theorem setMk_fen (i : Nat) (x : Marker) (s : Dev) : (setMk i x s).fen = s.fen := rfl
@[simp] theorem setMk_hdl (i : Nat) (x : Marker) (s : Dev) : (setMk i x s).hdl = s.hdl := rfl
@[simp] theorem setMk_drl (i : Nat) (x : Marker) (s : Dev) : (setMk i x s).drl = s.drl := rfl
@[simp] theorem setMk_lists (i : Nat) (x : Marker) (s : Dev) : (setMk i x s).lists = s.lists := rfl
@[simp] theorem setMk_syncOut (i : Nat) (x : Marker) (s : Dev) : (setMk i x s).syncOut = s.syncOut := rfl
@[simp] theorem setMk_rmp (i : Nat) (x : Marker) (s : Dev) : (setMk i x s).rmp = s.rmp := rfl
@[simp] theorem setMk_standby (i : Nat) (x : Marker) (s : Dev) : (setMk i x s).standby = s.standby := rfl
@[simp] theorem setMk_wakeReq (i : Nat) (x : Marker) (s : Dev) : (setMk i x s).wakeReq = s.wakeReq := rfl
@[simp] theorem setMk_ueNow (i : Nat) (x : Marker) (s : Dev) : (setMk i x s).ueNow = s.ueNow := rfl
@[simp] theorem setMk_wakeT (i : Nat) (x : Marker) (s : Dev) : (setMk i x s).wakeT = s.wakeT := rfl
@[simp] theorem setMk_aonT (i : Nat) (x : Marker) (s : Dev) : (setMk i x s).aonT = s.aonT := rfl
@[simp] theorem setMk_cold (i : Nat) (x : Marker) (s : Dev) : (setMk i x s).cold = s.cold := rfl
@[simp] theorem setMk_syncEv (i : Nat) (x : Marker) (s : Dev) : (setMk i x s).syncEv = s.syncEv := rfl
@[simp] theorem setMk_flt (i : Nat) (x : Marker) (s : Dev) : (setMk i x s).flt = s.flt := rfl
@[simp] theorem setMk_hmk (i : Nat) (x : Marker) (s : Dev) : (setMk i x s).hmk = s.hmk := rfl
@[simp] theorem setMk_opMc (i : Nat) (x : Marker) (s : Dev) : (setMk i x s).opMc = s.opMc := rfl
@[simp] theorem setMk_raised (i : Nat) (x : Marker) (s : Dev) : (setMk i x s).raised = s.raised := rfl
@[simp] theorem setMk_fieldMc (i : Nat) (x : Marker) (s : Dev) : (setMk i x s).fieldMc = s.fieldMc := rfl
@[simp] theorem setMk_spareKeep (i : Nat) (x : Marker) (s : Dev) : (setMk i x s).spareKeep = s.spareKeep := rfl
@[simp] theorem setMk_sw (i : Nat) (x : Marker) (s : Dev) : (setMk i x s).sw = s.sw := rfl
@[simp] theorem setMk_rstLow (i : Nat) (x : Marker) (s : Dev) : (setMk i x s).rstLow = s.rstLow := rfl
@[simp] theorem setMk_booting (i : Nat) (x : Marker) (s : Dev) : (setMk i x s).booting = s.booting := rfl
@[simp] theorem setMk_bootT (i : Nat) (x : Marker) (s : Dev) : (setMk i x s).bootT = s.bootT := rfl
@[simp] theorem setMk_sec (i : Nat) (x : Marker) (s : Dev) : (setMk i x s).sec = s.sec := rfl
@[simp] theorem setMk_jtag (i : Nat) (x : Marker) (s : Dev) : (setMk i x s).jtag = s.jtag := rfl
@[simp] theorem setMk_out (i : Nat) (x : Marker) (s : Dev) : (setMk i x s).out = s.out := rfl
@[simp] theorem setMk_freeCtr (i : Nat) (x : Marker) (s : Dev) : (setMk i x s).freeCtr = s.freeCtr := rfl

/-! ### setRmp -/

@[simp] theorem setRmp_ts (r : Nat) (x : Ramp) (s : Dev) : (setRmp r x s).ts = s.ts := rfl
@[simp] theorem setRmp_mcRegs (r : Nat) (x : Ramp) (s : Dev) : (setRmp r x s).mcRegs = s.mcRegs := rfl
@[simp] theorem setRmp_clk (r : Nat) (x : Ramp) (s : Dev) : (setRmp r x s).clk = s.clk := rfl
@[simp] theorem setRmp_aon (r : Nat) (x : Ramp) (s : Dev) : (setRmp r x s).aon = s.aon := rfl
@[simp] theorem setRmp_regs (r : Nat) (x : Ramp) (s : Dev) : (setRmp r x s).regs = s.regs := rfl
@[simp] theorem setRmp_snap (r : Nat) (x : Ramp) (s : Dev) : (setRmp r x s).snap = s.snap := rfl
@[simp] theorem setRmp_frozen (r : Nat) (x : Ramp) (s : Dev) : (setRmp r x s).frozen = s.frozen := rfl
@[simp] theorem setRmp_resetting (r : Nat) (x : Ramp) (s : Dev) : (setRmp r x s).resetting = s.resetting := rfl
@[simp] theorem setRmp_mem (r : Nat) (x : Ramp) (s : Dev) : (setRmp r x s).mem = s.mem := rfl
@[simp] theorem setRmp_flash (r : Nat) (x : Ramp) (s : Dev) : (setRmp r x s).flash = s.flash := rfl
@[simp] theorem setRmp_paths (r : Nat) (x : Ramp) (s : Dev) : (setRmp r x s).paths = s.paths := rfl
@[simp] theorem setRmp_lanes (r : Nat) (x : Ramp) (s : Dev) : (setRmp r x s).lanes = s.lanes := rfl
@[simp] theorem setRmp_fec (r : Nat) (x : Ramp) (s : Dev) : (setRmp r x s).fec = s.fec := rfl
@[simp] theorem setRmp_cal (r : Nat) (x : Ramp) (s : Dev) : (setRmp r x s).cal = s.cal := rfl
@[simp] theorem setRmp_adj (r : Nat) (x : Ramp) (s : Dev) : (setRmp r x s).adj = s.adj := rfl
@[simp] theorem setRmp_tsets (r : Nat) (x : Ramp) (s : Dev) : (setRmp r x s).tsets = s.tsets := rfl
@[simp] theorem setRmp_holds (r : Nat) (x : Ramp) (s : Dev) : (setRmp r x s).holds = s.holds := rfl
@[simp] theorem setRmp_fur (r : Nat) (x : Ramp) (s : Dev) : (setRmp r x s).fur = s.fur := rfl
@[simp] theorem setRmp_rowHist (r : Nat) (x : Ramp) (s : Dev) : (setRmp r x s).rowHist = s.rowHist := rfl
@[simp] theorem setRmp_ovl (r : Nat) (x : Ramp) (s : Dev) : (setRmp r x s).ovl = s.ovl := rfl
@[simp] theorem setRmp_pci (r : Nat) (x : Ramp) (s : Dev) : (setRmp r x s).pci = s.pci := rfl
@[simp] theorem setRmp_eth (r : Nat) (x : Ramp) (s : Dev) : (setRmp r x s).eth = s.eth := rfl
@[simp] theorem setRmp_smb (r : Nat) (x : Ramp) (s : Dev) : (setRmp r x s).smb = s.smb := rfl
@[simp] theorem setRmp_xsp (r : Nat) (x : Ramp) (s : Dev) : (setRmp r x s).xsp = s.xsp := rfl
@[simp] theorem setRmp_ueT (r : Nat) (x : Ramp) (s : Dev) : (setRmp r x s).ueT = s.ueT := rfl
@[simp] theorem setRmp_ceT (r : Nat) (x : Ramp) (s : Dev) : (setRmp r x s).ceT = s.ceT := rfl
@[simp] theorem setRmp_tagPeak (r : Nat) (x : Ramp) (s : Dev) : (setRmp r x s).tagPeak = s.tagPeak := rfl
@[simp] theorem setRmp_scrub (r : Nat) (x : Ramp) (s : Dev) : (setRmp r x s).scrub = s.scrub := rfl
@[simp] theorem setRmp_memOut (r : Nat) (x : Ramp) (s : Dev) : (setRmp r x s).memOut = s.memOut := rfl
@[simp] theorem setRmp_grn (r : Nat) (x : Ramp) (s : Dev) : (setRmp r x s).grn = s.grn := rfl
@[simp] theorem setRmp_flw (r : Nat) (x : Ramp) (s : Dev) : (setRmp r x s).flw = s.flw := rfl
@[simp] theorem setRmp_fwBuild (r : Nat) (x : Ramp) (s : Dev) : (setRmp r x s).fwBuild = s.fwBuild := rfl
@[simp] theorem setRmp_gln (r : Nat) (x : Ramp) (s : Dev) : (setRmp r x s).gln = s.gln := rfl
@[simp] theorem setRmp_acq (r : Nat) (x : Ramp) (s : Dev) : (setRmp r x s).acq = s.acq := rfl
@[simp] theorem setRmp_tim (r : Nat) (x : Ramp) (s : Dev) : (setRmp r x s).tim = s.tim := rfl
@[simp] theorem setRmp_fen (r : Nat) (x : Ramp) (s : Dev) : (setRmp r x s).fen = s.fen := rfl
@[simp] theorem setRmp_hdl (r : Nat) (x : Ramp) (s : Dev) : (setRmp r x s).hdl = s.hdl := rfl
@[simp] theorem setRmp_drl (r : Nat) (x : Ramp) (s : Dev) : (setRmp r x s).drl = s.drl := rfl
@[simp] theorem setRmp_mks (r : Nat) (x : Ramp) (s : Dev) : (setRmp r x s).mks = s.mks := rfl
@[simp] theorem setRmp_lists (r : Nat) (x : Ramp) (s : Dev) : (setRmp r x s).lists = s.lists := rfl
@[simp] theorem setRmp_syncOut (r : Nat) (x : Ramp) (s : Dev) : (setRmp r x s).syncOut = s.syncOut := rfl
@[simp] theorem setRmp_standby (r : Nat) (x : Ramp) (s : Dev) : (setRmp r x s).standby = s.standby := rfl
@[simp] theorem setRmp_wakeReq (r : Nat) (x : Ramp) (s : Dev) : (setRmp r x s).wakeReq = s.wakeReq := rfl
@[simp] theorem setRmp_ueNow (r : Nat) (x : Ramp) (s : Dev) : (setRmp r x s).ueNow = s.ueNow := rfl
@[simp] theorem setRmp_wakeT (r : Nat) (x : Ramp) (s : Dev) : (setRmp r x s).wakeT = s.wakeT := rfl
@[simp] theorem setRmp_aonT (r : Nat) (x : Ramp) (s : Dev) : (setRmp r x s).aonT = s.aonT := rfl
@[simp] theorem setRmp_cold (r : Nat) (x : Ramp) (s : Dev) : (setRmp r x s).cold = s.cold := rfl
@[simp] theorem setRmp_syncEv (r : Nat) (x : Ramp) (s : Dev) : (setRmp r x s).syncEv = s.syncEv := rfl
@[simp] theorem setRmp_flt (r : Nat) (x : Ramp) (s : Dev) : (setRmp r x s).flt = s.flt := rfl
@[simp] theorem setRmp_hmk (r : Nat) (x : Ramp) (s : Dev) : (setRmp r x s).hmk = s.hmk := rfl
@[simp] theorem setRmp_opMc (r : Nat) (x : Ramp) (s : Dev) : (setRmp r x s).opMc = s.opMc := rfl
@[simp] theorem setRmp_raised (r : Nat) (x : Ramp) (s : Dev) : (setRmp r x s).raised = s.raised := rfl
@[simp] theorem setRmp_fieldMc (r : Nat) (x : Ramp) (s : Dev) : (setRmp r x s).fieldMc = s.fieldMc := rfl
@[simp] theorem setRmp_spareKeep (r : Nat) (x : Ramp) (s : Dev) : (setRmp r x s).spareKeep = s.spareKeep := rfl
@[simp] theorem setRmp_sw (r : Nat) (x : Ramp) (s : Dev) : (setRmp r x s).sw = s.sw := rfl
@[simp] theorem setRmp_rstLow (r : Nat) (x : Ramp) (s : Dev) : (setRmp r x s).rstLow = s.rstLow := rfl
@[simp] theorem setRmp_booting (r : Nat) (x : Ramp) (s : Dev) : (setRmp r x s).booting = s.booting := rfl
@[simp] theorem setRmp_bootT (r : Nat) (x : Ramp) (s : Dev) : (setRmp r x s).bootT = s.bootT := rfl
@[simp] theorem setRmp_sec (r : Nat) (x : Ramp) (s : Dev) : (setRmp r x s).sec = s.sec := rfl
@[simp] theorem setRmp_jtag (r : Nat) (x : Ramp) (s : Dev) : (setRmp r x s).jtag = s.jtag := rfl
@[simp] theorem setRmp_out (r : Nat) (x : Ramp) (s : Dev) : (setRmp r x s).out = s.out := rfl
@[simp] theorem setRmp_freeCtr (r : Nat) (x : Ramp) (s : Dev) : (setRmp r x s).freeCtr = s.freeCtr := rfl

/-! ### setFen -/

@[simp] theorem setFen_ts (f : Nat) (x : Fence) (s : Dev) : (setFen f x s).ts = s.ts := rfl
@[simp] theorem setFen_mcRegs (f : Nat) (x : Fence) (s : Dev) : (setFen f x s).mcRegs = s.mcRegs := rfl
@[simp] theorem setFen_clk (f : Nat) (x : Fence) (s : Dev) : (setFen f x s).clk = s.clk := rfl
@[simp] theorem setFen_aon (f : Nat) (x : Fence) (s : Dev) : (setFen f x s).aon = s.aon := rfl
@[simp] theorem setFen_regs (f : Nat) (x : Fence) (s : Dev) : (setFen f x s).regs = s.regs := rfl
@[simp] theorem setFen_snap (f : Nat) (x : Fence) (s : Dev) : (setFen f x s).snap = s.snap := rfl
@[simp] theorem setFen_frozen (f : Nat) (x : Fence) (s : Dev) : (setFen f x s).frozen = s.frozen := rfl
@[simp] theorem setFen_resetting (f : Nat) (x : Fence) (s : Dev) : (setFen f x s).resetting = s.resetting := rfl
@[simp] theorem setFen_mem (f : Nat) (x : Fence) (s : Dev) : (setFen f x s).mem = s.mem := rfl
@[simp] theorem setFen_flash (f : Nat) (x : Fence) (s : Dev) : (setFen f x s).flash = s.flash := rfl
@[simp] theorem setFen_paths (f : Nat) (x : Fence) (s : Dev) : (setFen f x s).paths = s.paths := rfl
@[simp] theorem setFen_lanes (f : Nat) (x : Fence) (s : Dev) : (setFen f x s).lanes = s.lanes := rfl
@[simp] theorem setFen_fec (f : Nat) (x : Fence) (s : Dev) : (setFen f x s).fec = s.fec := rfl
@[simp] theorem setFen_cal (f : Nat) (x : Fence) (s : Dev) : (setFen f x s).cal = s.cal := rfl
@[simp] theorem setFen_adj (f : Nat) (x : Fence) (s : Dev) : (setFen f x s).adj = s.adj := rfl
@[simp] theorem setFen_tsets (f : Nat) (x : Fence) (s : Dev) : (setFen f x s).tsets = s.tsets := rfl
@[simp] theorem setFen_holds (f : Nat) (x : Fence) (s : Dev) : (setFen f x s).holds = s.holds := rfl
@[simp] theorem setFen_fur (f : Nat) (x : Fence) (s : Dev) : (setFen f x s).fur = s.fur := rfl
@[simp] theorem setFen_rowHist (f : Nat) (x : Fence) (s : Dev) : (setFen f x s).rowHist = s.rowHist := rfl
@[simp] theorem setFen_ovl (f : Nat) (x : Fence) (s : Dev) : (setFen f x s).ovl = s.ovl := rfl
@[simp] theorem setFen_pci (f : Nat) (x : Fence) (s : Dev) : (setFen f x s).pci = s.pci := rfl
@[simp] theorem setFen_eth (f : Nat) (x : Fence) (s : Dev) : (setFen f x s).eth = s.eth := rfl
@[simp] theorem setFen_smb (f : Nat) (x : Fence) (s : Dev) : (setFen f x s).smb = s.smb := rfl
@[simp] theorem setFen_xsp (f : Nat) (x : Fence) (s : Dev) : (setFen f x s).xsp = s.xsp := rfl
@[simp] theorem setFen_ueT (f : Nat) (x : Fence) (s : Dev) : (setFen f x s).ueT = s.ueT := rfl
@[simp] theorem setFen_ceT (f : Nat) (x : Fence) (s : Dev) : (setFen f x s).ceT = s.ceT := rfl
@[simp] theorem setFen_tagPeak (f : Nat) (x : Fence) (s : Dev) : (setFen f x s).tagPeak = s.tagPeak := rfl
@[simp] theorem setFen_scrub (f : Nat) (x : Fence) (s : Dev) : (setFen f x s).scrub = s.scrub := rfl
@[simp] theorem setFen_memOut (f : Nat) (x : Fence) (s : Dev) : (setFen f x s).memOut = s.memOut := rfl
@[simp] theorem setFen_grn (f : Nat) (x : Fence) (s : Dev) : (setFen f x s).grn = s.grn := rfl
@[simp] theorem setFen_flw (f : Nat) (x : Fence) (s : Dev) : (setFen f x s).flw = s.flw := rfl
@[simp] theorem setFen_fwBuild (f : Nat) (x : Fence) (s : Dev) : (setFen f x s).fwBuild = s.fwBuild := rfl
@[simp] theorem setFen_gln (f : Nat) (x : Fence) (s : Dev) : (setFen f x s).gln = s.gln := rfl
@[simp] theorem setFen_acq (f : Nat) (x : Fence) (s : Dev) : (setFen f x s).acq = s.acq := rfl
@[simp] theorem setFen_tim (f : Nat) (x : Fence) (s : Dev) : (setFen f x s).tim = s.tim := rfl
@[simp] theorem setFen_hdl (f : Nat) (x : Fence) (s : Dev) : (setFen f x s).hdl = s.hdl := rfl
@[simp] theorem setFen_drl (f : Nat) (x : Fence) (s : Dev) : (setFen f x s).drl = s.drl := rfl
@[simp] theorem setFen_mks (f : Nat) (x : Fence) (s : Dev) : (setFen f x s).mks = s.mks := rfl
@[simp] theorem setFen_lists (f : Nat) (x : Fence) (s : Dev) : (setFen f x s).lists = s.lists := rfl
@[simp] theorem setFen_syncOut (f : Nat) (x : Fence) (s : Dev) : (setFen f x s).syncOut = s.syncOut := rfl
@[simp] theorem setFen_rmp (f : Nat) (x : Fence) (s : Dev) : (setFen f x s).rmp = s.rmp := rfl
@[simp] theorem setFen_standby (f : Nat) (x : Fence) (s : Dev) : (setFen f x s).standby = s.standby := rfl
@[simp] theorem setFen_wakeReq (f : Nat) (x : Fence) (s : Dev) : (setFen f x s).wakeReq = s.wakeReq := rfl
@[simp] theorem setFen_ueNow (f : Nat) (x : Fence) (s : Dev) : (setFen f x s).ueNow = s.ueNow := rfl
@[simp] theorem setFen_wakeT (f : Nat) (x : Fence) (s : Dev) : (setFen f x s).wakeT = s.wakeT := rfl
@[simp] theorem setFen_aonT (f : Nat) (x : Fence) (s : Dev) : (setFen f x s).aonT = s.aonT := rfl
@[simp] theorem setFen_cold (f : Nat) (x : Fence) (s : Dev) : (setFen f x s).cold = s.cold := rfl
@[simp] theorem setFen_syncEv (f : Nat) (x : Fence) (s : Dev) : (setFen f x s).syncEv = s.syncEv := rfl
@[simp] theorem setFen_flt (f : Nat) (x : Fence) (s : Dev) : (setFen f x s).flt = s.flt := rfl
@[simp] theorem setFen_hmk (f : Nat) (x : Fence) (s : Dev) : (setFen f x s).hmk = s.hmk := rfl
@[simp] theorem setFen_opMc (f : Nat) (x : Fence) (s : Dev) : (setFen f x s).opMc = s.opMc := rfl
@[simp] theorem setFen_raised (f : Nat) (x : Fence) (s : Dev) : (setFen f x s).raised = s.raised := rfl
@[simp] theorem setFen_fieldMc (f : Nat) (x : Fence) (s : Dev) : (setFen f x s).fieldMc = s.fieldMc := rfl
@[simp] theorem setFen_spareKeep (f : Nat) (x : Fence) (s : Dev) : (setFen f x s).spareKeep = s.spareKeep := rfl
@[simp] theorem setFen_sw (f : Nat) (x : Fence) (s : Dev) : (setFen f x s).sw = s.sw := rfl
@[simp] theorem setFen_rstLow (f : Nat) (x : Fence) (s : Dev) : (setFen f x s).rstLow = s.rstLow := rfl
@[simp] theorem setFen_booting (f : Nat) (x : Fence) (s : Dev) : (setFen f x s).booting = s.booting := rfl
@[simp] theorem setFen_bootT (f : Nat) (x : Fence) (s : Dev) : (setFen f x s).bootT = s.bootT := rfl
@[simp] theorem setFen_sec (f : Nat) (x : Fence) (s : Dev) : (setFen f x s).sec = s.sec := rfl
@[simp] theorem setFen_jtag (f : Nat) (x : Fence) (s : Dev) : (setFen f x s).jtag = s.jtag := rfl
@[simp] theorem setFen_out (f : Nat) (x : Fence) (s : Dev) : (setFen f x s).out = s.out := rfl
@[simp] theorem setFen_freeCtr (f : Nat) (x : Fence) (s : Dev) : (setFen f x s).freeCtr = s.freeCtr := rfl

/-! ### setSrc -/

@[simp] theorem setSrc_ts (i : Nat) (x : SrcSt) (s : Dev) : (setSrc i x s).ts = s.ts := rfl
@[simp] theorem setSrc_mcRegs (i : Nat) (x : SrcSt) (s : Dev) : (setSrc i x s).mcRegs = s.mcRegs := rfl
@[simp] theorem setSrc_clk (i : Nat) (x : SrcSt) (s : Dev) : (setSrc i x s).clk = s.clk := rfl
@[simp] theorem setSrc_aon (i : Nat) (x : SrcSt) (s : Dev) : (setSrc i x s).aon = s.aon := rfl
@[simp] theorem setSrc_regs (i : Nat) (x : SrcSt) (s : Dev) : (setSrc i x s).regs = s.regs := rfl
@[simp] theorem setSrc_snap (i : Nat) (x : SrcSt) (s : Dev) : (setSrc i x s).snap = s.snap := rfl
@[simp] theorem setSrc_frozen (i : Nat) (x : SrcSt) (s : Dev) : (setSrc i x s).frozen = s.frozen := rfl
@[simp] theorem setSrc_resetting (i : Nat) (x : SrcSt) (s : Dev) : (setSrc i x s).resetting = s.resetting := rfl
@[simp] theorem setSrc_mem (i : Nat) (x : SrcSt) (s : Dev) : (setSrc i x s).mem = s.mem := rfl
@[simp] theorem setSrc_flash (i : Nat) (x : SrcSt) (s : Dev) : (setSrc i x s).flash = s.flash := rfl
@[simp] theorem setSrc_paths (i : Nat) (x : SrcSt) (s : Dev) : (setSrc i x s).paths = s.paths := rfl
@[simp] theorem setSrc_lanes (i : Nat) (x : SrcSt) (s : Dev) : (setSrc i x s).lanes = s.lanes := rfl
@[simp] theorem setSrc_fec (i : Nat) (x : SrcSt) (s : Dev) : (setSrc i x s).fec = s.fec := rfl
@[simp] theorem setSrc_cal (i : Nat) (x : SrcSt) (s : Dev) : (setSrc i x s).cal = s.cal := rfl
@[simp] theorem setSrc_adj (i : Nat) (x : SrcSt) (s : Dev) : (setSrc i x s).adj = s.adj := rfl
@[simp] theorem setSrc_tsets (i : Nat) (x : SrcSt) (s : Dev) : (setSrc i x s).tsets = s.tsets := rfl
@[simp] theorem setSrc_holds (i : Nat) (x : SrcSt) (s : Dev) : (setSrc i x s).holds = s.holds := rfl
@[simp] theorem setSrc_fur (i : Nat) (x : SrcSt) (s : Dev) : (setSrc i x s).fur = s.fur := rfl
@[simp] theorem setSrc_rowHist (i : Nat) (x : SrcSt) (s : Dev) : (setSrc i x s).rowHist = s.rowHist := rfl
@[simp] theorem setSrc_ovl (i : Nat) (x : SrcSt) (s : Dev) : (setSrc i x s).ovl = s.ovl := rfl
@[simp] theorem setSrc_pci (i : Nat) (x : SrcSt) (s : Dev) : (setSrc i x s).pci = s.pci := rfl
@[simp] theorem setSrc_eth (i : Nat) (x : SrcSt) (s : Dev) : (setSrc i x s).eth = s.eth := rfl
@[simp] theorem setSrc_smb (i : Nat) (x : SrcSt) (s : Dev) : (setSrc i x s).smb = s.smb := rfl
@[simp] theorem setSrc_xsp (i : Nat) (x : SrcSt) (s : Dev) : (setSrc i x s).xsp = s.xsp := rfl
@[simp] theorem setSrc_ueT (i : Nat) (x : SrcSt) (s : Dev) : (setSrc i x s).ueT = s.ueT := rfl
@[simp] theorem setSrc_ceT (i : Nat) (x : SrcSt) (s : Dev) : (setSrc i x s).ceT = s.ceT := rfl
@[simp] theorem setSrc_tagPeak (i : Nat) (x : SrcSt) (s : Dev) : (setSrc i x s).tagPeak = s.tagPeak := rfl
@[simp] theorem setSrc_scrub (i : Nat) (x : SrcSt) (s : Dev) : (setSrc i x s).scrub = s.scrub := rfl
@[simp] theorem setSrc_memOut (i : Nat) (x : SrcSt) (s : Dev) : (setSrc i x s).memOut = s.memOut := rfl
@[simp] theorem setSrc_grn (i : Nat) (x : SrcSt) (s : Dev) : (setSrc i x s).grn = s.grn := rfl
@[simp] theorem setSrc_flw (i : Nat) (x : SrcSt) (s : Dev) : (setSrc i x s).flw = s.flw := rfl
@[simp] theorem setSrc_fwBuild (i : Nat) (x : SrcSt) (s : Dev) : (setSrc i x s).fwBuild = s.fwBuild := rfl
@[simp] theorem setSrc_gln (i : Nat) (x : SrcSt) (s : Dev) : (setSrc i x s).gln = s.gln := rfl
@[simp] theorem setSrc_acq (i : Nat) (x : SrcSt) (s : Dev) : (setSrc i x s).acq = s.acq := rfl
@[simp] theorem setSrc_tim (i : Nat) (x : SrcSt) (s : Dev) : (setSrc i x s).tim = s.tim := rfl
@[simp] theorem setSrc_fen (i : Nat) (x : SrcSt) (s : Dev) : (setSrc i x s).fen = s.fen := rfl
@[simp] theorem setSrc_hdl (i : Nat) (x : SrcSt) (s : Dev) : (setSrc i x s).hdl = s.hdl := rfl
@[simp] theorem setSrc_drl (i : Nat) (x : SrcSt) (s : Dev) : (setSrc i x s).drl = s.drl := rfl
@[simp] theorem setSrc_mks (i : Nat) (x : SrcSt) (s : Dev) : (setSrc i x s).mks = s.mks := rfl
@[simp] theorem setSrc_lists (i : Nat) (x : SrcSt) (s : Dev) : (setSrc i x s).lists = s.lists := rfl
@[simp] theorem setSrc_syncOut (i : Nat) (x : SrcSt) (s : Dev) : (setSrc i x s).syncOut = s.syncOut := rfl
@[simp] theorem setSrc_rmp (i : Nat) (x : SrcSt) (s : Dev) : (setSrc i x s).rmp = s.rmp := rfl
@[simp] theorem setSrc_standby (i : Nat) (x : SrcSt) (s : Dev) : (setSrc i x s).standby = s.standby := rfl
@[simp] theorem setSrc_wakeReq (i : Nat) (x : SrcSt) (s : Dev) : (setSrc i x s).wakeReq = s.wakeReq := rfl
@[simp] theorem setSrc_ueNow (i : Nat) (x : SrcSt) (s : Dev) : (setSrc i x s).ueNow = s.ueNow := rfl
@[simp] theorem setSrc_wakeT (i : Nat) (x : SrcSt) (s : Dev) : (setSrc i x s).wakeT = s.wakeT := rfl
@[simp] theorem setSrc_aonT (i : Nat) (x : SrcSt) (s : Dev) : (setSrc i x s).aonT = s.aonT := rfl
@[simp] theorem setSrc_cold (i : Nat) (x : SrcSt) (s : Dev) : (setSrc i x s).cold = s.cold := rfl
@[simp] theorem setSrc_syncEv (i : Nat) (x : SrcSt) (s : Dev) : (setSrc i x s).syncEv = s.syncEv := rfl
@[simp] theorem setSrc_hmk (i : Nat) (x : SrcSt) (s : Dev) : (setSrc i x s).hmk = s.hmk := rfl
@[simp] theorem setSrc_opMc (i : Nat) (x : SrcSt) (s : Dev) : (setSrc i x s).opMc = s.opMc := rfl
@[simp] theorem setSrc_raised (i : Nat) (x : SrcSt) (s : Dev) : (setSrc i x s).raised = s.raised := rfl
@[simp] theorem setSrc_fieldMc (i : Nat) (x : SrcSt) (s : Dev) : (setSrc i x s).fieldMc = s.fieldMc := rfl
@[simp] theorem setSrc_spareKeep (i : Nat) (x : SrcSt) (s : Dev) : (setSrc i x s).spareKeep = s.spareKeep := rfl
@[simp] theorem setSrc_sw (i : Nat) (x : SrcSt) (s : Dev) : (setSrc i x s).sw = s.sw := rfl
@[simp] theorem setSrc_rstLow (i : Nat) (x : SrcSt) (s : Dev) : (setSrc i x s).rstLow = s.rstLow := rfl
@[simp] theorem setSrc_booting (i : Nat) (x : SrcSt) (s : Dev) : (setSrc i x s).booting = s.booting := rfl
@[simp] theorem setSrc_bootT (i : Nat) (x : SrcSt) (s : Dev) : (setSrc i x s).bootT = s.bootT := rfl
@[simp] theorem setSrc_sec (i : Nat) (x : SrcSt) (s : Dev) : (setSrc i x s).sec = s.sec := rfl
@[simp] theorem setSrc_jtag (i : Nat) (x : SrcSt) (s : Dev) : (setSrc i x s).jtag = s.jtag := rfl
@[simp] theorem setSrc_out (i : Nat) (x : SrcSt) (s : Dev) : (setSrc i x s).out = s.out := rfl
@[simp] theorem setSrc_freeCtr (i : Nat) (x : SrcSt) (s : Dev) : (setSrc i x s).freeCtr = s.freeCtr := rfl

/-! ### setSl -/

@[simp] theorem setSl_ts (f : Nat) (x : Slice) (s : Dev) : (setSl f x s).ts = s.ts := rfl
@[simp] theorem setSl_mcRegs (f : Nat) (x : Slice) (s : Dev) : (setSl f x s).mcRegs = s.mcRegs := rfl
@[simp] theorem setSl_clk (f : Nat) (x : Slice) (s : Dev) : (setSl f x s).clk = s.clk := rfl
@[simp] theorem setSl_aon (f : Nat) (x : Slice) (s : Dev) : (setSl f x s).aon = s.aon := rfl
@[simp] theorem setSl_regs (f : Nat) (x : Slice) (s : Dev) : (setSl f x s).regs = s.regs := rfl
@[simp] theorem setSl_snap (f : Nat) (x : Slice) (s : Dev) : (setSl f x s).snap = s.snap := rfl
@[simp] theorem setSl_frozen (f : Nat) (x : Slice) (s : Dev) : (setSl f x s).frozen = s.frozen := rfl
@[simp] theorem setSl_resetting (f : Nat) (x : Slice) (s : Dev) : (setSl f x s).resetting = s.resetting := rfl
@[simp] theorem setSl_mem (f : Nat) (x : Slice) (s : Dev) : (setSl f x s).mem = s.mem := rfl
@[simp] theorem setSl_flash (f : Nat) (x : Slice) (s : Dev) : (setSl f x s).flash = s.flash := rfl
@[simp] theorem setSl_paths (f : Nat) (x : Slice) (s : Dev) : (setSl f x s).paths = s.paths := rfl
@[simp] theorem setSl_lanes (f : Nat) (x : Slice) (s : Dev) : (setSl f x s).lanes = s.lanes := rfl
@[simp] theorem setSl_fec (f : Nat) (x : Slice) (s : Dev) : (setSl f x s).fec = s.fec := rfl
@[simp] theorem setSl_cal (f : Nat) (x : Slice) (s : Dev) : (setSl f x s).cal = s.cal := rfl
@[simp] theorem setSl_adj (f : Nat) (x : Slice) (s : Dev) : (setSl f x s).adj = s.adj := rfl
@[simp] theorem setSl_tsets (f : Nat) (x : Slice) (s : Dev) : (setSl f x s).tsets = s.tsets := rfl
@[simp] theorem setSl_holds (f : Nat) (x : Slice) (s : Dev) : (setSl f x s).holds = s.holds := rfl
@[simp] theorem setSl_fur (f : Nat) (x : Slice) (s : Dev) : (setSl f x s).fur = s.fur := rfl
@[simp] theorem setSl_rowHist (f : Nat) (x : Slice) (s : Dev) : (setSl f x s).rowHist = s.rowHist := rfl
@[simp] theorem setSl_ovl (f : Nat) (x : Slice) (s : Dev) : (setSl f x s).ovl = s.ovl := rfl
@[simp] theorem setSl_pci (f : Nat) (x : Slice) (s : Dev) : (setSl f x s).pci = s.pci := rfl
@[simp] theorem setSl_eth (f : Nat) (x : Slice) (s : Dev) : (setSl f x s).eth = s.eth := rfl
@[simp] theorem setSl_smb (f : Nat) (x : Slice) (s : Dev) : (setSl f x s).smb = s.smb := rfl
@[simp] theorem setSl_xsp (f : Nat) (x : Slice) (s : Dev) : (setSl f x s).xsp = s.xsp := rfl
@[simp] theorem setSl_ueT (f : Nat) (x : Slice) (s : Dev) : (setSl f x s).ueT = s.ueT := rfl
@[simp] theorem setSl_ceT (f : Nat) (x : Slice) (s : Dev) : (setSl f x s).ceT = s.ceT := rfl
@[simp] theorem setSl_tagPeak (f : Nat) (x : Slice) (s : Dev) : (setSl f x s).tagPeak = s.tagPeak := rfl
@[simp] theorem setSl_scrub (f : Nat) (x : Slice) (s : Dev) : (setSl f x s).scrub = s.scrub := rfl
@[simp] theorem setSl_memOut (f : Nat) (x : Slice) (s : Dev) : (setSl f x s).memOut = s.memOut := rfl
@[simp] theorem setSl_grn (f : Nat) (x : Slice) (s : Dev) : (setSl f x s).grn = s.grn := rfl
@[simp] theorem setSl_flw (f : Nat) (x : Slice) (s : Dev) : (setSl f x s).flw = s.flw := rfl
@[simp] theorem setSl_fwBuild (f : Nat) (x : Slice) (s : Dev) : (setSl f x s).fwBuild = s.fwBuild := rfl
@[simp] theorem setSl_acq (f : Nat) (x : Slice) (s : Dev) : (setSl f x s).acq = s.acq := rfl
@[simp] theorem setSl_tim (f : Nat) (x : Slice) (s : Dev) : (setSl f x s).tim = s.tim := rfl
@[simp] theorem setSl_fen (f : Nat) (x : Slice) (s : Dev) : (setSl f x s).fen = s.fen := rfl
@[simp] theorem setSl_hdl (f : Nat) (x : Slice) (s : Dev) : (setSl f x s).hdl = s.hdl := rfl
@[simp] theorem setSl_drl (f : Nat) (x : Slice) (s : Dev) : (setSl f x s).drl = s.drl := rfl
@[simp] theorem setSl_mks (f : Nat) (x : Slice) (s : Dev) : (setSl f x s).mks = s.mks := rfl
@[simp] theorem setSl_lists (f : Nat) (x : Slice) (s : Dev) : (setSl f x s).lists = s.lists := rfl
@[simp] theorem setSl_syncOut (f : Nat) (x : Slice) (s : Dev) : (setSl f x s).syncOut = s.syncOut := rfl
@[simp] theorem setSl_rmp (f : Nat) (x : Slice) (s : Dev) : (setSl f x s).rmp = s.rmp := rfl
@[simp] theorem setSl_standby (f : Nat) (x : Slice) (s : Dev) : (setSl f x s).standby = s.standby := rfl
@[simp] theorem setSl_wakeReq (f : Nat) (x : Slice) (s : Dev) : (setSl f x s).wakeReq = s.wakeReq := rfl
@[simp] theorem setSl_ueNow (f : Nat) (x : Slice) (s : Dev) : (setSl f x s).ueNow = s.ueNow := rfl
@[simp] theorem setSl_wakeT (f : Nat) (x : Slice) (s : Dev) : (setSl f x s).wakeT = s.wakeT := rfl
@[simp] theorem setSl_aonT (f : Nat) (x : Slice) (s : Dev) : (setSl f x s).aonT = s.aonT := rfl
@[simp] theorem setSl_cold (f : Nat) (x : Slice) (s : Dev) : (setSl f x s).cold = s.cold := rfl
@[simp] theorem setSl_syncEv (f : Nat) (x : Slice) (s : Dev) : (setSl f x s).syncEv = s.syncEv := rfl
@[simp] theorem setSl_flt (f : Nat) (x : Slice) (s : Dev) : (setSl f x s).flt = s.flt := rfl
@[simp] theorem setSl_hmk (f : Nat) (x : Slice) (s : Dev) : (setSl f x s).hmk = s.hmk := rfl
@[simp] theorem setSl_opMc (f : Nat) (x : Slice) (s : Dev) : (setSl f x s).opMc = s.opMc := rfl
@[simp] theorem setSl_raised (f : Nat) (x : Slice) (s : Dev) : (setSl f x s).raised = s.raised := rfl
@[simp] theorem setSl_fieldMc (f : Nat) (x : Slice) (s : Dev) : (setSl f x s).fieldMc = s.fieldMc := rfl
@[simp] theorem setSl_spareKeep (f : Nat) (x : Slice) (s : Dev) : (setSl f x s).spareKeep = s.spareKeep := rfl
@[simp] theorem setSl_sw (f : Nat) (x : Slice) (s : Dev) : (setSl f x s).sw = s.sw := rfl
@[simp] theorem setSl_rstLow (f : Nat) (x : Slice) (s : Dev) : (setSl f x s).rstLow = s.rstLow := rfl
@[simp] theorem setSl_booting (f : Nat) (x : Slice) (s : Dev) : (setSl f x s).booting = s.booting := rfl
@[simp] theorem setSl_bootT (f : Nat) (x : Slice) (s : Dev) : (setSl f x s).bootT = s.bootT := rfl
@[simp] theorem setSl_sec (f : Nat) (x : Slice) (s : Dev) : (setSl f x s).sec = s.sec := rfl
@[simp] theorem setSl_jtag (f : Nat) (x : Slice) (s : Dev) : (setSl f x s).jtag = s.jtag := rfl
@[simp] theorem setSl_out (f : Nat) (x : Slice) (s : Dev) : (setSl f x s).out = s.out := rfl
@[simp] theorem setSl_freeCtr (f : Nat) (x : Slice) (s : Dev) : (setSl f x s).freeCtr = s.freeCtr := rfl

/-! ### setQ -/

@[simp] theorem setQ_ts (q : Nat) (x : Queue) (s : Dev) : (setQ q x s).ts = s.ts := rfl
@[simp] theorem setQ_mcRegs (q : Nat) (x : Queue) (s : Dev) : (setQ q x s).mcRegs = s.mcRegs := rfl
@[simp] theorem setQ_clk (q : Nat) (x : Queue) (s : Dev) : (setQ q x s).clk = s.clk := rfl
@[simp] theorem setQ_aon (q : Nat) (x : Queue) (s : Dev) : (setQ q x s).aon = s.aon := rfl
@[simp] theorem setQ_regs (q : Nat) (x : Queue) (s : Dev) : (setQ q x s).regs = s.regs := rfl
@[simp] theorem setQ_snap (q : Nat) (x : Queue) (s : Dev) : (setQ q x s).snap = s.snap := rfl
@[simp] theorem setQ_frozen (q : Nat) (x : Queue) (s : Dev) : (setQ q x s).frozen = s.frozen := rfl
@[simp] theorem setQ_resetting (q : Nat) (x : Queue) (s : Dev) : (setQ q x s).resetting = s.resetting := rfl
@[simp] theorem setQ_mem (q : Nat) (x : Queue) (s : Dev) : (setQ q x s).mem = s.mem := rfl
@[simp] theorem setQ_flash (q : Nat) (x : Queue) (s : Dev) : (setQ q x s).flash = s.flash := rfl
@[simp] theorem setQ_paths (q : Nat) (x : Queue) (s : Dev) : (setQ q x s).paths = s.paths := rfl
@[simp] theorem setQ_lanes (q : Nat) (x : Queue) (s : Dev) : (setQ q x s).lanes = s.lanes := rfl
@[simp] theorem setQ_fec (q : Nat) (x : Queue) (s : Dev) : (setQ q x s).fec = s.fec := rfl
@[simp] theorem setQ_cal (q : Nat) (x : Queue) (s : Dev) : (setQ q x s).cal = s.cal := rfl
@[simp] theorem setQ_adj (q : Nat) (x : Queue) (s : Dev) : (setQ q x s).adj = s.adj := rfl
@[simp] theorem setQ_tsets (q : Nat) (x : Queue) (s : Dev) : (setQ q x s).tsets = s.tsets := rfl
@[simp] theorem setQ_holds (q : Nat) (x : Queue) (s : Dev) : (setQ q x s).holds = s.holds := rfl
@[simp] theorem setQ_fur (q : Nat) (x : Queue) (s : Dev) : (setQ q x s).fur = s.fur := rfl
@[simp] theorem setQ_rowHist (q : Nat) (x : Queue) (s : Dev) : (setQ q x s).rowHist = s.rowHist := rfl
@[simp] theorem setQ_ovl (q : Nat) (x : Queue) (s : Dev) : (setQ q x s).ovl = s.ovl := rfl
@[simp] theorem setQ_pci (q : Nat) (x : Queue) (s : Dev) : (setQ q x s).pci = s.pci := rfl
@[simp] theorem setQ_eth (q : Nat) (x : Queue) (s : Dev) : (setQ q x s).eth = s.eth := rfl
@[simp] theorem setQ_smb (q : Nat) (x : Queue) (s : Dev) : (setQ q x s).smb = s.smb := rfl
@[simp] theorem setQ_xsp (q : Nat) (x : Queue) (s : Dev) : (setQ q x s).xsp = s.xsp := rfl
@[simp] theorem setQ_ueT (q : Nat) (x : Queue) (s : Dev) : (setQ q x s).ueT = s.ueT := rfl
@[simp] theorem setQ_ceT (q : Nat) (x : Queue) (s : Dev) : (setQ q x s).ceT = s.ceT := rfl
@[simp] theorem setQ_tagPeak (q : Nat) (x : Queue) (s : Dev) : (setQ q x s).tagPeak = s.tagPeak := rfl
@[simp] theorem setQ_scrub (q : Nat) (x : Queue) (s : Dev) : (setQ q x s).scrub = s.scrub := rfl
@[simp] theorem setQ_memOut (q : Nat) (x : Queue) (s : Dev) : (setQ q x s).memOut = s.memOut := rfl
@[simp] theorem setQ_flw (q : Nat) (x : Queue) (s : Dev) : (setQ q x s).flw = s.flw := rfl
@[simp] theorem setQ_fwBuild (q : Nat) (x : Queue) (s : Dev) : (setQ q x s).fwBuild = s.fwBuild := rfl
@[simp] theorem setQ_gln (q : Nat) (x : Queue) (s : Dev) : (setQ q x s).gln = s.gln := rfl
@[simp] theorem setQ_acq (q : Nat) (x : Queue) (s : Dev) : (setQ q x s).acq = s.acq := rfl
@[simp] theorem setQ_tim (q : Nat) (x : Queue) (s : Dev) : (setQ q x s).tim = s.tim := rfl
@[simp] theorem setQ_fen (q : Nat) (x : Queue) (s : Dev) : (setQ q x s).fen = s.fen := rfl
@[simp] theorem setQ_hdl (q : Nat) (x : Queue) (s : Dev) : (setQ q x s).hdl = s.hdl := rfl
@[simp] theorem setQ_drl (q : Nat) (x : Queue) (s : Dev) : (setQ q x s).drl = s.drl := rfl
@[simp] theorem setQ_mks (q : Nat) (x : Queue) (s : Dev) : (setQ q x s).mks = s.mks := rfl
@[simp] theorem setQ_lists (q : Nat) (x : Queue) (s : Dev) : (setQ q x s).lists = s.lists := rfl
@[simp] theorem setQ_syncOut (q : Nat) (x : Queue) (s : Dev) : (setQ q x s).syncOut = s.syncOut := rfl
@[simp] theorem setQ_rmp (q : Nat) (x : Queue) (s : Dev) : (setQ q x s).rmp = s.rmp := rfl
@[simp] theorem setQ_standby (q : Nat) (x : Queue) (s : Dev) : (setQ q x s).standby = s.standby := rfl
@[simp] theorem setQ_wakeReq (q : Nat) (x : Queue) (s : Dev) : (setQ q x s).wakeReq = s.wakeReq := rfl
@[simp] theorem setQ_ueNow (q : Nat) (x : Queue) (s : Dev) : (setQ q x s).ueNow = s.ueNow := rfl
@[simp] theorem setQ_wakeT (q : Nat) (x : Queue) (s : Dev) : (setQ q x s).wakeT = s.wakeT := rfl
@[simp] theorem setQ_aonT (q : Nat) (x : Queue) (s : Dev) : (setQ q x s).aonT = s.aonT := rfl
@[simp] theorem setQ_cold (q : Nat) (x : Queue) (s : Dev) : (setQ q x s).cold = s.cold := rfl
@[simp] theorem setQ_syncEv (q : Nat) (x : Queue) (s : Dev) : (setQ q x s).syncEv = s.syncEv := rfl
@[simp] theorem setQ_flt (q : Nat) (x : Queue) (s : Dev) : (setQ q x s).flt = s.flt := rfl
@[simp] theorem setQ_hmk (q : Nat) (x : Queue) (s : Dev) : (setQ q x s).hmk = s.hmk := rfl
@[simp] theorem setQ_opMc (q : Nat) (x : Queue) (s : Dev) : (setQ q x s).opMc = s.opMc := rfl
@[simp] theorem setQ_raised (q : Nat) (x : Queue) (s : Dev) : (setQ q x s).raised = s.raised := rfl
@[simp] theorem setQ_fieldMc (q : Nat) (x : Queue) (s : Dev) : (setQ q x s).fieldMc = s.fieldMc := rfl
@[simp] theorem setQ_spareKeep (q : Nat) (x : Queue) (s : Dev) : (setQ q x s).spareKeep = s.spareKeep := rfl
@[simp] theorem setQ_sw (q : Nat) (x : Queue) (s : Dev) : (setQ q x s).sw = s.sw := rfl
@[simp] theorem setQ_rstLow (q : Nat) (x : Queue) (s : Dev) : (setQ q x s).rstLow = s.rstLow := rfl
@[simp] theorem setQ_booting (q : Nat) (x : Queue) (s : Dev) : (setQ q x s).booting = s.booting := rfl
@[simp] theorem setQ_bootT (q : Nat) (x : Queue) (s : Dev) : (setQ q x s).bootT = s.bootT := rfl
@[simp] theorem setQ_sec (q : Nat) (x : Queue) (s : Dev) : (setQ q x s).sec = s.sec := rfl
@[simp] theorem setQ_jtag (q : Nat) (x : Queue) (s : Dev) : (setQ q x s).jtag = s.jtag := rfl
@[simp] theorem setQ_out (q : Nat) (x : Queue) (s : Dev) : (setQ q x s).out = s.out := rfl
@[simp] theorem setQ_freeCtr (q : Nat) (x : Queue) (s : Dev) : (setQ q x s).freeCtr = s.freeCtr := rfl

/-! ### setTin -/

@[simp] theorem setTin_ts (i : Nat) (x : TrigIn) (s : Dev) : (setTin i x s).ts = s.ts := rfl
@[simp] theorem setTin_mcRegs (i : Nat) (x : TrigIn) (s : Dev) : (setTin i x s).mcRegs = s.mcRegs := rfl
@[simp] theorem setTin_clk (i : Nat) (x : TrigIn) (s : Dev) : (setTin i x s).clk = s.clk := rfl
@[simp] theorem setTin_aon (i : Nat) (x : TrigIn) (s : Dev) : (setTin i x s).aon = s.aon := rfl
@[simp] theorem setTin_regs (i : Nat) (x : TrigIn) (s : Dev) : (setTin i x s).regs = s.regs := rfl
@[simp] theorem setTin_snap (i : Nat) (x : TrigIn) (s : Dev) : (setTin i x s).snap = s.snap := rfl
@[simp] theorem setTin_frozen (i : Nat) (x : TrigIn) (s : Dev) : (setTin i x s).frozen = s.frozen := rfl
@[simp] theorem setTin_resetting (i : Nat) (x : TrigIn) (s : Dev) : (setTin i x s).resetting = s.resetting := rfl
@[simp] theorem setTin_mem (i : Nat) (x : TrigIn) (s : Dev) : (setTin i x s).mem = s.mem := rfl
@[simp] theorem setTin_flash (i : Nat) (x : TrigIn) (s : Dev) : (setTin i x s).flash = s.flash := rfl
@[simp] theorem setTin_paths (i : Nat) (x : TrigIn) (s : Dev) : (setTin i x s).paths = s.paths := rfl
@[simp] theorem setTin_lanes (i : Nat) (x : TrigIn) (s : Dev) : (setTin i x s).lanes = s.lanes := rfl
@[simp] theorem setTin_fec (i : Nat) (x : TrigIn) (s : Dev) : (setTin i x s).fec = s.fec := rfl
@[simp] theorem setTin_cal (i : Nat) (x : TrigIn) (s : Dev) : (setTin i x s).cal = s.cal := rfl
@[simp] theorem setTin_adj (i : Nat) (x : TrigIn) (s : Dev) : (setTin i x s).adj = s.adj := rfl
@[simp] theorem setTin_tsets (i : Nat) (x : TrigIn) (s : Dev) : (setTin i x s).tsets = s.tsets := rfl
@[simp] theorem setTin_holds (i : Nat) (x : TrigIn) (s : Dev) : (setTin i x s).holds = s.holds := rfl
@[simp] theorem setTin_fur (i : Nat) (x : TrigIn) (s : Dev) : (setTin i x s).fur = s.fur := rfl
@[simp] theorem setTin_rowHist (i : Nat) (x : TrigIn) (s : Dev) : (setTin i x s).rowHist = s.rowHist := rfl
@[simp] theorem setTin_ovl (i : Nat) (x : TrigIn) (s : Dev) : (setTin i x s).ovl = s.ovl := rfl
@[simp] theorem setTin_pci (i : Nat) (x : TrigIn) (s : Dev) : (setTin i x s).pci = s.pci := rfl
@[simp] theorem setTin_eth (i : Nat) (x : TrigIn) (s : Dev) : (setTin i x s).eth = s.eth := rfl
@[simp] theorem setTin_smb (i : Nat) (x : TrigIn) (s : Dev) : (setTin i x s).smb = s.smb := rfl
@[simp] theorem setTin_xsp (i : Nat) (x : TrigIn) (s : Dev) : (setTin i x s).xsp = s.xsp := rfl
@[simp] theorem setTin_ueT (i : Nat) (x : TrigIn) (s : Dev) : (setTin i x s).ueT = s.ueT := rfl
@[simp] theorem setTin_ceT (i : Nat) (x : TrigIn) (s : Dev) : (setTin i x s).ceT = s.ceT := rfl
@[simp] theorem setTin_tagPeak (i : Nat) (x : TrigIn) (s : Dev) : (setTin i x s).tagPeak = s.tagPeak := rfl
@[simp] theorem setTin_scrub (i : Nat) (x : TrigIn) (s : Dev) : (setTin i x s).scrub = s.scrub := rfl
@[simp] theorem setTin_memOut (i : Nat) (x : TrigIn) (s : Dev) : (setTin i x s).memOut = s.memOut := rfl
@[simp] theorem setTin_grn (i : Nat) (x : TrigIn) (s : Dev) : (setTin i x s).grn = s.grn := rfl
@[simp] theorem setTin_flw (i : Nat) (x : TrigIn) (s : Dev) : (setTin i x s).flw = s.flw := rfl
@[simp] theorem setTin_fwBuild (i : Nat) (x : TrigIn) (s : Dev) : (setTin i x s).fwBuild = s.fwBuild := rfl
@[simp] theorem setTin_gln (i : Nat) (x : TrigIn) (s : Dev) : (setTin i x s).gln = s.gln := rfl
@[simp] theorem setTin_acq (i : Nat) (x : TrigIn) (s : Dev) : (setTin i x s).acq = s.acq := rfl
@[simp] theorem setTin_tim (i : Nat) (x : TrigIn) (s : Dev) : (setTin i x s).tim = s.tim := rfl
@[simp] theorem setTin_fen (i : Nat) (x : TrigIn) (s : Dev) : (setTin i x s).fen = s.fen := rfl
@[simp] theorem setTin_drl (i : Nat) (x : TrigIn) (s : Dev) : (setTin i x s).drl = s.drl := rfl
@[simp] theorem setTin_mks (i : Nat) (x : TrigIn) (s : Dev) : (setTin i x s).mks = s.mks := rfl
@[simp] theorem setTin_lists (i : Nat) (x : TrigIn) (s : Dev) : (setTin i x s).lists = s.lists := rfl
@[simp] theorem setTin_syncOut (i : Nat) (x : TrigIn) (s : Dev) : (setTin i x s).syncOut = s.syncOut := rfl
@[simp] theorem setTin_rmp (i : Nat) (x : TrigIn) (s : Dev) : (setTin i x s).rmp = s.rmp := rfl
@[simp] theorem setTin_standby (i : Nat) (x : TrigIn) (s : Dev) : (setTin i x s).standby = s.standby := rfl
@[simp] theorem setTin_wakeReq (i : Nat) (x : TrigIn) (s : Dev) : (setTin i x s).wakeReq = s.wakeReq := rfl
@[simp] theorem setTin_ueNow (i : Nat) (x : TrigIn) (s : Dev) : (setTin i x s).ueNow = s.ueNow := rfl
@[simp] theorem setTin_wakeT (i : Nat) (x : TrigIn) (s : Dev) : (setTin i x s).wakeT = s.wakeT := rfl
@[simp] theorem setTin_aonT (i : Nat) (x : TrigIn) (s : Dev) : (setTin i x s).aonT = s.aonT := rfl
@[simp] theorem setTin_cold (i : Nat) (x : TrigIn) (s : Dev) : (setTin i x s).cold = s.cold := rfl
@[simp] theorem setTin_syncEv (i : Nat) (x : TrigIn) (s : Dev) : (setTin i x s).syncEv = s.syncEv := rfl
@[simp] theorem setTin_flt (i : Nat) (x : TrigIn) (s : Dev) : (setTin i x s).flt = s.flt := rfl
@[simp] theorem setTin_hmk (i : Nat) (x : TrigIn) (s : Dev) : (setTin i x s).hmk = s.hmk := rfl
@[simp] theorem setTin_opMc (i : Nat) (x : TrigIn) (s : Dev) : (setTin i x s).opMc = s.opMc := rfl
@[simp] theorem setTin_raised (i : Nat) (x : TrigIn) (s : Dev) : (setTin i x s).raised = s.raised := rfl
@[simp] theorem setTin_fieldMc (i : Nat) (x : TrigIn) (s : Dev) : (setTin i x s).fieldMc = s.fieldMc := rfl
@[simp] theorem setTin_spareKeep (i : Nat) (x : TrigIn) (s : Dev) : (setTin i x s).spareKeep = s.spareKeep := rfl
@[simp] theorem setTin_sw (i : Nat) (x : TrigIn) (s : Dev) : (setTin i x s).sw = s.sw := rfl
@[simp] theorem setTin_rstLow (i : Nat) (x : TrigIn) (s : Dev) : (setTin i x s).rstLow = s.rstLow := rfl
@[simp] theorem setTin_booting (i : Nat) (x : TrigIn) (s : Dev) : (setTin i x s).booting = s.booting := rfl
@[simp] theorem setTin_bootT (i : Nat) (x : TrigIn) (s : Dev) : (setTin i x s).bootT = s.bootT := rfl
@[simp] theorem setTin_sec (i : Nat) (x : TrigIn) (s : Dev) : (setTin i x s).sec = s.sec := rfl
@[simp] theorem setTin_jtag (i : Nat) (x : TrigIn) (s : Dev) : (setTin i x s).jtag = s.jtag := rfl
@[simp] theorem setTin_out (i : Nat) (x : TrigIn) (s : Dev) : (setTin i x s).out = s.out := rfl
@[simp] theorem setTin_freeCtr (i : Nat) (x : TrigIn) (s : Dev) : (setTin i x s).freeCtr = s.freeCtr := rfl

/-! ### setTout -/

@[simp] theorem setTout_ts (i : Nat) (x : TrigOut) (s : Dev) : (setTout i x s).ts = s.ts := rfl
@[simp] theorem setTout_mcRegs (i : Nat) (x : TrigOut) (s : Dev) : (setTout i x s).mcRegs = s.mcRegs := rfl
@[simp] theorem setTout_clk (i : Nat) (x : TrigOut) (s : Dev) : (setTout i x s).clk = s.clk := rfl
@[simp] theorem setTout_aon (i : Nat) (x : TrigOut) (s : Dev) : (setTout i x s).aon = s.aon := rfl
@[simp] theorem setTout_regs (i : Nat) (x : TrigOut) (s : Dev) : (setTout i x s).regs = s.regs := rfl
@[simp] theorem setTout_snap (i : Nat) (x : TrigOut) (s : Dev) : (setTout i x s).snap = s.snap := rfl
@[simp] theorem setTout_frozen (i : Nat) (x : TrigOut) (s : Dev) : (setTout i x s).frozen = s.frozen := rfl
@[simp] theorem setTout_resetting (i : Nat) (x : TrigOut) (s : Dev) : (setTout i x s).resetting = s.resetting := rfl
@[simp] theorem setTout_mem (i : Nat) (x : TrigOut) (s : Dev) : (setTout i x s).mem = s.mem := rfl
@[simp] theorem setTout_flash (i : Nat) (x : TrigOut) (s : Dev) : (setTout i x s).flash = s.flash := rfl
@[simp] theorem setTout_paths (i : Nat) (x : TrigOut) (s : Dev) : (setTout i x s).paths = s.paths := rfl
@[simp] theorem setTout_lanes (i : Nat) (x : TrigOut) (s : Dev) : (setTout i x s).lanes = s.lanes := rfl
@[simp] theorem setTout_fec (i : Nat) (x : TrigOut) (s : Dev) : (setTout i x s).fec = s.fec := rfl
@[simp] theorem setTout_cal (i : Nat) (x : TrigOut) (s : Dev) : (setTout i x s).cal = s.cal := rfl
@[simp] theorem setTout_adj (i : Nat) (x : TrigOut) (s : Dev) : (setTout i x s).adj = s.adj := rfl
@[simp] theorem setTout_tsets (i : Nat) (x : TrigOut) (s : Dev) : (setTout i x s).tsets = s.tsets := rfl
@[simp] theorem setTout_holds (i : Nat) (x : TrigOut) (s : Dev) : (setTout i x s).holds = s.holds := rfl
@[simp] theorem setTout_fur (i : Nat) (x : TrigOut) (s : Dev) : (setTout i x s).fur = s.fur := rfl
@[simp] theorem setTout_rowHist (i : Nat) (x : TrigOut) (s : Dev) : (setTout i x s).rowHist = s.rowHist := rfl
@[simp] theorem setTout_ovl (i : Nat) (x : TrigOut) (s : Dev) : (setTout i x s).ovl = s.ovl := rfl
@[simp] theorem setTout_pci (i : Nat) (x : TrigOut) (s : Dev) : (setTout i x s).pci = s.pci := rfl
@[simp] theorem setTout_eth (i : Nat) (x : TrigOut) (s : Dev) : (setTout i x s).eth = s.eth := rfl
@[simp] theorem setTout_smb (i : Nat) (x : TrigOut) (s : Dev) : (setTout i x s).smb = s.smb := rfl
@[simp] theorem setTout_xsp (i : Nat) (x : TrigOut) (s : Dev) : (setTout i x s).xsp = s.xsp := rfl
@[simp] theorem setTout_ueT (i : Nat) (x : TrigOut) (s : Dev) : (setTout i x s).ueT = s.ueT := rfl
@[simp] theorem setTout_ceT (i : Nat) (x : TrigOut) (s : Dev) : (setTout i x s).ceT = s.ceT := rfl
@[simp] theorem setTout_tagPeak (i : Nat) (x : TrigOut) (s : Dev) : (setTout i x s).tagPeak = s.tagPeak := rfl
@[simp] theorem setTout_scrub (i : Nat) (x : TrigOut) (s : Dev) : (setTout i x s).scrub = s.scrub := rfl
@[simp] theorem setTout_memOut (i : Nat) (x : TrigOut) (s : Dev) : (setTout i x s).memOut = s.memOut := rfl
@[simp] theorem setTout_grn (i : Nat) (x : TrigOut) (s : Dev) : (setTout i x s).grn = s.grn := rfl
@[simp] theorem setTout_flw (i : Nat) (x : TrigOut) (s : Dev) : (setTout i x s).flw = s.flw := rfl
@[simp] theorem setTout_fwBuild (i : Nat) (x : TrigOut) (s : Dev) : (setTout i x s).fwBuild = s.fwBuild := rfl
@[simp] theorem setTout_gln (i : Nat) (x : TrigOut) (s : Dev) : (setTout i x s).gln = s.gln := rfl
@[simp] theorem setTout_acq (i : Nat) (x : TrigOut) (s : Dev) : (setTout i x s).acq = s.acq := rfl
@[simp] theorem setTout_tim (i : Nat) (x : TrigOut) (s : Dev) : (setTout i x s).tim = s.tim := rfl
@[simp] theorem setTout_fen (i : Nat) (x : TrigOut) (s : Dev) : (setTout i x s).fen = s.fen := rfl
@[simp] theorem setTout_drl (i : Nat) (x : TrigOut) (s : Dev) : (setTout i x s).drl = s.drl := rfl
@[simp] theorem setTout_mks (i : Nat) (x : TrigOut) (s : Dev) : (setTout i x s).mks = s.mks := rfl
@[simp] theorem setTout_lists (i : Nat) (x : TrigOut) (s : Dev) : (setTout i x s).lists = s.lists := rfl
@[simp] theorem setTout_syncOut (i : Nat) (x : TrigOut) (s : Dev) : (setTout i x s).syncOut = s.syncOut := rfl
@[simp] theorem setTout_rmp (i : Nat) (x : TrigOut) (s : Dev) : (setTout i x s).rmp = s.rmp := rfl
@[simp] theorem setTout_standby (i : Nat) (x : TrigOut) (s : Dev) : (setTout i x s).standby = s.standby := rfl
@[simp] theorem setTout_wakeReq (i : Nat) (x : TrigOut) (s : Dev) : (setTout i x s).wakeReq = s.wakeReq := rfl
@[simp] theorem setTout_ueNow (i : Nat) (x : TrigOut) (s : Dev) : (setTout i x s).ueNow = s.ueNow := rfl
@[simp] theorem setTout_wakeT (i : Nat) (x : TrigOut) (s : Dev) : (setTout i x s).wakeT = s.wakeT := rfl
@[simp] theorem setTout_aonT (i : Nat) (x : TrigOut) (s : Dev) : (setTout i x s).aonT = s.aonT := rfl
@[simp] theorem setTout_cold (i : Nat) (x : TrigOut) (s : Dev) : (setTout i x s).cold = s.cold := rfl
@[simp] theorem setTout_syncEv (i : Nat) (x : TrigOut) (s : Dev) : (setTout i x s).syncEv = s.syncEv := rfl
@[simp] theorem setTout_flt (i : Nat) (x : TrigOut) (s : Dev) : (setTout i x s).flt = s.flt := rfl
@[simp] theorem setTout_hmk (i : Nat) (x : TrigOut) (s : Dev) : (setTout i x s).hmk = s.hmk := rfl
@[simp] theorem setTout_opMc (i : Nat) (x : TrigOut) (s : Dev) : (setTout i x s).opMc = s.opMc := rfl
@[simp] theorem setTout_raised (i : Nat) (x : TrigOut) (s : Dev) : (setTout i x s).raised = s.raised := rfl
@[simp] theorem setTout_fieldMc (i : Nat) (x : TrigOut) (s : Dev) : (setTout i x s).fieldMc = s.fieldMc := rfl
@[simp] theorem setTout_spareKeep (i : Nat) (x : TrigOut) (s : Dev) : (setTout i x s).spareKeep = s.spareKeep := rfl
@[simp] theorem setTout_sw (i : Nat) (x : TrigOut) (s : Dev) : (setTout i x s).sw = s.sw := rfl
@[simp] theorem setTout_rstLow (i : Nat) (x : TrigOut) (s : Dev) : (setTout i x s).rstLow = s.rstLow := rfl
@[simp] theorem setTout_booting (i : Nat) (x : TrigOut) (s : Dev) : (setTout i x s).booting = s.booting := rfl
@[simp] theorem setTout_bootT (i : Nat) (x : TrigOut) (s : Dev) : (setTout i x s).bootT = s.bootT := rfl
@[simp] theorem setTout_sec (i : Nat) (x : TrigOut) (s : Dev) : (setTout i x s).sec = s.sec := rfl
@[simp] theorem setTout_jtag (i : Nat) (x : TrigOut) (s : Dev) : (setTout i x s).jtag = s.jtag := rfl
@[simp] theorem setTout_out (i : Nat) (x : TrigOut) (s : Dev) : (setTout i x s).out = s.out := rfl
@[simp] theorem setTout_freeCtr (i : Nat) (x : TrigOut) (s : Dev) : (setTout i x s).freeCtr = s.freeCtr := rfl

/-! ### setPort -/

@[simp] theorem setPort_ts (i : Nat) (x : HPort) (s : Dev) : (setPort i x s).ts = s.ts := rfl
@[simp] theorem setPort_mcRegs (i : Nat) (x : HPort) (s : Dev) : (setPort i x s).mcRegs = s.mcRegs := rfl
@[simp] theorem setPort_clk (i : Nat) (x : HPort) (s : Dev) : (setPort i x s).clk = s.clk := rfl
@[simp] theorem setPort_aon (i : Nat) (x : HPort) (s : Dev) : (setPort i x s).aon = s.aon := rfl
@[simp] theorem setPort_regs (i : Nat) (x : HPort) (s : Dev) : (setPort i x s).regs = s.regs := rfl
@[simp] theorem setPort_snap (i : Nat) (x : HPort) (s : Dev) : (setPort i x s).snap = s.snap := rfl
@[simp] theorem setPort_frozen (i : Nat) (x : HPort) (s : Dev) : (setPort i x s).frozen = s.frozen := rfl
@[simp] theorem setPort_resetting (i : Nat) (x : HPort) (s : Dev) : (setPort i x s).resetting = s.resetting := rfl
@[simp] theorem setPort_mem (i : Nat) (x : HPort) (s : Dev) : (setPort i x s).mem = s.mem := rfl
@[simp] theorem setPort_flash (i : Nat) (x : HPort) (s : Dev) : (setPort i x s).flash = s.flash := rfl
@[simp] theorem setPort_paths (i : Nat) (x : HPort) (s : Dev) : (setPort i x s).paths = s.paths := rfl
@[simp] theorem setPort_lanes (i : Nat) (x : HPort) (s : Dev) : (setPort i x s).lanes = s.lanes := rfl
@[simp] theorem setPort_fec (i : Nat) (x : HPort) (s : Dev) : (setPort i x s).fec = s.fec := rfl
@[simp] theorem setPort_cal (i : Nat) (x : HPort) (s : Dev) : (setPort i x s).cal = s.cal := rfl
@[simp] theorem setPort_adj (i : Nat) (x : HPort) (s : Dev) : (setPort i x s).adj = s.adj := rfl
@[simp] theorem setPort_tsets (i : Nat) (x : HPort) (s : Dev) : (setPort i x s).tsets = s.tsets := rfl
@[simp] theorem setPort_holds (i : Nat) (x : HPort) (s : Dev) : (setPort i x s).holds = s.holds := rfl
@[simp] theorem setPort_fur (i : Nat) (x : HPort) (s : Dev) : (setPort i x s).fur = s.fur := rfl
@[simp] theorem setPort_rowHist (i : Nat) (x : HPort) (s : Dev) : (setPort i x s).rowHist = s.rowHist := rfl
@[simp] theorem setPort_ovl (i : Nat) (x : HPort) (s : Dev) : (setPort i x s).ovl = s.ovl := rfl
@[simp] theorem setPort_pci (i : Nat) (x : HPort) (s : Dev) : (setPort i x s).pci = s.pci := rfl
@[simp] theorem setPort_eth (i : Nat) (x : HPort) (s : Dev) : (setPort i x s).eth = s.eth := rfl
@[simp] theorem setPort_smb (i : Nat) (x : HPort) (s : Dev) : (setPort i x s).smb = s.smb := rfl
@[simp] theorem setPort_xsp (i : Nat) (x : HPort) (s : Dev) : (setPort i x s).xsp = s.xsp := rfl
@[simp] theorem setPort_ueT (i : Nat) (x : HPort) (s : Dev) : (setPort i x s).ueT = s.ueT := rfl
@[simp] theorem setPort_ceT (i : Nat) (x : HPort) (s : Dev) : (setPort i x s).ceT = s.ceT := rfl
@[simp] theorem setPort_tagPeak (i : Nat) (x : HPort) (s : Dev) : (setPort i x s).tagPeak = s.tagPeak := rfl
@[simp] theorem setPort_scrub (i : Nat) (x : HPort) (s : Dev) : (setPort i x s).scrub = s.scrub := rfl
@[simp] theorem setPort_memOut (i : Nat) (x : HPort) (s : Dev) : (setPort i x s).memOut = s.memOut := rfl
@[simp] theorem setPort_grn (i : Nat) (x : HPort) (s : Dev) : (setPort i x s).grn = s.grn := rfl
@[simp] theorem setPort_flw (i : Nat) (x : HPort) (s : Dev) : (setPort i x s).flw = s.flw := rfl
@[simp] theorem setPort_fwBuild (i : Nat) (x : HPort) (s : Dev) : (setPort i x s).fwBuild = s.fwBuild := rfl
@[simp] theorem setPort_gln (i : Nat) (x : HPort) (s : Dev) : (setPort i x s).gln = s.gln := rfl
@[simp] theorem setPort_acq (i : Nat) (x : HPort) (s : Dev) : (setPort i x s).acq = s.acq := rfl
@[simp] theorem setPort_tim (i : Nat) (x : HPort) (s : Dev) : (setPort i x s).tim = s.tim := rfl
@[simp] theorem setPort_fen (i : Nat) (x : HPort) (s : Dev) : (setPort i x s).fen = s.fen := rfl
@[simp] theorem setPort_drl (i : Nat) (x : HPort) (s : Dev) : (setPort i x s).drl = s.drl := rfl
@[simp] theorem setPort_mks (i : Nat) (x : HPort) (s : Dev) : (setPort i x s).mks = s.mks := rfl
@[simp] theorem setPort_lists (i : Nat) (x : HPort) (s : Dev) : (setPort i x s).lists = s.lists := rfl
@[simp] theorem setPort_syncOut (i : Nat) (x : HPort) (s : Dev) : (setPort i x s).syncOut = s.syncOut := rfl
@[simp] theorem setPort_rmp (i : Nat) (x : HPort) (s : Dev) : (setPort i x s).rmp = s.rmp := rfl
@[simp] theorem setPort_standby (i : Nat) (x : HPort) (s : Dev) : (setPort i x s).standby = s.standby := rfl
@[simp] theorem setPort_wakeReq (i : Nat) (x : HPort) (s : Dev) : (setPort i x s).wakeReq = s.wakeReq := rfl
@[simp] theorem setPort_ueNow (i : Nat) (x : HPort) (s : Dev) : (setPort i x s).ueNow = s.ueNow := rfl
@[simp] theorem setPort_wakeT (i : Nat) (x : HPort) (s : Dev) : (setPort i x s).wakeT = s.wakeT := rfl
@[simp] theorem setPort_aonT (i : Nat) (x : HPort) (s : Dev) : (setPort i x s).aonT = s.aonT := rfl
@[simp] theorem setPort_cold (i : Nat) (x : HPort) (s : Dev) : (setPort i x s).cold = s.cold := rfl
@[simp] theorem setPort_syncEv (i : Nat) (x : HPort) (s : Dev) : (setPort i x s).syncEv = s.syncEv := rfl
@[simp] theorem setPort_flt (i : Nat) (x : HPort) (s : Dev) : (setPort i x s).flt = s.flt := rfl
@[simp] theorem setPort_hmk (i : Nat) (x : HPort) (s : Dev) : (setPort i x s).hmk = s.hmk := rfl
@[simp] theorem setPort_opMc (i : Nat) (x : HPort) (s : Dev) : (setPort i x s).opMc = s.opMc := rfl
@[simp] theorem setPort_raised (i : Nat) (x : HPort) (s : Dev) : (setPort i x s).raised = s.raised := rfl
@[simp] theorem setPort_fieldMc (i : Nat) (x : HPort) (s : Dev) : (setPort i x s).fieldMc = s.fieldMc := rfl
@[simp] theorem setPort_spareKeep (i : Nat) (x : HPort) (s : Dev) : (setPort i x s).spareKeep = s.spareKeep := rfl
@[simp] theorem setPort_sw (i : Nat) (x : HPort) (s : Dev) : (setPort i x s).sw = s.sw := rfl
@[simp] theorem setPort_rstLow (i : Nat) (x : HPort) (s : Dev) : (setPort i x s).rstLow = s.rstLow := rfl
@[simp] theorem setPort_booting (i : Nat) (x : HPort) (s : Dev) : (setPort i x s).booting = s.booting := rfl
@[simp] theorem setPort_bootT (i : Nat) (x : HPort) (s : Dev) : (setPort i x s).bootT = s.bootT := rfl
@[simp] theorem setPort_sec (i : Nat) (x : HPort) (s : Dev) : (setPort i x s).sec = s.sec := rfl
@[simp] theorem setPort_jtag (i : Nat) (x : HPort) (s : Dev) : (setPort i x s).jtag = s.jtag := rfl
@[simp] theorem setPort_out (i : Nat) (x : HPort) (s : Dev) : (setPort i x s).out = s.out := rfl
@[simp] theorem setPort_freeCtr (i : Nat) (x : HPort) (s : Dev) : (setPort i x s).freeCtr = s.freeCtr := rfl

/-! ### setRes -/

@[simp] theorem setRes_ts (n : Nat) (x : Option ResIn) (s : Dev) : (setRes n x s).ts = s.ts := rfl
@[simp] theorem setRes_mcRegs (n : Nat) (x : Option ResIn) (s : Dev) : (setRes n x s).mcRegs = s.mcRegs := rfl
@[simp] theorem setRes_clk (n : Nat) (x : Option ResIn) (s : Dev) : (setRes n x s).clk = s.clk := rfl
@[simp] theorem setRes_aon (n : Nat) (x : Option ResIn) (s : Dev) : (setRes n x s).aon = s.aon := rfl
@[simp] theorem setRes_regs (n : Nat) (x : Option ResIn) (s : Dev) : (setRes n x s).regs = s.regs := rfl
@[simp] theorem setRes_snap (n : Nat) (x : Option ResIn) (s : Dev) : (setRes n x s).snap = s.snap := rfl
@[simp] theorem setRes_frozen (n : Nat) (x : Option ResIn) (s : Dev) : (setRes n x s).frozen = s.frozen := rfl
@[simp] theorem setRes_resetting (n : Nat) (x : Option ResIn) (s : Dev) : (setRes n x s).resetting = s.resetting := rfl
@[simp] theorem setRes_mem (n : Nat) (x : Option ResIn) (s : Dev) : (setRes n x s).mem = s.mem := rfl
@[simp] theorem setRes_flash (n : Nat) (x : Option ResIn) (s : Dev) : (setRes n x s).flash = s.flash := rfl
@[simp] theorem setRes_paths (n : Nat) (x : Option ResIn) (s : Dev) : (setRes n x s).paths = s.paths := rfl
@[simp] theorem setRes_lanes (n : Nat) (x : Option ResIn) (s : Dev) : (setRes n x s).lanes = s.lanes := rfl
@[simp] theorem setRes_fec (n : Nat) (x : Option ResIn) (s : Dev) : (setRes n x s).fec = s.fec := rfl
@[simp] theorem setRes_cal (n : Nat) (x : Option ResIn) (s : Dev) : (setRes n x s).cal = s.cal := rfl
@[simp] theorem setRes_adj (n : Nat) (x : Option ResIn) (s : Dev) : (setRes n x s).adj = s.adj := rfl
@[simp] theorem setRes_tsets (n : Nat) (x : Option ResIn) (s : Dev) : (setRes n x s).tsets = s.tsets := rfl
@[simp] theorem setRes_holds (n : Nat) (x : Option ResIn) (s : Dev) : (setRes n x s).holds = s.holds := rfl
@[simp] theorem setRes_fur (n : Nat) (x : Option ResIn) (s : Dev) : (setRes n x s).fur = s.fur := rfl
@[simp] theorem setRes_rowHist (n : Nat) (x : Option ResIn) (s : Dev) : (setRes n x s).rowHist = s.rowHist := rfl
@[simp] theorem setRes_ovl (n : Nat) (x : Option ResIn) (s : Dev) : (setRes n x s).ovl = s.ovl := rfl
@[simp] theorem setRes_pci (n : Nat) (x : Option ResIn) (s : Dev) : (setRes n x s).pci = s.pci := rfl
@[simp] theorem setRes_eth (n : Nat) (x : Option ResIn) (s : Dev) : (setRes n x s).eth = s.eth := rfl
@[simp] theorem setRes_smb (n : Nat) (x : Option ResIn) (s : Dev) : (setRes n x s).smb = s.smb := rfl
@[simp] theorem setRes_xsp (n : Nat) (x : Option ResIn) (s : Dev) : (setRes n x s).xsp = s.xsp := rfl
@[simp] theorem setRes_ueT (n : Nat) (x : Option ResIn) (s : Dev) : (setRes n x s).ueT = s.ueT := rfl
@[simp] theorem setRes_ceT (n : Nat) (x : Option ResIn) (s : Dev) : (setRes n x s).ceT = s.ceT := rfl
@[simp] theorem setRes_tagPeak (n : Nat) (x : Option ResIn) (s : Dev) : (setRes n x s).tagPeak = s.tagPeak := rfl
@[simp] theorem setRes_scrub (n : Nat) (x : Option ResIn) (s : Dev) : (setRes n x s).scrub = s.scrub := rfl
@[simp] theorem setRes_memOut (n : Nat) (x : Option ResIn) (s : Dev) : (setRes n x s).memOut = s.memOut := rfl
@[simp] theorem setRes_grn (n : Nat) (x : Option ResIn) (s : Dev) : (setRes n x s).grn = s.grn := rfl
@[simp] theorem setRes_flw (n : Nat) (x : Option ResIn) (s : Dev) : (setRes n x s).flw = s.flw := rfl
@[simp] theorem setRes_fwBuild (n : Nat) (x : Option ResIn) (s : Dev) : (setRes n x s).fwBuild = s.fwBuild := rfl
@[simp] theorem setRes_gln (n : Nat) (x : Option ResIn) (s : Dev) : (setRes n x s).gln = s.gln := rfl
@[simp] theorem setRes_acq (n : Nat) (x : Option ResIn) (s : Dev) : (setRes n x s).acq = s.acq := rfl
@[simp] theorem setRes_tim (n : Nat) (x : Option ResIn) (s : Dev) : (setRes n x s).tim = s.tim := rfl
@[simp] theorem setRes_fen (n : Nat) (x : Option ResIn) (s : Dev) : (setRes n x s).fen = s.fen := rfl
@[simp] theorem setRes_drl (n : Nat) (x : Option ResIn) (s : Dev) : (setRes n x s).drl = s.drl := rfl
@[simp] theorem setRes_mks (n : Nat) (x : Option ResIn) (s : Dev) : (setRes n x s).mks = s.mks := rfl
@[simp] theorem setRes_lists (n : Nat) (x : Option ResIn) (s : Dev) : (setRes n x s).lists = s.lists := rfl
@[simp] theorem setRes_syncOut (n : Nat) (x : Option ResIn) (s : Dev) : (setRes n x s).syncOut = s.syncOut := rfl
@[simp] theorem setRes_rmp (n : Nat) (x : Option ResIn) (s : Dev) : (setRes n x s).rmp = s.rmp := rfl
@[simp] theorem setRes_standby (n : Nat) (x : Option ResIn) (s : Dev) : (setRes n x s).standby = s.standby := rfl
@[simp] theorem setRes_wakeReq (n : Nat) (x : Option ResIn) (s : Dev) : (setRes n x s).wakeReq = s.wakeReq := rfl
@[simp] theorem setRes_ueNow (n : Nat) (x : Option ResIn) (s : Dev) : (setRes n x s).ueNow = s.ueNow := rfl
@[simp] theorem setRes_wakeT (n : Nat) (x : Option ResIn) (s : Dev) : (setRes n x s).wakeT = s.wakeT := rfl
@[simp] theorem setRes_aonT (n : Nat) (x : Option ResIn) (s : Dev) : (setRes n x s).aonT = s.aonT := rfl
@[simp] theorem setRes_cold (n : Nat) (x : Option ResIn) (s : Dev) : (setRes n x s).cold = s.cold := rfl
@[simp] theorem setRes_syncEv (n : Nat) (x : Option ResIn) (s : Dev) : (setRes n x s).syncEv = s.syncEv := rfl
@[simp] theorem setRes_flt (n : Nat) (x : Option ResIn) (s : Dev) : (setRes n x s).flt = s.flt := rfl
@[simp] theorem setRes_hmk (n : Nat) (x : Option ResIn) (s : Dev) : (setRes n x s).hmk = s.hmk := rfl
@[simp] theorem setRes_opMc (n : Nat) (x : Option ResIn) (s : Dev) : (setRes n x s).opMc = s.opMc := rfl
@[simp] theorem setRes_raised (n : Nat) (x : Option ResIn) (s : Dev) : (setRes n x s).raised = s.raised := rfl
@[simp] theorem setRes_fieldMc (n : Nat) (x : Option ResIn) (s : Dev) : (setRes n x s).fieldMc = s.fieldMc := rfl
@[simp] theorem setRes_spareKeep (n : Nat) (x : Option ResIn) (s : Dev) : (setRes n x s).spareKeep = s.spareKeep := rfl
@[simp] theorem setRes_sw (n : Nat) (x : Option ResIn) (s : Dev) : (setRes n x s).sw = s.sw := rfl
@[simp] theorem setRes_rstLow (n : Nat) (x : Option ResIn) (s : Dev) : (setRes n x s).rstLow = s.rstLow := rfl
@[simp] theorem setRes_booting (n : Nat) (x : Option ResIn) (s : Dev) : (setRes n x s).booting = s.booting := rfl
@[simp] theorem setRes_bootT (n : Nat) (x : Option ResIn) (s : Dev) : (setRes n x s).bootT = s.bootT := rfl
@[simp] theorem setRes_sec (n : Nat) (x : Option ResIn) (s : Dev) : (setRes n x s).sec = s.sec := rfl
@[simp] theorem setRes_jtag (n : Nat) (x : Option ResIn) (s : Dev) : (setRes n x s).jtag = s.jtag := rfl
@[simp] theorem setRes_out (n : Nat) (x : Option ResIn) (s : Dev) : (setRes n x s).out = s.out := rfl
@[simp] theorem setRes_freeCtr (n : Nat) (x : Option ResIn) (s : Dev) : (setRes n x s).freeCtr = s.freeCtr := rfl

/-! ### setJes -/

@[simp] theorem setJes_ts (k : Nat) (x : Jes) (s : Dev) : (setJes k x s).ts = s.ts := rfl
@[simp] theorem setJes_mcRegs (k : Nat) (x : Jes) (s : Dev) : (setJes k x s).mcRegs = s.mcRegs := rfl
@[simp] theorem setJes_clk (k : Nat) (x : Jes) (s : Dev) : (setJes k x s).clk = s.clk := rfl
@[simp] theorem setJes_aon (k : Nat) (x : Jes) (s : Dev) : (setJes k x s).aon = s.aon := rfl
@[simp] theorem setJes_regs (k : Nat) (x : Jes) (s : Dev) : (setJes k x s).regs = s.regs := rfl
@[simp] theorem setJes_snap (k : Nat) (x : Jes) (s : Dev) : (setJes k x s).snap = s.snap := rfl
@[simp] theorem setJes_frozen (k : Nat) (x : Jes) (s : Dev) : (setJes k x s).frozen = s.frozen := rfl
@[simp] theorem setJes_resetting (k : Nat) (x : Jes) (s : Dev) : (setJes k x s).resetting = s.resetting := rfl
@[simp] theorem setJes_mem (k : Nat) (x : Jes) (s : Dev) : (setJes k x s).mem = s.mem := rfl
@[simp] theorem setJes_flash (k : Nat) (x : Jes) (s : Dev) : (setJes k x s).flash = s.flash := rfl
@[simp] theorem setJes_paths (k : Nat) (x : Jes) (s : Dev) : (setJes k x s).paths = s.paths := rfl
@[simp] theorem setJes_lanes (k : Nat) (x : Jes) (s : Dev) : (setJes k x s).lanes = s.lanes := rfl
@[simp] theorem setJes_fec (k : Nat) (x : Jes) (s : Dev) : (setJes k x s).fec = s.fec := rfl
@[simp] theorem setJes_cal (k : Nat) (x : Jes) (s : Dev) : (setJes k x s).cal = s.cal := rfl
@[simp] theorem setJes_adj (k : Nat) (x : Jes) (s : Dev) : (setJes k x s).adj = s.adj := rfl
@[simp] theorem setJes_tsets (k : Nat) (x : Jes) (s : Dev) : (setJes k x s).tsets = s.tsets := rfl
@[simp] theorem setJes_holds (k : Nat) (x : Jes) (s : Dev) : (setJes k x s).holds = s.holds := rfl
@[simp] theorem setJes_fur (k : Nat) (x : Jes) (s : Dev) : (setJes k x s).fur = s.fur := rfl
@[simp] theorem setJes_rowHist (k : Nat) (x : Jes) (s : Dev) : (setJes k x s).rowHist = s.rowHist := rfl
@[simp] theorem setJes_ovl (k : Nat) (x : Jes) (s : Dev) : (setJes k x s).ovl = s.ovl := rfl
@[simp] theorem setJes_pci (k : Nat) (x : Jes) (s : Dev) : (setJes k x s).pci = s.pci := rfl
@[simp] theorem setJes_eth (k : Nat) (x : Jes) (s : Dev) : (setJes k x s).eth = s.eth := rfl
@[simp] theorem setJes_smb (k : Nat) (x : Jes) (s : Dev) : (setJes k x s).smb = s.smb := rfl
@[simp] theorem setJes_xsp (k : Nat) (x : Jes) (s : Dev) : (setJes k x s).xsp = s.xsp := rfl
@[simp] theorem setJes_ueT (k : Nat) (x : Jes) (s : Dev) : (setJes k x s).ueT = s.ueT := rfl
@[simp] theorem setJes_ceT (k : Nat) (x : Jes) (s : Dev) : (setJes k x s).ceT = s.ceT := rfl
@[simp] theorem setJes_tagPeak (k : Nat) (x : Jes) (s : Dev) : (setJes k x s).tagPeak = s.tagPeak := rfl
@[simp] theorem setJes_scrub (k : Nat) (x : Jes) (s : Dev) : (setJes k x s).scrub = s.scrub := rfl
@[simp] theorem setJes_memOut (k : Nat) (x : Jes) (s : Dev) : (setJes k x s).memOut = s.memOut := rfl
@[simp] theorem setJes_grn (k : Nat) (x : Jes) (s : Dev) : (setJes k x s).grn = s.grn := rfl
@[simp] theorem setJes_flw (k : Nat) (x : Jes) (s : Dev) : (setJes k x s).flw = s.flw := rfl
@[simp] theorem setJes_fwBuild (k : Nat) (x : Jes) (s : Dev) : (setJes k x s).fwBuild = s.fwBuild := rfl
@[simp] theorem setJes_gln (k : Nat) (x : Jes) (s : Dev) : (setJes k x s).gln = s.gln := rfl
@[simp] theorem setJes_tim (k : Nat) (x : Jes) (s : Dev) : (setJes k x s).tim = s.tim := rfl
@[simp] theorem setJes_fen (k : Nat) (x : Jes) (s : Dev) : (setJes k x s).fen = s.fen := rfl
@[simp] theorem setJes_hdl (k : Nat) (x : Jes) (s : Dev) : (setJes k x s).hdl = s.hdl := rfl
@[simp] theorem setJes_drl (k : Nat) (x : Jes) (s : Dev) : (setJes k x s).drl = s.drl := rfl
@[simp] theorem setJes_mks (k : Nat) (x : Jes) (s : Dev) : (setJes k x s).mks = s.mks := rfl
@[simp] theorem setJes_lists (k : Nat) (x : Jes) (s : Dev) : (setJes k x s).lists = s.lists := rfl
@[simp] theorem setJes_syncOut (k : Nat) (x : Jes) (s : Dev) : (setJes k x s).syncOut = s.syncOut := rfl
@[simp] theorem setJes_rmp (k : Nat) (x : Jes) (s : Dev) : (setJes k x s).rmp = s.rmp := rfl
@[simp] theorem setJes_standby (k : Nat) (x : Jes) (s : Dev) : (setJes k x s).standby = s.standby := rfl
@[simp] theorem setJes_wakeReq (k : Nat) (x : Jes) (s : Dev) : (setJes k x s).wakeReq = s.wakeReq := rfl
@[simp] theorem setJes_ueNow (k : Nat) (x : Jes) (s : Dev) : (setJes k x s).ueNow = s.ueNow := rfl
@[simp] theorem setJes_wakeT (k : Nat) (x : Jes) (s : Dev) : (setJes k x s).wakeT = s.wakeT := rfl
@[simp] theorem setJes_aonT (k : Nat) (x : Jes) (s : Dev) : (setJes k x s).aonT = s.aonT := rfl
@[simp] theorem setJes_cold (k : Nat) (x : Jes) (s : Dev) : (setJes k x s).cold = s.cold := rfl
@[simp] theorem setJes_syncEv (k : Nat) (x : Jes) (s : Dev) : (setJes k x s).syncEv = s.syncEv := rfl
@[simp] theorem setJes_flt (k : Nat) (x : Jes) (s : Dev) : (setJes k x s).flt = s.flt := rfl
@[simp] theorem setJes_hmk (k : Nat) (x : Jes) (s : Dev) : (setJes k x s).hmk = s.hmk := rfl
@[simp] theorem setJes_opMc (k : Nat) (x : Jes) (s : Dev) : (setJes k x s).opMc = s.opMc := rfl
@[simp] theorem setJes_raised (k : Nat) (x : Jes) (s : Dev) : (setJes k x s).raised = s.raised := rfl
@[simp] theorem setJes_fieldMc (k : Nat) (x : Jes) (s : Dev) : (setJes k x s).fieldMc = s.fieldMc := rfl
@[simp] theorem setJes_spareKeep (k : Nat) (x : Jes) (s : Dev) : (setJes k x s).spareKeep = s.spareKeep := rfl
@[simp] theorem setJes_sw (k : Nat) (x : Jes) (s : Dev) : (setJes k x s).sw = s.sw := rfl
@[simp] theorem setJes_rstLow (k : Nat) (x : Jes) (s : Dev) : (setJes k x s).rstLow = s.rstLow := rfl
@[simp] theorem setJes_booting (k : Nat) (x : Jes) (s : Dev) : (setJes k x s).booting = s.booting := rfl
@[simp] theorem setJes_bootT (k : Nat) (x : Jes) (s : Dev) : (setJes k x s).bootT = s.bootT := rfl
@[simp] theorem setJes_sec (k : Nat) (x : Jes) (s : Dev) : (setJes k x s).sec = s.sec := rfl
@[simp] theorem setJes_jtag (k : Nat) (x : Jes) (s : Dev) : (setJes k x s).jtag = s.jtag := rfl
@[simp] theorem setJes_out (k : Nat) (x : Jes) (s : Dev) : (setJes k x s).out = s.out := rfl
@[simp] theorem setJes_freeCtr (k : Nat) (x : Jes) (s : Dev) : (setJes k x s).freeCtr = s.freeCtr := rfl

/-! ### setTim -/

@[simp] theorem setTim_ts (k : Nat) (x : Tim) (s : Dev) : (setTim k x s).ts = s.ts := rfl
@[simp] theorem setTim_mcRegs (k : Nat) (x : Tim) (s : Dev) : (setTim k x s).mcRegs = s.mcRegs := rfl
@[simp] theorem setTim_clk (k : Nat) (x : Tim) (s : Dev) : (setTim k x s).clk = s.clk := rfl
@[simp] theorem setTim_aon (k : Nat) (x : Tim) (s : Dev) : (setTim k x s).aon = s.aon := rfl
@[simp] theorem setTim_regs (k : Nat) (x : Tim) (s : Dev) : (setTim k x s).regs = s.regs := rfl
@[simp] theorem setTim_snap (k : Nat) (x : Tim) (s : Dev) : (setTim k x s).snap = s.snap := rfl
@[simp] theorem setTim_frozen (k : Nat) (x : Tim) (s : Dev) : (setTim k x s).frozen = s.frozen := rfl
@[simp] theorem setTim_resetting (k : Nat) (x : Tim) (s : Dev) : (setTim k x s).resetting = s.resetting := rfl
@[simp] theorem setTim_mem (k : Nat) (x : Tim) (s : Dev) : (setTim k x s).mem = s.mem := rfl
@[simp] theorem setTim_flash (k : Nat) (x : Tim) (s : Dev) : (setTim k x s).flash = s.flash := rfl
@[simp] theorem setTim_paths (k : Nat) (x : Tim) (s : Dev) : (setTim k x s).paths = s.paths := rfl
@[simp] theorem setTim_lanes (k : Nat) (x : Tim) (s : Dev) : (setTim k x s).lanes = s.lanes := rfl
@[simp] theorem setTim_fec (k : Nat) (x : Tim) (s : Dev) : (setTim k x s).fec = s.fec := rfl
@[simp] theorem setTim_cal (k : Nat) (x : Tim) (s : Dev) : (setTim k x s).cal = s.cal := rfl
@[simp] theorem setTim_adj (k : Nat) (x : Tim) (s : Dev) : (setTim k x s).adj = s.adj := rfl
@[simp] theorem setTim_tsets (k : Nat) (x : Tim) (s : Dev) : (setTim k x s).tsets = s.tsets := rfl
@[simp] theorem setTim_holds (k : Nat) (x : Tim) (s : Dev) : (setTim k x s).holds = s.holds := rfl
@[simp] theorem setTim_fur (k : Nat) (x : Tim) (s : Dev) : (setTim k x s).fur = s.fur := rfl
@[simp] theorem setTim_rowHist (k : Nat) (x : Tim) (s : Dev) : (setTim k x s).rowHist = s.rowHist := rfl
@[simp] theorem setTim_ovl (k : Nat) (x : Tim) (s : Dev) : (setTim k x s).ovl = s.ovl := rfl
@[simp] theorem setTim_pci (k : Nat) (x : Tim) (s : Dev) : (setTim k x s).pci = s.pci := rfl
@[simp] theorem setTim_eth (k : Nat) (x : Tim) (s : Dev) : (setTim k x s).eth = s.eth := rfl
@[simp] theorem setTim_smb (k : Nat) (x : Tim) (s : Dev) : (setTim k x s).smb = s.smb := rfl
@[simp] theorem setTim_xsp (k : Nat) (x : Tim) (s : Dev) : (setTim k x s).xsp = s.xsp := rfl
@[simp] theorem setTim_ueT (k : Nat) (x : Tim) (s : Dev) : (setTim k x s).ueT = s.ueT := rfl
@[simp] theorem setTim_ceT (k : Nat) (x : Tim) (s : Dev) : (setTim k x s).ceT = s.ceT := rfl
@[simp] theorem setTim_tagPeak (k : Nat) (x : Tim) (s : Dev) : (setTim k x s).tagPeak = s.tagPeak := rfl
@[simp] theorem setTim_scrub (k : Nat) (x : Tim) (s : Dev) : (setTim k x s).scrub = s.scrub := rfl
@[simp] theorem setTim_memOut (k : Nat) (x : Tim) (s : Dev) : (setTim k x s).memOut = s.memOut := rfl
@[simp] theorem setTim_grn (k : Nat) (x : Tim) (s : Dev) : (setTim k x s).grn = s.grn := rfl
@[simp] theorem setTim_flw (k : Nat) (x : Tim) (s : Dev) : (setTim k x s).flw = s.flw := rfl
@[simp] theorem setTim_fwBuild (k : Nat) (x : Tim) (s : Dev) : (setTim k x s).fwBuild = s.fwBuild := rfl
@[simp] theorem setTim_gln (k : Nat) (x : Tim) (s : Dev) : (setTim k x s).gln = s.gln := rfl
@[simp] theorem setTim_acq (k : Nat) (x : Tim) (s : Dev) : (setTim k x s).acq = s.acq := rfl
@[simp] theorem setTim_fen (k : Nat) (x : Tim) (s : Dev) : (setTim k x s).fen = s.fen := rfl
@[simp] theorem setTim_hdl (k : Nat) (x : Tim) (s : Dev) : (setTim k x s).hdl = s.hdl := rfl
@[simp] theorem setTim_drl (k : Nat) (x : Tim) (s : Dev) : (setTim k x s).drl = s.drl := rfl
@[simp] theorem setTim_mks (k : Nat) (x : Tim) (s : Dev) : (setTim k x s).mks = s.mks := rfl
@[simp] theorem setTim_lists (k : Nat) (x : Tim) (s : Dev) : (setTim k x s).lists = s.lists := rfl
@[simp] theorem setTim_syncOut (k : Nat) (x : Tim) (s : Dev) : (setTim k x s).syncOut = s.syncOut := rfl
@[simp] theorem setTim_rmp (k : Nat) (x : Tim) (s : Dev) : (setTim k x s).rmp = s.rmp := rfl
@[simp] theorem setTim_standby (k : Nat) (x : Tim) (s : Dev) : (setTim k x s).standby = s.standby := rfl
@[simp] theorem setTim_wakeReq (k : Nat) (x : Tim) (s : Dev) : (setTim k x s).wakeReq = s.wakeReq := rfl
@[simp] theorem setTim_ueNow (k : Nat) (x : Tim) (s : Dev) : (setTim k x s).ueNow = s.ueNow := rfl
@[simp] theorem setTim_wakeT (k : Nat) (x : Tim) (s : Dev) : (setTim k x s).wakeT = s.wakeT := rfl
@[simp] theorem setTim_aonT (k : Nat) (x : Tim) (s : Dev) : (setTim k x s).aonT = s.aonT := rfl
@[simp] theorem setTim_cold (k : Nat) (x : Tim) (s : Dev) : (setTim k x s).cold = s.cold := rfl
@[simp] theorem setTim_syncEv (k : Nat) (x : Tim) (s : Dev) : (setTim k x s).syncEv = s.syncEv := rfl
@[simp] theorem setTim_flt (k : Nat) (x : Tim) (s : Dev) : (setTim k x s).flt = s.flt := rfl
@[simp] theorem setTim_hmk (k : Nat) (x : Tim) (s : Dev) : (setTim k x s).hmk = s.hmk := rfl
@[simp] theorem setTim_opMc (k : Nat) (x : Tim) (s : Dev) : (setTim k x s).opMc = s.opMc := rfl
@[simp] theorem setTim_raised (k : Nat) (x : Tim) (s : Dev) : (setTim k x s).raised = s.raised := rfl
@[simp] theorem setTim_fieldMc (k : Nat) (x : Tim) (s : Dev) : (setTim k x s).fieldMc = s.fieldMc := rfl
@[simp] theorem setTim_spareKeep (k : Nat) (x : Tim) (s : Dev) : (setTim k x s).spareKeep = s.spareKeep := rfl
@[simp] theorem setTim_sw (k : Nat) (x : Tim) (s : Dev) : (setTim k x s).sw = s.sw := rfl
@[simp] theorem setTim_rstLow (k : Nat) (x : Tim) (s : Dev) : (setTim k x s).rstLow = s.rstLow := rfl
@[simp] theorem setTim_booting (k : Nat) (x : Tim) (s : Dev) : (setTim k x s).booting = s.booting := rfl
@[simp] theorem setTim_bootT (k : Nat) (x : Tim) (s : Dev) : (setTim k x s).bootT = s.bootT := rfl
@[simp] theorem setTim_sec (k : Nat) (x : Tim) (s : Dev) : (setTim k x s).sec = s.sec := rfl
@[simp] theorem setTim_jtag (k : Nat) (x : Tim) (s : Dev) : (setTim k x s).jtag = s.jtag := rfl
@[simp] theorem setTim_out (k : Nat) (x : Tim) (s : Dev) : (setTim k x s).out = s.out := rfl
@[simp] theorem setTim_freeCtr (k : Nat) (x : Tim) (s : Dev) : (setTim k x s).freeCtr = s.freeCtr := rfl

/-! ### setSite -/

@[simp] theorem setSite_ts (i : Nat) (x : Site) (s : Dev) : (setSite i x s).ts = s.ts := rfl
@[simp] theorem setSite_mcRegs (i : Nat) (x : Site) (s : Dev) : (setSite i x s).mcRegs = s.mcRegs := rfl
@[simp] theorem setSite_clk (i : Nat) (x : Site) (s : Dev) : (setSite i x s).clk = s.clk := rfl
@[simp] theorem setSite_aon (i : Nat) (x : Site) (s : Dev) : (setSite i x s).aon = s.aon := rfl
@[simp] theorem setSite_regs (i : Nat) (x : Site) (s : Dev) : (setSite i x s).regs = s.regs := rfl
@[simp] theorem setSite_snap (i : Nat) (x : Site) (s : Dev) : (setSite i x s).snap = s.snap := rfl
@[simp] theorem setSite_frozen (i : Nat) (x : Site) (s : Dev) : (setSite i x s).frozen = s.frozen := rfl
@[simp] theorem setSite_resetting (i : Nat) (x : Site) (s : Dev) : (setSite i x s).resetting = s.resetting := rfl
@[simp] theorem setSite_mem (i : Nat) (x : Site) (s : Dev) : (setSite i x s).mem = s.mem := rfl
@[simp] theorem setSite_flash (i : Nat) (x : Site) (s : Dev) : (setSite i x s).flash = s.flash := rfl
@[simp] theorem setSite_paths (i : Nat) (x : Site) (s : Dev) : (setSite i x s).paths = s.paths := rfl
@[simp] theorem setSite_lanes (i : Nat) (x : Site) (s : Dev) : (setSite i x s).lanes = s.lanes := rfl
@[simp] theorem setSite_fec (i : Nat) (x : Site) (s : Dev) : (setSite i x s).fec = s.fec := rfl
@[simp] theorem setSite_cal (i : Nat) (x : Site) (s : Dev) : (setSite i x s).cal = s.cal := rfl
@[simp] theorem setSite_adj (i : Nat) (x : Site) (s : Dev) : (setSite i x s).adj = s.adj := rfl
@[simp] theorem setSite_tsets (i : Nat) (x : Site) (s : Dev) : (setSite i x s).tsets = s.tsets := rfl
@[simp] theorem setSite_holds (i : Nat) (x : Site) (s : Dev) : (setSite i x s).holds = s.holds := rfl
@[simp] theorem setSite_fur (i : Nat) (x : Site) (s : Dev) : (setSite i x s).fur = s.fur := rfl
@[simp] theorem setSite_rowHist (i : Nat) (x : Site) (s : Dev) : (setSite i x s).rowHist = s.rowHist := rfl
@[simp] theorem setSite_ovl (i : Nat) (x : Site) (s : Dev) : (setSite i x s).ovl = s.ovl := rfl
@[simp] theorem setSite_pci (i : Nat) (x : Site) (s : Dev) : (setSite i x s).pci = s.pci := rfl
@[simp] theorem setSite_eth (i : Nat) (x : Site) (s : Dev) : (setSite i x s).eth = s.eth := rfl
@[simp] theorem setSite_smb (i : Nat) (x : Site) (s : Dev) : (setSite i x s).smb = s.smb := rfl
@[simp] theorem setSite_xsp (i : Nat) (x : Site) (s : Dev) : (setSite i x s).xsp = s.xsp := rfl
@[simp] theorem setSite_ueT (i : Nat) (x : Site) (s : Dev) : (setSite i x s).ueT = s.ueT := rfl
@[simp] theorem setSite_ceT (i : Nat) (x : Site) (s : Dev) : (setSite i x s).ceT = s.ceT := rfl
@[simp] theorem setSite_tagPeak (i : Nat) (x : Site) (s : Dev) : (setSite i x s).tagPeak = s.tagPeak := rfl
@[simp] theorem setSite_scrub (i : Nat) (x : Site) (s : Dev) : (setSite i x s).scrub = s.scrub := rfl
@[simp] theorem setSite_memOut (i : Nat) (x : Site) (s : Dev) : (setSite i x s).memOut = s.memOut := rfl
@[simp] theorem setSite_grn (i : Nat) (x : Site) (s : Dev) : (setSite i x s).grn = s.grn := rfl
@[simp] theorem setSite_fwBuild (i : Nat) (x : Site) (s : Dev) : (setSite i x s).fwBuild = s.fwBuild := rfl
@[simp] theorem setSite_gln (i : Nat) (x : Site) (s : Dev) : (setSite i x s).gln = s.gln := rfl
@[simp] theorem setSite_acq (i : Nat) (x : Site) (s : Dev) : (setSite i x s).acq = s.acq := rfl
@[simp] theorem setSite_tim (i : Nat) (x : Site) (s : Dev) : (setSite i x s).tim = s.tim := rfl
@[simp] theorem setSite_fen (i : Nat) (x : Site) (s : Dev) : (setSite i x s).fen = s.fen := rfl
@[simp] theorem setSite_hdl (i : Nat) (x : Site) (s : Dev) : (setSite i x s).hdl = s.hdl := rfl
@[simp] theorem setSite_drl (i : Nat) (x : Site) (s : Dev) : (setSite i x s).drl = s.drl := rfl
@[simp] theorem setSite_mks (i : Nat) (x : Site) (s : Dev) : (setSite i x s).mks = s.mks := rfl
@[simp] theorem setSite_lists (i : Nat) (x : Site) (s : Dev) : (setSite i x s).lists = s.lists := rfl
@[simp] theorem setSite_syncOut (i : Nat) (x : Site) (s : Dev) : (setSite i x s).syncOut = s.syncOut := rfl
@[simp] theorem setSite_rmp (i : Nat) (x : Site) (s : Dev) : (setSite i x s).rmp = s.rmp := rfl
@[simp] theorem setSite_standby (i : Nat) (x : Site) (s : Dev) : (setSite i x s).standby = s.standby := rfl
@[simp] theorem setSite_wakeReq (i : Nat) (x : Site) (s : Dev) : (setSite i x s).wakeReq = s.wakeReq := rfl
@[simp] theorem setSite_ueNow (i : Nat) (x : Site) (s : Dev) : (setSite i x s).ueNow = s.ueNow := rfl
@[simp] theorem setSite_wakeT (i : Nat) (x : Site) (s : Dev) : (setSite i x s).wakeT = s.wakeT := rfl
@[simp] theorem setSite_aonT (i : Nat) (x : Site) (s : Dev) : (setSite i x s).aonT = s.aonT := rfl
@[simp] theorem setSite_cold (i : Nat) (x : Site) (s : Dev) : (setSite i x s).cold = s.cold := rfl
@[simp] theorem setSite_syncEv (i : Nat) (x : Site) (s : Dev) : (setSite i x s).syncEv = s.syncEv := rfl
@[simp] theorem setSite_flt (i : Nat) (x : Site) (s : Dev) : (setSite i x s).flt = s.flt := rfl
@[simp] theorem setSite_hmk (i : Nat) (x : Site) (s : Dev) : (setSite i x s).hmk = s.hmk := rfl
@[simp] theorem setSite_opMc (i : Nat) (x : Site) (s : Dev) : (setSite i x s).opMc = s.opMc := rfl
@[simp] theorem setSite_raised (i : Nat) (x : Site) (s : Dev) : (setSite i x s).raised = s.raised := rfl
@[simp] theorem setSite_fieldMc (i : Nat) (x : Site) (s : Dev) : (setSite i x s).fieldMc = s.fieldMc := rfl
@[simp] theorem setSite_spareKeep (i : Nat) (x : Site) (s : Dev) : (setSite i x s).spareKeep = s.spareKeep := rfl
@[simp] theorem setSite_sw (i : Nat) (x : Site) (s : Dev) : (setSite i x s).sw = s.sw := rfl
@[simp] theorem setSite_rstLow (i : Nat) (x : Site) (s : Dev) : (setSite i x s).rstLow = s.rstLow := rfl
@[simp] theorem setSite_booting (i : Nat) (x : Site) (s : Dev) : (setSite i x s).booting = s.booting := rfl
@[simp] theorem setSite_bootT (i : Nat) (x : Site) (s : Dev) : (setSite i x s).bootT = s.bootT := rfl
@[simp] theorem setSite_sec (i : Nat) (x : Site) (s : Dev) : (setSite i x s).sec = s.sec := rfl
@[simp] theorem setSite_jtag (i : Nat) (x : Site) (s : Dev) : (setSite i x s).jtag = s.jtag := rfl
@[simp] theorem setSite_out (i : Nat) (x : Site) (s : Dev) : (setSite i x s).out = s.out := rfl
@[simp] theorem setSite_freeCtr (i : Nat) (x : Site) (s : Dev) : (setSite i x s).freeCtr = s.freeCtr := rfl

/-! ### raiseOn -/

@[simp] theorem raiseOn_ts (src cause res : Nat) (s : Dev) : (raiseOn src cause res s).ts = s.ts := rfl
@[simp] theorem raiseOn_mcRegs (src cause res : Nat) (s : Dev) : (raiseOn src cause res s).mcRegs = s.mcRegs := rfl
@[simp] theorem raiseOn_clk (src cause res : Nat) (s : Dev) : (raiseOn src cause res s).clk = s.clk := rfl
@[simp] theorem raiseOn_aon (src cause res : Nat) (s : Dev) : (raiseOn src cause res s).aon = s.aon := rfl
@[simp] theorem raiseOn_regs (src cause res : Nat) (s : Dev) : (raiseOn src cause res s).regs = s.regs := rfl
@[simp] theorem raiseOn_snap (src cause res : Nat) (s : Dev) : (raiseOn src cause res s).snap = s.snap := rfl
@[simp] theorem raiseOn_frozen (src cause res : Nat) (s : Dev) : (raiseOn src cause res s).frozen = s.frozen := rfl
@[simp] theorem raiseOn_resetting (src cause res : Nat) (s : Dev) : (raiseOn src cause res s).resetting = s.resetting := rfl
@[simp] theorem raiseOn_mem (src cause res : Nat) (s : Dev) : (raiseOn src cause res s).mem = s.mem := rfl
@[simp] theorem raiseOn_flash (src cause res : Nat) (s : Dev) : (raiseOn src cause res s).flash = s.flash := rfl
@[simp] theorem raiseOn_paths (src cause res : Nat) (s : Dev) : (raiseOn src cause res s).paths = s.paths := rfl
@[simp] theorem raiseOn_lanes (src cause res : Nat) (s : Dev) : (raiseOn src cause res s).lanes = s.lanes := rfl
@[simp] theorem raiseOn_fec (src cause res : Nat) (s : Dev) : (raiseOn src cause res s).fec = s.fec := rfl
@[simp] theorem raiseOn_cal (src cause res : Nat) (s : Dev) : (raiseOn src cause res s).cal = s.cal := rfl
@[simp] theorem raiseOn_adj (src cause res : Nat) (s : Dev) : (raiseOn src cause res s).adj = s.adj := rfl
@[simp] theorem raiseOn_tsets (src cause res : Nat) (s : Dev) : (raiseOn src cause res s).tsets = s.tsets := rfl
@[simp] theorem raiseOn_holds (src cause res : Nat) (s : Dev) : (raiseOn src cause res s).holds = s.holds := rfl
@[simp] theorem raiseOn_fur (src cause res : Nat) (s : Dev) : (raiseOn src cause res s).fur = s.fur := rfl
@[simp] theorem raiseOn_rowHist (src cause res : Nat) (s : Dev) : (raiseOn src cause res s).rowHist = s.rowHist := rfl
@[simp] theorem raiseOn_ovl (src cause res : Nat) (s : Dev) : (raiseOn src cause res s).ovl = s.ovl := rfl
@[simp] theorem raiseOn_pci (src cause res : Nat) (s : Dev) : (raiseOn src cause res s).pci = s.pci := rfl
@[simp] theorem raiseOn_eth (src cause res : Nat) (s : Dev) : (raiseOn src cause res s).eth = s.eth := rfl
@[simp] theorem raiseOn_smb (src cause res : Nat) (s : Dev) : (raiseOn src cause res s).smb = s.smb := rfl
@[simp] theorem raiseOn_xsp (src cause res : Nat) (s : Dev) : (raiseOn src cause res s).xsp = s.xsp := rfl
@[simp] theorem raiseOn_ueT (src cause res : Nat) (s : Dev) : (raiseOn src cause res s).ueT = s.ueT := rfl
@[simp] theorem raiseOn_ceT (src cause res : Nat) (s : Dev) : (raiseOn src cause res s).ceT = s.ceT := rfl
@[simp] theorem raiseOn_tagPeak (src cause res : Nat) (s : Dev) : (raiseOn src cause res s).tagPeak = s.tagPeak := rfl
@[simp] theorem raiseOn_scrub (src cause res : Nat) (s : Dev) : (raiseOn src cause res s).scrub = s.scrub := rfl
@[simp] theorem raiseOn_memOut (src cause res : Nat) (s : Dev) : (raiseOn src cause res s).memOut = s.memOut := rfl
@[simp] theorem raiseOn_grn (src cause res : Nat) (s : Dev) : (raiseOn src cause res s).grn = s.grn := rfl
@[simp] theorem raiseOn_flw (src cause res : Nat) (s : Dev) : (raiseOn src cause res s).flw = s.flw := rfl
@[simp] theorem raiseOn_fwBuild (src cause res : Nat) (s : Dev) : (raiseOn src cause res s).fwBuild = s.fwBuild := rfl
@[simp] theorem raiseOn_gln (src cause res : Nat) (s : Dev) : (raiseOn src cause res s).gln = s.gln := rfl
@[simp] theorem raiseOn_acq (src cause res : Nat) (s : Dev) : (raiseOn src cause res s).acq = s.acq := rfl
@[simp] theorem raiseOn_tim (src cause res : Nat) (s : Dev) : (raiseOn src cause res s).tim = s.tim := rfl
@[simp] theorem raiseOn_fen (src cause res : Nat) (s : Dev) : (raiseOn src cause res s).fen = s.fen := rfl
@[simp] theorem raiseOn_hdl (src cause res : Nat) (s : Dev) : (raiseOn src cause res s).hdl = s.hdl := rfl
@[simp] theorem raiseOn_drl (src cause res : Nat) (s : Dev) : (raiseOn src cause res s).drl = s.drl := rfl
@[simp] theorem raiseOn_mks (src cause res : Nat) (s : Dev) : (raiseOn src cause res s).mks = s.mks := rfl
@[simp] theorem raiseOn_lists (src cause res : Nat) (s : Dev) : (raiseOn src cause res s).lists = s.lists := rfl
@[simp] theorem raiseOn_syncOut (src cause res : Nat) (s : Dev) : (raiseOn src cause res s).syncOut = s.syncOut := rfl
@[simp] theorem raiseOn_rmp (src cause res : Nat) (s : Dev) : (raiseOn src cause res s).rmp = s.rmp := rfl
@[simp] theorem raiseOn_standby (src cause res : Nat) (s : Dev) : (raiseOn src cause res s).standby = s.standby := rfl
@[simp] theorem raiseOn_wakeReq (src cause res : Nat) (s : Dev) : (raiseOn src cause res s).wakeReq = s.wakeReq := rfl
@[simp] theorem raiseOn_ueNow (src cause res : Nat) (s : Dev) : (raiseOn src cause res s).ueNow = s.ueNow := rfl
@[simp] theorem raiseOn_wakeT (src cause res : Nat) (s : Dev) : (raiseOn src cause res s).wakeT = s.wakeT := rfl
@[simp] theorem raiseOn_aonT (src cause res : Nat) (s : Dev) : (raiseOn src cause res s).aonT = s.aonT := rfl
@[simp] theorem raiseOn_cold (src cause res : Nat) (s : Dev) : (raiseOn src cause res s).cold = s.cold := rfl
@[simp] theorem raiseOn_syncEv (src cause res : Nat) (s : Dev) : (raiseOn src cause res s).syncEv = s.syncEv := rfl
@[simp] theorem raiseOn_flt (src cause res : Nat) (s : Dev) : (raiseOn src cause res s).flt = s.flt := rfl
@[simp] theorem raiseOn_hmk (src cause res : Nat) (s : Dev) : (raiseOn src cause res s).hmk = s.hmk := rfl
@[simp] theorem raiseOn_opMc (src cause res : Nat) (s : Dev) : (raiseOn src cause res s).opMc = s.opMc := rfl
@[simp] theorem raiseOn_fieldMc (src cause res : Nat) (s : Dev) : (raiseOn src cause res s).fieldMc = s.fieldMc := rfl
@[simp] theorem raiseOn_spareKeep (src cause res : Nat) (s : Dev) : (raiseOn src cause res s).spareKeep = s.spareKeep := rfl
@[simp] theorem raiseOn_sw (src cause res : Nat) (s : Dev) : (raiseOn src cause res s).sw = s.sw := rfl
@[simp] theorem raiseOn_rstLow (src cause res : Nat) (s : Dev) : (raiseOn src cause res s).rstLow = s.rstLow := rfl
@[simp] theorem raiseOn_booting (src cause res : Nat) (s : Dev) : (raiseOn src cause res s).booting = s.booting := rfl
@[simp] theorem raiseOn_bootT (src cause res : Nat) (s : Dev) : (raiseOn src cause res s).bootT = s.bootT := rfl
@[simp] theorem raiseOn_sec (src cause res : Nat) (s : Dev) : (raiseOn src cause res s).sec = s.sec := rfl
@[simp] theorem raiseOn_jtag (src cause res : Nat) (s : Dev) : (raiseOn src cause res s).jtag = s.jtag := rfl
@[simp] theorem raiseOn_out (src cause res : Nat) (s : Dev) : (raiseOn src cause res s).out = s.out := rfl
@[simp] theorem raiseOn_freeCtr (src cause res : Nat) (s : Dev) : (raiseOn src cause res s).freeCtr = s.freeCtr := rfl

/-! ### raise -/

@[simp] theorem raise_ts (src cause : Nat) (s : Dev) : (raise src cause s).ts = s.ts := rfl
@[simp] theorem raise_mcRegs (src cause : Nat) (s : Dev) : (raise src cause s).mcRegs = s.mcRegs := rfl
@[simp] theorem raise_clk (src cause : Nat) (s : Dev) : (raise src cause s).clk = s.clk := rfl
@[simp] theorem raise_aon (src cause : Nat) (s : Dev) : (raise src cause s).aon = s.aon := rfl
@[simp] theorem raise_regs (src cause : Nat) (s : Dev) : (raise src cause s).regs = s.regs := rfl
@[simp] theorem raise_snap (src cause : Nat) (s : Dev) : (raise src cause s).snap = s.snap := rfl
@[simp] theorem raise_frozen (src cause : Nat) (s : Dev) : (raise src cause s).frozen = s.frozen := rfl
@[simp] theorem raise_resetting (src cause : Nat) (s : Dev) : (raise src cause s).resetting = s.resetting := rfl
@[simp] theorem raise_mem (src cause : Nat) (s : Dev) : (raise src cause s).mem = s.mem := rfl
@[simp] theorem raise_flash (src cause : Nat) (s : Dev) : (raise src cause s).flash = s.flash := rfl
@[simp] theorem raise_paths (src cause : Nat) (s : Dev) : (raise src cause s).paths = s.paths := rfl
@[simp] theorem raise_lanes (src cause : Nat) (s : Dev) : (raise src cause s).lanes = s.lanes := rfl
@[simp] theorem raise_fec (src cause : Nat) (s : Dev) : (raise src cause s).fec = s.fec := rfl
@[simp] theorem raise_cal (src cause : Nat) (s : Dev) : (raise src cause s).cal = s.cal := rfl
@[simp] theorem raise_adj (src cause : Nat) (s : Dev) : (raise src cause s).adj = s.adj := rfl
@[simp] theorem raise_tsets (src cause : Nat) (s : Dev) : (raise src cause s).tsets = s.tsets := rfl
@[simp] theorem raise_holds (src cause : Nat) (s : Dev) : (raise src cause s).holds = s.holds := rfl
@[simp] theorem raise_fur (src cause : Nat) (s : Dev) : (raise src cause s).fur = s.fur := rfl
@[simp] theorem raise_rowHist (src cause : Nat) (s : Dev) : (raise src cause s).rowHist = s.rowHist := rfl
@[simp] theorem raise_ovl (src cause : Nat) (s : Dev) : (raise src cause s).ovl = s.ovl := rfl
@[simp] theorem raise_pci (src cause : Nat) (s : Dev) : (raise src cause s).pci = s.pci := rfl
@[simp] theorem raise_eth (src cause : Nat) (s : Dev) : (raise src cause s).eth = s.eth := rfl
@[simp] theorem raise_smb (src cause : Nat) (s : Dev) : (raise src cause s).smb = s.smb := rfl
@[simp] theorem raise_xsp (src cause : Nat) (s : Dev) : (raise src cause s).xsp = s.xsp := rfl
@[simp] theorem raise_ueT (src cause : Nat) (s : Dev) : (raise src cause s).ueT = s.ueT := rfl
@[simp] theorem raise_ceT (src cause : Nat) (s : Dev) : (raise src cause s).ceT = s.ceT := rfl
@[simp] theorem raise_tagPeak (src cause : Nat) (s : Dev) : (raise src cause s).tagPeak = s.tagPeak := rfl
@[simp] theorem raise_scrub (src cause : Nat) (s : Dev) : (raise src cause s).scrub = s.scrub := rfl
@[simp] theorem raise_memOut (src cause : Nat) (s : Dev) : (raise src cause s).memOut = s.memOut := rfl
@[simp] theorem raise_grn (src cause : Nat) (s : Dev) : (raise src cause s).grn = s.grn := rfl
@[simp] theorem raise_flw (src cause : Nat) (s : Dev) : (raise src cause s).flw = s.flw := rfl
@[simp] theorem raise_fwBuild (src cause : Nat) (s : Dev) : (raise src cause s).fwBuild = s.fwBuild := rfl
@[simp] theorem raise_gln (src cause : Nat) (s : Dev) : (raise src cause s).gln = s.gln := rfl
@[simp] theorem raise_acq (src cause : Nat) (s : Dev) : (raise src cause s).acq = s.acq := rfl
@[simp] theorem raise_tim (src cause : Nat) (s : Dev) : (raise src cause s).tim = s.tim := rfl
@[simp] theorem raise_fen (src cause : Nat) (s : Dev) : (raise src cause s).fen = s.fen := rfl
@[simp] theorem raise_hdl (src cause : Nat) (s : Dev) : (raise src cause s).hdl = s.hdl := rfl
@[simp] theorem raise_drl (src cause : Nat) (s : Dev) : (raise src cause s).drl = s.drl := rfl
@[simp] theorem raise_mks (src cause : Nat) (s : Dev) : (raise src cause s).mks = s.mks := rfl
@[simp] theorem raise_lists (src cause : Nat) (s : Dev) : (raise src cause s).lists = s.lists := rfl
@[simp] theorem raise_syncOut (src cause : Nat) (s : Dev) : (raise src cause s).syncOut = s.syncOut := rfl
@[simp] theorem raise_rmp (src cause : Nat) (s : Dev) : (raise src cause s).rmp = s.rmp := rfl
@[simp] theorem raise_standby (src cause : Nat) (s : Dev) : (raise src cause s).standby = s.standby := rfl
@[simp] theorem raise_wakeReq (src cause : Nat) (s : Dev) : (raise src cause s).wakeReq = s.wakeReq := rfl
@[simp] theorem raise_ueNow (src cause : Nat) (s : Dev) : (raise src cause s).ueNow = s.ueNow := rfl
@[simp] theorem raise_wakeT (src cause : Nat) (s : Dev) : (raise src cause s).wakeT = s.wakeT := rfl
@[simp] theorem raise_aonT (src cause : Nat) (s : Dev) : (raise src cause s).aonT = s.aonT := rfl
@[simp] theorem raise_cold (src cause : Nat) (s : Dev) : (raise src cause s).cold = s.cold := rfl
@[simp] theorem raise_syncEv (src cause : Nat) (s : Dev) : (raise src cause s).syncEv = s.syncEv := rfl
@[simp] theorem raise_flt (src cause : Nat) (s : Dev) : (raise src cause s).flt = s.flt := rfl
@[simp] theorem raise_hmk (src cause : Nat) (s : Dev) : (raise src cause s).hmk = s.hmk := rfl
@[simp] theorem raise_opMc (src cause : Nat) (s : Dev) : (raise src cause s).opMc = s.opMc := rfl
@[simp] theorem raise_fieldMc (src cause : Nat) (s : Dev) : (raise src cause s).fieldMc = s.fieldMc := rfl
@[simp] theorem raise_spareKeep (src cause : Nat) (s : Dev) : (raise src cause s).spareKeep = s.spareKeep := rfl
@[simp] theorem raise_sw (src cause : Nat) (s : Dev) : (raise src cause s).sw = s.sw := rfl
@[simp] theorem raise_rstLow (src cause : Nat) (s : Dev) : (raise src cause s).rstLow = s.rstLow := rfl
@[simp] theorem raise_booting (src cause : Nat) (s : Dev) : (raise src cause s).booting = s.booting := rfl
@[simp] theorem raise_bootT (src cause : Nat) (s : Dev) : (raise src cause s).bootT = s.bootT := rfl
@[simp] theorem raise_sec (src cause : Nat) (s : Dev) : (raise src cause s).sec = s.sec := rfl
@[simp] theorem raise_jtag (src cause : Nat) (s : Dev) : (raise src cause s).jtag = s.jtag := rfl
@[simp] theorem raise_out (src cause : Nat) (s : Dev) : (raise src cause s).out = s.out := rfl
@[simp] theorem raise_freeCtr (src cause : Nat) (s : Dev) : (raise src cause s).freeCtr = s.freeCtr := rfl

/-! ### The fields that change -/

@[simp] theorem emit_out (o : Out) (s : Dev) : (emit o s).out = s.out ++ [o] := rfl
@[simp] theorem wr_regs (a : Nat) (v : Word) (s : Dev) : (wr a v s).regs = mset regReset a v s.regs := rfl
@[simp] theorem wrN_regs (a n : Nat) (s : Dev) : (wrN a n s).regs = mset regReset a (w32 n) s.regs := rfl
@[simp] theorem setPath_paths (p : Path) (x : PathSt) (s : Dev) : (setPath p x s).paths = mset (fun _ => {}) (pathNum p) x s.paths := rfl
@[simp] theorem setLane_lanes (l : Nat) (x : Lane) (s : Dev) : (setLane l x s).lanes = mset (fun _ => {}) l x s.lanes := rfl
@[simp] theorem setFec_fec (b : Nat) (x : FecBus) (s : Dev) : (setFec b x s).fec = mset (fun _ => {}) b x s.fec := rfl
@[simp] theorem setCal_cal (b : Nat) (x : CalSt) (s : Dev) : (setCal b x s).cal = mset (fun _ => {}) b x s.cal := rfl
@[simp] theorem setHold_holds (i : Nat) (x : Hold) (s : Dev) : (setHold i x s).holds = mset (fun _ => {}) i x s.holds := rfl
@[simp] theorem setFur_fur (e : Nat) (x : Furrow) (s : Dev) : (setFur e x s).fur = mset (fun _ => {}) e x s.fur := rfl
@[simp] theorem raiseOn_raised (src cause res : Nat) (s : Dev) : (raiseOn src cause res s).raised = s.raised ++ [({ src := src, cause := cause, res := res } : Raised)] := rfl
@[simp] theorem orReg_mcRegs (a m : Nat) (s : Dev) : (orReg a m s).mcRegs = (markSet a m s).mcRegs := rfl

end Sys2Proof.Machine
end

