-- ==== Sys2Proof/Laws/Tables.lean ====
section
/-! SUPPORT. The sparse tables that hold registers, memory and hidden state: reading after a change, and the canonical form. -/
namespace Sys2Proof.Machine

/-- A table read at another key than the one set. -/
theorem mget_mset_ne {α : Type} [DecidableEq α] (df : Nat → α) (k j : Nat) (v : α) (h : k ≠ j) (m : NMap α) : mget df (mset df k v m) j = mget df m j := by
  induction m with
  | nil => unfold mset; split <;> simp [mget, h]
  | cons x m ih =>
    obtain ⟨a, w⟩ := x
    unfold mset
    split
    · simp [mget, ih]
    · split
      · rename_i h2; subst h2
        split <;> simp [mget, h]
      · split <;> simp [mget, h]

theorem mwf_mono {α : Type} [DecidableEq α] (df : Nat → α) (lo hi : Nat) (m : NMap α) (h : mwf df hi m = true) (hl : lo ≤ hi) : mwf df lo m = true := by
  cases m with
  | nil => rfl
  | cons e m => simp only [mwf, Bool.and_eq_true, decide_eq_true_eq] at h ⊢; exact ⟨⟨by omega, h.1.2⟩, h.2⟩

/-- A table read after an entry is set. -/
theorem mget_mset {α : Type} [DecidableEq α] (df : Nat → α) (k j : Nat) (v : α) : ∀ (lo : Nat) (m : NMap α), mwf df lo m = true → mget df (mset df k v m) j = if k = j then v else mget df m j := by
  intro lo m
  induction m generalizing lo with
  | nil => intro _; simp only [mset]; split <;> simp_all [mget]
  | cons e m ih =>
    obtain ⟨a, w⟩ := e
    intro h
    simp only [mwf, Bool.and_eq_true, decide_eq_true_eq] at h
    have ih' := ih (a + 1) h.2
    have hb : ∀ x lo, mwf df lo m = true → x < lo → mget df m x = df x := by
      clear ih ih' h
      induction m with
      | nil => intro x lo _ _; rfl
      | cons e m ih2 =>
        obtain ⟨b, u⟩ := e
        intro x lo h hx
        simp only [mwf, Bool.and_eq_true, decide_eq_true_eq] at h
        simp only [mget]
        rw [if_neg (by omega)]
        exact ih2 x (b + 1) h.2 (by omega)
    simp only [mset]
    by_cases h1 : a < k
    · rw [if_pos h1]
      simp only [mget]
      by_cases h2 : a = j
      · subst h2; simp; omega
      · rw [if_neg h2, ih', if_neg h2]
    · rw [if_neg h1]
      by_cases h2 : a = k
      · subst h2
        rw [if_pos rfl]
        by_cases hv : v = df a
        · rw [if_pos hv]
          by_cases hj : a = j
          · subst hj; rw [if_pos rfl, hv]; exact hb a (a + 1) h.2 (by omega)
          · rw [if_neg hj]; simp only [mget]; rw [if_neg hj]
        · rw [if_neg hv]; simp only [mget]; split <;> rfl
      · rw [if_neg h2]
        by_cases hv : v = df k
        · rw [if_pos hv]
          by_cases hj : k = j
          · subst hj; rw [if_pos rfl, hv]; simp only [mget]; rw [if_neg h2]; exact hb k (a + 1) h.2 (by omega)
          · rw [if_neg hj]
        · rw [if_neg hv]
          simp only [mget]

/-- Setting an entry keeps the canonical form. -/
theorem mwf_mset {α : Type} [DecidableEq α] (df : Nat → α) (k : Nat) (v : α) : ∀ (lo : Nat) (m : NMap α), mwf df lo m = true → lo ≤ k → mwf df lo (mset df k v m) = true := by
  intro lo m
  induction m generalizing lo with
  | nil => intro _ hk; simp only [mset]; split <;> simp_all [mwf]
  | cons e m ih =>
    obtain ⟨a, w⟩ := e
    intro h hk
    simp only [mwf, Bool.and_eq_true, decide_eq_true_eq] at h
    simp only [mset]
    split
    · rename_i h1
      simp only [mwf, Bool.and_eq_true, decide_eq_true_eq]
      exact ⟨h.1, ih (a + 1) h.2 (by omega)⟩
    · split
      · rename_i h1 h2
        subst h2
        split
        · exact mwf_mono df lo (a + 1) m h.2 (by omega)
        · simp only [mwf, Bool.and_eq_true, decide_eq_true_eq]; rename_i hv; exact ⟨⟨by omega, hv⟩, h.2⟩
      · split
        · simp only [mwf, Bool.and_eq_true, decide_eq_true_eq]; exact h
        · rename_i h1 h2 hv
          simp only [mwf, Bool.and_eq_true, decide_eq_true_eq]; exact ⟨⟨by omega, hv⟩, ⟨by omega, h.1.2⟩, h.2⟩

/-- What holds of every entry still does after one is set to a value of which it holds. -/
theorem all_mset {α : Type} [DecidableEq α] (df : Nat → α) (k : Nat) (v : α) (p : Nat × α → Bool) (m : NMap α) (h : m.all p = true) (hp : p (k, v) = true) : (mset df k v m).all p = true := by
  induction m with
  | nil => simp only [mset]; split <;> simp_all
  | cons e m ih =>
    obtain ⟨a, w⟩ := e
    simp only [List.all_cons, Bool.and_eq_true] at h
    simp only [mset]
    split
    · simp only [List.all_cons, Bool.and_eq_true]; exact ⟨h.1, ih h.2⟩
    · split
      · split
        · exact h.2
        · simp only [List.all_cons, Bool.and_eq_true]; exact ⟨hp, h.2⟩
      · split
        · simp only [List.all_cons, Bool.and_eq_true]; exact h
        · simp only [List.all_cons, Bool.and_eq_true]; exact ⟨hp, h⟩

/-- Dropping entries keeps the canonical form. -/
theorem mwf_mdrop {α : Type} [DecidableEq α] (df : Nat → α) (p : Nat → Bool) : ∀ (lo : Nat) (m : NMap α), mwf df lo m = true → mwf df lo (mdrop p m) = true := by
  intro lo m
  induction m generalizing lo with
  | nil => intro _; rfl
  | cons e m ih =>
    obtain ⟨a, w⟩ := e
    intro h
    simp only [mwf, Bool.and_eq_true, decide_eq_true_eq] at h
    unfold mdrop
    rw [List.filter_cons]
    split
    · simp only [mwf, Bool.and_eq_true, decide_eq_true_eq]; exact ⟨h.1, ih (a + 1) h.2⟩
    · exact mwf_mono df lo (a + 1) _ (ih (a + 1) h.2) (by omega)

/-- A table read after entries are dropped. -/
theorem mget_mdrop {α : Type} (df : Nat → α) (p : Nat → Bool) (m : NMap α) (j : Nat) : mget df (mdrop p m) j = if p j then df j else mget df m j := by
  induction m with
  | nil => simp [mdrop, mget]
  | cons e m ih =>
    obtain ⟨a, w⟩ := e
    unfold mdrop at ih ⊢
    rw [List.filter_cons]
    by_cases hp : p a = true
    · simp only [hp, Bool.not_true, Bool.false_eq_true, if_false, ih, mget]
      by_cases hj : p j = true
      · simp [hj]
      · have : a ≠ j := by intro h; subst h; exact hj hp
        simp [hj, this]
    · simp only [hp, Bool.not_false, if_true, mget, ih]
      by_cases ha : a = j
      · subst ha; simp [hp]
      · simp [ha]

theorem mem_mset {α : Type} [DecidableEq α] (df : Nat → α) (k : Nat) (v : α) (m : NMap α) (e : Nat × α) (h : e ∈ mset df k v m) : e = (k, v) ∨ e ∈ m := by
  induction m with
  | nil => simp only [mset] at h; split at h <;> simp_all
  | cons x m ih =>
    obtain ⟨a, w⟩ := x
    simp only [mset] at h
    split at h
    · rcases List.mem_cons.mp h with h | h
      · right; rw [h]; exact List.mem_cons_self
      · rcases ih h with h | h
        · exact .inl h
        · exact .inr (List.mem_cons_of_mem _ h)
    · split at h
      · split at h
        · exact .inr (List.mem_cons_of_mem _ h)
        · rcases List.mem_cons.mp h with h | h
          · exact .inl h
          · exact .inr (List.mem_cons_of_mem _ h)
      · split at h
        · exact .inr h
        · rcases List.mem_cons.mp h with h | h
          · exact .inl h
          · exact .inr h

theorem mset_mem {α : Type} [DecidableEq α] (df : Nat → α) (k : Nat) (v : α) (m : NMap α) (h : v ≠ df k) : (k, v) ∈ mset df k v m := by
  induction m with
  | nil => simp only [mset]; rw [if_neg h]; exact List.mem_cons_self
  | cons x m ih =>
    obtain ⟨a, w⟩ := x
    simp only [mset]
    split
    · exact List.mem_cons_of_mem _ ih
    · split
      · simp [h]
      · simp [h]

end Sys2Proof.Machine
end

