-- ==== Sys2Proof/Laws/Registers.lean ====
section
/-! SUPPORT. The register file: what a write, a field, a plain write and an interrupt bit change, and the addresses of the map. -/
namespace Sys2Proof.Machine

theorem A_div (p o : Nat) (h : o < 0x1000) : A p o / 0x1000 = p := by unfold A; omega

theorem A_mod (p o : Nat) (h : o < 0x1000) : A p o % 0x1000 = o := by unfold A; omega

theorem A8m (p : Nat) : A p 8 % 4 = 0 := by unfold A; omega

theorem A18m (p : Nat) : A p 0x18 % 4 = 0 := by unfold A; omega

theorem A2Cm (p : Nat) : A p 0x2C % 4 = 0 := by unfold A; omega

/-- Writing a register leaves every other one alone. -/
theorem rdN_wrN_ne (a b n : Nat) (s : Dev) (h : a ≠ b) : rdN (wrN a n s) b = rdN s b := by
  simp only [rdN, rd, wrN, wr, mget_mset_ne regReset a b _ h]

/-- A register reads as what is written to it, modulo 2^32. -/
theorem rdN_wrN (a n : Nat) (d : Dev) (h : mwf regReset 0 d.regs = true) : rdN (wrN a n d) a = n % 2 ^ 32 := by
  show (mget regReset (mset regReset a (w32 n) d.regs) a).toNat = _
  rw [mget_mset _ _ _ _ 0 _ h, if_pos rfl]
  simp [w32]

theorem wrN_wf (a n : Nat) (d : Dev) (h : mwf regReset 0 d.regs = true) : mwf regReset 0 (wrN a n d).regs = true := mwf_mset _ _ _ _ _ h (Nat.zero_le _)

theorem rdN_fset_ne (a lo w v b : Nat) (d : Dev) (h : a ≠ b) : rdN (fset a lo w v d) b = rdN d b := rdN_wrN_ne _ _ _ _ h

theorem fset_frame (a lo w v : Nat) (d : Dev) (b : Nat) (hb : b ≠ a) : rd (fset a lo w v d) b = rd d b := mget_mset_ne regReset _ _ _ (Ne.symm hb) _

theorem fget_wrN_ne (s : Dev) (a b n lo w : Nat) (h : b ≠ a) : fget (wrN b n s) a lo w = fget s a lo w := by
  simp only [fget, rdN_wrN_ne _ _ _ _ h]

theorem fget_fset_ne (d : Dev) (a lo w v lo2 w2 : Nat) (b : Nat) (h : a ≠ b) : fget (fset a lo w v d) b lo2 w2 = fget d b lo2 w2 := fget_wrN_ne _ _ _ _ _ _ h

theorem fget_lt (d : Dev) (a lo w : Nat) : fget d a lo w < 2 ^ w := by unfold fget bits; exact Nat.mod_lt _ (Nat.two_pow_pos w)

theorem rd64_wrN_ne (a b n : Nat) (s : Dev) (h : b ≠ a) (h2 : b ≠ a + 4) : rd64 (wrN b n s) a = rd64 s a := by
  simp only [rd64, rdN_wrN_ne _ _ _ _ h, rdN_wrN_ne _ _ _ _ h2]

theorem fbit_test (d : Dev) (a i : Nat) : fbit d a i = (rdN d a).testBit i := by
  unfold fbit fget bits
  rw [Nat.testBit, Nat.one_and_eq_mod_two]
  rcases Nat.mod_two_eq_zero_or_one (rdN d a >>> i) with h | h <;> simp [h]

theorem fbit_wrN (a n i : Nat) (d : Dev) (h : mwf regReset 0 d.regs = true) : fbit (wrN a n d) a i = bit (n % 2 ^ 32) i := by
  unfold fbit fget bit; rw [rdN_wrN _ _ _ h]

/-- A plain write changes the register at its offset and nothing else. -/
theorem plain_frame (a v : Nat) (d : Dev) : plainWrite a v d = { d with regs := (plainWrite a v d).regs } ∧ ∀ b, b ≠ a → rd (plainWrite a v d) b = rd d b := by
  unfold plainWrite
  split
  · exact ⟨rfl, fun b hb => mget_mset_ne _ _ _ _ (Ne.symm hb) _⟩
  · exact ⟨rfl, fun _ _ => rfl⟩

theorem plainWrite_wf (a v : Nat) (d : Dev) (hw : mwf regReset 0 d.regs = true) : mwf regReset 0 (plainWrite a v d).regs = true := by
  unfold plainWrite; split
  · exact wrN_wf _ _ _ hw
  · exact hw

/-- Setting interrupt bits of a page changes no register but its IRQ_STAT and the count of messages. -/
theorem rdN_irqSet_ne (p m b : Nat) (d : Dev) (h1 : A p 0x10 ≠ b) (h2 : A 0x190 0x94 ≠ b) : rdN (irqSet p m d) b = rdN d b := by
  have e1 : ∀ v (x : Dev), rdN (msixSend v x) b = rdN x b := by
    intro v x
    unfold msixSend
    split
    · rfl
    · unfold msixSendNow incSat fset
      rw [rdN_wrN_ne _ _ _ _ h2]; rfl
  have e2 : ∀ x : Dev, rdN (pageMsix p x) b = rdN x b := by
    intro x; unfold pageMsix; split
    · exact e1 _ _
    · rfl
  have e3 : rdN (orReg (A p 0x10) m d) b = rdN d b := rdN_wrN_ne _ _ _ _ h1
  unfold irqSet withIrq
  split
  · rw [e2, e3]
  · exact e3

/-- The page's IRQ_STAT after hardware sets bits of it. -/
theorem irqSet_at (p m : Nat) (d : Dev) (hw : mwf regReset 0 d.regs = true) (h2 : A 0x190 0x94 ≠ A p 0x10) : rdN (irqSet p m d) (A p 0x10) = (rdN d (A p 0x10) ||| m) % 2 ^ 32 := by
  have e1 : ∀ v (x : Dev), rdN (msixSend v x) (A p 0x10) = rdN x (A p 0x10) := by
    intro v x
    unfold msixSend
    split
    · rfl
    · unfold msixSendNow incSat fset
      rw [rdN_wrN_ne _ _ _ _ h2]; rfl
  have e2 : ∀ x : Dev, rdN (pageMsix p x) (A p 0x10) = rdN x (A p 0x10) := by
    intro x; unfold pageMsix; split
    · exact e1 _ _
    · rfl
  have e3 : rdN (orReg (A p 0x10) m d) (A p 0x10) = (rdN d (A p 0x10) ||| m) % 2 ^ 32 := rdN_wrN _ _ _ hw
  unfold irqSet withIrq
  split
  · rw [e2, e3]
  · exact e3

/-- Setting interrupt bits keeps the register file in canonical form. -/
theorem irqSet_wf (p m : Nat) (d : Dev) (hw : mwf regReset 0 d.regs = true) : mwf regReset 0 (irqSet p m d).regs = true := by
  have e0 : mwf regReset 0 (orReg (A p 0x10) m d).regs = true := wrN_wf _ _ _ hw
  unfold irqSet withIrq
  split
  · unfold pageMsix msixSend
    split
    · split
      · exact e0
      · exact wrN_wf _ _ _ e0
    · exact e0
  · exact e0

theorem irqSet_ts (p m : Nat) (d : Dev) : (irqSet p m d).tsets = d.tsets := by
  unfold irqSet withIrq
  split
  · unfold pageMsix msixSend; split
    · split <;> rfl
    · rfl
  · rfl

theorem bit_or31 (n : Nat) : bit (n ||| 0x80000000) 31 = true := by
  have : (n ||| 0x80000000).testBit 31 = true := by rw [Nat.testBit_or]; simp; right; decide
  simp only [Nat.testBit, Nat.one_and_eq_mod_two] at this
  simp only [bit, bits]
  simpa using this

theorem bit_or30 (n : Nat) : bit (n ||| 0x40000000) 30 = true := by
  have : (n ||| 0x40000000).testBit 30 = true := by rw [Nat.testBit_or]; simp; right; decide
  simp only [Nat.testBit, Nat.one_and_eq_mod_two] at this
  simp only [bit, bits]
  simpa using this

theorem put30 (n : Nat) (h : n < 2 ^ 32) : bit (putBits n 30 2 1) 31 = false ∧ bit (putBits n 30 2 1) 30 = true := by
  simp only [bit, bits, putBits, Nat.shiftRight_eq_div_pow, Nat.reducePow, beq_iff_eq, beq_eq_false_iff_ne] at *
  omega

theorem bit_put27 (n : Nat) : bit (putBits n 27 1 0) 27 = false := by
  simp only [bit, bits, putBits, Nat.shiftRight_eq_div_pow, Nat.reducePow, beq_eq_false_iff_ne]
  omega

theorem bit_close (n : Nat) (h : n < 2 ^ 32) : bit (putBits (n ||| 0x80000000) 27 1 0) 31 = true := by
  have e := bit_or31 n
  have h2 : n ||| 0x80000000 < 2 ^ 32 := Nat.or_lt_two_pow h (by decide)
  simp only [bit, bits, putBits, Nat.shiftRight_eq_div_pow, Nat.reducePow, beq_iff_eq] at *
  omega

theorem bit_flush (n : Nat) (h : n < 2 ^ 32) : bit (putBits (n ||| 0x08000000) 31 1 0) 27 = true := by
  have e : (n ||| 0x08000000).testBit 27 = true := by rw [Nat.testBit_or]; simp; right; decide
  have h2 : n ||| 0x08000000 < 2 ^ 32 := Nat.or_lt_two_pow h (by decide)
  simp only [Nat.testBit, Nat.one_and_eq_mod_two] at e
  simp only [bit, bits, putBits, Nat.shiftRight_eq_div_pow, Nat.reducePow, beq_iff_eq] at *
  simp at e
  omega

theorem bit31_put (n x : Nat) (h : n < 2 ^ 32) : bit (putBits n 31 1 x % 2 ^ 32) 31 = (x % 2 == 1) := by
  have key : putBits n 31 1 x % 2 ^ 32 / 2 ^ 31 % 2 ^ 1 = x % 2 := by
    simp only [putBits, bits, Nat.shiftRight_eq_div_pow, Nat.reducePow] at *
    omega
  unfold bit bits
  rw [Nat.shiftRight_eq_div_pow, key]

theorem rd_tick (dt : Nat) (d : Dev) (b : Nat) : rd (tick dt d) b = rd d b := by unfold tick; split <;> rfl

theorem forAll_nil {α : Type} (f : α → Dev → Dev) (d : Dev) : forAll [] f d = d := rfl

theorem forAll_cons {α : Type} (x : α) (xs : List α) (f : α → Dev → Dev) (d : Dev) : forAll (x :: xs) f d = forAll xs f (f x d) := rfl

/-- What every application keeps, `forAll` keeps. -/
theorem forAll_inv {α : Type} (P : Dev → Prop) (f : α → Dev → Dev) : ∀ (xs : List α) (d : Dev), P d → (∀ x ∈ xs, ∀ e, P e → P (f x e)) → P (forAll xs f d) := by
  intro xs
  induction xs with
  | nil => intro d h _; exact h
  | cons x xs ih => intro d h hf; exact ih _ (hf x List.mem_cons_self d h) (fun y hy => hf y (List.mem_cons_of_mem _ hy))

theorem regAt_none_page (a : Nat) (h : pageKind (a / 0x1000) = none) : regAt a = none := by unfold regAt; rw [h]

/-- A read where no register is assigned, or of a page that is off, answers 0 and changes nothing. -/
theorem busRead_off (nv : Nv) (p : Path) (a : Nat) (d : Dev) (h : regAt (a / 4 * 4) = none ∨ pageOn d (a / 0x1000) = false) : busRead nv p a d = (0, d) := by
  unfold busRead
  have e : a / 4 * 4 / 0x1000 = a / 0x1000 := by omega
  simp only [e]
  rcases h with h | h
  · rw [h]
  · rw [h]; cases regAt (a / 4 * 4) <;> cases pageKind (a / 0x1000) <;> simp

/-- A write where no register is assigned, or to a page that is off, is refused. -/
theorem busWrite_off (nv : Nv) (p : Path) (a : Nat) (be : BitVec 4) (v : Word) (d : Dev) (h : regAt a = none ∨ pageOn d (a / 0x1000) = false) :
    busWrite nv p a be v d = accessErr p a (if a % 4 ≠ 0 || be ≠ 0xF then 1 else if regAt a = none then 2 else 3) d := by
  unfold busWrite onWrite guardWrite
  by_cases hb : (a % 4 ≠ 0 || be ≠ 0xF) = true
  · simp only [hb, if_true]
  · simp only [hb, if_false]
    rcases h with h | h
    · simp [h]
    · cases regAt a <;> simp [h]

end Sys2Proof.Machine
end

