-- ==== Sys2Proof/Laws/Base.lean ====
section
/-! SUPPORT. What every command does, said once: the guard that lets a register write through, and the next state that every command answers. -/
namespace Sys2Proof.Machine

/-- A write that no shared rule refuses is carried out. -/
theorem onWrite_accepts {p : Path} {a : Nat} {f : Dev → Dev} {s : Dev} (h : accepts s a = true) : onWrite p a f s = f s := by
  unfold accepts at h
  unfold onWrite guardWrite
  cases hr : regAt a with
  | none => simp [hr] at h
  | some r =>
    rw [hr] at h
    cases hp : pageOn s (a / 0x1000) <;> cases hl : (locked s (a / 0x1000) && lockGuards (a % 0x1000)) <;>
      cases hq : s.resetting.contains (a / 0x1000) <;> simp_all

/-- Everything a register write can do: it is carried out, it is refused and recorded, or a locked page counts it. -/
theorem onWrite_cases (p : Path) (a : Nat) (f : Dev → Dev) (s : Dev) :
    (accepts s a = true ∧ onWrite p a f s = f s) ∨ (accepts s a = false ∧ onWrite p a f s = onWrite p a id s) := by
  cases h : accepts s a with
  | true => exact .inl ⟨rfl, onWrite_accepts h⟩
  | false =>
    refine .inr ⟨rfl, ?_⟩
    unfold onWrite guardWrite
    unfold accepts at h
    cases hr : regAt a with
    | none => simp
    | some r =>
      rw [hr] at h
      cases hp : pageOn s (a / 0x1000) <;> cases hl : (locked s (a / 0x1000) && lockGuards (a % 0x1000)) <;>
        cases hq : s.resetting.contains (a / 0x1000) <;> simp_all

theorem pk_of_accepts {d : Dev} {p o : Nat} (ho : o < 0x1000) (h : accepts d (A p o) = true) : ∃ k, pageKind p = some k := by
  simp only [accepts, Bool.and_eq_true] at h
  have h1 := h.1.1.1
  unfold regAt at h1
  rw [A_div p o ho] at h1
  cases hk : pageKind p with
  | none => simp [hk] at h1
  | some k => exact ⟨k, rfl⟩

theorem hdr_at : ∀ o : Fin 0x30, o.val % 4 = 0 → o.val ∈ [0x10, 0x14, 0x18, 0x1C, 0x2C] → (rowsHdr.find? fun r => r.hits o.val).isSome = true := by decide +kernel

theorem regAt_hdr (pg o : Nat) (k : PageKind) (hk : pageKind pg = some k) (ho : o = 0x10 ∨ o = 0x14 ∨ o = 0x18 ∨ o = 0x1C ∨ o = 0x2C) : (regAt (A pg o)).isSome = true := by
  unfold regAt
  rw [A_div pg o (by omega), A_mod pg o (by omega), hk]
  simp only [if_pos (show o < 0x80 by omega)]
  rcases ho with h | h | h | h | h <;> subst h <;> decide +kernel

theorem writeHdr_lock (pg v : Nat) (d : Dev) (nv : Nv) : writeHdr nv pg 0x2C v d = writeLock pg v d := by
  unfold writeHdr; simp

/-- A command that acts on the device answers a next state. -/
theorem act_next (dt f) (s : State) : ∃ d, act dt f s = .next { s with dev := d } := ⟨_, rfl⟩

/-- A command that acts on the device and the stores answers a next state. -/
theorem actStore_next (dt g f) (s : State) : ∃ d nv, actStore dt g f s = .next { s with nv := nv, dev := d } := by
  unfold actStore; split
  · exact ⟨_, _, rfl⟩
  · exact ⟨s.dev, s.nv, rfl⟩

/-- Every command answers a next state; only the engines of the stores change the stores. -/
theorem exec_next (c : Instr) (s : State) : ∃ d nv, exec c s = .next { s with nv := nv, dev := d } ∧ (writesStores c = false → nv = s.nv) := by
  cases c
  case hallmarkCommit dt bits_en bits_frz => obtain ⟨d, nv, h⟩ := actStore_next dt (commitNv bits_en bits_frz) (commitDev bits_en bits_frz) s; exact ⟨d, nv, h, by intro hw; simp [writesStores] at hw⟩
  case aonSupplyLoss dt t => obtain ⟨d, nv, h⟩ := actStore_next dt (lossNv t) (fun _ => doAonSupplyLoss) s; exact ⟨d, nv, h, by intro hw; simp [writesStores] at hw⟩
  case fuseDone dt => obtain ⟨d, nv, h⟩ := actStore_next dt fuseNv (fun _ => doFuseDone) s; exact ⟨d, nv, h, by intro hw; simp [writesStores] at hw⟩
  case powerOn dt =>
    refine ⟨if s.dev.aon then actPost s.nv (actPre dt s.dev) else doPowerOn s.dev, s.nv, ?_, fun _ => rfl⟩
    simp only [exec, execPowerOn, actPowerOn]
    split <;> simp_all [act]
  all_goals exact ⟨_, _, rfl, fun _ => rfl⟩

theorem calmAfter_tick (dt : Nat) (d : Dev) : calmAfter (tick dt d) = calmAfter d := by unfold tick; split <;> rfl

theorem calmAfter_regs (m : NMap Word) (d : Dev) : calmAfter { d with regs := m } = calmAfter d := rfl

end Sys2Proof.Machine
end

