-- ==== Sys2Proof/Laws/Furrow.lean ====
section
/-! SUPPORT. The issue of an instruction of a furrow program, said once for every instruction. -/
namespace Sys2Proof.Machine

theorem opOf_opWord (op : Nat) (w : BitVec 64) (h : op < 64) : opOf (opWord op w) = op := by
  have hw := w.isLt
  simp only [opOf, opWord, wf, bits, putBits, BitVec.toNat_ofNat, Nat.shiftRight_eq_div_pow]
  simp only [Nat.reducePow]
  omega

theorem ownRow_firstTry (m i : Nat) (x : BitVec 64) (t u : Dev) (hu : firstTry m i x t = (.done, u)) :
    ownRow m i 0 x t = rowDone m i 0 (rd64 t (fa m 0xB8)) (getFur t m).tNext x u := by
  unfold firstTry at hu
  unfold ownRow
  have h0 : (decide (opOf x = 12) && decide (0 > 0)) = false := by simp
  have h1 : (decide (opOf x = 16) && decide (0 = 0)) = decide (opOf x = 16) := by simp
  have h2 : (decide (0 = 0) && decide (opOf x = 1)) = decide (opOf x = 1) := by simp
  simp only [h0, h1, h2, decide_eq_true_eq, Bool.false_eq_true, if_false, if_true, beq_self_eq_true, decide_true, Bool.true_and, Bool.and_true]
  dsimp only at hu ⊢
  rw [hu]

/-- What an issue does when the next instruction begins. -/
theorem issueNext_given (m : Nat) (x : BitVec 64) (d : Dev) (h : mayBegin d m = true) :
    issueNext m (some x) d = rowIssued d m (beginInstr m (getFur (boundary m d) m).pc x (fetched d m)) := by
  simp only [mayBegin, Bool.and_eq_true, Option.isNone_iff_eq_none] at h
  obtain ⟨⟨⟨⟨h1, h2⟩, h3⟩, h4⟩, h5⟩ := h
  simp only [issueNext, h1, h2, h3, h4, h5, rowIssued, fetched]
  cases takeWord m (getFur (boundary m d) m).pc (nextFetch (boundary m d) m) (boundary m d) <;> simp

theorem doInstr_eq (op : Nat) (e : Eng) (w : BitVec 64) (d : Dev) : doInstr op e w d = issueNext (leadOf d e) (some (opWord op w)) d := rfl

theorem beginInstr_own (m i : Nat) (x : BitVec 64) (t : Dev) (hd : decodeFault t m x = 0) (h1 : opOf x ≠ 10) (h2 : opOf x ≠ 13)
    (h3 : (opOf x == 63 && !(getFur t m).pend.isEmpty) = false) : beginInstr m i x t = ownRow m i 0 x t := by
  unfold beginInstr
  have h3' : (decide (opOf x = 63) && !(getFur t m).pend.isEmpty) = false := by
    rw [← h3]; rfl
  simp only [hd, ne_eq, not_true_eq_false, if_false, h1, h2, h3', Bool.false_eq_true]

theorem issueNext_firstRow (e : Eng) (x : BitVec 64) (d t : Dev) (h1 : opOf x ≠ 10) (h2 : opOf x ≠ 13) (h : firstRow e x d = some t) :
    issueNext (leadOf d e) (some x) d = t := by
  unfold firstRow at h
  dsimp only at h
  split at h
  · exact absurd h (by simp)
  · rename_i hc
    rw [Bool.not_eq_true, Bool.or_eq_false_iff, Bool.or_eq_false_iff, Bool.not_eq_false', decide_eq_false_iff_not, Decidable.not_not] at hc
    rw [issueNext_given _ _ _ hc.1.1, beginInstr_own _ _ _ _ hc.1.2 h1 h2 hc.2]
    split at h
    · rename_i u hu
      rw [ownRow_firstTry _ _ _ _ _ hu]
      exact Option.some.inj h
    · exact absurd h (by simp)

/-- An instruction whose first row is placed at once leaves the device that `firstRow` gives. -/
theorem issueNext_firstRow_op (op : Nat) (e : Eng) (w : BitVec 64) (d t : Dev) (ho : op < 64 ∧ op ≠ 10 ∧ op ≠ 13) (h : firstRow e (opWord op w) d = some t) : doInstr op e w d = t := by
  have hop := opOf_opWord op w ho.1
  rw [doInstr_eq]
  exact issueNext_firstRow e _ d t (by rw [hop]; exact ho.2.1) (by rw [hop]; exact ho.2.2) h

theorem beginInstr_loop (m i : Nat) (x : BitVec 64) (t u : Dev) (hd : decodeFault t m x = 0) (h1 : opOf x = 10)
    (hu : tryRow m i x (srcOf x) true none id (setFur m { getFur t m with loops := (wf x 0 32, i + 1) :: (getFur t m).loops } t) = (.done, u)) :
    beginInstr m i x t = goTo m (i + 1) i (setFur m { getFur u m with cur := none } u) := by
  unfold beginInstr
  have a : ¬ ((decide (opOf x = 63) && !(getFur t m).pend.isEmpty) = true) := by rw [h1]; simp
  have b : ¬ (opOf x = 13) := by rw [h1]; decide
  dsimp only
  rw [if_neg (by rw [hd]; simp), if_neg a, if_neg b, if_pos h1, if_pos h1]
  rw [hu]

/-- A LOOP whose row is placed at once leaves the device that `firstLoop` gives. -/
theorem issueNext_firstLoop (e : Eng) (x : BitVec 64) (d t : Dev) (hop : opOf x = 10) (h : firstLoop e x d = some t) : issueNext (leadOf d e) (some x) d = t := by
  unfold firstLoop at h
  dsimp only at h
  split at h
  · exact absurd h (by simp)
  · rename_i hc
    rw [Bool.not_eq_true, Bool.or_eq_false_iff, Bool.not_eq_false', decide_eq_false_iff_not, Decidable.not_not] at hc
    rw [issueNext_given _ _ _ hc.1]
    split at h
    · rename_i u hu
      rw [beginInstr_loop _ _ _ _ _ hc.2 hop hu]
      exact Option.some.inj h
    · exact absurd h (by simp)

/-- What an issue does when a SYNC begins. -/
theorem issueNext_sync (m : Nat) (x : BitVec 64) (d : Dev) (hop : opOf x = 13) (hb : mayBegin d m = true) (hd : decodeFault (fetched d m) m x = 0) :
    issueNext m (some x) d = rowIssued d m (syncRow m (getFur (boundary m d) m).pc 0 x (fetched d m)) := by
  rw [issueNext_given _ _ _ hb]
  unfold beginInstr
  have a : ¬ ((decide (opOf x = 63) && !(getFur (fetched d m) m).pend.isEmpty) = true) := by rw [hop]; simp
  dsimp only
  rw [if_neg (by rw [hd]; simp), if_neg a, if_pos hop]

end Sys2Proof.Machine
end

