-- ==== Sys2Proof/Laws/Memory.lean ====
section
/-! SUPPORT. DDR-5 memory: every operation keeps its canonical form, and what it reads after a write. -/
namespace Sys2Proof.Machine

theorem memPut_eq (a : Nat) (b : Byte) (d : Dev) : memPut a b d = { d with mem := if memGood d a then mset memDflt a b d.mem else d.mem } := by
  unfold memPut; split <;> rfl

theorem memPuts_cons (a : Nat) (b : Byte) (bs : List Byte) (d : Dev) : memPuts a (b :: bs) d = memPuts (a + 1) bs (memPut a b d) := by simp only [memPuts, List.foldl_cons]

theorem memPuts_nil (a : Nat) (d : Dev) : memPuts a [] d = d := by simp only [memPuts, List.foldl_nil]

/-- Bytes put change memory and nothing else. -/
theorem memPuts_regs (bs : List Byte) : ∀ (a : Nat) (d : Dev), ∃ m, memPuts a bs d = { d with mem := m } := by
  induction bs with
  | nil => intro a d; exact ⟨d.mem, by rw [memPuts_nil]⟩
  | cons b bs ih =>
    intro a d
    obtain ⟨m, hm⟩ := ih (a + 1) { d with mem := if memGood d a then mset memDflt a b d.mem else d.mem }
    exact ⟨m, by rw [memPuts_cons, memPut_eq, hm]⟩

theorem memGood_mem (m : NMap Byte) (d : Dev) (a : Nat) : memGood { d with mem := m } a = memGood d a := rfl

theorem memByte_mem (m : NMap Byte) (d : Dev) (a : Nat) : memByte { d with mem := m } a = mget memDflt m a := rfl

/-- Bytes put leave every byte outside them alone. -/
theorem memPuts_out (bs : List Byte) : ∀ (a : Nat) (d : Dev) (x : Nat), (x < a ∨ a + bs.length ≤ x) → memByte (memPuts a bs d) x = memByte d x := by
  induction bs with
  | nil => intro a d x _; rw [memPuts_nil]
  | cons b bs ih =>
    intro a d x hx
    simp only [List.length_cons] at hx
    rw [memPuts_cons, ih _ _ _ (by omega), memPut_eq, memByte_mem]
    split
    · exact mget_mset_ne _ _ _ _ (by omega) _
    · rfl

/-- Bytes put keep memory in canonical form. -/
theorem memPuts_wf (bs : List Byte) : ∀ (a : Nat) (d : Dev), mwf memDflt 0 d.mem = true → mwf memDflt 0 (memPuts a bs d).mem = true := by
  induction bs with
  | nil => intro a d h; rw [memPuts_nil]; exact h
  | cons b bs ih =>
    intro a d h
    rw [memPuts_cons]
    apply ih
    rw [memPut_eq]
    show mwf memDflt 0 (if memGood d a then mset memDflt a b d.mem else d.mem) = true
    split
    · exact mwf_mset _ _ _ _ _ h (Nat.zero_le _)
    · exact h

/-- Bytes put read back where the address can be written. -/
theorem memPuts_in (bs : List Byte) : ∀ (a : Nat) (d : Dev), mwf memDflt 0 d.mem = true → ∀ (i : Nat) (b : Byte), bs[i]? = some b → memGood d (a + i) = true → memByte (memPuts a bs d) (a + i) = b := by
  induction bs with
  | nil => intro a d _ i b hi; simp at hi
  | cons c bs ih =>
    intro a d h i b hi hg
    rw [memPuts_cons]
    cases i with
    | zero =>
      simp only [List.getElem?_cons_zero, Option.some.injEq] at hi
      simp only [Nat.add_zero] at hg ⊢
      rw [memPuts_out _ _ _ _ (by omega), memPut_eq, memByte_mem, if_pos hg, mget_mset _ _ _ _ 0 _ h, if_pos rfl, hi]
    | succ j =>
      simp only [List.getElem?_cons_succ] at hi
      rw [show a + (j + 1) = a + 1 + j by omega] at hg ⊢
      refine ih (a + 1) (memPut a c d) ?_ j b hi ?_
      · rw [memPut_eq]
        show mwf memDflt 0 (if memGood d a then mset memDflt a c d.mem else d.mem) = true
        split
        · exact mwf_mset _ _ _ _ _ h (Nat.zero_le _)
        · exact h
      · rw [memPut_eq, memGood_mem]; exact hg

/-- One byte put keeps memory in canonical form. -/
theorem memPut_wf (a : Nat) (b : Byte) (d : Dev) (h : Memory.wf d.mem = true) : Memory.wf (memPut a b d).mem = true :=
  memPuts_wf [b] a d h

/-- A write request keeps memory in canonical form. -/
theorem memWrite_wf (c : MemClass) (a : Nat) (bs : List Byte) (d : Dev) (h : Memory.wf d.mem = true) : Memory.wf (memWrite c a bs d).mem = true := by
  unfold memWrite
  apply memPuts_wf
  unfold outCount ueCount tagPass tagMark
  split <;> exact h

/-- Memory whose entries within a range return to what unwritten memory reads as is in canonical form (R431). -/
theorem memFilter_wf (p : Host.Cell → Bool) (m : List Host.Cell) (h : Memory.wf m = true) : Memory.wf (m.filter p) = true := by
  have key : ∀ (lo : Nat) (m : List Host.Cell), mwf memDflt lo m = true → mwf memDflt lo (m.filter p) = true := by
    intro lo m
    induction m generalizing lo with
    | nil => intro h; exact h
    | cons x m ih =>
      intro h
      obtain ⟨a, v⟩ := x
      simp only [mwf, Bool.and_eq_true, decide_eq_true_eq] at h
      simp only [List.filter_cons]
      split
      · simp only [mwf, Bool.and_eq_true, decide_eq_true_eq]
        exact ⟨h.1, ih _ h.2⟩
      · exact mwf_mono _ _ _ _ (ih _ h.2) (by omega)
  exact key 0 m h

/-- Cleared memory is in canonical form. -/
theorem memClear_wf : Memory.wf [] = true := rfl

/-- Memory is in canonical form at reset. -/
theorem reset_mem_wf : Memory.wf State.reset.dev.mem = true := rfl

end Sys2Proof.Machine
end

