-- ==== Sys2Proof/Laws/Stores.lean ====
section
/-! SUPPORT. The non-volatile stores: the bytes of a Hallmark record, the order of the stores, and the scan. -/
namespace Sys2Proof.Machine

theorem leBytes_length (n v : Nat) : (leBytes n v).length = n := by
  induction n generalizing v with
  | zero => rfl
  | succ n ih => simp [leBytes, ih]

/-- The little-endian number in the bytes of a number. -/
theorem leNat_leBytes (n v : Nat) : leNat (leBytes n v) = v % 256 ^ n := by
  induction n generalizing v with
  | zero => simp [leBytes, leNat, Nat.mod_one]
  | succ n ih =>
    show (BitVec.ofNat 8 v).toNat + 256 * leNat (leBytes n (v / 256)) = _
    have e : 256 ^ (n + 1) = 256 * 256 ^ n := by rw [Nat.pow_succ, Nat.mul_comm]
    rw [ih, BitVec.toNat_ofNat, e, Nat.mod_mul]

theorem fitBytes_length (n : Nat) (bs : List Byte) : (fitBytes n bs).length = n := by
  unfold fitBytes; simp only [List.length_append, List.length_take, zeros, List.length_replicate]; omega

theorem crcBit_lt (c : Nat) (h : c < 2 ^ 32) : crc32cBit c < 2 ^ 32 := by
  unfold crc32cBit; split
  · exact Nat.xor_lt_two_pow (by omega) (by decide)
  · omega

theorem crcByte_lt (c : Nat) (b : Byte) (h : c < 2 ^ 32) : crc32cByte c b < 2 ^ 32 := by
  unfold crc32cByte
  have hb := b.isLt
  have h0 : c ^^^ b.toNat < 2 ^ 32 := Nat.xor_lt_two_pow h (by omega)
  exact crcBit_lt _ (crcBit_lt _ (crcBit_lt _ (crcBit_lt _ (crcBit_lt _ (crcBit_lt _ (crcBit_lt _ (crcBit_lt _ h0)))))))

theorem crc32c_lt (bs : List Byte) : crc32c bs < 2 ^ 32 := by
  unfold crc32c
  have : ∀ c, c < 2 ^ 32 → bs.foldl crc32cByte c < 2 ^ 32 := by
    induction bs with
    | nil => intro c h; exact h
    | cons b bs ih => intro c h; exact ih _ (crcByte_lt c b h)
  exact Nat.xor_lt_two_pow (this _ (by decide)) (by decide)

def hmkHead (r : HmkRec) (seq : Nat) : List Byte :=
  leBytes 2 0x4D48 ++ leBytes 1 r.kind ++ leBytes 1 1 ++ leBytes 4 r.flags ++ leBytes 8 seq ++ leBytes 8 r.ts ++ leBytes 8 r.sec
    ++ leBytes 4 r.poh ++ leBytes 4 r.boots ++ fitBytes 208 r.body

theorem hmkHead_length (r seq) : (hmkHead r seq).length = 248 := by
  simp only [hmkHead, List.length_append, leBytes_length, fitBytes_length]

theorem hmkBytes_eq (r seq) : hmkBytes r seq = hmkHead r seq ++ (leBytes 4 (crc32c (hmkHead r seq)) ++ leBytes 4 (2 ^ 32 - 1 - seq % 2 ^ 32)) := by
  simp only [hmkBytes, ← List.append_assoc]; rfl

theorem hmkBytes_length (r seq) : (hmkBytes r seq).length = 256 := by
  simp only [hmkBytes_eq, List.length_append, hmkHead_length, leBytes_length]

theorem slotNum_mid (a b c : List Byte) (o n : Nat) (ha : a.length = o) (hb : b.length = n) : slotNum (a ++ (b ++ c)) o n = leNat b := by
  subst ha hb
  simp only [slotNum, List.drop_left, List.take_left]

theorem tornSlot_length (x : List Byte) : (tornSlot x).length = 256 := by
  unfold tornSlot
  split
  · have := fitBytes_length 256 x; simp [this]
  · exact fitBytes_length 256 x

theorem slotAfter_lt (k : Nat) (h : k < 8192) : slotAfter k < 8192 := by unfold slotAfter; split <;> omega

/-- Writing a slot keeps the stores in order. -/
theorem storesOk_putSlot (k : Nat) (bs : List Byte) (nv : Nv) (h : storesOk nv = true) (hk : k < 8192) (hb : bs.length = 256) : storesOk (putSlot k bs nv) = true := by
  simp only [storesOk, Bool.and_eq_true] at h ⊢
  obtain ⟨⟨⟨h1, h2⟩, h3⟩, h4⟩ := h
  exact ⟨⟨⟨mwf_mset _ _ _ _ _ h1 (Nat.zero_le _), all_mset _ _ _ _ _ h2 (by simp [hk, hb])⟩, h3⟩, h4⟩

/-- A commit keeps the stores in order. -/
theorem storesOk_commitNv (bits_en bits_frz : Option (List Byte)) (d : Dev) (nv : Nv) (h : storesOk nv = true) : storesOk (commitNv bits_en bits_frz d nv) = true := by
  unfold commitNv
  split
  · split
    · exact h
    · have hk : fget d (A 3 0x84) 0 13 < 8192 := fget_lt _ _ _ _
      have hk2 := slotAfter_lt _ hk
      cases bits_en with
      | none => exact storesOk_putSlot _ _ _ h hk (hmkBytes_length _ _)
      | some x =>
        cases bits_frz with
        | none => exact storesOk_putSlot _ _ _ (storesOk_putSlot _ _ _ h hk (tornSlot_length x)) hk2 (hmkBytes_length _ _)
        | some y => exact storesOk_putSlot _ _ _ (storesOk_putSlot _ _ _ h hk (tornSlot_length x)) hk2 (tornSlot_length y)
  · exact h

/-- A loss of supply keeps the stores in order. -/
theorem storesOk_lossNv (x : Option (List Byte)) (d : Dev) (nv : Nv) (h : storesOk nv = true) : storesOk (lossNv x d nv) = true := by
  unfold lossNv
  split
  · split
    · exact storesOk_putSlot _ _ _ h (fget_lt _ _ _ _) (tornSlot_length _)
    · exact h
  · exact h

theorem storesOk_owner (slot : Nat) (o : OwnerSlot) (nv : Nv) (h : storesOk nv = true) (ho : o.status ≤ 3) : storesOk { nv with owners := mset (fun _ => {}) slot o nv.owners } = true := by
  simp only [storesOk, Bool.and_eq_true] at h ⊢
  obtain ⟨⟨⟨h1, h2⟩, h3⟩, h4⟩ := h
  exact ⟨⟨⟨h1, h2⟩, mwf_mset _ _ _ _ _ h3 (Nat.zero_le _)⟩, all_mset _ _ _ _ _ h4 (by simpa using ho)⟩

/-- A blown fuse keeps the stores in order. -/
theorem storesOk_fuseNv (d : Dev) (nv : Nv) (h : storesOk nv = true) : storesOk (fuseNv d nv) = true := by
  unfold fuseNv
  split
  · rename_i f hf
    obtain ⟨op, slot, val, hash⟩ := f
    simp only [blow]
    split
    · exact storesOk_owner _ _ _ h (by simp)
    · split
      · exact storesOk_owner _ _ _ h (by simp)
      · exact h
  · exact h

theorem commitNv_fuses (bits_en bits_frz d nv) : (commitNv bits_en bits_frz d nv).owners = nv.owners ∧ (commitNv bits_en bits_frz d nv).arb = nv.arb := by
  unfold commitNv; split
  · split
    · exact ⟨rfl, rfl⟩
    · cases bits_en <;> cases bits_frz <;> exact ⟨rfl, rfl⟩
  · exact ⟨rfl, rfl⟩

theorem lossNv_fuses (x d nv) : (lossNv x d nv).owners = nv.owners ∧ (lossNv x d nv).arb = nv.arb := by
  unfold lossNv; split
  · split <;> exact ⟨rfl, rfl⟩
  · exact ⟨rfl, rfl⟩

theorem fuseNv_slots (d nv) : (fuseNv d nv).slots = nv.slots := by
  unfold fuseNv; split
  · rename_i f hf
    obtain ⟨op, slot, val, hash⟩ := f
    simp only [blow]; split
    · rfl
    · split <;> rfl
  · rfl

theorem getSlot_putSlot (k j : Nat) (bs : List Byte) (nv : Nv) (h : storesOk nv = true) : getSlot (putSlot k bs nv) j = if k = j then bs else getSlot nv j := by
  simp only [storesOk, Bool.and_eq_true] at h
  exact mget_mset _ _ _ _ 0 _ h.1.1.1

theorem owner_get (slot j : Nat) (o : OwnerSlot) (nv : Nv) (h : storesOk nv = true) : (mget (fun _ => {}) (mset (fun _ => {}) slot o nv.owners) j : OwnerSlot) = if slot = j then o else mget (fun _ => {}) nv.owners j := by
  simp only [storesOk, Bool.and_eq_true] at h
  exact mget_mset _ _ _ _ 0 _ h.1.2

theorem rdN_addCount_ne (o n b : Nat) (d : Dev) (h : A 3 o ≠ b) : rdN (addCount o n d) b = rdN d b := rdN_wrN_ne _ _ _ _ h

/-- The scan picks the entry with the highest number. -/
theorem newestOf_max (k q : Nat) (l : List (Nat × Nat)) (hm : (k, q) ∈ l) (hl : ∀ e ∈ l, e = (k, q) ∨ e.2 < q) : newestOf l = some (k, q) := by
  have key : ∀ (l : List (Nat × Nat)) (acc : Option (Nat × Nat)), (∀ e ∈ l, e = (k, q) ∨ e.2 < q) → (acc = some (k, q) ∨ ((k, q) ∈ l ∧ (acc = none ∨ ∃ b, acc = some b ∧ b.2 < q))) →
      l.foldl (fun a e => match a with | some b => if b.2 < e.2 then some e else some b | none => some e) acc = some (k, q) := by
    intro l
    induction l with
    | nil => intro acc _ h; rcases h with h | ⟨h, _⟩
             · exact h
             · simp at h
    | cons e l ih =>
      intro acc hl h
      rw [List.foldl_cons]
      apply ih
      · intro x hx; exact hl x (List.mem_cons_of_mem _ hx)
      · have he := hl e List.mem_cons_self
        rcases h with h | ⟨hm, h⟩
        · left; rw [h]; rcases he with he | he
          · simp [he]
          · simp only; rw [if_neg (by omega)]
        · rcases List.mem_cons.mp hm with hm | hm
          · left; rcases h with h | ⟨b, h, hb⟩
            · rw [h]; simp [hm]
            · rw [h, ← hm]; simp [hb]
          · rcases he with he | he
            · left; rcases h with h | ⟨b, h, hb⟩
              · rw [h]; simp [he]
              · rw [h, he]; simp [hb]
            · right; refine ⟨hm, .inr ?_⟩
              rcases h with h | ⟨b, h, hb⟩
              · rw [h]; exact ⟨e, rfl, he⟩
              · rw [h]; simp only; split
                · exact ⟨e, rfl, he⟩
                · exact ⟨b, rfl, hb⟩
  exact key l none hl (.inr ⟨hm, .inl rfl⟩)

end Sys2Proof.Machine
end

