-- ==== Sys2Proof/Tests/Slice0.lean ====
section
/-! SUPPORT. The model's own tests: an ill-formed command for each check of WellFormed, a few values that the spec states,
and, for each statement with hypotheses, a concrete state and operands that meet them together. -/
namespace Sys2Proof.Machine
set_option maxRecDepth 4000
set_option Elab.async false

/-! ### Ill-formed commands, which the checks refuse -/

theorem test_wf_latchedRead : wellFormed (.latchedRead 0 .host 0x94) = false := by decide +kernel
theorem test_wf_rcRead : wellFormed (.rcRead 0 .host 0x94) = false := by decide +kernel
theorem test_wf_pairLoWrite : wellFormed (.pairLoWrite 0 .host 0x8 1) = false := by decide +kernel
theorem test_wf_pairHiWrite : wellFormed (.pairHiWrite 0 .host 0x8 1) = false := by decide +kernel
theorem test_wf_deskewDone : wellFormed (.deskewDone 0 0 (List.replicate 65 none)) = false := by decide +kernel
theorem test_wf_background : wellFormed (.backgroundRecalibration 0 0 0 0 [1, 1]) = false := by decide +kernel
theorem test_wf_emit : wellFormed (.emit 0 0 (2 * 2 ^ 58)) = false := by decide +kernel
theorem test_wf_halt : wellFormed (.halt 0 0 (62 * 2 ^ 58)) = false := by decide +kernel
theorem test_wf_generatorWrite : wellFormed (.generatorWrite 0 .host 0 0x902 1) = false := by decide +kernel
theorem test_wf_recordOpen : wellFormed (.recordOpen 0 0 16 0 0 24 0) = false := by decide +kernel
theorem test_wf_fenceWindowWrite : wellFormed (.fenceWindowWrite 0 .host 0 4 1) = false := by decide +kernel
theorem test_wf_result : wellFormed (.result 0 0 [0]) = false := by decide +kernel
theorem test_wf_windowRead : wellFormed (.windowRead 0 0 0 false) = false := by decide +kernel
theorem test_wf_windowWrite : wellFormed (.windowWrite 0 0 []) = false := by decide +kernel
theorem test_wf_hallmarkCommit : wellFormed (.hallmarkCommit 0 (some [0]) none) = false := by decide +kernel
theorem test_wf_aonSupplyLoss : wellFormed (.aonSupplyLoss 0 (some [])) = false := by decide +kernel
theorem test_wf_bootStage : wellFormed (.bootStage 0 (.memory [none])) = false := by decide +kernel
theorem test_wf_extest : wellFormed (.extest 0 none [(3, 0), (3, 1)]) = false := by decide +kernel
theorem test_wf_ok : wellFormed (.emit 0 0 (2 ^ 58 + 5)) = true := by decide +kernel

/-! ### Values that the spec states -/

/-- R211 states the CRC-32C of the nine ASCII bytes 123456789. -/
theorem test_crc32c : crc32c [0x31, 0x32, 0x33, 0x34, 0x35, 0x36, 0x37, 0x38, 0x39] = 0xE3069283 := by decide +kernel
/-- R93: a body of one set bit leaves the polynomial x^8 + x^2 + x + 1 itself. -/
theorem test_crc8 : crc8 1 1 = 0x07 := by decide +kernel
/-- Tables 18-1 and 18-2: the loss of the main PLL is a SAFETY source. -/
theorem test_class : srcClass 1 = 4 ∧ classReact 4 = 0x31 := by decide +kernel
/-- R19: LOGICAL is the engine's own number, and unmapped for the spares. -/
theorem test_mapReset : logical State.reset.dev 63 = 63 ∧ logical State.reset.dev 64 = 0x7F := by decide +kernel
/-- R57, R124: a timing-set word is 0 until written. -/
theorem test_tsReset : tsWord State.reset.dev 511 127 6 = 0 := by decide +kernel
/-- The queue empties one command at a time. -/
theorem test_queue : (match step { State.reset with pending := [.idcode 0, .dbgLock 0 .host] } with
    | .next t => t.pending == [.dbgLock 0 .host]
    | _ => false) = true := by decide +kernel

/-! ### Small states for the witnesses -/

/-- A small device for the tests: every domain ON, the master clock running, and the registers listed. -/
def mkS (l : List (Nat × Nat)) (f : Dev → Dev := id) : State :=
  { dev := f (l.foldl (fun s x => wrN x.1 x.2 s) { clk := true, rstLow := false, regs := [(A 5 0x88, 0xFFFFF)] }) }
def liveAll : State := mkS []
def wFur : State := mkS [(A 0x80 8, 1), (A 0x80 0xC, 5)]
def wDrainGrn : State := mkS [(A 0x170 0xC, 7)]
def wDrain : State := mkS [(A 0x178 0xC, 7)]
def wDrainMem : State := mkS [(A 0x188 0xC, 7)]
def wReset : State := mkS [] fun d => { d with resetting := [0x80] }
def wMsix : State := mkS [(A 0x190 8, 1), (A 0x190 0x80, 1)] fun d => { d with pci := { bme := true, table := [(15, 0)], pba := [(3, true)] } }
def wPll : State := mkS [(A 1 0x84, 2 ^ 26)]
/-- Engine 3 RUNNING with furrow 3 mapped, its next row at mc 22 of mc 0, and hidden state `f`. -/
def wFurS (f : Furrow) : State := mkS [(A 0x83 0x84, 3 * 2 ^ 16), (A 0x83 0x94, 100)] fun d => setFur 3 { f with tNext := 22 * 1024 } d
def wRun : State := wFurS {}
def ckT : Ckpt := { pc := 0, loops := [], calls := [], tile := 0, row := 0, cnt := [], tmo := false, tsb := 0, gen := [], mgen := [] }
def pendT : Pend := { idx := 1, cond := 1, sel := 0, clr := false, hold := true, link := false, target := 5, k := 0, tD := 0, dec := some true, ck := ckT }
def wPend : State := wFurS { pend := [pendT] }
def wWait : State := wFurS { cur := some (opWord 12 0, 5, 1), waitRows := [(0, 10, some true)] }
def wWait1 : State := wFurS { cur := some (opWord 12 1, 5, 1) }
def wLend : State := wFurS { endc := 1, loops := [(2, 1)] }
def wRet : State := wFurS { endc := 2, calls := [7] }
/-- As `wRun`, with stored row 0 of tile 0 in the hopper and the tile read. -/
def wIssue : State := mkS [(A 0x83 0x84, 3 * 2 ^ 16), (A 0x83 0x94, 100), (A 0x83 0x204, 4)]
  fun d => setFur 3 { tNext := 22 * 1024, hop := [.row 0 0 0], tiles := [(0, { cause := 0, rows := 2, next := 1, runs := [(2, [])] })] } d
def wUnmapped : State := mkS [(A 0x85 0x90, 0x7F)]
def wStart : State := mkS [(A 0x83 8, 1), (A 0x83 0xC, 5), (A 0x83 0x94, 100), (A 0x83 0x208, 0x100), (A 0x83 0x20C, 1024), (A 0x83 0x200, 1)]
def wFurSt (st : Nat) (f : Furrow) : State := mkS [(A 0x83 0x84, st * 2 ^ 16), (A 0x83 0x94, 100), (A 0x83 0x200, 1)] fun d => setFur 3 f d
def wArmed : State := wFurSt 2 { startMc := some 22 }
def wMember : State := mkS [(A 0x83 0x84, 3 * 2 ^ 16), (A 0x83 0x94, 100), (A 0x83 0x8C, 2 ^ 31)]
def wPriming : State := wFurSt 1 {}
def wOver : State := wFurSt 3 { ending := some 1 }
def wHop : State := wFurSt 1 { hop := [.word 7 none 0] }
def wTile : State := mkS [(A 0x83 0x84, 2 ^ 16), (A 0x83 0x204, 4)]
/-- As `wTile`, with one channel of 1 GiB in use. -/
def wTileMem : State := mkS [(A 0x83 0x84, 2 ^ 16), (A 0x83 0x204, 4), (A 0x188 0xC4, 0x101), (A 0x188 0x88, 2 ^ 24)]
def wOpen : State := mkS [(A 0x44 0x80, 0x100)]
def wSpare : State := mkS [(A 0x44 0x88, 0x8500)]
def wFecF (t : Nat) (x : FecBus) : State := mkS [(A 0x195 8, 1), (A 0x195 0xC, 5), (A 0x195 0x80, 0x10004)] fun d => { setFec 1 x d with ts := BitVec.ofNat 64 t }
def wFec : State := wFecF 0 {}
def cmdT : FecCmd := { chip := 2, kind := 2, addr := 5, data := 0, src := 0 }
/-- A good response of chip 2 to SEQ 0 with data 7: its 30 body bits and their CRC-8. -/
def rspT : BitVec 39 := BitVec.ofNat 39 (2 ^ 38 + (2 * 2 ^ 27 + 7) * 256 + crc8 30 (2 * 2 ^ 27 + 7))
def wFecImm : State := wFecF 3 { imm := [cmdT] }
def wFecOut : State := wFecF 1000 { outs := [(cmdT, 0)] }
def grpT : Group := { frames := [], target := .none, time := some 65536, done := some 0 }
def wFecGrp : State := wFecF 64 { groups := [grpT] }
def wFecLate : State := wFecF 67 { groups := [{ grpT with time := some 1024, done := some 64 }] }
def wFecRst : State := wFecF 131 { resetAt := some 0 }
def wPer : State := mkS [] fun d => setPath .host { per := some (3, 2, 5) } d
def wDsk : State := mkS [(A 0x46 0x90, 0)] fun d => { setCal 1 { dsk := some { tim := 2, n := 1, loop := 0, mask := [], todo := [], start := 0 } } d with ts := 10 }
def wBg : State := mkS [(A 0x46 0x80, 2 ^ 31), (A 0x44 0xC, 4)]
def wSwap : State := mkS [(A 0x46 0x80, 2 ^ 31)] fun d => setCal 1 { ready := [5] } d
def holdT : Hold := { active := true, lanes := [70], mode := 2 }
def wHold : State := mkS [] fun d => setHold 18 holdT d
def wHoldEnd : State := mkS [] fun d => setHold 18 { holdT with begun := true, endAt := some 0 } d
def wRfxOn : State := mkS [(A 0x47 0x120, 0x80000005)]
def rowT : Row := { k := 0, t := 0, len := 1024, set := 0, idx := 0, kind := .own, syms := [], mkEv := 0, rmsk := 0, x := 0, y := 0, z := 0, dmask := [], strobes := [], flagT := 0, flagged := true }
def wTake : State := mkS [(A 0x101 0xC, 1)] fun d => setFur 3 { issued := [rowT] } d
def wTakeOff : State := mkS [] fun d => setFur 3 { issued := [rowT] } d
def wTrans : State := mkS [] fun d => setSl 3 { eff := [0, 0, 0, 0, 0, 5], rec1 := some { base := 0, row := 0, ents := [] }, stage := [{ kind := 0, tag := 1, slot := 2, st := 0, row := 0, tinv := false }] } { d with ts := 10 }
def jesT : Jes := { par := [2 ^ 24, 4 * 2 ^ 16 + 1, 64, 0, 2 ^ 30 + 2 ^ 16 + 4 * 2 ^ 8 + 1, 0] }
def wJesF (st t : Nat) (x : Jes) : State := mkS [(A 0x1A1 0xC, 1), (A 0x1A1 0x98, st * 2 ^ 29)] fun d => setJes 1 x { d with ts := BitVec.ofNat 64 t }
def wJes0 : State := wJesF 0 0 jesT
def wJesHi : State := wJesF 0 10 { jesT with sysHigh := some (0, 10, 0) }
def wJes1 : State := wJesF 1 0 jesT
def wJes2 : State := wJesF 2 64 jesT
def wJes3 : State := wJesF 3 64 jesT
def wJesLate : State := wJesF 3 2000 jesT
def alignedT (d : Dev) : Dev := (setJes 1 { jesT with b0 := 0 } (wr64 (A (jesPage 1) 0xA4) 0 (irqSet (jesPage 1) 1 (fset (A (jesPage 1) 0x98) 0 10 1023 (fset (A (jesPage 1) 0x98) 16 8 1 (fset (A (jesPage 1) 0x98) 29 3 3 d))))))
def wAcqF (st t : Nat) (x : Acq) : State := mkS [(A 0x1A1 0xC, 1), (A 0x121 8, 1), (A 0x121 0xC, 1), (A 0x1A1 0x98, 3 * 2 ^ 29), (aa 2 4, st * 2 ^ 16)]
  fun d => setAcq 2 x (setJes 1 { jesT with blocks := [(0, { arr := 0, ok := true, data := List.replicate 128 5 })] } { d with ts := BitVec.ofNat 64 t })
def wAcqRun : State := wAcqF 1 100 { eff := [2 ^ 30, 0, 0, 1] }
def acqRecT : AcqRec := { tag := 5, body := [], site := 0, epoch := 0, n := 0, first := 0, cnt := 0, left := 0 }
def wAcqCl : State := wAcqF 1 100 { closing := [acqRecT] }
def wAcqStop : State := wAcqF 3 1000 { stop := true }
def wAcqDone : State := wAcqF 3 1000 { segN := 1, eff := [0, 0, 0, 0, 1] }
def wAcqMore : State := wAcqF 3 1000 { segN := 1, eff := [0, 0, 0, 0, 2] }
def wAcqIdle : State := wAcqF 0 0 {}
def wQF (g : GrnSt → GrnSt) : State := mkS [(A 0x170 8, 1), (A 0x170 0xC, 5), (A 0x190 0xC, 1), (A 0x170 0x88, 5)]
  fun d => let e := setQ 5 { en := true } d; { e with grn := g { e.grn with cache := [5], win := List.replicate 8 0 } }
def wQ : State := wQF id
def wQHost : State := mkS [(A 0x190 0x80, 1)]
def wQMark : State := mkS [(A 0x170 8, 1), (A 0x170 0xC, 5), (A 0x170 0x88, 5)]
  fun d => let e := setQ 5 { en := true, markValid := true } d; { e with grn := { e.grn with cache := [5], win := List.replicate 8 0 } }
def wQBusy : State := wQF fun g => { g with busy := some (1, 5, 0) }
def grecT : GRec := { pos := 0, units := 2, opn := true, epoch := 0, sys := false, typ := 16, flags := 0, seq := 0, ts := 0, warm0 := false, written := 16, site := 0, raw := false }
def offT : Offer := { q := 6, typ := 16, flags := 0, epoch := 0, sys := false, len := 32, ts := 0, body := [], whole := false, tag := 9 }
def wQRec : State := mkS [(A 0x170 8, 1), (A 0x170 0xC, 5)]
  fun d => let e := setQ 5 { en := true, wrp := 2, recs := [grecT] } d; { e with grn := { e.grn with cache := [5], opens := [(7, 5, 0)], intake := [offT] } }
def wQFill : State := mkS [(A 0x170 8, 1), (A 0x170 0xC, 5)] fun d => { d with grn := { cache := [6], intake := [offT] } }
def wQInit : State := mkS [] fun d => { d with grn := { initing := true } }
def wTimF (st : Nat) (x : Tim) : State := mkS [(A 0x142 8, 1), (A 0x142 0xC, 1), (ta 2 0x84, st * 2 ^ 16)] fun d => setTim 2 x { d with ts := 1000 }
def wTimIdle : State := wTimF 0 {}
def wTimDiff : State := mkS [(A 0x142 8, 1), (A 0x142 0xC, 1), (A 0x143 8, 1), (A 0x143 0xC, 1), (ta 3 0x88, 2 ^ 31)]
def wTim : State := wTimF 1 { eff := [0, 0, 0, 0, 0, 0] }
def evT : TimEv := { t := 5, start := true, stop := false, tinv := false }
def wTimEv : State := wTimF 1 { evs := [evT] }
def fstT : TimFirst := { isStart := true, t := 5, tinv := false, order := false }
def wTimTo : State := wTimF 2 { first := some fstT, eff := [0, 0, 0, 5] }
def wTimDead : State := wTimF 3 { dead := 5 }
def wTinOn : State := mkS [(ta 0 0x208, 2 ^ 31)]
def wTimLock : State := wTimF 0 { cal := 3 }
def wFen : State := mkS [(A 0x151 8, 1), (A 0x151 0xC, 1), (na 4 0, 0x80C00000)]
def wFenHold : State := mkS [] fun d => setFen 4 { up := { hold := some (0, true) }, lo := { hold := some (0, false) } } d
def wRmp : State := mkS [(A 0x159 8, 1), (A 0x159 0xC, 1)]
def wRmpRun : State := mkS [(A 0x159 8, 1), (A 0x159 0xC, 1), (A 0x159 0x94, 2 ^ 29 + 7)]
def wRmpHeld : State := mkS [(A 0x159 8, 1), (A 0x159 0xC, 1), (A 0x159 0x94, 2 * 2 ^ 29 + 7)]
def wDrlF (st : Nat) (x : Drill) : State := mkS [(A 0x162 8, 1), (A 0x162 0xC, 5), (da 2 0x84, st * 2 ^ 16), (da 2 0x88, 2 ^ 30)] fun d => setDrl 2 x { d with ts := 10 }
def wDrl0 : State := wDrlF 0 {}
def wDrl1 : State := wDrlF 1 { start := some 5 }
def wDrl2 : State := wDrlF 2 { endAt := some 5 }
def wDrlE : State := wDrlF 2 { segs := [{ t := 0, phi := 0, f := 2 ^ 40 }] }
def wAmpF (x : Drill) (e : Nat) : State := mkS [(A 0x195 8, 1), (A 0x195 0xC, 5), (A 0x162 8, 1), (A 0x162 0xC, 5), (da 2 0x84, 2 ^ 16), (da 2 0x98, 2 ^ 31), (da 2 0x8C, 2 ^ 16)]
  fun d => setDrl 2 x { d with lists := [((2 * 4096 + 1) * 4 + 2, BitVec.ofNat 32 (e * 256))] }
def wAmpHeld : State := wAmpF { held := [(1, { frames := [], target := .none })] } 0
def wAmp : State := wAmpF { ahead := [(1, some 0)] } 3
def wSync : State := mkS [(A 1 0xC, 1), (A 1 0x100, 2 ^ 30)]
def wSyncQ : State := mkS [(A 1 0x10C, 2 ^ 29)] fun d => { d with ts := 10, syncEv := some (0, 5), syncOut := some 0 }
def mbArgs (l : List Nat) (d : Dev) : Dev := { d with flw := { args := l } }
def wMb : State := mkS [(A 0x178 8, 1), (A 0x178 0xC, 5)] (mbArgs [2 * 2 ^ 16 + 3, 0, 0, 0])
/-- Site 2 idle with a flow table, and MB_ARG naming it by its mask. -/
def wMbFlow : State := mkS [(A 0x178 8, 1), (A 0x178 0xC, 5), (siteStat 2, 2 ^ 29 + 3 * 2 ^ 16), (sw 2 0, 0x1000), (fw 0x80, 0x2000), (fw 0x8C, 0x3000)] (mbArgs [4, 0, 0, 0])
/-- Site 2 idle with no furrow, and MB_ARG naming no new furrow. -/
def wMbMig : State := mkS [(A 0x178 8, 1), (A 0x178 0xC, 5), (siteStat 2, 2 ^ 29 + 0x7F * 2 ^ 16)] (fun d => setSite 2 { furs := [3] } (mbArgs [2 * 2 ^ 16, 0x7F7F7F05, 0x7F7F7F7F, 0x7F7F7F7F] d))
def wMbIdle : State := mkS [(A 0x178 8, 1), (A 0x178 0xC, 5), (siteStat 2, 2 ^ 29 + 3 * 2 ^ 16)] (mbArgs [2 * 2 ^ 16 + 3, 0, 0, 0])
def wSiteTo : State := mkS [(siteStat 2, 2 * 2 ^ 29 + 3 * 2 ^ 16), (A 0 0x84, 1)] fun d => { d with mem := [(12, 1)] }
def wSiteLim : State := mkS [(siteStat 2, 3 * 2 ^ 29 + 3 * 2 ^ 16)] fun d => setSite 2 { limit := true } d
def wRingF (h : HdlSt → HdlSt) : State := mkS [(A 0x180 8, 1), (A 0x180 0xC, 5), (A 0x180 0x80, 2 ^ 31), (A 0x180 0x84, 2 ^ 29 + 5), (A 0x181 8, 1), (A 0x181 0xC, 5), (A 0x182 8, 1), (A 0x182 0xC, 5), (A 0x181 0x84, 2 * 2 ^ 29 + 15 * 2 ^ 24)]
  fun d => { d with hdl := h d.hdl }
def wRing : State := wRingF id
def wPort1 : State := mkS [(A 0x181 8, 1), (A 0x181 0xC, 5), (A 0x181 0x80, 2 ^ 30), (A 0x181 0x84, 2 ^ 29)]
def expT : ExpWord := { kind := 2, origin := 5, data := 9, take := 0 }
def wRingTx : State := wRingF fun h => { h with ports := [(0, { txq := [expT] })] }
def wRingWalk : State := wRingF fun h => { h with walk := 1 }
def wRefF (sel : Nat) (l : List (Nat × Nat)) (t : Nat) (h : HdlSt) : State := mkS ([(A 1 0xC, 1), (A 1 0x80, sel * 2 ^ 28)] ++ l) fun d => { d with ts := BitVec.ofNat 64 t, hdl := h }
def wExt : State := wRefF 2 [] 10 { extFrom := some 5 }
def extLostT (d : Dev) : Dev := fset refStat 28 1 1 { raise 0x05 4 (irqSet 1 2 (setExt false d)) with hdl := { (raise 0x05 4 (irqSet 1 2 (setExt false d))).hdl with holdFrom := some 10 } }
def wOcxo : State := wRefF 1 [] 10 { ocxoFrom := some 5, lockFrom := some 3 }
def wBoth : State := wRefF 1 [] 10 { ocxoFrom := some 5, extFrom := some 3 }
def wExtBack : State := wRefF 2 [(refStat, 2 ^ 28)] 16000000005 { extFrom := some 5, holdFrom := some 5 }
def wHoldov : State := wRefF 2 [(refStat, 2 ^ 28)] 300000000000 { holdFrom := some 5 }
def wRingT : State := mkS [(A 0x180 8, 1), (A 0x180 0xC, 5), (A 0x180 0x80, 2 ^ 30), (A 0x180 0x84, 2 ^ 29 + 5)]
def wTodF (t : Nat) (h : HdlSt) : State := mkS [(A 6 8, 1), (A 6 0xC, 5), (A 6 0x80, 2 ^ 29), (A 6 0x84, 2 ^ 31), (todStat, 2 ^ 27)] fun d => { d with ts := BitVec.ofNat 64 t, hdl := h }
def wTod : State := wTodF 100 {}
def wTodAhead : State := mkS [(A 6 8, 1), (A 6 0xC, 5), (A 6 0x80, 2 ^ 29), (A 6 0x84, 2 ^ 31), (todStat, 2 ^ 27), (A 6 0xAC, 2 ^ 32 - 50)] fun d => { d with ts := 100 }
def wTodLate : State := wTodF 4000000000 { lastPps := some 5 }
def wTrg : State := mkS [(A 0x183 8, 1), (A 0x183 0xC, 5), (A 0x183 0x84, 2 ^ 31), (A 0x183 0x88, 2 ^ 31 + 3), (A 0x183 0xC4, 2 ^ 31 + 4 * 2 ^ 27 + 8)]
def wApp : State := mkS [(A 0x183 8, 1), (A 0x183 0xC, 5)] fun d => { d with ts := 10, hdl := { apps := [(4, 5, false)] } }
def wRpa : State := mkS [(A 0x180 0x84, 2 ^ 29 + 5), (A 0x184 8, 1), (A 0x184 0xC, 5)]
def wRpaBusy : State := mkS [] fun d => { d with hdl := { rpa := some (3, 0, true) } }
def wRes : State := mkS [(A 0x188 0x84, 2 * 2 ^ 30), (A 0x188 0xC4, 0x101), (A 0x188 0x88, 2 ^ 24), (A 0x180 0x84, 2 ^ 29 + 5), (A 0x185 8, 1), (A 0x185 0xC, 5), (A 0x185 0x80, 2 ^ 31), (A 0x170 8, 1), (A 0x170 0xC, 5)]
  fun d => let e := setQ 5 { en := true, w1 := 2 * 2 ^ 9, wrp := 2, commit := 2 } d; { e with grn := { e.grn with cache := [5] } }
def wMemF (l : List (Nat × Nat)) : State := mkS ([(A 0x188 0x84, 2 * 2 ^ 30), (A 0x188 0xC4, 0x101), (A 0x188 0x88, 2 ^ 24), (A 0x188 0xA0, 1)] ++ l)
def wMem : State := wMemF []
def wMemOut : State := wMemF [(A 0x18A 0x84, 3 * 2 ^ 30)]
def wHostHeld : State := mkS [(A 0x188 0x80, 2 ^ 31)] fun d => { d with resetting := [0x188] }
def wHost : State := mkS [(A 0x190 8, 1), (A 0x190 0xC, 5), (A 0x190 0x80, 0x48000001), (A 0x188 0x84, 2 * 2 ^ 30), (A 0x188 0xC4, 0x101), (A 0x188 0x88, 2 ^ 24)]
def wHostG : State := mkS [(A 0x170 8, 1), (A 0x170 0xC, 5), (A 0x190 8, 1), (A 0x190 0xC, 5), (A 0x190 0x80, 0x48000001), (A 0x188 0x84, 2 * 2 ^ 30), (A 0x188 0xC4, 0x101), (A 0x188 0x88, 2 ^ 24)]
def wPwake : State := mkS [(A 5 0x90, 2 ^ 31)]
def wEthF (e : EthSt) : State := mkS [(A 0x191 8, 1), (A 0x191 0xC, 5), (A 0x191 0x88, 2 ^ 31), (A 0x191 0x84, 1), (A 0x170 8, 1), (A 0x170 0xC, 5)]
  fun d => let x := setQ 5 { en := true, w1 := 2 ^ 9, wrp := 2, commit := 2 } d; { x with ts := 2000000, eth := e, grn := { x.grn with cache := [5] } }
def wEth : State := wEthF {}
def wEthFrag : State := wEthF { frags := [(5, 0, 16)] }
def wSmb : State := mkS [(A 0x192 8, 1), (A 0x192 0xC, 5)]
def wXspF (x : Option (Nat × Nat × Nat)) : State := mkS [(A 0x193 8, 1), (A 0x193 0xC, 5), (A 0x193 0x90, 2 ^ 31), (A 0x193 0x80, 26 * 2 ^ 16)] fun d => { d with xsp := x }
def wXsp : State := wXspF none
def wXsp0 : State := wXspF (some (0, 0, 8))
def wXsp1 : State := wXspF (some (1, 0, 8))
def wXsp2 : State := wXspF (some (2, 0, 8))
def wLive1 : State := mkS [] fun d => setSrc 6 { live := [0], sticky := true } (setSrc 1 { live := [0], sticky := true } d)
def wSel : State := mkS [(A 2 0x80, 0x14)] fun d => { setSrc 0x14 { sticky := true } d with ts := 10 }
def wSel0 : State := mkS [(A 2 0x80, 0x14)] fun d => setSrc 0x14 { sticky := true } d
def wErrP : State := mkS [(A 2 0xC0, 3 * 2 ^ 28 + 10)]
def wErrPl : State := mkS [(A 2 0xC0, 3 * 2 ^ 28 + 10)] fun d => { d with flt := { errEnd := 100 } }
def wErrL : State := mkS [(A 2 0xC0, 2 ^ 31 + 3 * 2 ^ 28 + 10)]
def wErrH : State := mkS [(A 2 0xC0, 2 ^ 31 + 2 ^ 29 + 10)]
def wErrR : State := mkS [(A 2 0xC0, 10)] fun d => { d with ts := 500, flt := { errHigh := some 0, errPend := true } }
def wQu : State := mkS [(A 2 0xC8, 2 ^ 31)]
def wChipR : State := mkS [] fun d => { d with flt := { chipRst := some (1, 0, true) } }
def wSw16 : State := mkS [(A 5 0x88, 3)] fun d => { d with sw := [(16, 0)], booting := true }
def wSw5 : State := mkS [(A 5 0x88, 3)] fun d => { d with sw := [(5, 0)] }
def wSwT : State := mkS [(A 5 0x88, 3)] fun d => { d with ts := 40000, sw := [(5, 0)] }
def wStby1 : State := mkS [] fun d => { d with standby := 1 }
def wStby2 : State := mkS [(A 5 0x90, 2 ^ 30)] fun d => { d with standby := 2, clk := false }
def wHour : State := mkS [] fun d => { d with opMc := mcPerHour }
def recT : HmkRec := { prio := 1, kind := 1, src := 5, flags := 1, ts := 0, sec := 0, poh := 0, boots := 0, body := [] }
def wHmk : State := mkS [(A 3 0x80, 2 ^ 31), (A 3 0x8C, 1)] fun d => { d with hmk := { queue := [recT] } }
def wFuse : State := mkS [] fun d => { d with sec := { fuse := some (3, 0, 5, 0) } }
def wBootAt (st : Nat) : State := mkS [(A 0 0xA4, st * 2 ^ 29)] fun d => { d with booting := true }
def imgT (d : Dev) : Dev := wrN (A xspPage 0x80) (26 * 2 ^ 16 + 50) d
def dimmT : Dimm := { cap := 16, x8 := true, ranks2 := false, scope := true, trained := true }
/-- The device that stage BLOCKS leaves READY when the flash holds no calibration record. -/
def bootedT (d : Dev) : Dev :=
  let x := forAll ((List.range 8).filter fun b => domOn d (4 + b)) bankReady (forAll ((List.range 8).filter fun b => domOn d (4 + b)) restoreSpares (forAll ((List.range 8).filter fun b => domOn d (4 + b)) loadCoefs d))
  fset (A 0 0xA4) 26 2 0 { x with booting := false, sec := { x.sec with bcal := 0 } }
def wBootB : State := { wBootAt 4 with dev := wrN (A 5 0x84) 0 (wrN (A 5 0x88) 0xFF00F (wBootAt 4).dev) }
def wFz : State := mkS [(A 4 0x94, 2 ^ 31)] fun d => { d with sec := { image := some { slot := 0, svn := 9, build := 1, owner := 0, meas := 0 } } }
def wFzRev : State := { wFz with nv := { owners := [(0, { status := 1, hash := 5 }), (1, { status := 1, hash := 6 })] } }
def wAssay : State := mkS [] fun d => { d with sec := { assay := some [] } }
def wQuOff : State := mkS [(A 2 0xC8, 0)]
def wLocked : State := mkS [(A 0x178 0x2C, 2 ^ 31)]
def wSel6 : State := mkS [(A 2 0x80, 6)] fun d => setSrc 6 { live := [0], sticky := true } d
def wPend5 : State := mkS [(A 2 0xA0, 2 ^ 5)]

/-! ### The hypotheses of the statements can be met -/

theorem met_RegisterAccessesAct :
    ((liveAll.dev.aon = true) ∧ ((0x178080 : Off).toNat % 4 = 0) ∧ ((0xF : BitVec 4) = 0xF) ∧ (accepts (actPre 0 liveAll.dev) (0x178080 : Off).toNat =
      true)) ∧
    ((liveAll.dev.aon = true) ∧ ((0x0800B0 : Off).toNat % 4 = 0) ∧ (isPair .pairLo (0x0800B0 : Off).toNat = true) ∧ (accepts (actPre 0 liveAll.dev)
      (0x0800B0 : Off).toNat = true)) ∧
    ((liveAll.dev.aon = true) ∧ ((0x0800B4 : Off).toNat % 4 = 0) ∧ (isPair .pairHi (0x0800B4 : Off).toNat = true) ∧ (accepts (actPre 0 liveAll.dev)
      (0x0800B4 : Off).toNat = true)) ∧
    ((liveAll.dev.aon = true) ∧ ((0x000084 : Off).toNat % 4 = 0) ∧ (regAt (0x000084 : Off).toNat = some ((regAt 0x84).getD (rRO 0 0) : Reg)) ∧
      (pageKind ((0x000084 : Off).toNat / 0x1000) = some (.chip : PageKind)) ∧ (((regAt 0x84).getD (rRO 0 0) : Reg).pairing = .latLo (1 : Nat)) ∧
      (readable (actPre 0 liveAll.dev) (0x000084 : Off).toNat = true) ∧ ((beforeRead .chip 0 0x84 (actPre 0 liveAll.dev) : Dev) = beforeRead (.chip :
      PageKind) ((0x000084 : Off).toNat / 0x1000) ((0x000084 : Off).toNat % 0x1000) (actPre 0 liveAll.dev))) ∧
    ((liveAll.dev.aon = true) ∧ ((0x00208C : Off).toNat % 4 = 0) ∧ (regAt (0x00208C : Off).toNat = some ((regAt 0x208C).getD (rRO 0 0) : Reg)) ∧
      (pageKind ((0x00208C : Off).toNat / 0x1000) = some (.flt : PageKind)) ∧ (((regAt 0x208C).getD (rRO 0 0) : Reg).pairing = .none) ∧ (((regAt
      0x208C).getD (rRO 0 0) : Reg).rc ≠ 0) ∧ (readable (actPre 0 liveAll.dev) (0x00208C : Off).toNat = true) ∧ ((beforeRead .flt 2 0x8C (actPre 0
      liveAll.dev) : Dev) = beforeRead (.flt : PageKind) ((0x00208C : Off).toNat / 0x1000) ((0x00208C : Off).toNat % 0x1000) (actPre 0 liveAll.dev))) := by
  refine ⟨?_, ?_, ?_, ?_, ?_⟩ <;> decide +kernel

theorem met_BlockControlActs :
    ((liveAll.dev.aon = true) ∧ (accepts (actPre 0 liveAll.dev) (A (0x80 : Page).toNat 8) = true) ∧ (pageKind (0x80 : Page).toNat = some (.fur :
      PageKind)) ∧ (enFixed (.fur : PageKind) = false) ∧ ((writeFreeze {} 0x80 false (actPre 0 liveAll.dev) : Dev) = writeFreeze liveAll.nv (0x80 :
      Page).toNat (false : Bool) (actPre 0 liveAll.dev)) ∧ (blkDraining (writeFreeze {} 0x80 false (actPre 0 liveAll.dev) : Dev) (0x80 : Page).toNat =
      false) ∧ (blkEn (writeFreeze {} 0x80 false (actPre 0 liveAll.dev) : Dev) (0x80 : Page).toNat = false) ∧ ((0x140 ≤ (0x80 : Page).toNat ∧ (0x80 :
      Page).toNat < 0x150 → timLent (writeFreeze {} 0x80 false (actPre 0 liveAll.dev) : Dev) ((0x80 : Page).toNat - 0x140) = false)) ∧ (((.fur :
      PageKind) = .jes → jesErr (jesWould (writeFreeze {} 0x80 false (actPre 0 liveAll.dev) : Dev) ((0x80 : Page).toNat - 0x1A0)) = 0))) ∧
    ((wFur.dev.aon = true) ∧ (accepts (actPre 0 wFur.dev) (A (0x80 : Page).toNat 8) = true) ∧ (pageKind (0x80 : Page).toNat = some (.fur : PageKind))
      ∧ (enFixed (.fur : PageKind) = false) ∧ ((writeFreeze {} 0x80 false (actPre 0 wFur.dev) : Dev) = writeFreeze wFur.nv (0x80 : Page).toNat (false
      : Bool) (actPre 0 wFur.dev)) ∧ (blkEn (writeFreeze {} 0x80 false (actPre 0 wFur.dev) : Dev) (0x80 : Page).toNat = true) ∧ (blkActive
      (writeFreeze {} 0x80 false (actPre 0 wFur.dev) : Dev) (0x80 : Page).toNat = true)) ∧
    ((liveAll.dev.aon = true) ∧ (accepts (actPre 0 liveAll.dev) (A (0x80 : Page).toNat 8) = true) ∧ (pageKind (0x80 : Page).toNat = some (.fur :
      PageKind))) ∧
    ((liveAll.dev.aon = true) ∧ (accepts (actPre 0 liveAll.dev) (A (0x80 : Page).toNat 8) = true) ∧ (pageKind (0x80 : Page).toNat = some (.fur :
      PageKind)) ∧ (srstRO (.fur : PageKind) = false)) ∧
    ((wDrain.dev.aon = true) ∧ (pageOn (actPre 0 wDrain.dev) (0x178 : Page).toNat = true) ∧ (blkDraining (actPre 0 wDrain.dev) (0x178 : Page).toNat =
      true) ∧ ((actPre 0 wDrain.dev).resetting.contains (0x178 : Page).toNat = false) ∧ (blkIdle (actPre 0 wDrain.dev) (0x178 : Page).toNat = true) ∧
      (pageKind (0x178 : Page).toNat = some (.flw : PageKind)) ∧ ((.flw : PageKind) ≠ .mem) ∧ ((.flw : PageKind) ≠ .mem0) ∧ ((.flw : PageKind) ≠
      .grn)) ∧
    ((wDrainGrn.dev.aon = true) ∧ (pageOn (actPre 0 wDrainGrn.dev) (0x170 : Page).toNat = true) ∧ (blkDraining (actPre 0 wDrainGrn.dev) (0x170 :
      Page).toNat = true) ∧ ((actPre 0 wDrainGrn.dev).resetting.contains (0x170 : Page).toNat = false) ∧ (blkIdle (actPre 0 wDrainGrn.dev) (0x170 :
      Page).toNat = true) ∧ (pageKind (0x170 : Page).toNat = some .grn)) ∧
    ((wDrainMem.dev.aon = true) ∧ (pageOn (actPre 0 wDrainMem.dev) (0x188 : Page).toNat = true) ∧ (blkDraining (actPre 0 wDrainMem.dev) (0x188 :
      Page).toNat = true) ∧ ((actPre 0 wDrainMem.dev).resetting.contains (0x188 : Page).toNat = false) ∧ (blkIdle (actPre 0 wDrainMem.dev) (0x188 :
      Page).toNat = true) ∧ (pageKind (0x188 : Page).toNat = some (.mem0 : PageKind)) ∧ ((.mem0 : PageKind) = .mem ∨ (.mem0 : PageKind) = .mem0)) ∧
    ((wReset.dev.aon = true) ∧ ((actPre 0 wReset.dev).resetting.contains (0x80 : Page).toNat = true)) := by
  refine ⟨?_, ?_, ?_, ?_, ?_, ?_, ?_, ?_⟩ <;> decide +kernel

theorem met_HeaderAndTimeBaseCommandsAct :
    ((liveAll.dev.aon = true) ∧ (accepts (actPre 0 liveAll.dev) (A (0x80 : Page).toNat 0x2C) = true)) ∧
    ((liveAll.dev.aon = true) ∧ (accepts (actPre 0 liveAll.dev) (A (0x80 : Page).toNat 0x18) = true)) ∧
    ((wMsix.dev.aon = true) ∧ (mget (fun _ => false) (actPre 0 wMsix.dev).pci.pba (3 : BitVec 11).toNat = true) ∧ (msixBlocked (actPre 0 wMsix.dev) (3
      : BitVec 11).toNat = false)) ∧
    ((liveAll.dev.aon = true) ∧ (accepts (actPre 0 liveAll.dev) (A 0 0x80) = true) ∧ (1 ≤ bits (100 : Word).toNat 0 7) ∧ (bits (100 : Word).toNat 0 7
      ≤ 100)) ∧
    ((liveAll.dev.aon = true) ∧ (accepts (actPre 0 liveAll.dev) (A 0 0x80) = true) ∧ (bits (101 : Word).toNat 0 7 = 0 ∨ 100 < bits (101 : Word).toNat
      0 7)) ∧
    ((liveAll.dev.aon = true) ∧ ((actPre 0 liveAll.dev).clk = true) ∧ (fieldMcs (actPre 0 liveAll.dev) ≠ 0) ∧ (now (actPre 0 liveAll.dev) % fieldMcs
      (actPre 0 liveAll.dev) = 0) ∧ ((actPre 0 liveAll.dev).fieldMc.all (fun m => decide (m + 1600 ≤ now (actPre 0 liveAll.dev))) = true) ∧ ((wr64 (A
      0 0x8C) (now (actPre 0 liveAll.dev)) (wr64 (A 0 0x84) (rd64 { (actPre 0 liveAll.dev) with fieldMc := some (now (actPre 0 liveAll.dev)) } (A 0
      0x84) + 1) { (actPre 0 liveAll.dev) with fieldMc := some (now (actPre 0 liveAll.dev)) }) : Dev) = wr64 (A 0 0x8C) (now (actPre 0 liveAll.dev))
      (wr64 (A 0 0x84) (rd64 { (actPre 0 liveAll.dev) with fieldMc := some (now (actPre 0 liveAll.dev)) } (A 0 0x84) + 1)
      { (actPre 0 liveAll.dev) with fieldMc := some (now (actPre 0 liveAll.dev)) }))) ∧
    ((wPll.dev.aon = true) ∧ ((actPre 0 wPll.dev).clk = true) ∧ (fbit (actPre 0 wPll.dev) refStat 26 = true)) := by
  refine ⟨?_, ?_, ?_, ?_, ?_, ?_, ?_⟩ <;> decide +kernel

theorem met_FurrowBoundaryCommandsAct :
    ((wRun.dev.aon = true) ∧ ((3 : Nat) = leadOf (actPre 0 wRun.dev) (3 : Eng)) ∧ (mayIssue (actPre 0 wRun.dev) (3 : Nat) = true) ∧ ((boundary 3
      (actPre 0 wRun.dev) : Dev) = boundary (3 : Nat) (actPre 0 wRun.dev)) ∧ ((getFur (boundary 3 (actPre 0 wRun.dev) : Dev) (3 : Nat)).ending =
      none)) ∧
    ((wRun.dev.aon = true) ∧ ((3 : Nat) = leadOf (actPre 0 wRun.dev) (3 : Eng))) ∧
    ((wRun.dev.aon = true) ∧ ((3 : Nat) = leadOf (actPre 0 wRun.dev) (3 : Eng))) ∧
    ((wRun.dev.aon = true) ∧ ((forAll (List.range 24) fenNow (actPre 0 wRun.dev) : Dev) = forAll (List.range 24) fenNow (actPre 0 wRun.dev)) ∧ ((3 :
      Nat) = leadOf (forAll (List.range 24) fenNow (actPre 0 wRun.dev) : Dev) (3 : Eng))) ∧
    ((wRun.dev.aon = true) ∧ ((3 : Nat) = leadOf (actPre 0 wRun.dev) (3 : Eng)) ∧ (furState (actPre 0 wRun.dev) (3 : Nat) = 3)) ∧
    ((wPend.dev.aon = true) ∧ ((3 : Nat) = leadOf (actPre 0 wPend.dev) (3 : Eng)) ∧ (furState (actPre 0 wPend.dev) (3 : Nat) = 3) ∧ ((noteSel 3
      (actPre 0 wPend.dev) : Dev) = noteSel (3 : Nat) (actPre 0 wPend.dev)) ∧ ((getFur (noteSel 3 (actPre 0 wPend.dev) : Dev) (3 : Nat)).pend = (pendT
      : Pend) :: ([] : List Pend)) ∧ (pendDue (getFur (noteSel 3 (actPre 0 wPend.dev) : Dev) (3 : Nat)) (pendT : Pend) = true) ∧ ((pendT : Pend).dec =
      some true)) ∧
    ((wWait.dev.aon = true) ∧ ((3 : Nat) = leadOf (actPre 0 wWait.dev) (3 : Eng)) ∧ (furState (actPre 0 wWait.dev) (3 : Nat) = 3) ∧ ((noteSel 3
      (actPre 0 wWait.dev) : Dev) = noteSel (3 : Nat) (actPre 0 wWait.dev)) ∧ ((getFur (noteSel 3 (actPre 0 wWait.dev) : Dev) (3 : Nat)).cur = some
      ((opWord 12 0 : BitVec 64), (5 : Nat), (1 : Nat))) ∧ (opOf (opWord 12 0 : BitVec 64) = 12) ∧ (0 < (1 : Nat)) ∧ ((getFur (noteSel 3 (actPre 0
      wWait.dev) : Dev) (3 : Nat)).pend.any (pendDue (getFur (noteSel 3 (actPre 0 wWait.dev) : Dev) (3 : Nat))) = false) ∧ (waitHit (getFur (noteSel 3
      (actPre 0 wWait.dev) : Dev) (3 : Nat)) = some (10 : Nat)) ∧ ((noteSel 3 (actPre 0 wWait.dev) : Dev) = onlyIf (wf (opWord 12 0 : BitVec 64) 41 1
      == 1) (clearAtBoundary (3 : Nat) (condOf (opWord 12 0 : BitVec 64)) (selOf (opWord 12 0 : BitVec 64)) (10 : Nat)) (noteSel 3 (actPre 0
      wWait.dev) : Dev))) ∧
    ((wWait1.dev.aon = true) ∧ ((3 : Nat) = leadOf (actPre 0 wWait1.dev) (3 : Eng)) ∧ (furState (actPre 0 wWait1.dev) (3 : Nat) = 3) ∧ ((noteSel 3
      (actPre 0 wWait1.dev) : Dev) = noteSel (3 : Nat) (actPre 0 wWait1.dev)) ∧ ((getFur (noteSel 3 (actPre 0 wWait1.dev) : Dev) (3 : Nat)).cur = some
      ((opWord 12 1 : BitVec 64), (5 : Nat), (1 : Nat))) ∧ (opOf (opWord 12 1 : BitVec 64) = 12) ∧ (wf (opWord 12 1 : BitVec 64) 0 28 ≠ 0) ∧ ((1 :
      Nat) = wf (opWord 12 1 : BitVec 64) 0 28) ∧ ((getFur (noteSel 3 (actPre 0 wWait1.dev) : Dev) (3 : Nat)).pend.any (pendDue (getFur (noteSel 3
      (actPre 0 wWait1.dev) : Dev) (3 : Nat))) = false) ∧ (waitOpen (getFur (noteSel 3 (actPre 0 wWait1.dev) : Dev) (3 : Nat)) = false) ∧ (waitHit
      (getFur (noteSel 3 (actPre 0 wWait1.dev) : Dev) (3 : Nat)) = none) ∧ ((setFur 3
      { getFur (noteSel 3 (actPre 0 wWait1.dev)) 3 with cur := none, waitRows := [] } (noteSel 3 (actPre 0 wWait1.dev)) : Dev) = setFur (3 : Nat)
      { getFur (noteSel 3 (actPre 0 wWait1.dev) : Dev) (3 : Nat) with cur := none, waitRows := [] } (noteSel 3 (actPre 0 wWait1.dev) : Dev))) ∧
    ((wLend.dev.aon = true) ∧ ((3 : Nat) = leadOf (actPre 0 wLend.dev) (3 : Eng)) ∧ (furState (actPre 0 wLend.dev) (3 : Nat) = 3) ∧ ((getFur (actPre 0
      wLend.dev) (3 : Nat)).endc = 1) ∧ ((getFur (actPre 0 wLend.dev) (3 : Nat)).pend = []) ∧ ((getFur (actPre 0 wLend.dev) (3 : Nat)).loops = ((2 :
      Nat), (1 : Nat)) :: ([] : List (Nat × Nat)))) ∧
    ((wRet.dev.aon = true) ∧ ((3 : Nat) = leadOf (actPre 0 wRet.dev) (3 : Eng)) ∧ (furState (actPre 0 wRet.dev) (3 : Nat) = 3) ∧ ((getFur (actPre 0
      wRet.dev) (3 : Nat)).endc = 2) ∧ ((getFur (actPre 0 wRet.dev) (3 : Nat)).pend = []) ∧ ((getFur (actPre 0 wRet.dev) (3 : Nat)).calls = (7 : Nat)
      :: ([] : List Nat))) := by
  refine ⟨?_, ?_, ?_, ?_, ?_, ?_, ?_, ?_, ?_, ?_⟩ <;> decide +kernel

theorem met_ProgramInstructionsIssue :
    ((wIssue.dev.aon = true) ∧ (firstRow (3 : Eng) (opWord 1 (0 : BitVec 64)) (actPre 0 wIssue.dev) = some ((firstRow 3 (opWord 1 0) (actPre 0
      wIssue.dev)).getD (actPre 0 wIssue.dev) : Dev))) ∧
    ((wIssue.dev.aon = true) ∧ (firstRow (3 : Eng) (opWord 2 (3 : BitVec 64)) (actPre 0 wIssue.dev) = some ((firstRow 3 (opWord 2 3) (actPre 0
      wIssue.dev)).getD (actPre 0 wIssue.dev) : Dev))) ∧
    ((wIssue.dev.aon = true) ∧ (firstRow (3 : Eng) (opWord 3 (0 : BitVec 64)) (actPre 0 wIssue.dev) = some ((firstRow 3 (opWord 3 0) (actPre 0
      wIssue.dev)).getD (actPre 0 wIssue.dev) : Dev))) ∧
    ((wIssue.dev.aon = true) ∧ (firstRow (3 : Eng) (opWord 4 ((2 ^ 43) : BitVec 64)) (actPre 0 wIssue.dev) = some ((firstRow 3 (opWord 4 (2 ^ 43))
      (actPre 0 wIssue.dev)).getD (actPre 0 wIssue.dev) : Dev))) ∧
    ((wIssue.dev.aon = true) ∧ (firstRow (3 : Eng) (opWord 8 ((2 ^ 43) : BitVec 64)) (actPre 0 wIssue.dev) = some ((firstRow 3 (opWord 8 (2 ^ 43))
      (actPre 0 wIssue.dev)).getD (actPre 0 wIssue.dev) : Dev))) ∧
    ((wIssue.dev.aon = true) ∧ (firstRow (3 : Eng) (opWord 9 ((2 ^ 43) : BitVec 64)) (actPre 0 wIssue.dev) = some ((firstRow 3 (opWord 9 (2 ^ 43))
      (actPre 0 wIssue.dev)).getD (actPre 0 wIssue.dev) : Dev))) ∧
    ((wIssue.dev.aon = true) ∧ (firstRow (3 : Eng) (opWord 11 ((2 ^ 43) : BitVec 64)) (actPre 0 wIssue.dev) = some ((firstRow 3 (opWord 11 (2 ^ 43))
      (actPre 0 wIssue.dev)).getD (actPre 0 wIssue.dev) : Dev))) ∧
    ((wIssue.dev.aon = true) ∧ (firstRow (3 : Eng) (opWord 12 ((2 ^ 43 + 2 ^ 34) : BitVec 64)) (actPre 0 wIssue.dev) = some ((firstRow 3 (opWord 12 (2
      ^ 43 + 2 ^ 34)) (actPre 0 wIssue.dev)).getD (actPre 0 wIssue.dev) : Dev))) ∧
    ((wIssue.dev.aon = true) ∧ (firstRow (3 : Eng) (opWord 16 ((2 ^ 43) : BitVec 64)) (actPre 0 wIssue.dev) = some ((firstRow 3 (opWord 16 (2 ^ 43))
      (actPre 0 wIssue.dev)).getD (actPre 0 wIssue.dev) : Dev))) ∧
    ((wIssue.dev.aon = true) ∧ (firstRow (3 : Eng) (opWord 17 ((2 ^ 43) : BitVec 64)) (actPre 0 wIssue.dev) = some ((firstRow 3 (opWord 17 (2 ^ 43))
      (actPre 0 wIssue.dev)).getD (actPre 0 wIssue.dev) : Dev))) ∧
    ((wIssue.dev.aon = true) ∧ (firstRow (3 : Eng) (opWord 63 ((2 ^ 43) : BitVec 64)) (actPre 0 wIssue.dev) = some ((firstRow 3 (opWord 63 (2 ^ 43))
      (actPre 0 wIssue.dev)).getD (actPre 0 wIssue.dev) : Dev))) ∧
    ((wIssue.dev.aon = true) ∧ (firstLoop (3 : Eng) (opWord 10 (2 ^ 43 + 3 : BitVec 64)) (actPre 0 wIssue.dev) = some ((firstLoop 3 (opWord 10 (2 ^ 43
      + 3)) (actPre 0 wIssue.dev)).getD (actPre 0 wIssue.dev) : Dev))) ∧
    ((wIssue.dev.aon = true) ∧ ((3 : Nat) = leadOf (actPre 0 wIssue.dev) (3 : Eng)) ∧ (mayBegin (actPre 0 wIssue.dev) (3 : Nat) = true) ∧ ((fetched
      (actPre 0 wIssue.dev) 3 : Dev) = fetched (actPre 0 wIssue.dev) (3 : Nat)) ∧ (decodeFault (fetched (actPre 0 wIssue.dev) 3 : Dev) (3 : Nat)
      (opWord 13 (0 : BitVec 64)) = 0)) := by
  refine ⟨?_, ?_, ?_, ?_, ?_, ?_, ?_, ?_, ?_, ?_, ?_, ?_, ?_⟩ <;> decide +kernel

theorem met_FurrowControlCommandsAct :
    ((liveAll.dev.aon = true) ∧ (accepts (actPre 0 liveAll.dev) (fa (3 : Eng) 0x90) = true) ∧ ((0x7F : Nat) = bits (0x7F : Word).toNat 0 7) ∧
      (mapRefusedFur (actPre 0 liveAll.dev) (3 : Eng) (0x7F : Nat) = false) ∧ ((0x7F : Nat) = 0x7F) ∧ (logical (actPre 0 liveAll.dev) (3 : Eng) ≠
      0x7F) ∧ ((fset (fa 3 0x90) 0 7 0x7F (actPre 0 liveAll.dev) : Dev) = fset (fa (3 : Eng) 0x90) 0 7 0x7F (actPre 0 liveAll.dev))) ∧
    ((liveAll.dev.aon = true) ∧ (accepts (actPre 0 liveAll.dev) (fa (3 : Eng) 0x90) = true) ∧ ((5 : Nat) = bits (5 : Word).toNat 0 7) ∧ (mapRefusedFur
      (actPre 0 liveAll.dev) (3 : Eng) (5 : Nat) = false) ∧ ((5 : Nat) < 64) ∧ (engOf (actPre 0 liveAll.dev) (5 : Nat) = some (5 : Nat)) ∧ (logical
      (actPre 0 liveAll.dev) (3 : Eng) ≠ 0x7F) ∧ ((engDegraded 5 (fset (fa 3 0x90) 0 7 5 (fset (fa 5 0x90) 0 7 0x7F (actPre 0 liveAll.dev))) : Dev) =
      engDegraded (5 : Nat) (fset (fa (3 : Eng) 0x90) 0 7 (5 : Nat) (fset (fa (5 : Nat) 0x90) 0 7 0x7F (actPre 0 liveAll.dev))))) ∧
    ((wUnmapped.dev.aon = true) ∧ (accepts (actPre 0 wUnmapped.dev) (fa (64 : Eng) 0x90) = true) ∧ ((5 : Nat) = bits (5 : Word).toNat 0 7) ∧
      (mapRefusedFur (actPre 0 wUnmapped.dev) (64 : Eng) (5 : Nat) = false) ∧ ((5 : Nat) < 64) ∧ (engOf (actPre 0 wUnmapped.dev) (5 : Nat) = none) ∧
      (logical (actPre 0 wUnmapped.dev) (64 : Eng) = 0x7F) ∧ ((fset (fa 64 0x90) 31 1 0 (fset (fa 64 0x90) 0 7 5 (actPre 0 wUnmapped.dev)) : Dev) =
      fset (fa (64 : Eng) 0x90) 31 1 (bits (5 : Word).toNat 31 1) (fset (fa (64 : Eng) 0x90) 0 7 (5 : Nat) (actPre 0 wUnmapped.dev)))) ∧
    ((wStart.dev.aon = true) ∧ (accepts (actPre 0 wStart.dev) (fa (3 : Eng) 0x80) = true) ∧ ((0x80000000 : Nat) = (0 : Word).toNat ||| 0x80000000) ∧
      ((0 : Nat) = bits (0x80000000 : Nat) 28 2) ∧ ((fset (fa 3 0x80) 28 2 0 (actPre 0 wStart.dev) : Dev) = fset (fa (3 : Eng) 0x80) 28 2 (0 : Nat)
      (if bit (0x80000000 : Nat) 30 then furStop (3 : Eng) 2 (actPre 0 wStart.dev) else (actPre 0 wStart.dev))) ∧ (startErr (fset (fa 3 0x80) 28 2 0
      (actPre 0 wStart.dev) : Dev) (3 : Eng) (0 : Nat) = 0)) ∧
    ((wArmed.dev.aon = true) ∧ (accepts (actPre 0 wArmed.dev) (fa (3 : Eng) 0x80) = true) ∧ ((0x40000000 : Nat) = (0 : Word).toNat ||| 0x40000000) ∧
      (bit (0x40000000 : Nat) 31 = false)) ∧
    ((wPriming.dev.aon = true) ∧ (furState (actPre 0 wPriming.dev) (3 : Eng) = 1) ∧ (yokeRole (actPre 0 wPriming.dev) (3 : Eng) ≠ 2) ∧ (primed (actPre
      0 wPriming.dev) (3 : Eng) = true) ∧ ((fset (fa 3 0x84) 16 3 2 (setFur 3
      { getFur (actPre 0 wPriming.dev) 3 with armed := now (actPre 0 wPriming.dev) } (actPre 0 wPriming.dev)) : Dev) = forAll (yokeEngs (actPre 0
      wPriming.dev) (3 : Eng)) (fun x y => fset (fa x 0x84) 16 3 2 (setFur x { getFur y x with armed := now (actPre 0 wPriming.dev) } y)) (actPre 0
      wPriming.dev)) ∧ ((getFur (fset (fa 3 0x84) 16 3 2 (setFur 3 { getFur (actPre 0 wPriming.dev) 3 with armed := now (actPre 0 wPriming.dev) }
      (actPre 0 wPriming.dev)) : Dev) (3 : Eng)).mode = 0)) ∧
    ((wArmed.dev.aon = true) ∧ (startTime (actPre 0 wArmed.dev) (3 : Eng) = some (22 : Nat)) ∧ (furState (actPre 0 wArmed.dev) (3 : Eng) = 2) ∧
      (yokeRole (actPre 0 wArmed.dev) (3 : Eng) ≠ 2) ∧ ((22 : Nat) = now (actPre 0 wArmed.dev) + 22) ∧ ((issueNext 3 none (fset (fa 3 0x84) 16 3 3
      (setFur 3 { getFur (actPre 0 wArmed.dev) 3 with tNext := 22 * 1024 } (actPre 0 wArmed.dev))) : Dev) = issueNext (3 : Eng) none (forAll (yokeEngs
      (actPre 0 wArmed.dev) (3 : Eng)) (fun x y => fset (fa x 0x84) 16 3 3 (setFur x { getFur y x with tNext := (22 : Nat) * 1024 } y)) (actPre 0
      wArmed.dev))) ∧ (((if rd64 (issueNext 3 none (fset (fa 3 0x84) 16 3 3 (setFur 3 { getFur (actPre 0 wArmed.dev) 3 with tNext := 22 * 1024 }
      (actPre 0 wArmed.dev)))) (fa 3 0xB8) = 0 then issueNext 3 none (fset (fa 3 0x84) 16 3 3 (setFur 3
      { getFur (actPre 0 wArmed.dev) 3 with tNext := 22 * 1024 } (actPre 0 wArmed.dev))) else irqSet (furPage 3) 8 (issueNext 3 none (fset (fa 3 0x84)
      16 3 3 (setFur 3 { getFur (actPre 0 wArmed.dev) 3 with tNext := 22 * 1024 } (actPre 0 wArmed.dev))))) : Dev) = (if rd64 (issueNext 3 none (fset
      (fa 3 0x84) 16 3 3 (setFur 3 { getFur (actPre 0 wArmed.dev) 3 with tNext := 22 * 1024 } (actPre 0 wArmed.dev))) : Dev) (fa (3 : Eng) 0xB8) = 0
      then (issueNext 3 none (fset (fa 3 0x84) 16 3 3 (setFur 3 { getFur (actPre 0 wArmed.dev) 3 with tNext := 22 * 1024 } (actPre 0 wArmed.dev))) :
      Dev) else forAll (yokeEngs (issueNext 3 none (fset (fa 3 0x84) 16 3 3 (setFur 3 { getFur (actPre 0 wArmed.dev) 3 with tNext := 22 * 1024 }
      (actPre 0 wArmed.dev))) : Dev) (3 : Eng)) (fun m => irqSet (furPage m) 8) (issueNext 3 none (fset (fa 3 0x84) 16 3 3 (setFur 3
      { getFur (actPre 0 wArmed.dev) 3 with tNext := 22 * 1024 } (actPre 0 wArmed.dev))) : Dev))) ∧ (furState ((if rd64 (issueNext 3 none (fset (fa 3
      0x84) 16 3 3 (setFur 3 { getFur (actPre 0 wArmed.dev) 3 with tNext := 22 * 1024 } (actPre 0 wArmed.dev)))) (fa 3 0xB8) = 0 then issueNext 3 none
      (fset (fa 3 0x84) 16 3 3 (setFur 3 { getFur (actPre 0 wArmed.dev) 3 with tNext := 22 * 1024 } (actPre 0 wArmed.dev))) else irqSet (furPage 3) 8
      (issueNext 3 none (fset (fa 3 0x84) 16 3 3 (setFur 3 { getFur (actPre 0 wArmed.dev) 3 with tNext := 22 * 1024 } (actPre 0 wArmed.dev))))) : Dev)
      (3 : Eng) = 3)) ∧
    ((wOver.dev.aon = true) ∧ ((3 : Nat) = leadOf (actPre 0 wOver.dev) (3 : Eng)) ∧ (runOver (actPre 0 wOver.dev) (3 : Nat) = true) ∧ (allTaken
      (actPre 0 wOver.dev) (3 : Nat) = true) ∧ ((furStopped' 3 (forAll ([3].map (logical (actPre 0 wOver.dev))) (fun f => onlyIf (f < 64) (endRunSl
      f)) (actPre 0 wOver.dev)) : Dev) = furStopped' (3 : Nat) (forAll ((yokeEngs (actPre 0 wOver.dev) (3 : Nat)).map (logical (actPre 0 wOver.dev)))
      (fun f => onlyIf (f < 64) (endRunSl f)) (actPre 0 wOver.dev)))) ∧
    ((wArmed.dev.aon = true) ∧ (furActive (actPre 0 wArmed.dev) (3 : Eng) = true) ∧ (yokeRole (actPre 0 wArmed.dev) (3 : Eng) ≠ 2)) ∧
    ((wMember.dev.aon = true) ∧ (furActive (actPre 0 wMember.dev) (3 : Eng) = true) ∧ (yokeRole (actPre 0 wMember.dev) (3 : Eng) = 2)) ∧
    ((wHop.dev.aon = true) ∧ (wordWaited (actPre 0 wHop.dev) (3 : Eng) = some (7 : Nat)) ∧ (furActive (actPre 0 wHop.dev) (3 : Eng) = true) ∧
      (memHolds (actPre 0 wHop.dev) (wordAddr (actPre 0 wHop.dev) (3 : Eng) (7 : Nat)) 8 = false) ∧ ((true : Bool) = ((true : Bool) || !rangeServed
      (actPre 0 wHop.dev) (wordAddr (actPre 0 wHop.dev) (3 : Eng) (7 : Nat)) 8)) ∧ ((setFur 3
      { getFur (actPre 0 wHop.dev) 3 with hop := fillWord 7 (now (actPre 0 wHop.dev)) (memWord (actPre 0 wHop.dev) 3 7, true) (getFur (actPre 0 wHop.dev) 3).hop }
      (actPre 0 wHop.dev) : Dev) = setFur (3 : Eng)
      { getFur (actPre 0 wHop.dev) (3 : Eng) with hop := fillWord (7 : Nat) (now (actPre 0 wHop.dev)) (memWord (actPre 0 wHop.dev) (3 : Eng) (7 : Nat), (true : Bool)) (getFur (actPre 0 wHop.dev) (3 : Eng)).hop }
      (actPre 0 wHop.dev))) ∧
    ((wTile.dev.aon = true) ∧ (furActive (actPre 0 wTile.dev) (3 : Eng) = true) ∧ (tileOf (actPre 0 wTile.dev) (3 : Eng) (2 : BitVec 22).toNat = none
      ∨ (getFur (actPre 0 wTile.dev) (3 : Eng)).asked.contains (2 : BitVec 22).toNat = true) ∧ (memHolds (actPre 0 wTile.dev) (tileAddr (actPre 0
      wTile.dev) (3 : Eng) (2 : BitVec 22).toNat) 4096 = false) ∧ ((tileAddr (actPre 0 wTile.dev) 3 2 : Nat) = tileAddr (actPre 0 wTile.dev) (3 : Eng)
      (2 : BitVec 22).toNat) ∧ ((false : Bool) = (getFur (actPre 0 wTile.dev) (3 : Eng)).asked.contains (2 : BitVec 22).toNat) ∧ ((true : Bool) =
      ((true : Bool) || !(if (false : Bool) then rangeServed (actPre 0 wTile.dev) (tileAddr (actPre 0 wTile.dev) 3 2 : Nat) 4096 else rangeGood
      (actPre 0 wTile.dev) (tileAddr (actPre 0 wTile.dev) 3 2 : Nat) 4096))) ∧ (({ cause := 7, rows := 0, next := 3, runs := [] } : Tile) = (if (true
      : Bool) then { cause := 7, rows := 0, next := (2 : BitVec 22).toNat + 1, runs := [] } else tileParse (getFur (actPre 0 wTile.dev) (3 :
      Eng)).slots.length (2 : BitVec 22).toNat (memBytes (actPre 0 wTile.dev) (tileAddr (actPre 0 wTile.dev) 3 2 : Nat) 4096)))) ∧
    ((liveAll.dev.aon = true) ∧ (isGenOff (0x800 : BitVec 12).toNat = true) ∧ ((0x800 : BitVec 12).toNat < 0xA00) ∧ (accepts (actPre 0 liveAll.dev)
      (fa (3 : Eng) (0x800 : BitVec 12).toNat) = true) ∧ (genWriteErr (actPre 0 liveAll.dev) (3 : Eng) (0x800 : BitVec 12).toNat (5 : Word).toNat =
      0)) ∧
    ((liveAll.dev.aon = true) ∧ (isGenOff (0xA00 : BitVec 12).toNat = true) ∧ (0xA00 ≤ (0xA00 : BitVec 12).toNat) ∧ (accepts (actPre 0 liveAll.dev)
      (fa (3 : Eng) (0xA00 : BitVec 12).toNat) = true) ∧ (genWriteErr (actPre 0 liveAll.dev) (3 : Eng) (0xA00 : BitVec 12).toNat (0 : Word).toNat =
      0)) := by
  refine ⟨?_, ?_, ?_, ?_, ?_, ?_, ?_, ?_, ?_, ?_, ?_, ?_, ?_, ?_⟩ <;> decide +kernel

theorem met_LaneCommandsAct :
    ((liveAll.dev.aon = true) ∧ (domOn (actPre 0 liveAll.dev) (4 + (70 : LaneId) / 64) = true) ∧ ((5 : Nat) = nowVs (actPre 0 liveAll.dev) + (5 :
      BitVec 10).toNat) ∧ ((senseAll 5 (actPre 0 liveAll.dev) : Dev) = senseAll (5 : Nat) (actPre 0 liveAll.dev))) ∧
    ((wOpen.dev.aon = true) ∧ (openCounted (actPre 0 wOpen.dev) ((70 : LaneId) / 64) = true) ∧ (domOn (actPre 0 wOpen.dev) (4 + (70 : LaneId) / 64) =
      true)) ∧
    ((liveAll.dev.aon = true) ∧ (domOn (actPre 0 liveAll.dev) (4 + (70 : LaneId) / 64) = true)) ∧
    ((liveAll.dev.aon = true) ∧ (accepts (actPre 0 liveAll.dev) (laneCfg (70 : LaneId)) = true) ∧ (ownErr (actPre 0 liveAll.dev) (70 : LaneId) (bits
      (3 : Word).toNat 0 7) (bit (3 : Word).toNat 8) = 0)) ∧
    ((liveAll.dev.aon = true) ∧ (domOn (actPre 0 liveAll.dev) (4 + (70 : LaneId) / 64) = true)) ∧
    ((liveAll.dev.aon = true) ∧ (accepts (actPre 0 liveAll.dev) (A (cfgPage (1 : Bank)) 0x84) = true) ∧ ((0x80050000 : Nat) = (0x050000 : Word).toNat
      ||| 0x80000000) ∧ ((0 : Nat) = bits (0x80050000 : Nat) 24 1) ∧ ((69 : Nat) = 64 * (1 : Bank) + bits (0x80050000 : Nat) 16 6) ∧ (mapRefused
      (actPre 0 liveAll.dev) (1 : Bank) (0 : Nat) (69 : Nat) = false)) ∧
    ((wSpare.dev.aon = true) ∧ (accepts (actPre 0 wSpare.dev) (A (cfgPage (1 : Bank)) 0x84) = true) ∧ ((0x40000000 : Nat) = putBits (0 : Word).toNat
      30 2 1) ∧ ((0 : Nat) = bits (0x40000000 : Nat) 24 1) ∧ (spareUsed (actPre 0 wSpare.dev) (1 : Bank) (0 : Nat) = true) ∧ (furStopped (actPre 0
      wSpare.dev) (owner (actPre 0 wSpare.dev) (spareLane (actPre 0 wSpare.dev) (1 : Bank) (0 : Nat))) = true) ∧ (spareUsed (plainWrite (A (cfgPage (1
      : Bank)) 0x84) (0x40000000 : Nat) (actPre 0 wSpare.dev)) (1 : Bank) (0 : Nat) = true)) := by
  refine ⟨?_, ?_, ?_, ?_, ?_, ?_, ?_⟩ <;> decide +kernel

theorem met_FrontEndCommandsAreTaken :
    ((wFec.dev.aon = true) ∧ (accepts (actPre 0 wFec.dev) (A (fecPage (1 : Bank)) 0x84) = true) ∧ (fecTakes (actPre 0 wFec.dev) (1 : Bank) = true) ∧
      (fbit (actPre 0 wFec.dev) (A (fecPage (1 : Bank)) 0x80) (2 : BitVec 3).toNat = true) ∧ ((getFec (actPre 0 wFec.dev) (1 : Bank)).imm.length <
      64)) ∧
    ((wFec.dev.aon = true) ∧ (accepts (actPre 0 wFec.dev) (A (fecPage (1 : Bank)) 0x84) = true) ∧ (fecTakes (actPre 0 wFec.dev) (1 : Bank) = true) ∧
      (fbit (actPre 0 wFec.dev) (A (fecPage (1 : Bank)) 0x80) (2 : BitVec 3).toNat = true) ∧ ((getFec (actPre 0 wFec.dev) (1 : Bank)).imm.length <
      64)) ∧
    ((wFec.dev.aon = true) ∧ (accepts (actPre 0 wFec.dev) (A (fecPage (1 : Bank)) 0x84) = true) ∧ (fecTakes (actPre 0 wFec.dev) (1 : Bank) = true) ∧
      (fbit (actPre 0 wFec.dev) (A (fecPage (1 : Bank)) 0x80) (2 : BitVec 3).toNat = true) ∧ ((getFec (actPre 0 wFec.dev) (1 : Bank)).imm.length <
      64)) ∧
    ((wFec.dev.aon = true) ∧ (accepts (actPre 0 wFec.dev) (A (fecPage (1 : Bank)) 0x84) = true) ∧ (fecTakes (actPre 0 wFec.dev) (1 : Bank) = true) ∧
      ((getFec (actPre 0 wFec.dev) (1 : Bank)).imm.length < 64)) ∧
    ((wFec.dev.aon = true) ∧ (accepts (actPre 0 wFec.dev) (A (fecPage (1 : Bank)) 0x84) = true) ∧ (fecTakes (actPre 0 wFec.dev) (1 : Bank) = true) ∧
      (fbit (actPre 0 wFec.dev) (A (fecPage (1 : Bank)) 0x80) (2 : BitVec 3).toNat = true) ∧
      (({ chip := 2, kind := 1, addr := 5, data := 7, src := 0 } : FecCmd) =
      { chip := (2 : BitVec 3).toNat, kind := 1, addr := (5 : BitVec 10).toNat, data := (7 : BitVec 16).toNat, src := 0 }) ∧ ((List.range 8).any (fun
      n => decide (armedFor ((getFec (actPre 0 wFec.dev) (1 : Bank)).opn ++ [({ chip := 2, kind := 1, addr := 5, data := 7, src := 0 } : FecCmd)]) n >
      16)) = false)) ∧
    ((wFec.dev.aon = true) ∧ (accepts (actPre 0 wFec.dev) (A (fecPage (1 : Bank)) 0x84) = true) ∧ (fecTakes (actPre 0 wFec.dev) (1 : Bank) = true) ∧
      (({ chip := 0, kind := 5, addr := 5, data := 7, src := 0 } : FecCmd) =
      { chip := 0, kind := 5, addr := (5 : BitVec 10).toNat, data := (7 : BitVec 16).toNat, src := 0 }) ∧ ((List.range 8).any (fun n => decide
      (armedFor ((getFec (actPre 0 wFec.dev) (1 : Bank)).opn ++ [({ chip := 0, kind := 5, addr := 5, data := 7, src := 0 } : FecCmd)]) n > 16)) =
      false)) ∧
    ((wFec.dev.aon = true) ∧ (accepts (actPre 0 wFec.dev) (A (fecPage (1 : Bank)) 0x8C) = true) ∧ (fecTakes (actPre 0 wFec.dev) (1 : Bank) = true) ∧
      ((0xA0030000 : Nat) = putBits ((0x20030000 : Word).toNat ||| 0x80000000) 27 1 0) ∧ (groupTarget (actPre 0 wFec.dev) (1 : Bank) (0xA0030000 :
      Nat) = some ((.furrow 3 : GrpTarget), (none : Option Nat))) ∧ ((getFec (actPre 0 wFec.dev) (1 : Bank)).groups.length < 8)) ∧
    ((wFec.dev.aon = true) ∧ (accepts (actPre 0 wFec.dev) (A (fecPage (1 : Bank)) 0x8C) = true)) ∧
    ((wFec.dev.aon = true) ∧ (readable (actPre 0 wFec.dev) (A (fecPage (1 : Bank)) 0x88) = true) ∧ ((actPre 0 wFec.dev).frozen.contains (fecPage (1 :
      Bank)) = false)) ∧
    ((wFec.dev.aon = true) ∧ ((1 : Nat) = fget (actPre 0 wFec.dev) (A (fecPage (1 : Bank)) 0x80) 16 8) ∧ ((1 : Nat) ≠ 0) ∧ (fecTakes (actPre 0
      wFec.dev) (1 : Bank) = true) ∧ ((getFec (actPre 0 wFec.dev) (1 : Bank)).nextPoll ≤ now (actPre 0 wFec.dev)) ∧ ((addPoll 1 2 (actPre 0 wFec.dev)
      : Dev) = forAll ((List.range 8).filter fun n => fbit (actPre 0 wFec.dev) (A (fecPage (1 : Bank)) 0x80) n) (addPoll (1 : Bank)) (actPre 0
      wFec.dev))) := by
  refine ⟨?_, ?_, ?_, ?_, ?_, ?_, ?_, ?_, ?_, ?_⟩ <;> decide +kernel

theorem met_FrontEndBusEventsAct :
    ((wFecImm.dev.aon = true) ∧ (pageOn (actPre 0 wFecImm.dev) (fecPage (1 : Bank)) = true) ∧ (blkActive (actPre 0 wFecImm.dev) (fecPage (1 : Bank)) =
      true) ∧ ((getFec (actPre 0 wFecImm.dev) (1 : Bank)).resetAt = none) ∧ ((launchFrom (nowVs (actPre 0 wFecImm.dev)) : Nat) = max (getFec (actPre 0
      wFecImm.dev) (1 : Bank)).freeAt (launchFrom (nowVs (actPre 0 wFecImm.dev)))) ∧ (fckFall ((launchFrom (nowVs (actPre 0 wFecImm.dev)) : Nat) - 1)
      < nowVs (actPre 0 wFecImm.dev) + 1024) ∧ (pickFrame (getFec (actPre 0 wFecImm.dev) (1 : Bank)) (launchFrom (nowVs (actPre 0 wFecImm.dev)) : Nat)
      (fckFall ((launchFrom (nowVs (actPre 0 wFecImm.dev)) : Nat) + 47) / 1024) = some (({ chip := 2, kind := 2, addr := 5, data := 0, src := 0 } :
      FecCmd), ({} : FecBus)))) ∧
    ((wFecOut.dev.aon = true) ∧ ((getFec (actPre 0 wFecOut.dev) (1 : Bank)).outs = ((cmdT : FecCmd), (0 : Nat)) :: ([] : List (FecCmd × Nat))) ∧
      (fckRise ((0 : Nat) + 47 + (2 : BitVec 5).toNat + 38) + fget (actPre 0 wFecOut.dev) (A (fecPage (1 : Bank)) 0x80) 12 4 * 1024 < nowVs (actPre 0
      wFecOut.dev) + 1024) ∧ (bit (rspT : BitVec 39).toNat 38 = true) ∧ (2 ≤ (2 : BitVec 5).toNat) ∧ ((2 : BitVec 5).toNat ≤ 8) ∧ (crc8 30 (bits (rspT
      : BitVec 39).toNat 8 30) = bits (rspT : BitVec 39).toNat 0 8) ∧ (bits (rspT : BitVec 39).toNat 35 3 = (cmdT : FecCmd).chip) ∧ (bits (rspT :
      BitVec 39).toNat 24 7 = (cmdT : FecCmd).seqno)) ∧
    ((wFecOut.dev.aon = true) ∧ ((getFec (actPre 0 wFecOut.dev) (1 : Bank)).outs = ((cmdT : FecCmd), (0 : Nat)) :: ([] : List (FecCmd × Nat))) ∧
      (fckRise ((0 : Nat) + 47 + (2 : BitVec 5).toNat + 38) + fget (actPre 0 wFecOut.dev) (A (fecPage (1 : Bank)) 0x80) 12 4 * 1024 < nowVs (actPre 0
      wFecOut.dev) + 1024) ∧ (bit (2 ^ 38 + 1 : BitVec 39).toNat 38 = true) ∧ (2 ≤ (2 : BitVec 5).toNat) ∧ ((2 : BitVec 5).toNat ≤ 8) ∧ (crc8 30 (bits
      (2 ^ 38 + 1 : BitVec 39).toNat 8 30) ≠ bits (2 ^ 38 + 1 : BitVec 39).toNat 0 8 ∨ bits (2 ^ 38 + 1 : BitVec 39).toNat 35 3 ≠ (cmdT : FecCmd).chip
      ∨ bits (2 ^ 38 + 1 : BitVec 39).toNat 24 7 ≠ (cmdT : FecCmd).seqno)) ∧
    ((wFecOut.dev.aon = true) ∧ ((getFec (actPre 0 wFecOut.dev) (1 : Bank)).outs = ((cmdT : FecCmd), (0 : Nat)) :: ([] : List (FecCmd × Nat))) ∧
      (fckRise ((0 : Nat) + 47 + (9 : BitVec 5).toNat + 38) + fget (actPre 0 wFecOut.dev) (A (fecPage (1 : Bank)) 0x80) 12 4 * 1024 < nowVs (actPre 0
      wFecOut.dev) + 1024) ∧ (bit (0 : BitVec 39).toNat 38 = false ∨ (9 : BitVec 5).toNat < 2 ∨ 8 < (9 : BitVec 5).toNat)) ∧
    ((wFecOut.dev.aon = true) ∧ ((getFec (actPre 0 wFecOut.dev) (1 : Bank)).outs = ((cmdT : FecCmd), (0 : Nat)) :: ([] : List (FecCmd × Nat))) ∧
      (fckRise ((0 : Nat) + 55) + fget (actPre 0 wFecOut.dev) (A (fecPage (1 : Bank)) 0x80) 12 4 * 1024 < nowVs (actPre 0 wFecOut.dev) + 1024)) ∧
    ((wFecGrp.dev.aon = true) ∧ ((checkDone 1 (actPre 0 wFecGrp.dev) : Dev) = checkDone (1 : Bank) (actPre 0 wFecGrp.dev)) ∧ ((getFec (checkDone 1
      (actPre 0 wFecGrp.dev) : Dev) (1 : Bank)).groups = (grpT : Group) :: ([] : List Group)) ∧ ((getFec (checkDone 1 (actPre 0 wFecGrp.dev) : Dev) (1
      : Bank)).resetAt = none) ∧ (blkActive (checkDone 1 (actPre 0 wFecGrp.dev) : Dev) (fecPage (1 : Bank)) = true) ∧ (applyEdge (checkDone 1 (actPre
      0 wFecGrp.dev) : Dev) (1 : Bank) (grpT : Group) = some ((10 : Nat), none)) ∧ (fckFall ((10 : Nat) - 1) < nowVs (checkDone 1 (actPre 0
      wFecGrp.dev) : Dev) + 1024) ∧ ((ampRefill 1 (checkDone 1 (irqSet (fecPage 1) 0x10 (putFec 1
      { getFec (checkDone 1 (actPre 0 wFecGrp.dev)) 1 with groups := [], syncAt := 12, grpAt := 11 } (emit (.fapply 1 65536) (checkDone 1 (actPre 0
      wFecGrp.dev)))))) : Dev) = ampRefill (1 : Bank) (checkDone (1 : Bank) (irqSet (fecPage (1 : Bank)) 0x10 (putFec (1 : Bank)
      { getFec (checkDone 1 (actPre 0 wFecGrp.dev) : Dev) (1 : Bank) with groups := ([] : List Group), syncAt := (10 : Nat) + 2, grpAt := (10 : Nat) + 1 }
      (emit (.fapply (1 : Bank) (fckRise (10 : Nat))) (checkDone 1 (actPre 0 wFecGrp.dev) : Dev))))))) ∧
    ((wFecLate.dev.aon = true) ∧ ((checkDone 1 (actPre 0 wFecLate.dev) : Dev) = checkDone (1 : Bank) (actPre 0 wFecLate.dev)) ∧ ((getFec (checkDone 1
      (actPre 0 wFecLate.dev) : Dev) (1 : Bank)).groups = ({ grpT with time := some 1024, done := some 64 } : Group) :: ([] : List Group)) ∧ ((getFec
      (checkDone 1 (actPre 0 wFecLate.dev) : Dev) (1 : Bank)).resetAt = none) ∧ (blkActive (checkDone 1 (actPre 0 wFecLate.dev) : Dev) (fecPage (1 :
      Bank)) = true) ∧ (applyEdge (checkDone 1 (actPre 0 wFecLate.dev) : Dev) (1 : Bank) ({ grpT with time := some 1024, done := some 64 } : Group) =
      some ((11 : Nat), some (1024 : Nat))) ∧ (fckFall ((11 : Nat) - 1) < nowVs (checkDone 1 (actPre 0 wFecLate.dev) : Dev) + 1024) ∧ ((putFec 1
      { getFec (checkDone 1 (actPre 0 wFecLate.dev)) 1 with groups := [], syncAt := 13, grpAt := 12 } (emit (.fapply 1 72090) (checkDone 1 (actPre 0
      wFecLate.dev))) : Dev) = putFec (1 : Bank)
      { getFec (checkDone 1 (actPre 0 wFecLate.dev) : Dev) (1 : Bank) with groups := ([] : List Group), syncAt := (11 : Nat) + 2, grpAt := (11 : Nat) + 1 }
      (emit (.fapply (1 : Bank) (fckRise (11 : Nat))) (checkDone 1 (actPre 0 wFecLate.dev) : Dev))) ∧ ((ampRefill 1 (checkDone 1 (irqSet (fecPage 1)
      0x10 (irqSet (fecPage 1) 2 (hit (A (fecPage 1) 0x98) 31 (wrN (A (fecPage 1) 0x9C) 70 (putFec 1
      { getFec (checkDone 1 (actPre 0 wFecLate.dev)) 1 with groups := [], syncAt := 13, grpAt := 12 } (emit (.fapply 1 72090) (checkDone 1 (actPre 0
      wFecLate.dev))))))))) : Dev) = ampRefill (1 : Bank) (checkDone (1 : Bank) (irqSet (fecPage (1 : Bank)) 0x10 (irqSet (fecPage (1 : Bank)) 2 (hit
      (A (fecPage (1 : Bank)) 0x98) 31 (wrN (A (fecPage (1 : Bank)) 0x9C) (sat (cdiv (fckRise (11 : Nat) + fget (putFec 1
      { getFec (checkDone 1 (actPre 0 wFecLate.dev)) 1 with groups := [], syncAt := 13, grpAt := 12 } (emit (.fapply 1 72090) (checkDone 1 (actPre 0
      wFecLate.dev))) : Dev) (A (fecPage (1 : Bank)) 0x80) 24 7 * 128 - (1024 : Nat)) 1024) m32) (putFec 1
      { getFec (checkDone 1 (actPre 0 wFecLate.dev)) 1 with groups := [], syncAt := 13, grpAt := 12 } (emit (.fapply 1 72090) (checkDone 1 (actPre 0
      wFecLate.dev))) : Dev)))))))) ∧
    ((wFecRst.dev.aon = true) ∧ ((getFec (actPre 0 wFecRst.dev) (1 : Bank)).resetAt = some (0 : Nat)) ∧ ((launchFrom (nowVs (actPre 0 wFecRst.dev)) :
      Nat) = max ((0 : Nat) + 16) (launchFrom (nowVs (actPre 0 wFecRst.dev)))) ∧ (fckFall ((launchFrom (nowVs (actPre 0 wFecRst.dev)) : Nat) - 1) <
      nowVs (actPre 0 wFecRst.dev) + 1024)) := by
  refine ⟨?_, ?_, ?_, ?_, ?_, ?_, ?_, ?_⟩ <;> decide +kernel

theorem met_TimingAndCalibrationCommandsAct :
    ((wPer.dev.aon = true) ∧ (accepts (actPre 0 wPer.dev) (perNAddr (3 : Eng) (2 : Fin 128)) = true) ∧ ((7 : Word).toNat ≠ 0) ∧ ((getPath (actPre 0
      wPer.dev) (.host : Path)).per = some ((3 : Eng).val, (2 : Fin 128).val, (5 : Word)))) ∧
    ((wPer.dev.aon = true) ∧ (accepts (actPre 0 wPer.dev) (perNAddr (3 : Eng) (3 : Fin 128)) = true) ∧ ((7 : Word).toNat ≠ 0) ∧ ((getPath (actPre 0
      wPer.dev) (.host : Path)).per.all (fun x => decide (x.1 ≠ (3 : Eng).val ∨ x.2.1 ≠ (3 : Fin 128).val)) = true)) ∧
    ((liveAll.dev.aon = true) ∧ (accepts (actPre 0 liveAll.dev) (perNAddr (3 : Eng) (2 : Fin 128) + 4) = true)) ∧
    ((liveAll.dev.aon = true) ∧ (accepts (actPre 0 liveAll.dev) (tsFmtAddr (1 : Bank) (2 : Fin 128) + 4 + 4 * (3 : Fin 6)) = true)) ∧
    ((liveAll.dev.aon = true) ∧ (accepts (actPre 0 liveAll.dev) (tsFmtAddr (1 : Bank) (2 : Fin 128)) = true) ∧ (tsErr (bits (0 : Word).toNat 0 3)
      (bits (0 : Word).toNat 6 2) (fun i => (edgeAfter (actPre 0 liveAll.dev) (stagedEdges (actPre 0 liveAll.dev) (.host : Path) (1 : Bank) (2 : Fin
      128)) (64 * (1 : Bank) + fget (actPre 0 liveAll.dev) (A (tsPage (1 : Bank)) 0x80) 0 6) (2 : Fin 128) i).toNat) = 0)) ∧
    ((liveAll.dev.aon = true) ∧ (accepts (actPre 0 liveAll.dev) (dskAddr (70 : LaneId)) = true) ∧ (adjOk (planeDly (actPre 0 liveAll.dev)) (0 :
      Word).toNat (rdN (actPre 0 liveAll.dev) (rpoAddr (70 : LaneId))) = true)) ∧
    ((liveAll.dev.aon = true) ∧ (accepts (actPre 0 liveAll.dev) (rpoAddr (70 : LaneId)) = true) ∧ (adjOk (planeDly (actPre 0 liveAll.dev)) (rdN
      (actPre 0 liveAll.dev) (dskAddr (70 : LaneId))) (0 : Word).toNat = true)) ∧
    ((liveAll.dev.aon = true) ∧ (accepts (actPre 0 liveAll.dev) (A 1 0xC0) = true) ∧ (((actPre 0 liveAll.dev) : Dev) = onlyIf (bit (4096 : Word).toNat
      31) (clrHit (A 1 0xC0) 31) (actPre 0 liveAll.dev)) ∧ ((List.range 512).any (fun l => domOn ((actPre 0 liveAll.dev) : Dev) (4 + l / 64) && !adjOk
      (bits (4096 : Word).toNat 0 14) (rdN ((actPre 0 liveAll.dev) : Dev) (dskAddr l)) (rdN ((actPre 0 liveAll.dev) : Dev) (rpoAddr l))) = false) ∧
      ((List.range 16).filter (fun i => !markOk (bits (4096 : Word).toNat 0 14) (fget ((actPre 0 liveAll.dev) : Dev) (A (0x160 + i) 0x108) 0 14)) =
      [])) ∧
    ((liveAll.dev.aon = true) ∧ (accepts (actPre 0 liveAll.dev) (A (calPage (1 : Bank)) 0x90) = true) ∧ (blkDraining (actPre 0 liveAll.dev) (calPage
      (1 : Bank)) = false) ∧ ((0x80040000 : Nat) = (0x40000 : Word).toNat ||| 0x80000000) ∧ ((0 : Nat) = bits (0x80040000 : Nat) 24 4) ∧ (([] : List
      Nat) = dskLanes (actPre 0 liveAll.dev) (1 : Bank)) ∧ (([] : List Nat).any (fun l => owner (actPre 0 liveAll.dev) l != 0x7F) = false) ∧
      (blkActive (actPre 0 liveAll.dev) (0x140 + (0 : Nat)) = false) ∧ (fbit (actPre 0 liveAll.dev) (A (calPage (1 : Bank)) 0x84) 28 = false) ∧ (4 ≤
      bits (0x80040000 : Nat) 16 4) ∧ (bits (0x80040000 : Nat) 16 4 ≤ 12) ∧ ((wr64 (A (calPage 1) 0x9C) 0 (fset (A (calPage 1) 0x84) 28 1 1
      (plainWrite (A (calPage 1) 0x90) 0x80040000 (actPre 0 liveAll.dev))) : Dev) = wr64 (A (calPage (1 : Bank)) 0x9C) 0 (fset (A (calPage (1 : Bank))
      0x84) 28 1 1 (plainWrite (A (calPage (1 : Bank)) 0x90) (0x80040000 : Nat) (actPre 0 liveAll.dev))))) ∧
    ((wDsk.dev.aon = true) ∧ ((getCal (actPre 0 wDsk.dev) (1 : Bank)).dsk = some ({ tim := 2, n := 1, loop := 0, mask := [], todo := [], start := 0 }
      : Dsk)) ∧ (({ tim := 2, n := 1, loop := 0, mask := [], todo := [], start := 0 } : Dsk).todo = [])) ∧
    ((wBg.dev.aon = true) ∧ (fbit (actPre 0 wBg.dev) (A (calPage (1 : Bank)) 0x80) 31 = true) ∧ (domOn (actPre 0 wBg.dev) (4 + (1 : Bank)) = true) ∧
      (blkReady (actPre 0 wBg.dev) (cfgPage (1 : Bank)) = true) ∧ ((getCal (actPre 0 wBg.dev) (1 : Bank)).lastBg.all (fun t => decide (t + 102400 ≤
      now (actPre 0 wBg.dev))) = true)) ∧
    ((wSwap.dev.aon = true) ∧ (({ ready := [5] } : CalSt) = getCal (actPre 0 wSwap.dev) (1 : Bank)) ∧ (({ ready := [5] } : CalSt).lastSwap.all (fun u
      => decide (u + 1600 ≤ now (actPre 0 wSwap.dev))) = true) ∧ (fbit (actPre 0 wSwap.dev) (A (calPage (1 : Bank)) 0x80) 31 = true) ∧ (domOn (actPre
      0 wSwap.dev) (4 + (1 : Bank)) = true) ∧ (swapWaits (actPre 0 wSwap.dev) (1 : Bank) (5 : Fin 66) = false) ∧ ((true : Bool) = (({ ready := [5] } :
      CalSt).ready.contains (5 : Fin 66).toNat && !fbit (actPre 0 wSwap.dev) (A (calPage (1 : Bank)) 0x80) 30 && !swapMoves (actPre 0 wSwap.dev) (1 :
      Bank) (5 : Fin 66) && driftStep (fget (actPre 0 wSwap.dev) (A (calPage (1 : Bank)) 0x8C) 0 16) (0 : BitVec 16).toNat)) ∧ ((swapMoves (actPre 0
      wSwap.dev) (1 : Bank) (5 : Fin 66) || (true : Bool)) = true) ∧ ((setCal 1
      { lastSwap := some (now (actPre 0 wSwap.dev)), swapped := [5], swaps := [(5, 1)], ready := [] } (actPre 0 wSwap.dev) : Dev) = setCal (1 : Bank)
      { ({ ready := [5] } : CalSt) with lastSwap := some (now (actPre 0 wSwap.dev)), swapped := [(5 : Fin 66).toNat], swaps := mset (fun _ => 0) (5 : Fin 66).toNat (mget (fun _ => 0) ({ ready := [5] } : CalSt).swaps (5 : Fin 66) + 1) ({ ready := [5] } : CalSt).swaps, swapRow := swapRows (actPre 0 wSwap.dev) (1 : Bank) (5 : Fin 66), ready := if (true : Bool) && (0 : BitVec 16).toNat = 0 then ({ ready := [5] } : CalSt).ready.filter (· != (5 : Fin 66).toNat) else ({ ready := [5] } : CalSt).ready }
      (actPre 0 wSwap.dev))) := by
  refine ⟨?_, ?_, ?_, ?_, ?_, ?_, ?_, ?_, ?_, ?_, ?_, ?_⟩ <;> decide +kernel

theorem met_ReflexCommandsAct :
    ((wHold.dev.aon = true) ∧ ((holdT : Hold) = getHold (actPre 0 wHold.dev) (16 * (1 : Bank).toNat + (2 : Fin 16).toNat)) ∧ ((holdT : Hold).active =
      true) ∧ ((holdT : Hold).begun = false) ∧ ((holdT : Hold).start ≤ now (actPre 0 wHold.dev)) ∧ (holdOver (holdT : Hold) (holdT : Hold).start =
      false)) ∧
    ((wHoldEnd.dev.aon = true) ∧ (({ holdT with begun := true, endAt := some 0 } : Hold) = getHold (actPre 0 wHoldEnd.dev) (16 * (1 : Bank).toNat + (2
      : Fin 16).toNat)) ∧ (holdEnd ({ holdT with begun := true, endAt := some 0 } : Hold) = some (0 : Nat)) ∧
      (({ holdT with begun := true, endAt := some 0 } : Hold).active = true) ∧ ((0 : Nat) ≤ now (actPre 0 wHoldEnd.dev)) ∧
      (({ holdT with begun := true, endAt := some 0 } : Hold).begun = true ∨ (0 : Nat) ≤ ({ holdT with begun := true, endAt := some 0 } :
      Hold).start)) ∧
    ((liveAll.dev.aon = true) ∧ (accepts (actPre 0 liveAll.dev) (A (rfxPage (1 : Bank)) 0x8C) = true)) ∧
    ((liveAll.dev.aon = true) ∧ (accepts (actPre 0 liveAll.dev) (rfxCfg (1 : Bank) (2 : Fin 16)) = true) ∧ ((5 : Nat) = (5 : Word).toNat &&&
      0xFF00003F) ∧ (fbit (actPre 0 liveAll.dev) (rfxCfg (1 : Bank) (2 : Fin 16)) 31 = false) ∧ (bit (5 : Word).toNat 31 = false)) ∧
    ((liveAll.dev.aon = true) ∧ (accepts (actPre 0 liveAll.dev) (rfxCfg (1 : Bank) (2 : Fin 16)) = true) ∧ ((0x80000005 : Nat) = (0x80000005 :
      Word).toNat &&& 0xFF00003F) ∧ (fbit (actPre 0 liveAll.dev) (rfxCfg (1 : Bank) (2 : Fin 16)) 31 = false) ∧ (bit (0x80000005 : Word).toNat 31 =
      true) ∧ (bits (0x80000005 : Word).toNat 28 2 ≠ 3) ∧ (bits (0x80000005 : Word).toNat 26 2 ≠ 3) ∧ (bits (0x80000005 : Word).toNat 28 2 = 1 → rdN
      (actPre 0 liveAll.dev) (rfxCfg (1 : Bank) (2 : Fin 16) + 4) ≠ 0)) ∧
    ((wRfxOn.dev.aon = true) ∧ (accepts (actPre 0 wRfxOn.dev) (rfxCfg (1 : Bank) (2 : Fin 16)) = true) ∧ (fbit (actPre 0 wRfxOn.dev) (rfxCfg (1 :
      Bank) (2 : Fin 16)) 31 = true) ∧ (((5 : Word).toNat &&& 0xFF00003F) % 2 ^ 31 = rdN (actPre 0 wRfxOn.dev) (rfxCfg (1 : Bank) (2 : Fin 16)) % 2 ^
      31) ∧ (bit (5 : Word).toNat 31 = false)) ∧
    ((liveAll.dev.aon = true) ∧ (accepts (actPre 0 liveAll.dev) (rfxRegAddr (1 : Bank) (2 : Fin 16) .hold) = true) ∧ (fbit (actPre 0 liveAll.dev)
      (rfxCfg (1 : Bank) (2 : Fin 16)) 31 = false)) ∧
    ((liveAll.dev.aon = true) ∧ (accepts (actPre 0 liveAll.dev) (rfxRegAddr (1 : Bank) (2 : Fin 16) .maskLo) = true) ∧ (fbit (actPre 0 liveAll.dev)
      (rfxCfg (1 : Bank) (2 : Fin 16)) 31 = false)) ∧
    ((liveAll.dev.aon = true) ∧ (accepts (actPre 0 liveAll.dev) (rfxRegAddr (1 : Bank) (2 : Fin 16) .maskHi) = true) ∧ (fbit (actPre 0 liveAll.dev)
      (rfxCfg (1 : Bank) (2 : Fin 16)) 31 = false)) := by
  refine ⟨?_, ?_, ?_, ?_, ?_, ?_, ?_, ?_, ?_⟩ <;> decide +kernel

theorem met_GleanerCommandsAct :
    ((wTake.dev.aon = true) ∧ ((caughtUp 3 (actPre 0 wTake.dev) : Dev) = caughtUp (3 : Fin 64) (actPre 0 wTake.dev)) ∧ (engOf (caughtUp 3 (actPre 0
      wTake.dev) : Dev) (3 : Fin 64) = some (3 : Nat)) ∧ ((getFur (caughtUp 3 (actPre 0 wTake.dev) : Dev) (3 : Nat)).issued.find? (fun z => z.k ==
      (getFur (caughtUp 3 (actPre 0 wTake.dev) : Dev) (3 : Nat)).taken) = some (rowT : Row)) ∧ ((rowT : Row).flagged = true) ∧ ((rowT : Row).flagT <
      nextMcVs (caughtUp 3 (actPre 0 wTake.dev) : Dev)) ∧ (glnOn (caughtUp 3 (actPre 0 wTake.dev) : Dev) (3 : Fin 64) = true) ∧ ((markEarly 3 (rowT).k
      (setSl 3 { getSl (caughtUp 3 (actPre 0 wTake.dev)) 3 with marks := keepMarks (caughtUp 3 (actPre 0 wTake.dev)) 3 rowT } (caughtUp 3 (actPre 0
      wTake.dev))) : Dev) = markEarly (3 : Nat) (rowT : Row).k (setSl (3 : Fin 64)
      { getSl (caughtUp 3 (actPre 0 wTake.dev) : Dev) (3 : Fin 64) with marks := keepMarks (caughtUp 3 (actPre 0 wTake.dev) : Dev) (3 : Fin 64) (rowT : Row) }
      (caughtUp 3 (actPre 0 wTake.dev) : Dev))) ∧ (((((getFur (markEarly 3 (rowT).k (setSl 3
      { getSl (caughtUp 3 (actPre 0 wTake.dev)) 3 with marks := keepMarks (caughtUp 3 (actPre 0 wTake.dev)) 3 rowT } (caughtUp 3 (actPre 0
      wTake.dev)))) 3).issued.find? fun z => z.k == (rowT).k).getD rowT) : Row) = ((getFur (markEarly 3 (rowT).k (setSl 3
      { getSl (caughtUp 3 (actPre 0 wTake.dev)) 3 with marks := keepMarks (caughtUp 3 (actPre 0 wTake.dev)) 3 rowT } (caughtUp 3 (actPre 0
      wTake.dev))) : Dev) (3 : Nat)).issued.find? fun z => z.k == (rowT : Row).k).getD (rowT : Row)) ∧ ((takeRowSl 3 3
      { (((getFur (markEarly 3 (rowT).k (setSl 3 { getSl (caughtUp 3 (actPre 0 wTake.dev)) 3 with marks := keepMarks (caughtUp 3 (actPre 0 wTake.dev)) 3 rowT } (caughtUp 3 (actPre 0 wTake.dev)))) 3).issued.find? fun z => z.k == (rowT).k).getD rowT) with tinv := rowTinv (markEarly 3 (rowT).k (setSl 3 { getSl (caughtUp 3 (actPre 0 wTake.dev)) 3 with marks := keepMarks (caughtUp 3 (actPre 0 wTake.dev)) 3 rowT } (caughtUp 3 (actPre 0 wTake.dev)))) 3 (((getFur (markEarly 3 (rowT).k (setSl 3 { getSl (caughtUp 3 (actPre 0 wTake.dev)) 3 with marks := keepMarks (caughtUp 3 (actPre 0 wTake.dev)) 3 rowT } (caughtUp 3 (actPre 0 wTake.dev)))) 3).issued.find? fun z => z.k == (rowT).k).getD rowT) }
      (markEarly 3 (rowT).k (setSl 3 { getSl (caughtUp 3 (actPre 0 wTake.dev)) 3 with marks := keepMarks (caughtUp 3 (actPre 0 wTake.dev)) 3 rowT }
      (caughtUp 3 (actPre 0 wTake.dev)))) : Dev) = takeRowSl (3 : Fin 64) (3 : Nat)
      { ((((getFur (markEarly 3 (rowT).k (setSl 3 { getSl (caughtUp 3 (actPre 0 wTake.dev)) 3 with marks := keepMarks (caughtUp 3 (actPre 0 wTake.dev)) 3 rowT } (caughtUp 3 (actPre 0 wTake.dev)))) 3).issued.find? fun z => z.k == (rowT).k).getD rowT) : Row) with tinv := rowTinv (markEarly 3 (rowT).k (setSl 3 { getSl (caughtUp 3 (actPre 0 wTake.dev)) 3 with marks := keepMarks (caughtUp 3 (actPre 0 wTake.dev)) 3 rowT } (caughtUp 3 (actPre 0 wTake.dev))) : Dev) (3 : Nat) ((((getFur (markEarly 3 (rowT).k (setSl 3 { getSl (caughtUp 3 (actPre 0 wTake.dev)) 3 with marks := keepMarks (caughtUp 3 (actPre 0 wTake.dev)) 3 rowT } (caughtUp 3 (actPre 0 wTake.dev)))) 3).issued.find? fun z => z.k == (rowT).k).getD rowT) : Row) }
      (markEarly 3 (rowT).k (setSl 3 { getSl (caughtUp 3 (actPre 0 wTake.dev)) 3 with marks := keepMarks (caughtUp 3 (actPre 0 wTake.dev)) 3 rowT }
      (caughtUp 3 (actPre 0 wTake.dev))) : Dev))) ∧
    ((wTakeOff.dev.aon = true) ∧ ((caughtUp 3 (actPre 0 wTakeOff.dev) : Dev) = caughtUp (3 : Fin 64) (actPre 0 wTakeOff.dev)) ∧ (engOf (caughtUp 3
      (actPre 0 wTakeOff.dev) : Dev) (3 : Fin 64) = some (3 : Nat)) ∧ ((getFur (caughtUp 3 (actPre 0 wTakeOff.dev) : Dev) (3 : Nat)).issued.find? (fun
      z => z.k == (getFur (caughtUp 3 (actPre 0 wTakeOff.dev) : Dev) (3 : Nat)).taken) = some (rowT : Row)) ∧ ((rowT : Row).flagged = true) ∧ ((rowT :
      Row).flagT < nextMcVs (caughtUp 3 (actPre 0 wTakeOff.dev) : Dev)) ∧ (glnOn (caughtUp 3 (actPre 0 wTakeOff.dev) : Dev) (3 : Fin 64) = false) ∧
      ((markEarly 3 (rowT).k (setSl 3
      { getSl (caughtUp 3 (actPre 0 wTakeOff.dev)) 3 with marks := keepMarks (caughtUp 3 (actPre 0 wTakeOff.dev)) 3 rowT } (caughtUp 3 (actPre 0
      wTakeOff.dev))) : Dev) = markEarly (3 : Nat) (rowT : Row).k (setSl (3 : Fin 64)
      { getSl (caughtUp 3 (actPre 0 wTakeOff.dev) : Dev) (3 : Fin 64) with marks := keepMarks (caughtUp 3 (actPre 0 wTakeOff.dev) : Dev) (3 : Fin 64) (rowT : Row) }
      (caughtUp 3 (actPre 0 wTakeOff.dev) : Dev))) ∧ ((inc64 (ga 3 0x60) 1 (markEarly 3 (rowT).k (setSl 3
      { getSl (caughtUp 3 (actPre 0 wTakeOff.dev)) 3 with marks := keepMarks (caughtUp 3 (actPre 0 wTakeOff.dev)) 3 rowT } (caughtUp 3 (actPre 0
      wTakeOff.dev)))) : Dev) = inc64 (ga (3 : Fin 64) 0x60) 1 (markEarly 3 (rowT).k (setSl 3
      { getSl (caughtUp 3 (actPre 0 wTakeOff.dev)) 3 with marks := keepMarks (caughtUp 3 (actPre 0 wTakeOff.dev)) 3 rowT } (caughtUp 3 (actPre 0
      wTakeOff.dev))) : Dev))) ∧
    ((wTrans.dev.aon = true) ∧ (openRec (getSl (actPre 0 wTrans.dev) (3 : Fin 64)) (1 : Fin 2) = some ({ base := 0, row := 0, ents := [] } : TRec)) ∧
      (bits (eff (actPre 0 wTrans.dev) (3 : Fin 64) 5) 0 20 ≠ 0) ∧ (({ base := 0, row := 0, ents := [] } : TRec).base + bits (eff (actPre 0
      wTrans.dev) (3 : Fin 64) 5) 0 20 ≤ now (actPre 0 wTrans.dev))) ∧
    ((wTrans.dev.aon = true) ∧ (([3] : List Nat) = ((actPre 0 wTrans.dev).gln.slices.filter fun x => !x.2.stage.isEmpty).map (·.1)) ∧ ((actPre 0
      wTrans.dev).gln.freeAt ≤ now (actPre 0 wTrans.dev)) ∧ (now (actPre 0 wTrans.dev) % 2 = 0) ∧ ((([3] : List Nat).filter (fun i => (actPre 0
      wTrans.dev).gln.next ≤ i) ++ ([3] : List Nat)).head? = some (3 : Nat))) ∧
    ((liveAll.dev.aon = true) ∧ (accepts (actPre 0 liveAll.dev) (sa (3 : Fin 64) (2 : Fin 4) 0) = true) ∧ ((0x80000000 : Nat) = (0 : Word).toNat |||
      0x80000000) ∧ (bits (0x80000000 : Nat) 27 3 < 5)) ∧
    ((liveAll.dev.aon = true) ∧ (accepts (actPre 0 liveAll.dev) (A (0x100 + (3 : Fin 16)) 0x900) = true) ∧ (fbit (actPre 0 liveAll.dev) (A (0x100 + (3
      : Fin 16)) 0x900) 31 = false)) ∧
    ((liveAll.dev.aon = true) ∧ (accepts (actPre 0 liveAll.dev) (A (0x100 + (3 : Fin 16)) 0x904) = true) ∧ (fbit (actPre 0 liveAll.dev) (A (0x100 + (3
      : Fin 16)) 0x900) 31 = false)) := by
  refine ⟨?_, ?_, ?_, ?_, ?_, ?_, ?_⟩ <;> decide +kernel

theorem met_JesLinkCommandsAct :
    ((wJes0.dev.aon = true) ∧ ((jesT : Jes) = getJes (actPre 0 wJes0.dev) (1 : Fin 4)) ∧ ((512 : Nat) = jf (jesT : Jes) 4 0 8 * lemc (jesT : Jes)) ∧
      (jesOn (actPre 0 wJes0.dev) (1 : Fin 4) = true) ∧ ((512 : Nat) ≠ 0) ∧ (now (actPre 0 wJes0.dev) % (512 : Nat) = 0) ∧ ((jesT : Jes).sysHigh.any
      (·.1 == now (actPre 0 wJes0.dev)) = false) ∧ (jf (jesT : Jes) 4 30 2 = 2 → (jesT : Jes).burst ≠ 0) ∧ ((doSysrefPulseEnd 1 (actPre 0 wJes0.dev) :
      Dev) = doSysrefPulseEnd (1 : Fin 4) (actPre 0 wJes0.dev)) ∧ ((jesT : Jes) = getJes (doSysrefPulseEnd 1 (actPre 0 wJes0.dev) : Dev) (1 : Fin 4))
      ∧ ((setJes 1 { jesT with sysHigh := some (0, jf jesT 4 8 8, jf jesT 5 0 13), burst := jesT.burst - 1 } (doSysrefPulseEnd 1 (actPre 0 wJes0.dev))
      : Dev) = setJes (1 : Fin 4)
      { (jesT : Jes) with sysHigh := some (now (doSysrefPulseEnd 1 (actPre 0 wJes0.dev) : Dev), now (doSysrefPulseEnd 1 (actPre 0 wJes0.dev) : Dev) + jf (jesT : Jes) 4 8 8, jf (jesT : Jes) 5 0 13), burst := (jesT : Jes).burst - 1 }
      (doSysrefPulseEnd 1 (actPre 0 wJes0.dev) : Dev))) ∧
    ((wJesHi.dev.aon = true) ∧ (({ jesT with sysHigh := some (0, 10, 0) } : Jes) = getJes (actPre 0 wJesHi.dev) (1 : Fin 4)) ∧
      (({ jesT with sysHigh := some (0, 10, 0) } : Jes).sysHigh = some ((0 : Nat), (10 : Nat), (0 : Nat))) ∧ ((10 : Nat) ≤ now (actPre 0 wJesHi.dev))) ∧
    ((wJes0.dev.aon = true) ∧ (jesOn (actPre 0 wJes0.dev) (1 : Fin 4) = true) ∧ (jesState (actPre 0 wJes0.dev) (1 : Fin 4) = 0)) ∧
    ((wJes1.dev.aon = true) ∧ (jesOn (actPre 0 wJes1.dev) (1 : Fin 4) = true) ∧ (jesState (actPre 0 wJes1.dev) (1 : Fin 4) = 1)) ∧
    ((wJes2.dev.aon = true) ∧ ((jesT : Jes) = getJes (actPre 0 wJes2.dev) (1 : Fin 4)) ∧ (jesOn (actPre 0 wJes2.dev) (1 : Fin 4) = true) ∧ (jesState
      (actPre 0 wJes2.dev) (1 : Fin 4) = 2) ∧ (jAlign (jesT : Jes) ≤ now (actPre 0 wJes2.dev)) ∧ ((0 : Nat) = now (actPre 0 wJes2.dev) - jAlign (jesT
      : Jes)) ∧ (lemc (jesT : Jes) ≠ 0) ∧ ((0 : Nat) % lemc (jesT : Jes) = 0) ∧ ((alignedT (actPre 0 wJes2.dev) : Dev) = forAll (jesT : Jes).elastic
      (mbAccept (1 : Fin 4)) (setJes (1 : Fin 4) { (jesT : Jes) with b0 := (0 : Nat), next := 0, elastic := [], blocks := [] } (wr64 (A (jesPage (1 :
      Fin 4)) 0xA4) (0 : Nat) (irqSet (jesPage (1 : Fin 4)) 1 (fset (A (jesPage (1 : Fin 4)) 0x98) 0 10 1023 (fset (A (jesPage (1 : Fin 4)) 0x98) 16 8
      (fget (actPre 0 wJes2.dev) (A (jesPage (1 : Fin 4)) 0x98) 16 8 + 1) (fset (A (jesPage (1 : Fin 4)) 0x98) 29 3 3 (actPre 0 wJes2.dev))))))))) ∧
    ((wJes2.dev.aon = true) ∧ ((jesT : Jes) = getJes (actPre 0 wJes2.dev) (1 : Fin 4)) ∧ (jesOn (actPre 0 wJes2.dev) (1 : Fin 4) = true) ∧
      ((List.replicate 128 0 : List (BitVec 16)).length = mbWords (jesT : Jes)) ∧ (jesState (actPre 0 wJes2.dev) (1 : Fin 4) = 2) ∧ ((true : Bool) =
      true ∨ (jesT : Jes).elastic ≠ [])) ∧
    ((wJes3.dev.aon = true) ∧ ((jesT : Jes) = getJes (actPre 0 wJes3.dev) (1 : Fin 4)) ∧ (jesOn (actPre 0 wJes3.dev) (1 : Fin 4) = true) ∧
      ((List.replicate 128 0 : List (BitVec 16)).length = mbWords (jesT : Jes)) ∧ (jesState (actPre 0 wJes3.dev) (1 : Fin 4) = 3) ∧ (now (actPre 0
      wJes3.dev) ≤ releaseMc (jesT : Jes) (mbLast (jesT : Jes) (jesT : Jes).next))) ∧
    ((wJesLate.dev.aon = true) ∧ ((jesT : Jes) = getJes (actPre 0 wJesLate.dev) (1 : Fin 4)) ∧ (jesOn (actPre 0 wJesLate.dev) (1 : Fin 4) = true) ∧
      ((List.replicate 128 0 : List (BitVec 16)).length = mbWords (jesT : Jes)) ∧ (jesState (actPre 0 wJesLate.dev) (1 : Fin 4) = 3) ∧ (releaseMc
      (jesT : Jes) (mbLast (jesT : Jes) (jesT : Jes).next) < now (actPre 0 wJesLate.dev))) ∧
    ((wJes3.dev.aon = true) ∧ (jesOn (actPre 0 wJes3.dev) (1 : Fin 4) = true) ∧ (jesState (actPre 0 wJes3.dev) (1 : Fin 4) ≠ 0)) := by
  refine ⟨?_, ?_, ?_, ?_, ?_, ?_, ?_, ?_, ?_⟩ <;> decide +kernel

theorem met_AcquisitionCommandsAct :
    ((wAcqRun.dev.aon = true) ∧ ((retryOpen 2 8 (actPre 0 wAcqRun.dev) : Dev) = retryOpen (2 : Fin 64) 8 (actPre 0 wAcqRun.dev)) ∧ ((getAcq (actPre 0
      wAcqRun.dev) 2 : Acq) = getAcq (retryOpen 2 8 (actPre 0 wAcqRun.dev) : Dev) (2 : Fin 64)) ∧ (acqTakes (retryOpen 2 8 (actPre 0 wAcqRun.dev) :
      Dev) (2 : Fin 64) = true) ∧ ((0 : Nat) = (getAcq (actPre 0 wAcqRun.dev) 2 : Acq).next) ∧ (chanSample (retryOpen 2 8 (actPre 0 wAcqRun.dev) :
      Dev) (getAcq (actPre 0 wAcqRun.dev) 2 : Acq) (0 : Nat) = some ((5 : BitVec 16), (false : Bool))) ∧ ((66 : Nat) = procMc (getJes (retryOpen 2 8
      (actPre 0 wAcqRun.dev) : Dev) (af (getAcq (actPre 0 wAcqRun.dev) 2 : Acq) 0 30 2)) (0 : Nat)) ∧ ((66 : Nat) ≤ now (retryOpen 2 8 (actPre 0
      wAcqRun.dev) : Dev))) ∧
    ((wAcqCl.dev.aon = true) ∧ ((retryOpen 2 8 (actPre 0 wAcqCl.dev) : Dev) = retryOpen (2 : Fin 64) 8 (actPre 0 wAcqCl.dev)) ∧
      (({ closing := [acqRecT] } : Acq) = getAcq (retryOpen 2 8 (actPre 0 wAcqCl.dev) : Dev) (2 : Fin 64)) ∧ (({ closing := [acqRecT] } : Acq).closing
      = (acqRecT : AcqRec) :: ([] : List AcqRec)) ∧ (recWaits (retryOpen 2 8 (actPre 0 wAcqCl.dev) : Dev) (2 : Fin 64) (acqRecT : AcqRec).tag =
      false)) ∧
    ((wAcqStop.dev.aon = true) ∧ (rearmMc (getAcq (actPre 0 wAcqStop.dev) (2 : Fin 64)) = some (640 : Nat)) ∧ (acqState (actPre 0 wAcqStop.dev) (2 :
      Fin 64) = 3) ∧ ((640 : Nat) ≤ now (actPre 0 wAcqStop.dev)) ∧ ((getAcq (actPre 0 wAcqStop.dev) (2 : Fin 64)).stop = true)) ∧
    ((wAcqDone.dev.aon = true) ∧ (({ segN := 1, eff := [0, 0, 0, 0, 1] } : Acq) = getAcq (actPre 0 wAcqDone.dev) (2 : Fin 64)) ∧ (rearmMc
      ({ segN := 1, eff := [0, 0, 0, 0, 1] } : Acq) = some (640 : Nat)) ∧ (acqState (actPre 0 wAcqDone.dev) (2 : Fin 64) = 3) ∧ ((640 : Nat) ≤ now
      (actPre 0 wAcqDone.dev)) ∧ (({ segN := 1, eff := [0, 0, 0, 0, 1] } : Acq).stop = false) ∧ (({ segN := 1, eff := [0, 0, 0, 0, 1] } : Acq).segN =
      segsOf ({ segN := 1, eff := [0, 0, 0, 0, 1] } : Acq))) ∧
    ((wAcqMore.dev.aon = true) ∧ (({ segN := 1, eff := [0, 0, 0, 0, 2] } : Acq) = getAcq (actPre 0 wAcqMore.dev) (2 : Fin 64)) ∧ (rearmMc
      ({ segN := 1, eff := [0, 0, 0, 0, 2] } : Acq) = some (640 : Nat)) ∧ (acqState (actPre 0 wAcqMore.dev) (2 : Fin 64) = 3) ∧ ((640 : Nat) ≤ now
      (actPre 0 wAcqMore.dev)) ∧ (({ segN := 1, eff := [0, 0, 0, 0, 2] } : Acq).stop = false) ∧ (({ segN := 1, eff := [0, 0, 0, 0, 2] } : Acq).segN ≠
      segsOf ({ segN := 1, eff := [0, 0, 0, 0, 2] } : Acq))) ∧
    ((wAcqIdle.dev.aon = true) ∧ (accepts (actPre 0 wAcqIdle.dev) (aa (2 : Fin 64) 0) = true) ∧ (acqState (actPre 0 wAcqIdle.dev) (2 : Fin 64) = 0 ∨
      acqState (actPre 0 wAcqIdle.dev) (2 : Fin 64) = 4 ∨ acqState (actPre 0 wAcqIdle.dev) (2 : Fin 64) = 5) ∧ (blkEn (actPre 0 wAcqIdle.dev) (acqPage
      (2 : Fin 64)) = true) ∧ (running (actPre 0 wAcqIdle.dev) (acqPage (2 : Fin 64)) = true) ∧ ((armedAcq (actPre 0 wAcqIdle.dev) 2 : Acq) = armedAcq
      (actPre 0 wAcqIdle.dev) (2 : Fin 64))) ∧
    ((wAcqRun.dev.aon = true) ∧ (accepts (actPre 0 wAcqRun.dev) (aa (2 : Fin 64) 0) = true)) ∧
    ((wAcqRun.dev.aon = true) ∧ (accepts (actPre 0 wAcqRun.dev) (aa (2 : Fin 64) 0) = true)) ∧
    ((wAcqIdle.dev.aon = true) ∧ (accepts (actPre 0 wAcqIdle.dev) (aa (3 : Fin 64) 0x38) = true) ∧ (acqState (actPre 0 wAcqIdle.dev) (3 : Fin 64) = 0
      ∨ acqState (actPre 0 wAcqIdle.dev) (3 : Fin 64) = 4 ∨ acqState (actPre 0 wAcqIdle.dev) (3 : Fin 64) = 5)) ∧
    ((wAcqIdle.dev.aon = true) ∧ (readable (actPre 0 wAcqIdle.dev) (aa (3 : Fin 64) 0x38) = true)) := by
  refine ⟨?_, ?_, ?_, ?_, ?_, ?_, ?_, ?_, ?_, ?_⟩ <;> decide +kernel

theorem met_QueueCommandsAct :
    ((wQ.dev.aon = true) ∧ (accepts (actPre 0 wQ.dev) (gna 0x8C) = true) ∧ (qcmdErr (actPre 0 wQ.dev) 1 = 0) ∧ ((5 : Nat) = fget (actPre 0 wQ.dev)
      (gna 0x88) 0 20) ∧ ((cacheGet 5 (actPre 0 wQ.dev) : Dev) = cacheGet (5 : Nat) (actPre 0 wQ.dev))) ∧
    ((wQ.dev.aon = true) ∧ (accepts (actPre 0 wQ.dev) (gna 0x8C) = true) ∧ (qcmdErr (actPre 0 wQ.dev) 2 = 0) ∧ ((5 : Nat) = fget (actPre 0 wQ.dev)
      (gna 0x88) 0 20) ∧ ((cacheGet 5 (actPre 0 wQ.dev) : Dev) = cacheGet (5 : Nat) (actPre 0 wQ.dev))) ∧
    ((wQ.dev.aon = true) ∧ (accepts (actPre 0 wQ.dev) (gna 0x8C) = true) ∧ (qcmdErr (actPre 0 wQ.dev) 3 = 0) ∧ ((5 : Nat) = fget (actPre 0 wQ.dev)
      (gna 0x88) 0 20) ∧ ((cacheGet 5 (actPre 0 wQ.dev) : Dev) = cacheGet (5 : Nat) (actPre 0 wQ.dev))) ∧
    ((wQ.dev.aon = true) ∧ (accepts (actPre 0 wQ.dev) (gna 0x8C) = true) ∧ (qcmdErr (actPre 0 wQ.dev) 4 = 0) ∧ ((5 : Nat) = fget (actPre 0 wQ.dev)
      (gna 0x88) 0 20) ∧ ((cacheGet 5 (actPre 0 wQ.dev) : Dev) = cacheGet (5 : Nat) (actPre 0 wQ.dev))) ∧
    ((wQMark.dev.aon = true) ∧ (accepts (actPre 0 wQMark.dev) (gna 0x8C) = true) ∧ (qcmdErr (actPre 0 wQMark.dev) 5 = 0) ∧ ((5 : Nat) = fget (actPre 0
      wQMark.dev) (gna 0x88) 0 20) ∧ ((cacheGet 5 (actPre 0 wQMark.dev) : Dev) = cacheGet (5 : Nat) (actPre 0 wQMark.dev))) ∧
    ((wQ.dev.aon = true) ∧ (accepts (actPre 0 wQ.dev) (gna 0x8C) = true) ∧ (qcmdErr (actPre 0 wQ.dev) 6 = 0) ∧ ((5 : Nat) = fget (actPre 0 wQ.dev)
      (gna 0x88) 0 20) ∧ ((cacheGet 5 (actPre 0 wQ.dev) : Dev) = cacheGet (5 : Nat) (actPre 0 wQ.dev))) ∧
    ((wQ.dev.aon = true) ∧ (accepts (actPre 0 wQ.dev) (gna 0x8C) = true) ∧ (qcmdErr (actPre 0 wQ.dev) 7 = 0) ∧ ((5 : Nat) = fget (actPre 0 wQ.dev)
      (gna 0x88) 0 20) ∧ ((cacheGet 5 (actPre 0 wQ.dev) : Dev) = cacheGet (5 : Nat) (actPre 0 wQ.dev))) ∧
    ((wQ.dev.aon = true) ∧ (accepts (actPre 0 wQ.dev) (gna 0x8C) = true) ∧ (qcmdErr (actPre 0 wQ.dev) 8 = 0) ∧ ((5 : Nat) = fget (actPre 0 wQ.dev)
      (gna 0x88) 0 20) ∧ ((cacheGet 5 (actPre 0 wQ.dev) : Dev) = cacheGet (5 : Nat) (actPre 0 wQ.dev))) ∧
    ((wQ.dev.aon = true) ∧ (accepts (actPre 0 wQ.dev) (gna 0x8C) = true) ∧ (qcmdErr (actPre 0 wQ.dev) 9 = 0) ∧ ((5 : Nat) = fget (actPre 0 wQ.dev)
      (gna 0x88) 0 20) ∧ ((cacheGet 5 (actPre 0 wQ.dev) : Dev) = cacheGet (5 : Nat) (actPre 0 wQ.dev))) ∧
    ((wQBusy.dev.aon = true) ∧ (qBusy (actPre 0 wQBusy.dev) = true)) ∧
    ((wQ.dev.aon = true) ∧ (accepts (actPre 0 wQ.dev) (gna 0x88) = true) ∧ (qBusy (actPre 0 wQ.dev) = false)) := by
  refine ⟨?_, ?_, ?_, ?_, ?_, ?_, ?_, ?_, ?_, ?_, ?_⟩ <;> decide +kernel

theorem met_QueueRecordCommandsAct :
    ((wQ.dev.aon = true) ∧ (domOn (actPre 0 wQ.dev) 2 = true) ∧ (16 ≤ (64 : Nat)) ∧ ((64 : Nat) % 16 = 0)) ∧
    ((wQRec.dev.aon = true) ∧ ((actPre 0 wQRec.dev).grn.opens.find? (·.1 == (7 : Nat) % 2 ^ 80) = some ((7 : Nat), (5 : Nat), (0 : Nat))) ∧ ((getQ
      (actPre 0 wQRec.dev) (5 : Nat)).recs.find? (fun (grecT : GRec) => (grecT : GRec).pos == (0 : Nat) && (grecT : GRec).opn) = some (grecT : GRec))) ∧
    ((wQRec.dev.aon = true) ∧ (domOn (actPre 0 wQRec.dev) 2 = true)) ∧
    ((wQRec.dev.aon = true) ∧ (domOn (actPre 0 wQRec.dev) 2 = true) ∧ (grnClosed (actPre 0 wQRec.dev) = false)) ∧
    ((wQFill.dev.aon = true) ∧ (domOn (actPre 0 wQFill.dev) 2 = true) ∧ ((actPre 0 wQFill.dev).grn.intake.any (·.q == (6 : BitVec 20).toNat) = true) ∧
      ((cacheLoad 6 (actPre 0 wQFill.dev) : Dev) = cacheLoad (6 : BitVec 20).toNat (actPre 0 wQFill.dev)) ∧ (qCached (cacheLoad 6 (actPre 0
      wQFill.dev) : Dev) (6 : BitVec 20).toNat = true)) ∧
    ((wQHost.dev.aon = true) ∧ (running (actPre 0 wQHost.dev) 0x190 = true) ∧ (hostOn (actPre 0 wQHost.dev) = true)) ∧
    ((wQ.dev.aon = true) ∧ (accepts (actPre 0 wQ.dev) (A 0x171 0x80) = true)) ∧
    ((wQ.dev.aon = true) ∧ (accepts (actPre 0 wQ.dev) (A 0x171 0x80) = true)) ∧
    ((wQ.dev.aon = true) ∧ (readable (actPre 0 wQ.dev) (A 0x171 0x84) = true)) ∧
    ((wQ.dev.aon = true) ∧ (accepts (actPre 0 wQ.dev) (gna (0x200 + 4 * (2 : Fin 16))) = true) ∧ ((5 : Word).toNat ≠ rdN (actPre 0 wQ.dev) (gna (0x240
      + 4 * (2 : Fin 16))))) ∧
    ((wQ.dev.aon = true) ∧ (accepts (actPre 0 wQ.dev) (gna (0x104 + 16 * (2 : Fin 16))) = true)) ∧
    ((liveAll.dev.aon = true) ∧ (accepts (actPre 0 liveAll.dev) (gna 0x84) = true) ∧ (blkEn (actPre 0 liveAll.dev) grnPage = false)) ∧
    ((wQInit.dev.aon = true) ∧ ((actPre 0 wQInit.dev).grn.initing = true) ∧ (domOn (actPre 0 wQInit.dev) 2 = true) ∧
      (({ (actPre 0 wQInit.dev) with mem := [], grn := {} } : Dev) =
      { (actPre 0 wQInit.dev) with mem := (actPre 0 wQInit.dev).mem.filter fun e => !(descBase (actPre 0 wQInit.dev) ≤ e.1 && e.1 < descBase (actPre 0 wQInit.dev) + 32 * 2 ^ 20 && memGood (actPre 0 wQInit.dev) e.1), grn := { (actPre 0 wQInit.dev).grn with initing := false, queues := [], cache := [] } })) ∧
    ((wQ.dev.aon = true) ∧ (accepts (actPre 0 wQ.dev) (gna (0x300 + 4 * (2 : Fin 64))) = true)) := by
  refine ⟨?_, ?_, ?_, ?_, ?_, ?_, ?_, ?_, ?_, ?_, ?_, ?_, ?_, ?_⟩ <;> decide +kernel

theorem met_MeterCommandsAct :
    ((wTimIdle.dev.aon = true) ∧ (accepts (actPre 0 wTimIdle.dev) (ta (2 : Fin 16) 0x80) = true) ∧ (canArm (actPre 0 wTimIdle.dev) (2 : Fin 16) =
      true) ∧ (fbit (actPre 0 wTimIdle.dev) (ta ((2 : Fin 16) / 2 * 2 + 1) 0x88) 31 = false)) ∧
    ((wTimDiff.dev.aon = true) ∧ (accepts (actPre 0 wTimDiff.dev) (ta (3 : Fin 16) 0x80) = true) ∧ ((3 : Fin 16).val % 2 = 1) ∧ (canArm (actPre 0
      wTimDiff.dev) (3 : Fin 16) = true) ∧ (canArm (actPre 0 wTimDiff.dev) ((3 : Fin 16) - 1 : Nat) = true) ∧ (fbit (actPre 0 wTimDiff.dev) (ta (3 :
      Fin 16) 0x88) 31 = true)) ∧
    ((wTim.dev.aon = true) ∧ (accepts (actPre 0 wTim.dev) (ta (2 : Fin 16) 0x80) = true)) ∧
    ((wTim.dev.aon = true) ∧ (accepts (actPre 0 wTim.dev) (ta (2 : Fin 16) 0x80) = true)) ∧
    ((wTimEv.dev.aon = true) ∧ (({ evs := [evT] } : Tim) = getTim (actPre 0 wTimEv.dev) (2 : Fin 16)) ∧ (({ evs := [evT] } : Tim).evs = (evT : TimEv)
      :: ([] : List TimEv)) ∧ ((evT : TimEv).t + 48 * 1024 ≤ nowVs (actPre 0 wTimEv.dev) + 1023) ∧ (running (actPre 0 wTimEv.dev) (timPage (2 : Fin
      16)) = true)) ∧
    ((wTimTo.dev.aon = true) ∧ (({ first := some fstT, eff := [0, 0, 0, 5] } : Tim) = getTim (actPre 0 wTimTo.dev) (2 : Fin 16)) ∧
      (({ first := some fstT, eff := [0, 0, 0, 5] } : Tim).first = some (fstT : TimFirst)) ∧ (timState (actPre 0 wTimTo.dev) (2 : Fin 16) = 2) ∧
      (running (actPre 0 wTimTo.dev) (timPage (2 : Fin 16)) = true) ∧ (limitOf ({ first := some fstT, eff := [0, 0, 0, 5] } : Tim) (fstT : TimFirst) +
      48 * 1024 ≤ nowVs (actPre 0 wTimTo.dev) + 1023) ∧ (({ first := some fstT, eff := [0, 0, 0, 5] } : Tim).evs.any (fun e => decide (e.t ≤ limitOf
      ({ first := some fstT, eff := [0, 0, 0, 5] } : Tim) (fstT : TimFirst))) = false)) ∧
    ((wTimDead.dev.aon = true) ∧ ((getTim (actPre 0 wTimDead.dev) (2 : Fin 16)).dead ≤ nowVs (actPre 0 wTimDead.dev) + 1023) ∧ (running (actPre 0
      wTimDead.dev) (timPage (2 : Fin 16)) = true)) ∧
    ((wTinOn.dev.aon = true) ∧ (domOn (actPre 0 wTinOn.dev) 19 = true) ∧ (fbit (actPre 0 wTinOn.dev) (ta 0 (0x200 + 8 * (1 : Fin 4))) 31 = true) ∧ ((5
      : Int) = ((nowVs (actPre 0 wTinOn.dev) + (5 : BitVec 10).toNat : Nat) : Int) - sgn (rdN (actPre 0 wTinOn.dev) (ta 0 (0x200 + 8 * (1 : Fin 4)) +
      4)) 32) ∧ ((false : Bool) = tinInvalid (actPre 0 wTinOn.dev) (1 : Fin 4) (5 : BitVec 10).toNat)) ∧
    ((liveAll.dev.aon = true) ∧ (accepts (actPre 0 liveAll.dev) (ta 0 (0x200 + 8 * (1 : Fin 4))) = true)) ∧
    ((liveAll.dev.aon = true) ∧ (domOn (actPre 0 liveAll.dev) 19 = true)) ∧
    ((liveAll.dev.aon = true) ∧ (domOn (actPre 0 liveAll.dev) 19 = true)) ∧
    ((wTimLock.dev.aon = true) ∧ (domOn (actPre 0 wTimLock.dev) 19 = true) ∧ (calLock (getTim (actPre 0 wTimLock.dev) (2 : Fin 16)) = true)) ∧
    ((liveAll.dev.aon = true) ∧ (domOn (actPre 0 liveAll.dev) 19 = true) ∧ (calLock (getTim (actPre 0 liveAll.dev) (2 : Fin 16)) = false)) := by
  refine ⟨?_, ?_, ?_, ?_, ?_, ?_, ?_, ?_, ?_, ?_, ?_, ?_, ?_⟩ <;> decide +kernel

theorem met_FenceCommandsAct :
    ((wFen.dev.aon = true) ∧ ((fenNow 4 (actPre 0 wFen.dev) : Dev) = fenNow (4 : Fin 24) (actPre 0 wFen.dev))) ∧
    ((wFen.dev.aon = true)) ∧
    ((wFen.dev.aon = true) ∧ (accepts (actPre 0 wFen.dev) (na (4 : Fin 24) 0) = true) ∧ ((fenNow 4 (actPre 0 wFen.dev) : Dev) = fenNow (4 : Fin 24)
      (actPre 0 wFen.dev)) ∧ (bits (0x80800000 : Word).toNat 19 3 ≤ 4) ∧ (bits (0x80800000 : Word).toNat 16 3 ≤ 4)) ∧
    ((wFen.dev.aon = true) ∧ (accepts (actPre 0 wFen.dev) (na (4 : Fin 24) (fenOff (2 : Fin 5))) = true) ∧ ((fenNow 4 (actPre 0 wFen.dev) : Dev) =
      fenNow (4 : Fin 24) (actPre 0 wFen.dev)) ∧ ((2 : Fin 5) = 1 ∨ (2 : Fin 5) = 2)) ∧
    ((wFen.dev.aon = true) ∧ (accepts (actPre 0 wFen.dev) (na (4 : Fin 24) 0xC) = true) ∧ ((fenNow 4 (actPre 0 wFen.dev) : Dev) = fenNow (4 : Fin 24)
      (actPre 0 wFen.dev)) ∧ (bits (0x3020001 : Word).toNat 24 5 ≠ 0) ∧ (bits (0x3020001 : Word).toNat 16 5 ≠ 0) ∧ (bits (0x3020001 : Word).toNat 16 5
      ≤ bits (0x3020001 : Word).toNat 24 5) ∧ (bits (0x3020001 : Word).toNat 24 5 < 2 * bits (0x3020001 : Word).toNat 16 5) ∧ (bits (0x3020001 :
      Word).toNat 0 16 ≠ 0)) ∧
    ((wFen.dev.aon = true) ∧ ((fenNow 4 (actPre 0 wFen.dev) : Dev) = fenNow (4 : Fin 24) (actPre 0 wFen.dev))) ∧
    ((wFenHold.dev.aon = true) ∧ ((fenNow 4 (actPre 0 wFenHold.dev) : Dev) = fenNow (4 : Fin 24) (actPre 0 wFenHold.dev)) ∧ ((fcmp (getFen (fenNow 4
      (actPre 0 wFenHold.dev) : Dev) (4 : Fin 24)) (true : Bool)).hold = some ((0 : Nat), true)) ∧ ((0 : Nat) ≤ fenT (fenNow 4 (actPre 0 wFenHold.dev)
      : Dev))) ∧
    ((wFenHold.dev.aon = true) ∧ ((fenNow 4 (actPre 0 wFenHold.dev) : Dev) = fenNow (4 : Fin 24) (actPre 0 wFenHold.dev)) ∧ ((fcmp (getFen (fenNow 4
      (actPre 0 wFenHold.dev) : Dev) (4 : Fin 24)) (false : Bool)).hold = some ((0 : Nat), false)) ∧ ((0 : Nat) ≤ fenT (fenNow 4 (actPre 0
      wFenHold.dev) : Dev))) ∧
    ((wFen.dev.aon = true) ∧ (accepts (actPre 0 wFen.dev) (na (4 : Fin 24) 0x10) = true) ∧ ((fenUpTo 4 (fenT (actPre 0 wFen.dev) - 1) (actPre 0
      wFen.dev) : Dev) = fenUpTo (4 : Fin 24) (fenT (actPre 0 wFen.dev) - 1) (actPre 0 wFen.dev))) ∧
    ((wRmp.dev.aon = true) ∧ (accepts (actPre 0 wRmp.dev) (A (rmpPage (1 : Fin 4)) 0x80) = true) ∧ ((rmpNow 1 (actPre 0 wRmp.dev) : Dev) = rmpNow (1 :
      Fin 4) (actPre 0 wRmp.dev)) ∧ (rmpState (rmpNow 1 (actPre 0 wRmp.dev) : Dev) (1 : Fin 4) = 0) ∧ (running (rmpNow 1 (actPre 0 wRmp.dev) : Dev)
      (rmpPage (1 : Fin 4)) = true)) ∧
    ((wRmpRun.dev.aon = true) ∧ (accepts (actPre 0 wRmpRun.dev) (A (rmpPage (1 : Fin 4)) 0x80) = true) ∧ ((rmpNow 1 (actPre 0 wRmpRun.dev) : Dev) =
      rmpNow (1 : Fin 4) (actPre 0 wRmpRun.dev)) ∧ (rmpState (rmpNow 1 (actPre 0 wRmpRun.dev) : Dev) (1 : Fin 4) = 1)) ∧
    ((wRmpHeld.dev.aon = true) ∧ (accepts (actPre 0 wRmpHeld.dev) (A (rmpPage (1 : Fin 4)) 0x80) = true) ∧ ((rmpNow 1 (actPre 0 wRmpHeld.dev) : Dev) =
      rmpNow (1 : Fin 4) (actPre 0 wRmpHeld.dev)) ∧ (rmpState (rmpNow 1 (actPre 0 wRmpHeld.dev) : Dev) (1 : Fin 4) = 2)) ∧
    ((wRmpRun.dev.aon = true)) := by
  refine ⟨?_, ?_, ?_, ?_, ?_, ?_, ?_, ?_, ?_, ?_, ?_, ?_, ?_⟩ <;> decide +kernel

theorem met_DrillMarkerAndSyncCommandsAct :
    ((wDrl0.dev.aon = true) ∧ (accepts (actPre 0 wDrl0.dev) (da (2 : Fin 16) 0x80) = true) ∧ (((fset (da 2 0x80) 28 2 0 (actPre 0 wDrl0.dev)) : Dev) =
      fset (da (2 : Fin 16) 0x80) 28 2 (0 : Fin 4) (actPre 0 wDrl0.dev)) ∧ (drlRefused ((fset (da 2 0x80) 28 2 0 (actPre 0 wDrl0.dev)) : Dev) (2 : Fin
      16) (0 : Fin 4) = false) ∧ (((fset (da 2 0x80) 28 2 0 (actPre 0 wDrl0.dev)) : Dev) = onlyIf (startIsLate ((fset (da 2 0x80) 28 2 0 (actPre 0
      wDrl0.dev)) : Dev) (2 : Fin 16) (0 : Fin 4)) (hit (da (2 : Fin 16) 0x84) 31) ((fset (da 2 0x80) 28 2 0 (actPre 0 wDrl0.dev)) : Dev)) ∧ (((setDrl
      2 { armed := 10, start := some 75776, segs := [] } (fset (da 2 0x80) 28 2 0 (actPre 0 wDrl0.dev))) : Dev) = setDrl (2 : Fin 16)
      { armed := now ((fset (da 2 0x80) 28 2 0 (actPre 0 wDrl0.dev)) : Dev), mode := (0 : Fin 4), start := (drlStart ((fset (da 2 0x80) 28 2 0 (actPre 0 wDrl0.dev)) : Dev) (2 : Fin 16) (0 : Fin 4)).map (· * 1024), segs := (getDrl ((fset (da 2 0x80) 28 2 0 (actPre 0 wDrl0.dev)) : Dev) (2 : Fin 16)).segs }
      ((fset (da 2 0x80) 28 2 0 (actPre 0 wDrl0.dev)) : Dev)) ∧ ((setDrlState 2 1 (fset (da 2 0x84) 0 12 0 (setDrl 2
      { armed := 10, start := some 75776, segs := [] } (fset (da 2 0x80) 28 2 0 (actPre 0 wDrl0.dev)))) : Dev) = setDrlState (2 : Fin 16) 1 (fset (da
      (2 : Fin 16) 0x84) 0 12 (drlFirst ((setDrl 2 { armed := 10, start := some 75776, segs := [] } (fset (da 2 0x80) 28 2 0 (actPre 0 wDrl0.dev))) :
      Dev) (2 : Fin 16)) ((setDrl 2 { armed := 10, start := some 75776, segs := [] } (fset (da 2 0x80) 28 2 0 (actPre 0 wDrl0.dev))) : Dev)))) ∧
    ((wDrl1.dev.aon = true) ∧ (accepts (actPre 0 wDrl1.dev) (da (2 : Fin 16) 0x80) = true) ∧ (drlState (actPre 0 wDrl1.dev) (2 : Fin 16) = 1 ∨
      drlState (actPre 0 wDrl1.dev) (2 : Fin 16) = 2)) ∧
    ((wDrl1.dev.aon = true) ∧ (drlState (actPre 0 wDrl1.dev) (2 : Fin 16) = 1) ∧ ((getDrl (actPre 0 wDrl1.dev) (2 : Fin 16)).start = some (5 : Nat)) ∧
      ((5 : Nat) ≤ nowVs (actPre 0 wDrl1.dev) + 1023)) ∧
    ((wDrl2.dev.aon = true) ∧ (drlState (actPre 0 wDrl2.dev) (2 : Fin 16) = 2) ∧ ((getDrl (actPre 0 wDrl2.dev) (2 : Fin 16)).endAt = some (5 : Nat)) ∧
      ((5 : Nat) ≤ nowVs (actPre 0 wDrl2.dev) + 1023)) ∧
    ((wDrlE.dev.aon = true) ∧ (drlState (actPre 0 wDrlE.dev) (2 : Fin 16) = 2) ∧ (nextCross (getDrl (actPre 0 wDrlE.dev) (2 : Fin 16)) = some (0 :
      Nat)) ∧ ((0 : Nat) < nextMcVs (actPre 0 wDrlE.dev))) ∧
    ((liveAll.dev.aon = true) ∧ (accepts (actPre 0 liveAll.dev) (da (2 : Fin 16) (0xB4 + 4 * (1 : Fin 3))) = true)) ∧
    ((liveAll.dev.aon = true) ∧ (accepts (actPre 0 liveAll.dev) (da (2 : Fin 16) 0xC0) = true)) ∧
    ((wAmpHeld.dev.aon = true) ∧ (fecTakes (actPre 0 wAmpHeld.dev) (1 : Bank) = true) ∧ ((getFec (actPre 0 wAmpHeld.dev) (1 : Bank)).groups.any (isAmp
      (2 : Fin 16)) = false) ∧ ((getDrl (actPre 0 wAmpHeld.dev) (2 : Fin 16)).held.any (·.1 == (1 : Bank).toNat) = true)) ∧
    ((wAmp.dev.aon = true) ∧ (fecTakes (actPre 0 wAmp.dev) (1 : Bank) = true) ∧ ((getFec (actPre 0 wAmp.dev) (1 : Bank)).groups.any (isAmp (2 : Fin
      16)) = false) ∧ ((getDrl (actPre 0 wAmp.dev) (2 : Fin 16)).held.any (·.1 == (1 : Bank).toNat) = false) ∧ (fbit (actPre 0 wAmp.dev) (da (2 : Fin
      16) 0x98) 31 = true) ∧ (drlState (actPre 0 wAmp.dev) (2 : Fin 16) = 1 ∨ drlState (actPre 0 wAmp.dev) (2 : Fin 16) = 2) ∧ ((mget (fun _ => none)
      (getDrl (actPre 0 wAmp.dev) (2 : Fin 16)).ahead (1 : Bank)).bind (ampNext (actPre 0 wAmp.dev) (2 : Fin 16) 4097) = some (1 : Nat))) ∧
    ((liveAll.dev.aon = true)) ∧
    ((liveAll.dev.aon = true) ∧ (accepts (actPre 0 liveAll.dev) (da (2 : Fin 16) 0x108) = true) ∧ (markOk (planeDly (actPre 0 liveAll.dev)) (bits (0 :
      Word).toNat 0 14) = true)) ∧
    ((wSync.dev.aon = true) ∧ (running (actPre 0 wSync.dev) 1 = true) ∧ (fget (actPre 0 wSync.dev) (A 1 0x100) 30 2 = 1) ∧ (((actPre 0 wSync.dev) :
      Dev) = syncDone (syncOutEnd (actPre 0 wSync.dev))) ∧ (fbit ((actPre 0 wSync.dev) : Dev) (A 1 0x10C) 29 = false) ∧ (fbit ((actPre 0 wSync.dev) :
      Dev) (A 1 0x100) 29 = false) ∧ (fbit ((actPre 0 wSync.dev) : Dev) (A ringPage 0x80) 26 = false) ∧ (fget ((actPre 0 wSync.dev) : Dev) (A 1 0x108)
      0 16 ≤ fget ((actPre 0 wSync.dev) : Dev) (A 1 0x104) 0 16)) ∧
    ((wSync.dev.aon = true) ∧ (accepts (actPre 0 wSync.dev) (A 1 0x100) = true) ∧ (running (actPre 0 wSync.dev) 1 = true) ∧ (((actPre 0 wSync.dev) :
      Dev) = syncDone (syncOutEnd (actPre 0 wSync.dev))) ∧ (fbit ((actPre 0 wSync.dev) : Dev) (A 1 0x10C) 29 = false) ∧ (fbit ((actPre 0 wSync.dev) :
      Dev) (A 1 0x100) 29 = false) ∧ (fbit ((actPre 0 wSync.dev) : Dev) (A ringPage 0x80) 26 = false) ∧ (fget ((actPre 0 wSync.dev) : Dev) (A 1 0x108)
      0 16 ≤ fget ((actPre 0 wSync.dev) : Dev) (A 1 0x104) 0 16)) ∧
    ((wSyncQ.dev.aon = true) ∧ ((actPre 0 wSyncQ.dev).syncEv = some ((0 : Nat), (5 : Nat))) ∧ (fbit (actPre 0 wSyncQ.dev) (A 1 0x10C) 29 = true) ∧ ((5
      : Nat) ≤ now (actPre 0 wSyncQ.dev)) ∧ ((fset (A 1 0x10C) 29 1 0 (fset (A 1 0x10C) 0 29 1 (wr64 (A 1 0x110) 5 (actPre 0 wSyncQ.dev))) : Dev) =
      fset (A 1 0x10C) 29 1 0 (fset (A 1 0x10C) 0 29 (fget (actPre 0 wSyncQ.dev) (A 1 0x10C) 0 29 + 1) (wr64 (A 1 0x110) (5 : Nat) (actPre 0
      wSyncQ.dev))))) ∧
    ((wSyncQ.dev.aon = true) ∧ ((actPre 0 wSyncQ.dev).syncOut = some (0 : Nat)) ∧ ((0 : Nat) + 8 ≤ now (actPre 0 wSyncQ.dev))) := by
  refine ⟨?_, ?_, ?_, ?_, ?_, ?_, ?_, ?_, ?_, ?_, ?_, ?_, ?_, ?_, ?_⟩ <;> decide +kernel

theorem met_MailboxCommandsAct :
    ((wMb.dev.aon = true) ∧ (accepts (actPre 0 wMb.dev) (fw 0x100) = true) ∧ (fbit (actPre 0 wMb.dev) (fw 0x114) 31 = false)) ∧
    ((wMb.dev.aon = true) ∧ (accepts (actPre 0 wMb.dev) (fw 0x100) = true) ∧ (fbit (actPre 0 wMb.dev) (fw 0x114) 31 = false)) ∧
    ((wMb.dev.aon = true) ∧ (accepts (actPre 0 wMb.dev) (fw 0x100) = true) ∧ (fbit (actPre 0 wMb.dev) (fw 0x114) 31 = false)) ∧
    ((wMb.dev.aon = true) ∧ (accepts (actPre 0 wMb.dev) (fw 0x100) = true) ∧ (fbit (actPre 0 wMb.dev) (fw 0x114) 31 = false)) ∧
    ((wMb.dev.aon = true) ∧ (accepts (actPre 0 wMb.dev) (fw 0x100) = true) ∧ (fbit (actPre 0 wMb.dev) (fw 0x114) 31 = false)) ∧
    ((wMb.dev.aon = true) ∧ (accepts (actPre 0 wMb.dev) (fw 0x100) = true) ∧ (fbit (actPre 0 wMb.dev) (fw 0x114) 31 = false)) ∧
    ((wMb.dev.aon = true) ∧ (accepts (actPre 0 wMb.dev) (fw 0x100) = true) ∧ (fbit (actPre 0 wMb.dev) (fw 0x114) 31 = false)) ∧
    ((wMb.dev.aon = true) ∧ (accepts (actPre 0 wMb.dev) (fw 0x100) = true) ∧ (fbit (actPre 0 wMb.dev) (fw 0x114) 31 = false)) ∧
    ((wMb.dev.aon = true)) ∧
    ((wMb.dev.aon = true) ∧ ((2 : Nat) = bits (mbArg (actPre 0 wMb.dev) 0) 16 6) ∧ ((3 : Nat) = bits (mbArg (actPre 0 wMb.dev) 0) 0 7) ∧ ((3 : Nat) ≤
      63) ∧ (siteState (actPre 0 wMb.dev) (2 : Nat) = 0 ∨ siteIdle (actPre 0 wMb.dev) (2 : Nat) = true) ∧ ((engOf (actPre 0 wMb.dev) (3 : Nat)).elim 0
      (yokeRole (actPre 0 wMb.dev)) ≠ 2) ∧ ((siteFurs (actPre 0 wMb.dev) (3 : Nat)).all (fun g => (siteOfFur (actPre 0 wMb.dev) g).all (· == (2 :
      Nat)) && (promised (actPre 0 wMb.dev) g).all (· == (2 : Nat))) = true) ∧ (flwReady (actPre 0 wMb.dev) = true)) ∧
    ((wMbIdle.dev.aon = true) ∧ ((2 : Nat) = bits (mbArg (actPre 0 wMbIdle.dev) 0) 16 6) ∧ (siteIdle (actPre 0 wMbIdle.dev) (2 : Nat) = true) ∧
      (flwReady (actPre 0 wMbIdle.dev) = true)) ∧
    ((wMbFlow.dev.aon = true) ∧ ((List.range 64).any (mbStarts (actPre 0 wMbFlow.dev)) = true) ∧ (flwReady (actPre 0 wMbFlow.dev) = true) ∧ (rd64
      (actPre 0 wMbFlow.dev) (fw 0x80) ≠ 0) ∧ (rd64 (actPre 0 wMbFlow.dev) (fw 0x8C) ≠ 0)) ∧
    ((wMb.dev.aon = true) ∧ (flwReady (actPre 0 wMb.dev) = true)) ∧
    ((wMb.dev.aon = true) ∧ ((2 : Nat) = bits (mbArg (actPre 0 wMb.dev) 0) 16 6)) ∧
    ((wMbMig.dev.aon = true) ∧ ((2 : Nat) = bits (mbArg (actPre 0 wMbMig.dev) 0) 16 6) ∧ (migBadArg (actPre 0 wMbMig.dev) = false) ∧ (siteState
      (actPre 0 wMbMig.dev) (2 : Nat) ≠ 0) ∧ (siteState (actPre 0 wMbMig.dev) (2 : Nat) ≠ 4) ∧ ((getSite (actPre 0 wMbMig.dev) (2 : Nat)).mig = none)
      ∧ (migBadFur (actPre 0 wMbMig.dev) (2 : Nat) = false) ∧ (migGroup (actPre 0 wMbMig.dev) (2 : Nat) = false) ∧ (flwReady (actPre 0 wMbMig.dev) =
      true)) ∧
    ((wMbFlow.dev.aon = true) ∧ (flwReady (actPre 0 wMbFlow.dev) = true) ∧ (rd64 (actPre 0 wMbFlow.dev) (fw 0x8C) ≠ 0)) ∧
    ((wSiteTo.dev.aon = true) ∧ (({} : Site) = getSite (actPre 0 wSiteTo.dev) (2 : Fin 64)) ∧ (siteState (actPre 0 wSiteTo.dev) (2 : Fin 64) = 2) ∧
      ((1 : Nat) = stepF (actPre 0 wSiteTo.dev) (2 : Fin 64) (fget (actPre 0 wSiteTo.dev) (siteStat (2 : Fin 64)) 0 14) 12 4) ∧ ((1 : Nat) ≠ 0) ∧ (({}
      : Site).tick0 + (1 : Nat) ≤ fieldCount (actPre 0 wSiteTo.dev)) ∧ (({} : Site).tmoed = false)) ∧
    ((wSiteLim.dev.aon = true) ∧ (siteState (actPre 0 wSiteLim.dev) (2 : Fin 64) = 3) ∧ ((getSite (actPre 0 wSiteLim.dev) (2 : Fin 64)).limit = true)) := by
  refine ⟨?_, ?_, ?_, ?_, ?_, ?_, ?_, ?_, ?_, ?_, ?_, ?_, ?_, ?_, ?_, ?_, ?_, ?_⟩ <;> decide +kernel

theorem met_HeadlandLinkCommandsAct :
    ((liveAll.dev.aon = true) ∧ (accepts (actPre 0 liveAll.dev) (A (portPage (0 : Fin 2)) 0x80) = true)) ∧
    ((wPort1.dev.aon = true) ∧ (running (actPre 0 wPort1.dev) (portPage (0 : Fin 2)) = true) ∧ (portState (actPre 0 wPort1.dev) (0 : Fin 2) = 1) ∧
      ((getPort (actPre 0 wPort1.dev) (0 : Fin 2)).pair = 0)) ∧
    ((wPort1.dev.aon = true) ∧ (running (actPre 0 wPort1.dev) (portPage (0 : Fin 2)) = true) ∧ (portState (actPre 0 wPort1.dev) (0 : Fin 2) = 1) ∧
      ((getPort (actPre 0 wPort1.dev) (0 : Fin 2)).pair ≠ 0 ∨ (7 : BitVec 4).toNat ≠ 15) ∧ (fbit (actPre 0 wPort1.dev) (A (portPage (0 : Fin 2)) 0x80)
      30 = true) ∧ ((3 : Nat) = (if (getPort (actPre 0 wPort1.dev) (0 : Fin 2)).pair ≠ 0 then (if (7 : BitVec 4).toNat &&& (getPort (actPre 0
      wPort1.dev) (0 : Fin 2)).pair = (getPort (actPre 0 wPort1.dev) (0 : Fin 2)).pair then (getPort (actPre 0 wPort1.dev) (0 : Fin 2)).pair else 0)
      else if bits (7 : BitVec 4).toNat 0 2 = 3 then 3 else if bits (7 : BitVec 4).toNat 2 2 = 3 then 12 else 0)) ∧ ((3 : Nat) ≠ 0)) ∧
    ((wRing.dev.aon = true) ∧ (portUp (actPre 0 wRing.dev) (0 : Fin 2) = true) ∧ (fbit (actPre 0 wRing.dev) (A (portPage (0 : Fin 2)) 0x84) (24 + (1 :
      Fin 4)) = true)) ∧
    ((wRing.dev.aon = true) ∧ (running (actPre 0 wRing.dev) (portPage (1 : Fin 2)) = true) ∧ (portState (actPre 0 wRing.dev) (1 : Fin 2) = 0) ∧
      ((getPort (actPre 0 wRing.dev) (1 : Fin 2)).downAt ≤ now (actPre 0 wRing.dev))) ∧
    ((wRingTx.dev.aon = true) ∧ (({ txq := [expT] } : HPort) = getPort (actPre 0 wRingTx.dev) (0 : Fin 2)) ∧ (({ txq := [expT] } : HPort).txq = (expT
      : ExpWord) :: ([] : List ExpWord)) ∧ (portUp (actPre 0 wRingTx.dev) (0 : Fin 2) = true) ∧ (({ txq := [expT] } : HPort).slot.all (fun m => decide
      (m + 4 ≤ now (actPre 0 wRingTx.dev))) = true) ∧ ((expT : ExpWord).take ≤ now (actPre 0 wRingTx.dev)) ∧ (now (actPre 0 wRingTx.dev) ≤ (expT :
      ExpWord).take + 12) ∧ (((0, false) : Nat × Bool) = distAdd (expT : ExpWord).dist 0 (expT : ExpWord).satd)) ∧
    ((wRing.dev.aon = true) ∧ (portUp (actPre 0 wRing.dev) (0 : Fin 2) = true) ∧ ((2 : Nat) = bits (BitVec.ofNat 64 (expEncode
      { kind := 2, origin := 3, data := 5, take := 0 } 10 false 0) : BitVec 64).toNat 60 4) ∧ (crc8 56 ((BitVec.ofNat 64 (expEncode
      { kind := 2, origin := 3, data := 5, take := 0 } 10 false 0) : BitVec 64).toNat / 256) = bits (BitVec.ofNat 64 (expEncode
      { kind := 2, origin := 3, data := 5, take := 0 } 10 false 0) : BitVec 64).toNat 0 8) ∧ ((2 : Nat) ≠ 0) ∧ ((2 : Nat) ≤ 3) ∧ (bits (BitVec.ofNat
      64 (expEncode { kind := 2, origin := 3, data := 5, take := 0 } 10 false 0) : BitVec 64).toNat 28 4 < 12)) ∧
    ((wRing.dev.aon = true) ∧ (portUp (actPre 0 wRing.dev) (0 : Fin 2) = true) ∧ ((2 : Nat) = bits (BitVec.ofNat 64 (expEncode
      { kind := 2, origin := 3, data := 5, take := 0 } 10 false 12) : BitVec 64).toNat 60 4) ∧ (crc8 56 ((BitVec.ofNat 64 (expEncode
      { kind := 2, origin := 3, data := 5, take := 0 } 10 false 12) : BitVec 64).toNat / 256) = bits (BitVec.ofNat 64 (expEncode
      { kind := 2, origin := 3, data := 5, take := 0 } 10 false 12) : BitVec 64).toNat 0 8) ∧ ((2 : Nat) ≠ 0) ∧ ((2 : Nat) ≤ 3) ∧ ((3 : Nat) = bits
      (BitVec.ofNat 64 (expEncode { kind := 2, origin := 3, data := 5, take := 0 } 10 false 12) : BitVec 64).toNat 50 10) ∧ (12 ≤ bits (BitVec.ofNat
      64 (expEncode { kind := 2, origin := 3, data := 5, take := 0 } 10 false 12) : BitVec 64).toNat 28 4) ∧ (hdlChain (actPre 0 wRing.dev) = true ∨
      (3 : Nat) ≠ hdlId (actPre 0 wRing.dev)) ∧ (((10, false) : Nat × Bool) = distAdd (bits (BitVec.ofNat 64 (expEncode
      { kind := 2, origin := 3, data := 5, take := 0 } 10 false 12) : BitVec 64).toNat 32 16) (fget (actPre 0 wRing.dev) (A (portPage (0 : Fin 2))
      0x88) 0 16) (bit (BitVec.ofNat 64 (expEncode { kind := 2, origin := 3, data := 5, take := 0 } 10 false 12) : BitVec 64).toNat 49)) ∧
      ((useExpress (now (actPre 0 wRing.dev)) 2 3 5 10 false (actPre 0 wRing.dev) : Dev) = useExpress (now (actPre 0 wRing.dev)) (2 : Nat) (3 : Nat)
      (bits (BitVec.ofNat 64 (expEncode { kind := 2, origin := 3, data := 5, take := 0 } 10 false 12) : BitVec 64).toNat 8 20) ((10, false) : Nat ×
      Bool).1 ((10, false) : Nat × Bool).2 (actPre 0 wRing.dev))) ∧
    ((wRing.dev.aon = true) ∧ ((bulkFrame (bulkHdr 8 5 3 0 2 0) [1, 2] : List Nat) = ((bulkFrame (bulkHdr 8 5 3 0 2 0) [1, 2]).map (BitVec.ofNat 64 ·)
      : List (BitVec 64)).map (·.toNat)) ∧ (portUp (actPre 0 wRing.dev) (0 : Fin 2) = true) ∧ (frameBad (bulkFrame (bulkHdr 8 5 3 0 2 0) [1, 2] : List
      Nat) = false) ∧ (bits (nth 0 (bulkFrame (bulkHdr 8 5 3 0 2 0) [1, 2] : List Nat) 0) 60 4 = 8) ∧ (bits (nth 0 (bulkFrame (bulkHdr 8 5 3 0 2 0)
      [1, 2] : List Nat) 0) 50 10 = hdlId (actPre 0 wRing.dev)) ∧ (hdlMember (actPre 0 wRing.dev) = true) ∧ (hdlId (actPre 0 wRing.dev) ≠ 0)) ∧
    ((wRing.dev.aon = true) ∧ ((bulkFrame (bulkHdr 9 5 3 0 1 0) [0] : List Nat) = ((bulkFrame (bulkHdr 9 5 3 0 1 0) [0]).map (BitVec.ofNat 64 ·) :
      List (BitVec 64)).map (·.toNat)) ∧ (portUp (actPre 0 wRing.dev) (0 : Fin 2) = true) ∧ (frameBad (bulkFrame (bulkHdr 9 5 3 0 1 0) [0] : List Nat)
      = false) ∧ (bits (nth 0 (bulkFrame (bulkHdr 9 5 3 0 1 0) [0] : List Nat) 0) 60 4 = 9) ∧ (bits (nth 0 (bulkFrame (bulkHdr 9 5 3 0 1 0) [0] : List
      Nat) 0) 50 10 = hdlId (actPre 0 wRing.dev)) ∧ (hdlMember (actPre 0 wRing.dev) = true) ∧ (hdlId (actPre 0 wRing.dev) ≠ 0)) ∧
    ((wRing.dev.aon = true) ∧ ((bulkFrame (bulkHdr 0xA 5 3 0 1 0) [0] : List Nat) = ((bulkFrame (bulkHdr 0xA 5 3 0 1 0) [0]).map (BitVec.ofNat 64 ·) :
      List (BitVec 64)).map (·.toNat)) ∧ (portUp (actPre 0 wRing.dev) (0 : Fin 2) = true) ∧ (frameBad (bulkFrame (bulkHdr 0xA 5 3 0 1 0) [0] : List
      Nat) = false) ∧ (bits (nth 0 (bulkFrame (bulkHdr 0xA 5 3 0 1 0) [0] : List Nat) 0) 60 4 = 0xA) ∧ (bits (nth 0 (bulkFrame (bulkHdr 0xA 5 3 0 1 0)
      [0] : List Nat) 0) 50 10 = hdlId (actPre 0 wRing.dev)) ∧ (hdlMember (actPre 0 wRing.dev) = true) ∧ (hdlId (actPre 0 wRing.dev) ≠ 0)) ∧
    ((wRingWalk.dev.aon = true) ∧ ((bulkFrame (bulkHdr 0xB 5 3 0 17 (1 * 2 ^ 20)) (List.replicate 17 0) : List Nat) = ((bulkFrame (bulkHdr 0xB 5 3 0
      17 (1 * 2 ^ 20)) (List.replicate 17 0)).map (BitVec.ofNat 64 ·) : List (BitVec 64)).map (·.toNat)) ∧ (portUp (actPre 0 wRingWalk.dev) (0 : Fin
      2) = true) ∧ (frameBad (bulkFrame (bulkHdr 0xB 5 3 0 17 (1 * 2 ^ 20)) (List.replicate 17 0) : List Nat) = false) ∧ (bits (nth 0 (bulkFrame
      (bulkHdr 0xB 5 3 0 17 (1 * 2 ^ 20)) (List.replicate 17 0) : List Nat) 0) 60 4 = 0xB) ∧ (bits (nth 0 (bulkFrame (bulkHdr 0xB 5 3 0 17 (1 * 2 ^
      20)) (List.replicate 17 0) : List Nat) 0) 20 4 = 1) ∧ ((bulkFrame (bulkHdr 0xB 5 3 0 17 (1 * 2 ^ 20)) (List.replicate 17 0) : List Nat).length =
      19) ∧ ((actPre 0 wRingWalk.dev).hdl.walk ≠ 0)) ∧
    ((wRing.dev.aon = true) ∧ ((bulkFrame (bulkHdr 0xB 5 3 0 17 (1 * 2 ^ 20)) (List.replicate 17 0) : List Nat) = ((bulkFrame (bulkHdr 0xB 5 3 0 17 (1
      * 2 ^ 20)) (List.replicate 17 0)).map (BitVec.ofNat 64 ·) : List (BitVec 64)).map (·.toNat)) ∧ (portUp (actPre 0 wRing.dev) (0 : Fin 2) = true)
      ∧ (frameBad (bulkFrame (bulkHdr 0xB 5 3 0 17 (1 * 2 ^ 20)) (List.replicate 17 0) : List Nat) = false) ∧ (bits (nth 0 (bulkFrame (bulkHdr 0xB 5 3
      0 17 (1 * 2 ^ 20)) (List.replicate 17 0) : List Nat) 0) 60 4 = 0xB) ∧ (bits (nth 0 (bulkFrame (bulkHdr 0xB 5 3 0 17 (1 * 2 ^ 20))
      (List.replicate 17 0) : List Nat) 0) 20 4 = 1) ∧ ((bulkFrame (bulkHdr 0xB 5 3 0 17 (1 * 2 ^ 20)) (List.replicate 17 0) : List Nat).length = 19)
      ∧ ((actPre 0 wRing.dev).hdl.walk = 0)) ∧
    ((wRing.dev.aon = true) ∧ ((bulkFrame (bulkHdr 0xB 5 3 0 1 (2 * 2 ^ 20)) [7] : List Nat) = ((bulkFrame (bulkHdr 0xB 5 3 0 1 (2 * 2 ^ 20)) [7]).map
      (BitVec.ofNat 64 ·) : List (BitVec 64)).map (·.toNat)) ∧ (portUp (actPre 0 wRing.dev) (0 : Fin 2) = true) ∧ (frameBad (bulkFrame (bulkHdr 0xB 5
      3 0 1 (2 * 2 ^ 20)) [7] : List Nat) = false) ∧ (bits (nth 0 (bulkFrame (bulkHdr 0xB 5 3 0 1 (2 * 2 ^ 20)) [7] : List Nat) 0) 60 4 = 0xB) ∧ (bits
      (nth 0 (bulkFrame (bulkHdr 0xB 5 3 0 1 (2 * 2 ^ 20)) [7] : List Nat) 0) 20 4 = 2) ∧ ((bulkFrame (bulkHdr 0xB 5 3 0 1 (2 * 2 ^ 20)) [7] : List
      Nat).length = 3) ∧ (bits (nth 0 (bulkFrame (bulkHdr 0xB 5 3 0 1 (2 * 2 ^ 20)) [7] : List Nat) 0) 40 10 ≠ hdlId (actPre 0 wRing.dev))) ∧
    ((wRing.dev.aon = true) ∧ ((bulkFrame (bulkHdr 0xB 5 3 0 0 (3 * 2 ^ 20)) [] : List Nat) = ((bulkFrame (bulkHdr 0xB 5 3 0 0 (3 * 2 ^ 20)) []).map
      (BitVec.ofNat 64 ·) : List (BitVec 64)).map (·.toNat)) ∧ (portUp (actPre 0 wRing.dev) (0 : Fin 2) = true) ∧ (frameBad (bulkFrame (bulkHdr 0xB 5
      3 0 0 (3 * 2 ^ 20)) [] : List Nat) = false) ∧ (bits (nth 0 (bulkFrame (bulkHdr 0xB 5 3 0 0 (3 * 2 ^ 20)) [] : List Nat) 0) 60 4 = 0xB) ∧ (bits
      (nth 0 (bulkFrame (bulkHdr 0xB 5 3 0 0 (3 * 2 ^ 20)) [] : List Nat) 0) 20 4 = 3)) ∧
    ((wRing.dev.aon = true) ∧ (accepts (actPre 0 wRing.dev) discReg = true)) := by
  refine ⟨?_, ?_, ?_, ?_, ?_, ?_, ?_, ?_, ?_, ?_, ?_, ?_, ?_, ?_, ?_, ?_⟩ <;> decide +kernel

theorem met_ReferenceCommandsAct :
    ((wExt.dev.aon = true) ∧ (timeOn (actPre 0 wExt.dev) = true) ∧ (refSel (actPre 0 wExt.dev) = 2) ∧ ((actPre 0 wExt.dev).hdl.extFrom.isSome = true)
      ∧ ((raise 0x05 4 (irqSet 1 2 (setExt false (actPre 0 wExt.dev))) : Dev) = raise 0x05 4 (irqSet 1 2 (setExt false (actPre 0 wExt.dev)))) ∧
      ((extLostT (actPre 0 wExt.dev) : Dev) = fset refStat 28 1 1 (onlyIf (!fbit (raise 0x05 4 (irqSet 1 2 (setExt false (actPre 0 wExt.dev))) : Dev)
      refStat 28) (fun x => { x with hdl := { x.hdl with holdFrom := some (now x) } }) (raise 0x05 4 (irqSet 1 2 (setExt false (actPre 0 wExt.dev))) :
      Dev)))) ∧
    ((wOcxo.dev.aon = true) ∧ (timeOn (actPre 0 wOcxo.dev) = true) ∧ (refSel (actPre 0 wOcxo.dev) = 1) ∧ ((actPre 0 wOcxo.dev).hdl.ocxoFrom.isSome =
      true) ∧ ((raise 0x05 4 (irqSet 1 2 (setWarm false (setOcxo false (actPre 0 wOcxo.dev)))) : Dev) = raise 0x05 4 (irqSet 1 2 (setWarm false
      (setOcxo false (actPre 0 wOcxo.dev)))))) ∧
    ((wExtBack.dev.aon = true) ∧ ((actPre 0 wExtBack.dev).hdl.extFrom = some (5 : Nat)) ∧ (timeOn (actPre 0 wExtBack.dev) = true) ∧ (refSel (actPre 0
      wExtBack.dev) = 2) ∧ (fbit (actPre 0 wExtBack.dev) refStat 28 = true) ∧ ((5 : Nat) + 10 * mcPerSec ≤ now (actPre 0 wExtBack.dev))) ∧
    ((wOcxo.dev.aon = true) ∧ (timeOn (actPre 0 wOcxo.dev) = true)) ∧
    ((wOcxo.dev.aon = true) ∧ (warmSince (actPre 0 wOcxo.dev) = some (5 : Nat)) ∧ (timeOn (actPre 0 wOcxo.dev) = true) ∧ (fbit (actPre 0 wOcxo.dev)
      refStat 27 = false) ∧ (fbit (actPre 0 wOcxo.dev) refStat 28 = false) ∧ ((5 : Nat) + fget (actPre 0 wOcxo.dev) (A 1 0x80) 0 16 * mcPerSec ≤ now
      (actPre 0 wOcxo.dev))) ∧
    ((wHoldov.dev.aon = true) ∧ ((actPre 0 wHoldov.dev).hdl.holdFrom = some (5 : Nat)) ∧ (timeOn (actPre 0 wHoldov.dev) = true) ∧ (fbit (actPre 0
      wHoldov.dev) refStat 28 = true) ∧ ((5 : Nat) + fget (actPre 0 wHoldov.dev) (A 1 0x88) 0 16 * mcPerSec ≤ now (actPre 0 wHoldov.dev))) ∧
    ((wBoth.dev.aon = true) ∧ (accepts (actPre 0 wBoth.dev) (A 1 0x80) = true) ∧ ((fset (A 1 0x80) 28 2 1 (plainWrite (A 1 0x80) 0x20000000 (actPre 0
      wBoth.dev)) : Dev) = fset (A 1 0x80) 28 2 (refSel (actPre 0 wBoth.dev)) (plainWrite (A 1 0x80) (0x20000000 : Word).toNat (actPre 0 wBoth.dev)))
      ∧ ((onlyIf (warmFails (fset (A 1 0x80) 28 2 1 (plainWrite (A 1 0x80) 0x20000000 (actPre 0 wBoth.dev)))) (setWarm false) (fset (A 1 0x80) 28 2 1
      (plainWrite (A 1 0x80) 0x20000000 (actPre 0 wBoth.dev))) : Dev) = onlyIf (warmFails (fset (A 1 0x80) 28 2 1 (plainWrite (A 1 0x80) 0x20000000
      (actPre 0 wBoth.dev)) : Dev)) (setWarm false) (fset (A 1 0x80) 28 2 1 (plainWrite (A 1 0x80) 0x20000000 (actPre 0 wBoth.dev)) : Dev)) ∧ (bits
      (0x20000000 : Word).toNat 28 2 ≠ refSel (actPre 0 wBoth.dev)) ∧ ((bits (0x20000000 : Word).toNat 28 2 = 1 ∧ (onlyIf (warmFails (fset (A 1 0x80)
      28 2 1 (plainWrite (A 1 0x80) 0x20000000 (actPre 0 wBoth.dev)))) (setWarm false) (fset (A 1 0x80) 28 2 1 (plainWrite (A 1 0x80) 0x20000000
      (actPre 0 wBoth.dev))) : Dev).hdl.ocxoFrom.isSome = true) ∨ (bits (0x20000000 : Word).toNat 28 2 = 2 ∧ (onlyIf (warmFails (fset (A 1 0x80) 28 2
      1 (plainWrite (A 1 0x80) 0x20000000 (actPre 0 wBoth.dev)))) (setWarm false) (fset (A 1 0x80) 28 2 1 (plainWrite (A 1 0x80) 0x20000000 (actPre 0
      wBoth.dev))) : Dev).hdl.extFrom.isSome = true))) ∧
    ((wBoth.dev.aon = true) ∧ (accepts (actPre 0 wBoth.dev) (A 1 0x80) = true) ∧ ((fset (A 1 0x80) 28 2 1 (plainWrite (A 1 0x80) 0x10000005 (actPre 0
      wBoth.dev)) : Dev) = fset (A 1 0x80) 28 2 (refSel (actPre 0 wBoth.dev)) (plainWrite (A 1 0x80) (0x10000005 : Word).toNat (actPre 0 wBoth.dev)))
      ∧ ((onlyIf (warmFails (fset (A 1 0x80) 28 2 1 (plainWrite (A 1 0x80) 0x10000005 (actPre 0 wBoth.dev)))) (setWarm false) (fset (A 1 0x80) 28 2 1
      (plainWrite (A 1 0x80) 0x10000005 (actPre 0 wBoth.dev))) : Dev) = onlyIf (warmFails (fset (A 1 0x80) 28 2 1 (plainWrite (A 1 0x80) 0x10000005
      (actPre 0 wBoth.dev)) : Dev)) (setWarm false) (fset (A 1 0x80) 28 2 1 (plainWrite (A 1 0x80) 0x10000005 (actPre 0 wBoth.dev)) : Dev)) ∧ (bits
      (0x10000005 : Word).toNat 28 2 = refSel (actPre 0 wBoth.dev)) ∧ ((bits (0x10000005 : Word).toNat 28 2 = 1 ∧ (onlyIf (warmFails (fset (A 1 0x80)
      28 2 1 (plainWrite (A 1 0x80) 0x10000005 (actPre 0 wBoth.dev)))) (setWarm false) (fset (A 1 0x80) 28 2 1 (plainWrite (A 1 0x80) 0x10000005
      (actPre 0 wBoth.dev))) : Dev).hdl.ocxoFrom.isSome = true) ∨ (bits (0x10000005 : Word).toNat 28 2 = 2 ∧ (onlyIf (warmFails (fset (A 1 0x80) 28 2
      1 (plainWrite (A 1 0x80) 0x10000005 (actPre 0 wBoth.dev)))) (setWarm false) (fset (A 1 0x80) 28 2 1 (plainWrite (A 1 0x80) 0x10000005 (actPre 0
      wBoth.dev))) : Dev).hdl.extFrom.isSome = true))) ∧
    ((wBoth.dev.aon = true) ∧ (accepts (actPre 0 wBoth.dev) (A 1 0x80) = true) ∧ ((fset (A 1 0x80) 28 2 1 (plainWrite (A 1 0x80) 0x30000000 (actPre 0
      wBoth.dev)) : Dev) = fset (A 1 0x80) 28 2 (refSel (actPre 0 wBoth.dev)) (plainWrite (A 1 0x80) (0x30000000 : Word).toNat (actPre 0 wBoth.dev)))
      ∧ ((onlyIf (warmFails (fset (A 1 0x80) 28 2 1 (plainWrite (A 1 0x80) 0x30000000 (actPre 0 wBoth.dev)))) (setWarm false) (fset (A 1 0x80) 28 2 1
      (plainWrite (A 1 0x80) 0x30000000 (actPre 0 wBoth.dev))) : Dev) = onlyIf (warmFails (fset (A 1 0x80) 28 2 1 (plainWrite (A 1 0x80) 0x30000000
      (actPre 0 wBoth.dev)) : Dev)) (setWarm false) (fset (A 1 0x80) 28 2 1 (plainWrite (A 1 0x80) 0x30000000 (actPre 0 wBoth.dev)) : Dev)) ∧ (bits
      (0x30000000 : Word).toNat 28 2 = 0 ∨ bits (0x30000000 : Word).toNat 28 2 = 3 ∨ (bits (0x30000000 : Word).toNat 28 2 = 1 ∧ (onlyIf (warmFails
      (fset (A 1 0x80) 28 2 1 (plainWrite (A 1 0x80) 0x30000000 (actPre 0 wBoth.dev)))) (setWarm false) (fset (A 1 0x80) 28 2 1 (plainWrite (A 1 0x80)
      0x30000000 (actPre 0 wBoth.dev))) : Dev).hdl.ocxoFrom = none) ∨ (bits (0x30000000 : Word).toNat 28 2 = 2 ∧ (onlyIf (warmFails (fset (A 1 0x80)
      28 2 1 (plainWrite (A 1 0x80) 0x30000000 (actPre 0 wBoth.dev)))) (setWarm false) (fset (A 1 0x80) 28 2 1 (plainWrite (A 1 0x80) 0x30000000
      (actPre 0 wBoth.dev))) : Dev).hdl.extFrom = none))) ∧
    ((wOcxo.dev.aon = true) ∧ ((actPre 0 wOcxo.dev).clk = true) ∧ ((true : Bool) = true ∨ refSel (actPre 0 wOcxo.dev) ≠ 2)) ∧
    ((wExt.dev.aon = true) ∧ ((actPre 0 wExt.dev).clk = true) ∧ ((false : Bool) = true ∨ refSel (actPre 0 wExt.dev) ≠ 1)) := by
  refine ⟨?_, ?_, ?_, ?_, ?_, ?_, ?_, ?_, ?_, ?_, ?_⟩ <;> decide +kernel

theorem met_TimeOfDayCommandsAct :
    ((wRingT.dev.aon = true) ∧ ((actPre 0 wRingT.dev).clk = true) ∧ (fbit (actPre 0 wRingT.dev) (A ringPage 0x80) 30 = true) ∧ (hdlMember (actPre 0
      wRingT.dev) = true) ∧ (running (actPre 0 wRingT.dev) ringPage = true) ∧ (timeDue (actPre 0 wRingT.dev) = true)) ∧
    ((wTod.dev.aon = true) ∧ (accepts (actPre 0 wTod.dev) (A 6 0x80) = true) ∧ (fbit (actPre 0 wTod.dev) (A ringPage 0x80) 30 = false) ∧ (fbit (actPre
      0 wTod.dev) (A 6 0x84) 31 = true)) ∧
    ((wTod.dev.aon = true) ∧ (timeOn (actPre 0 wTod.dev) = true) ∧ (fbit (actPre 0 wTod.dev) (A 6 0x80) 29 = true) ∧ ((true : Bool) ≠ fbit (actPre 0
      wTod.dev) (A 6 0x80) 28) ∧ (running (actPre 0 wTod.dev) 6 = true) ∧ ((ppsBound (actPre 0 wTod.dev) : Int) = ppsBound (actPre 0 wTod.dev)) ∧
      ((actPre 0 wTod.dev).hdl.ppsWait = []) ∧
      (({ (actPre 0 wTod.dev) with hdl := { (actPre 0 wTod.dev).hdl with ppsWait := [], lastPps := some (now (actPre 0 wTod.dev)) } } : Dev) =
      { (actPre 0 wTod.dev) with hdl := { (actPre 0 wTod.dev).hdl with ppsWait := [], lastPps := some (now (actPre 0 wTod.dev)) } }) ∧ ((ppsBound
      (actPre 0 wTod.dev) : Int) ≤ (now (actPre 0 wTod.dev) : Int))) ∧
    ((wTodAhead.dev.aon = true) ∧ (timeOn (actPre 0 wTodAhead.dev) = true) ∧ (fbit (actPre 0 wTodAhead.dev) (A 6 0x80) 29 = true) ∧ ((true : Bool) ≠
      fbit (actPre 0 wTodAhead.dev) (A 6 0x80) 28) ∧ (running (actPre 0 wTodAhead.dev) 6 = true) ∧ ((ppsBound (actPre 0 wTodAhead.dev) : Int) =
      ppsBound (actPre 0 wTodAhead.dev)) ∧ ((actPre 0 wTodAhead.dev).hdl.ppsWait.all (fun x => decide ((now (actPre 0 wTodAhead.dev) : Int) < x.2)) =
      true) ∧ ((now (actPre 0 wTodAhead.dev) : Int) < (ppsBound (actPre 0 wTodAhead.dev) : Int))) ∧
    ((wTodLate.dev.aon = true) ∧ (timeOn (actPre 0 wTodLate.dev) = true) ∧ ((actPre 0 wTodLate.dev).hdl.bound + mcPerSec ≤ (now (actPre 0
      wTodLate.dev) : Int)) ∧ (ppsHolds (actPre 0 wTodLate.dev) ((actPre 0 wTodLate.dev).hdl.bound + mcPerSec) = false)) ∧
    ((wTodLate.dev.aon = true) ∧ ((actPre 0 wTodLate.dev).hdl.lastPps = some (5 : Int)) ∧ (timeOn (actPre 0 wTodLate.dev) = true) ∧ (fbit (actPre 0
      wTodLate.dev) todStat 27 = true) ∧ ((5 : Int) + 2 * mcPerSec ≤ (now (actPre 0 wTodLate.dev) : Int))) ∧
    ((wTod.dev.aon = true) ∧ (accepts (actPre 0 wTod.dev) (A 6 0x80) = true)) ∧
    ((wTod.dev.aon = true) ∧ (accepts (actPre 0 wTod.dev) (A 6 0xA8) = true)) := by
  refine ⟨?_, ?_, ?_, ?_, ?_, ?_, ?_, ?_⟩ <;> decide +kernel

theorem met_TriggerAndForwardingCommandsAct :
    ((wTrg.dev.aon = true) ∧ (running (actPre 0 wTrg.dev) trgPage = true) ∧ ((3 : Nat) = nowVs (actPre 0 wTrg.dev) + (3 : BitVec 10).toNat) ∧
      ((tinFilter 1 3 (actPre 0 wTrg.dev) : Dev) = tinFilter (1 : Fin 4) (3 : Nat) (actPre 0 wTrg.dev)) ∧ (bits (tinCfg (tinFilter 1 3 (actPre 0
      wTrg.dev) : Dev) (1 : Fin 4)) 0 8 = 0) ∧ ((setTin 1 { getTin (tinFilter 1 3 (actPre 0 wTrg.dev)) 1 with pend := none, lvl := true } (tinFilter 1
      3 (actPre 0 wTrg.dev)) : Dev) = setTin (1 : Fin 4)
      { getTin (tinFilter 1 3 (actPre 0 wTrg.dev) : Dev) (1 : Fin 4) with pend := none, lvl := (true : Bool) } (tinFilter 1 3 (actPre 0 wTrg.dev) :
      Dev))) ∧
    ((wTrg.dev.aon = true) ∧ (running (actPre 0 wTrg.dev) trgPage = true) ∧ ((3 : Nat) = nowVs (actPre 0 wTrg.dev) + (3 : BitVec 10).toNat) ∧
      ((tinFilter 2 3 (actPre 0 wTrg.dev) : Dev) = tinFilter (2 : Fin 4) (3 : Nat) (actPre 0 wTrg.dev)) ∧ (bits (tinCfg (tinFilter 2 3 (actPre 0
      wTrg.dev) : Dev) (2 : Fin 4)) 0 8 ≠ 0)) ∧
    ((wTrg.dev.aon = true) ∧ (accepts (actPre 0 wTrg.dev) (A trgPage 0x140) = true)) ∧
    ((wApp.dev.aon = true) ∧ (({ (actPre 0 wApp.dev) with hdl := {} } : Dev) =
      { (actPre 0 wApp.dev) with hdl := { (actPre 0 wApp.dev).hdl with apps := [] } }) ∧ ((5 : Nat) ≤ now (actPre 0 wApp.dev)) ∧ ((actPre 0
      wApp.dev).hdl.apps = [(4, (5 : Nat), false)])) ∧
    ((wTrg.dev.aon = true) ∧ (accepts (actPre 0 wTrg.dev) (A trgPage (0x100 + 4 * (3 : Fin 16))) = true) ∧ (bits (0x80000000 : Word).toNat 28 3 < 5)) ∧
    ((wTrg.dev.aon = true) ∧ (accepts (actPre 0 wTrg.dev) (A trgPage (0xC0 + 4 * (1 : Fin 4))) = true)) ∧
    ((wTrg.dev.aon = true) ∧ (accepts (actPre 0 wTrg.dev) (A trgPage 0xD0) = true)) ∧
    ((wTrg.dev.aon = true)) ∧
    ((wRpa.dev.aon = true) ∧ (accepts (actPre 0 wRpa.dev) (A rpaPage 0x80) = true) ∧ (running (actPre 0 wRpa.dev) rpaPage = true)) ∧
    ((wRpa.dev.aon = true) ∧ (bit (0x80070000 : Nat) 31 = true) ∧ ((7 : Nat) = bits (0x80070000 : Nat) 16 10) ∧ ((plainWrite (A rpaPage 0x80)
      0x80070000 (actPre 0 wRpa.dev) : Dev) = plainWrite (A rpaPage 0x80) (0x80070000 : Nat) (actPre 0 wRpa.dev)) ∧ ((plainWrite (A rpaPage 0x80)
      0x80070000 (actPre 0 wRpa.dev) : Dev).hdl.rpa = none) ∧ (hdlMember (plainWrite (A rpaPage 0x80) 0x80070000 (actPre 0 wRpa.dev) : Dev) = true) ∧
      ((7 : Nat) ≠ 0) ∧ ((7 : Nat) ≠ hdlId (plainWrite (A rpaPage 0x80) 0x80070000 (actPre 0 wRpa.dev) : Dev))) ∧
    ((wRpaBusy.dev.aon = true) ∧ ((actPre 0 wRpaBusy.dev).hdl.rpa = some ((3 : Nat), (0 : Nat), (true : Bool))) ∧ ((0 : Nat) ≤ now (actPre 0
      wRpaBusy.dev))) ∧
    ((wRes.dev.aon = true) ∧ (running (actPre 0 wRes.dev) resPage = true) ∧ (fbit (actPre 0 wRes.dev) (A resPage 0x80) 31 = true) ∧ (domOn (actPre 0
      wRes.dev) 2 = true) ∧ (classNext (actPre 0 wRes.dev) 2 = some (5 : Nat)) ∧ ((((consumeRec 5 (actPre 0 wRes.dev)).1 : List Byte), ((consumeRec 5
      (actPre 0 wRes.dev)).2 : Dev)) = consumeRec (5 : Nat) (actPre 0 wRes.dev)) ∧ (isPad ((consumeRec 5 (actPre 0 wRes.dev)).1 : List Byte) = false)
      ∧ ((resFrames 0 5 5 (consumeRec 5 (actPre 0 wRes.dev)).1 1 0 0 : List (List Nat)) = resFrames (fget ((consumeRec 5 (actPre 0 wRes.dev)).2 : Dev)
      (A resPage 0x80) 16 10) (hdlId ((consumeRec 5 (actPre 0 wRes.dev)).2 : Dev)) (5 : Nat) ((consumeRec 5 (actPre 0 wRes.dev)).1 : List Byte)
      (((consumeRec 5 (actPre 0 wRes.dev)).1 : List Byte).length / 1024 + 1) 0 ((consumeRec 5 (actPre 0 wRes.dev)).2 : Dev).hdl.resTag)) := by
  refine ⟨?_, ?_, ?_, ?_, ?_, ?_, ?_, ?_, ?_, ?_, ?_, ?_⟩ <;> decide +kernel

theorem met_MemoryCommandsAct :
    ((wMem.dev.aon = true) ∧ ((0 : Nat) = memChannel (actPre 0 wMem.dev) (0x200 : BitVec 48).toNat) ∧ (memInside (actPre 0 wMem.dev) (0x200 : BitVec
      48).toNat = true) ∧ (memUp (actPre 0 wMem.dev) (0 : Nat) = true)) ∧
    ((wMem.dev.aon = true) ∧ ((0 : Nat) = memChannel (actPre 0 wMem.dev) (0x200 : BitVec 48).toNat) ∧ (memInside (actPre 0 wMem.dev) (0x200 : BitVec
      48).toNat = true) ∧ (memUp (actPre 0 wMem.dev) (0 : Nat) = true) ∧ ((errAddr 0 0x200 false (incSat (A (memPage 0) 0x8C) 0 32 1 (actPre 0
      wMem.dev)) : Dev) = errAddr (0 : Nat) (0x200 : BitVec 48).toNat false (incSat (A (memPage (0 : Nat)) 0x8C) 0 32 1 (actPre 0 wMem.dev))) ∧ ((fget
      (actPre 0 wMem.dev) (A (memPage 0) 0x94) 0 16 : Nat) = fget (errAddr 0 0x200 false (incSat (A (memPage 0) 0x8C) 0 32 1 (actPre 0 wMem.dev)) :
      Dev) (A (memPage (0 : Nat)) 0x94) 0 16) ∧ (([0] : List Nat) = (errAddr 0 0x200 false (incSat (A (memPage 0) 0x8C) 0 32 1 (actPre 0 wMem.dev)) :
      Dev).opMc :: (mget (fun _ => []) (errAddr 0 0x200 false (incSat (A (memPage 0) 0x8C) 0 32 1 (actPre 0 wMem.dev)) : Dev).ceT (0 : Nat)).filter
      (fun u => (errAddr 0 0x200 false (incSat (A (memPage 0) 0x8C) 0 32 1 (actPre 0 wMem.dev)) : Dev).opMc < u + mcPerHour))) ∧
    ((wMem.dev.aon = true) ∧ (memUp (actPre 0 wMem.dev) (0 : Fin 8) = true) ∧ (fget (actPre 0 wMem.dev) (A (memPage (0 : Fin 8)) 0xA0) 0 8 ≠ 0) ∧
      ((actPre 0 wMem.dev).resetting.contains (memPage (0 : Fin 8)) = false)) ∧
    ((wMem.dev.aon = true) ∧ (pageOn (actPre 0 wMem.dev) (memPage (0 : Fin 8)) = true) ∧ (memState (actPre 0 wMem.dev) (0 : Fin 8) ≠ 0) ∧ ((40 :
      BitVec 8).toInt < 95)) ∧
    ((wMem.dev.aon = true) ∧ (pageOn (actPre 0 wMem.dev) (memPage (0 : Fin 8)) = true) ∧ (memState (actPre 0 wMem.dev) (0 : Fin 8) ≠ 0) ∧ (95 ≤ (100 :
      BitVec 8).toInt)) ∧
    ((wMemOut.dev.aon = true) ∧ (memUp (actPre 0 wMemOut.dev) (0 : Fin 8) = true) ∧ ((List.range 8).any (fun j => memState (actPre 0 wMemOut.dev) j ==
      3) = true)) ∧
    ((wMem.dev.aon = true) ∧ (memUp (actPre 0 wMem.dev) (0 : Fin 8) = true) ∧ ((List.range 8).any (fun j => memState (actPre 0 wMem.dev) j == 3) =
      false) ∧ ((irqSet (memPage 0) 4 (fset (A (memPage 0) 0x84) 30 2 3 (actPre 0 wMem.dev)) : Dev) = irqSet (memPage (0 : Fin 8)) 4 (fset (A (memPage
      (0 : Fin 8)) 0x84) 30 2 3 (actPre 0 wMem.dev)))) ∧
    ((wMem.dev.aon = true) ∧ (accepts (actPre 0 wMem.dev) (A (memPage (0 : Fin 8)) 0x80) = true)) ∧
    ((wMem.dev.aon = true) ∧ (accepts (actPre 0 wMem.dev) (A (memPage (0 : Fin 8)) 0x80) = true)) := by
  refine ⟨?_, ?_, ?_, ?_, ?_, ?_, ?_, ?_, ?_⟩ <;> decide +kernel

theorem met_HostPortCommandsAct :
    ((wHost.dev.aon = true) ∧ (hostOn (actPre 0 wHost.dev) = true) ∧ (2 ^ 35 ≤ (0x800000000 : BitVec 36).toNat)) ∧
    ((wHost.dev.aon = true) ∧ (memHolds (actPre 0 wHost.dev) (0 : Nat) (4 : Nat) = false) ∧ ((tagPass .host 0 4 (actPre 0 wHost.dev) : Dev) = tagPass
      .host (0 : Nat) (4 : Nat) (actPre 0 wHost.dev)) ∧ ((0 : Nat) + (4 : Nat) ≤ memCapacity (tagPass .host 0 4 (actPre 0 wHost.dev) : Dev)) ∧
      (rangeMapped (tagPass .host 0 4 (actPre 0 wHost.dev) : Dev) (0 : Nat) (4 : Nat) = false)) ∧
    ((wHostHeld.dev.aon = true) ∧ (memHolds (actPre 0 wHostHeld.dev) ({ write := false, a := 0, n := 4, err := false } : HostReq).a (if
      ({ write := false, a := 0, n := 4, err := false } : HostReq).write then ({ write := false, a := 0, n := 4, err := false } : HostReq).data.length
      else ({ write := false, a := 0, n := 4, err := false } : HostReq).n) = true)) ∧
    ((wHostG.dev.aon = true) ∧ (hostOn (actPre 0 wHostG.dev) = true) ∧ ((20 : BitVec 36).toNat < 0x400000) ∧ ((4 : Fin 4097).toNat = 4 ∧ (20 : BitVec
      36).toNat % 4 = 0) ∧ ((true : Bool) = (domOn (actPre 0 wHostG.dev) 2 && blkReady (actPre 0 wHostG.dev) grnPage)) ∧ ((cacheGet 5 (actPre 0
      wHostG.dev) : Dev) = (if (true : Bool) then cacheGet ((20 : BitVec 36).toNat / 4) (actPre 0 wHostG.dev) else (actPre 0 wHostG.dev)))) ∧
    ((wHostG.dev.aon = true) ∧ (hostOn (actPre 0 wHostG.dev) = true) ∧ ((20 : BitVec 36).toNat < 0x400000) ∧ ((commitBytes 5 2 (actPre 0 wHostG.dev) :
      List Byte × Dev) = commitBytes ((20 : BitVec 36).toNat / 4) (((20 : BitVec 36).toNat + (8 : Fin 4097).toNat + 3) / 4 - (20 : BitVec 36).toNat /
      4) (actPre 0 wHostG.dev))) ∧
    ((wHost.dev.aon = true) ∧ (hostOn (actPre 0 wHost.dev) = true) ∧ (0x400000 ≤ (0x400004 : BitVec 36).toNat) ∧ ((0x400004 : BitVec 36).toNat + (4 :
      Fin 4097) ≤ 0x408100)) ∧
    ((wHost.dev.aon = true) ∧ (hostOn (actPre 0 wHost.dev) = true) ∧ (2 ^ 35 ≤ (0x800000004 : BitVec 36).toNat) ∧ ((4 : Nat) = winAddr (actPre 0
      wHost.dev) ((0x800000004 : BitVec 36).toNat - 2 ^ 35)) ∧ ((4 : Nat) + ([1, 2] : List Byte).length ≤ memCapacity (actPre 0 wHost.dev)) ∧
      (rangeMapped (actPre 0 wHost.dev) (4 : Nat) ([1, 2] : List Byte).length = false) ∧ (memHolds (actPre 0 wHost.dev) (4 : Nat) ([1, 2] : List
      Byte).length = false)) ∧
    ((wHost.dev.aon = true) ∧ (hostOn (actPre 0 wHost.dev) = true) ∧ ((20 : BitVec 36).toNat < 0x400000) ∧ (([0, 0, 0, 0] : List Byte).length % 4 = 0)
      ∧ ((20 : BitVec 36).toNat % 4 = 0)) ∧
    ((wHost.dev.aon = true) ∧ (hostOn (actPre 0 wHost.dev) = true) ∧ (0x400000 ≤ (0x400004 : BitVec 36).toNat) ∧ ((0x400004 : BitVec 36).toNat + ([1,
      0, 0, 0] : List Byte).length ≤ 0x408000) ∧ (([1, 0, 0, 0] : List Byte).length % 4 = 0) ∧ ((0x400004 : BitVec 36).toNat % 4 = 0)) ∧
    ((liveAll.dev.aon = true) ∧ (domOn (actPre 0 liveAll.dev) 3 = true) ∧ ((4 : Fin 6).val ≠ 0) ∧ ((8 : Fin 9).val = 1 ∨ (8 : Fin 9).val = 2 ∨ (8 :
      Fin 9).val = 4 ∨ (8 : Fin 9).val = 8) ∧ (fbit (actPre 0 liveAll.dev) (A pciPage 0x80) 0 = false)) ∧
    ((wHost.dev.aon = true) ∧ (domOn (actPre 0 wHost.dev) 3 = true) ∧ ((4 : Fin 6).val ≠ 0) ∧ ((8 : Fin 9).val = 1 ∨ (8 : Fin 9).val = 2 ∨ (8 : Fin
      9).val = 4 ∨ (8 : Fin 9).val = 8) ∧ (fbit (actPre 0 wHost.dev) (A pciPage 0x80) 0 = true)) ∧
    ((wHost.dev.aon = true) ∧ (fbit (actPre 0 wHost.dev) (A pciPage 0x80) 0 = true)) ∧
    ((wHost.dev.aon = true) ∧ (hostOn (actPre 0 wHost.dev) = true)) ∧
    ((wHost.dev.aon = true) ∧ (hostOn (actPre 0 wHost.dev) = true)) ∧
    ((wHost.dev.aon = true)) ∧
    ((wPwake.dev.aon = true) ∧ (fbit (actPre 0 wPwake.dev) (A 5 0x90) 31 = true)) := by
  refine ⟨?_, ?_, ?_, ?_, ?_, ?_, ?_, ?_, ?_, ?_, ?_, ?_, ?_, ?_, ?_, ?_⟩ <;> decide +kernel

theorem met_ExporterCommandsAct :
    ((wEth.dev.aon = true) ∧ (ethOn (actPre 0 wEth.dev) = true) ∧ (domOn (actPre 0 wEth.dev) 2 = true) ∧ (ethNext (actPre 0 wEth.dev) = some (5 :
      Nat))) ∧
    ((wEthFrag.dev.aon = true) ∧ ((cacheLoad 5 (actPre 0 wEthFrag.dev) : Dev) = cacheLoad (5 : Nat) (actPre 0 wEthFrag.dev)) ∧ ((16 : Nat) = ethOff
      (cacheLoad 5 (actPre 0 wEthFrag.dev) : Dev) (5 : Nat)) ∧ ((16 : Nat) ≠ 0)) ∧
    ((wEth.dev.aon = true) ∧ (ethOn (actPre 0 wEth.dev) = true) ∧ ((1 : Nat) = fget (actPre 0 wEth.dev) (A ethPage 0x84) 0 16) ∧ ((1 : Nat) ≠ 0) ∧
      ((actPre 0 wEth.dev).eth.sent + (1 : Nat) * 1600000 ≤ now (actPre 0 wEth.dev)) ∧ (((actPre 0 wEth.dev).grn.queues.filter fun x => qClass x.2 ==
      1 && x.2.en).head? = some ((5 : Nat), ({ en := true, w1 := 2 ^ 9, wrp := 2, commit := 2 } : Queue)))) ∧
    ((wEth.dev.aon = true) ∧ (pageOn (actPre 0 wEth.dev) ethPage = true)) ∧
    ((liveAll.dev.aon = true) ∧ (pageOn (actPre 0 liveAll.dev) ethPage = true) ∧ (fbit (actPre 0 liveAll.dev) (A ethPage 0x88) 31 = false)) ∧
    ((wEth.dev.aon = true) ∧ (fbit (actPre 0 wEth.dev) (A ethPage 0x88) 31 = true)) ∧
    ((liveAll.dev.aon = true) ∧ (pageOn (actPre 0 liveAll.dev) ethPage = true) ∧ ((fset (A ethPage 0x88) 29 1 0 (fset (A ethPage 0x88) 30 1 0 (actPre
      0 liveAll.dev)) : Dev) = fset (A ethPage 0x88) 29 1 (b2n (false : Bool)) (fset (A ethPage 0x88) 30 1 (b2n (!(true : Bool))) (actPre 0
      liveAll.dev))) ∧ (fget (fset (A ethPage 0x88) 29 1 0 (fset (A ethPage 0x88) 30 1 0 (actPre 0 liveAll.dev)) : Dev) (A ethPage 0x88) 29 2 = fget
      (actPre 0 liveAll.dev) (A ethPage 0x88) 29 2)) ∧
    ((liveAll.dev.aon = true) ∧ (pageOn (actPre 0 liveAll.dev) ethPage = true) ∧ ((fset (A ethPage 0x88) 29 1 1 (fset (A ethPage 0x88) 30 1 1 (actPre
      0 liveAll.dev)) : Dev) = fset (A ethPage 0x88) 29 1 (b2n (true : Bool)) (fset (A ethPage 0x88) 30 1 (b2n (!(false : Bool))) (actPre 0
      liveAll.dev))) ∧ (fget (fset (A ethPage 0x88) 29 1 1 (fset (A ethPage 0x88) 30 1 1 (actPre 0 liveAll.dev)) : Dev) (A ethPage 0x88) 29 2 ≠ fget
      (actPre 0 liveAll.dev) (A ethPage 0x88) 29 2)) := by
  refine ⟨?_, ?_, ?_, ?_, ?_, ?_, ?_, ?_⟩ <;> decide +kernel

theorem met_SmbusAndFlashCommandsAct :
    ((wSmb.dev.aon = true) ∧ (running (actPre 0 wSmb.dev) 0x192 = true) ∧ ((none : Option Bool) = some true ∨ ((none : Option Bool) = none ∧ fbit
      (actPre 0 wSmb.dev) (A 0x192 0x80) 31 = false)) ∧ ((incSat (A 0x192 0x84) 16 16 1 (actPre 0 wSmb.dev) : Dev) = incSat (A 0x192 0x84) 16 16 1
      (actPre 0 wSmb.dev))) ∧
    ((wSmb.dev.aon = true) ∧ (running (actPre 0 wSmb.dev) 0x192 = true) ∧ ((none : Option Bool) = some true ∨ ((none : Option Bool) = none ∧ fbit
      (actPre 0 wSmb.dev) (A 0x192 0x80) 31 = false)) ∧ ((incSat (A 0x192 0x84) 16 16 1 (actPre 0 wSmb.dev) : Dev) = incSat (A 0x192 0x84) 16 16 1
      (actPre 0 wSmb.dev))) ∧
    ((wSmb.dev.aon = true) ∧ (running (actPre 0 wSmb.dev) 0x192 = true) ∧ ((none : Option Bool) = some true ∨ ((none : Option Bool) = none ∧ fbit
      (actPre 0 wSmb.dev) (A 0x192 0x80) 31 = false)) ∧ ((incSat (A 0x192 0x84) 16 16 1 (actPre 0 wSmb.dev) : Dev) = incSat (A 0x192 0x84) 16 16 1
      (actPre 0 wSmb.dev))) ∧
    ((wSmb.dev.aon = true) ∧ (running (actPre 0 wSmb.dev) 0x192 = true) ∧ ((none : Option Bool) = some true ∨ ((none : Option Bool) = none ∧ fbit
      (actPre 0 wSmb.dev) (A 0x192 0x80) 31 = false)) ∧ ((incSat (A 0x192 0x84) 16 16 1 (actPre 0 wSmb.dev) : Dev) = incSat (A 0x192 0x84) 16 16 1
      (actPre 0 wSmb.dev))) ∧
    ((wSmb.dev.aon = true) ∧ (running (actPre 0 wSmb.dev) 0x192 = true) ∧ ((none : Option Bool) = some true ∨ ((none : Option Bool) = none ∧ fbit
      (actPre 0 wSmb.dev) (A 0x192 0x80) 31 = false)) ∧ ((incSat (A 0x192 0x84) 16 16 1 (actPre 0 wSmb.dev) : Dev) = incSat (A 0x192 0x84) 16 16 1
      (actPre 0 wSmb.dev))) ∧
    ((wSmb.dev.aon = true) ∧ (running (actPre 0 wSmb.dev) 0x192 = true) ∧ ((none : Option Bool) = some true ∨ ((none : Option Bool) = none ∧ fbit
      (actPre 0 wSmb.dev) (A 0x192 0x80) 31 = false)) ∧ ((incSat (A 0x192 0x84) 16 16 1 (actPre 0 wSmb.dev) : Dev) = incSat (A 0x192 0x84) 16 16 1
      (actPre 0 wSmb.dev))) ∧
    ((wSmb.dev.aon = true) ∧ (running (actPre 0 wSmb.dev) 0x192 = true) ∧ ((none : Option Bool) = some true ∨ ((none : Option Bool) = none ∧ fbit
      (actPre 0 wSmb.dev) (A 0x192 0x80) 31 = false)) ∧ ((incSat (A 0x192 0x84) 16 16 1 (actPre 0 wSmb.dev) : Dev) = incSat (A 0x192 0x84) 16 16 1
      (actPre 0 wSmb.dev))) ∧
    ((wSmb.dev.aon = true) ∧ (running (actPre 0 wSmb.dev) 0x192 = true) ∧ ((none : Option Bool) = some true ∨ ((none : Option Bool) = none ∧ fbit
      (actPre 0 wSmb.dev) (A 0x192 0x80) 31 = false)) ∧ ((incSat (A 0x192 0x84) 16 16 1 (actPre 0 wSmb.dev) : Dev) = incSat (A 0x192 0x84) 16 16 1
      (actPre 0 wSmb.dev))) ∧
    ((wXsp.dev.aon = true) ∧ (accepts (actPre 0 wXsp.dev) (A xspPage 0x84) = true) ∧ ((0 : Nat) = fget (actPre 0 wXsp.dev) (A xspPage 0x88) 0 28) ∧
      (blkReady (actPre 0 wXsp.dev) xspPage = true) ∧ ((actPre 0 wXsp.dev).xsp = none) ∧ (running (actPre 0 wXsp.dev) xspPage = true) ∧ ((0 : Nat) +
      ((7 : BitVec 8).toNat + 1) ≤ flashSize (actPre 0 wXsp.dev))) ∧
    ((wXsp.dev.aon = true) ∧ (accepts (actPre 0 wXsp.dev) (A xspPage 0x84) = true) ∧ ((0 : Nat) = fget (actPre 0 wXsp.dev) (A xspPage 0x88) 0 28) ∧
      (blkReady (actPre 0 wXsp.dev) xspPage = true) ∧ ((actPre 0 wXsp.dev).xsp = none) ∧ (running (actPre 0 wXsp.dev) xspPage = true) ∧ ((0 : Nat) +
      ((7 : BitVec 8).toNat + 1) ≤ flashSize (actPre 0 wXsp.dev)) ∧ (fbit (actPre 0 wXsp.dev) (A xspPage 0x90) 31 = true)) ∧
    ((wXsp.dev.aon = true) ∧ (accepts (actPre 0 wXsp.dev) (A xspPage 0x84) = true) ∧ ((0 : Nat) = fget (actPre 0 wXsp.dev) (A xspPage 0x88) 0 28) ∧
      (blkReady (actPre 0 wXsp.dev) xspPage = true) ∧ ((actPre 0 wXsp.dev).xsp = none) ∧ (running (actPre 0 wXsp.dev) xspPage = true) ∧ ((0 : Nat) +
      (1) ≤ flashSize (actPre 0 wXsp.dev)) ∧ (fbit (actPre 0 wXsp.dev) (A xspPage 0x90) 31 = true)) ∧
    ((wXsp0.dev.aon = true) ∧ ((actPre 0 wXsp0.dev).xsp = some ((0 : Nat), (0 : Nat), (8 : Nat))) ∧ ((fset (A xspPage 0x84) 30 1 0
      { (actPre 0 wXsp0.dev) with xsp := none } : Dev) = fset (A xspPage 0x84) 30 1 0 { (actPre 0 wXsp0.dev) with xsp := none }) ∧ ((putBuf (freeBytes
      8 (fset (A xspPage 0x84) 30 1 0 { (actPre 0 wXsp0.dev) with xsp := none })).1 (freeBytes 8 (fset (A xspPage 0x84) 30 1 0
      { (actPre 0 wXsp0.dev) with xsp := none })).2 : Dev) = (if (0 : Nat) = 0 then putBuf (freeBytes (8 : Nat) (fset (A xspPage 0x84) 30 1 0
      { (actPre 0 wXsp0.dev) with xsp := none } : Dev)).1 (freeBytes (8 : Nat) (fset (A xspPage 0x84) 30 1 0 { (actPre 0 wXsp0.dev) with xsp := none }
      : Dev)).2 else flashTorn (0 : Nat) (0 : Nat) (8 : Nat) (fset (A xspPage 0x84) 30 1 0 { (actPre 0 wXsp0.dev) with xsp := none } : Dev)))) ∧
    ((wXsp0.dev.aon = true) ∧ ((actPre 0 wXsp0.dev).xsp = some (0, (0 : Nat), (8 : Nat))) ∧ ((fset (A xspPage 0x84) 30 1 0
      { (actPre 0 wXsp0.dev) with xsp := none } : Dev) = fset (A xspPage 0x84) 30 1 0 { (actPre 0 wXsp0.dev) with xsp := none })) ∧
    ((wXsp1.dev.aon = true) ∧ ((actPre 0 wXsp1.dev).xsp = some (1, (0 : Nat), (8 : Nat))) ∧ ((fset (A xspPage 0x84) 30 1 0
      { (actPre 0 wXsp1.dev) with xsp := none } : Dev) = fset (A xspPage 0x84) 30 1 0 { (actPre 0 wXsp1.dev) with xsp := none })) ∧
    ((wXsp2.dev.aon = true) ∧ ((actPre 0 wXsp2.dev).xsp = some (2, (0 : Nat), (8 : Nat))) ∧ ((fset (A xspPage 0x84) 30 1 0
      { (actPre 0 wXsp2.dev) with xsp := none } : Dev) = fset (A xspPage 0x84) 30 1 0 { (actPre 0 wXsp2.dev) with xsp := none })) := by
  refine ⟨?_, ?_, ?_, ?_, ?_, ?_, ?_, ?_, ?_, ?_, ?_, ?_, ?_, ?_, ?_⟩
  · decide +kernel
  · decide +kernel
  · decide +kernel
  · decide +kernel
  · decide +kernel
  · decide +kernel
  · decide +kernel
  · decide +kernel
  · decide +kernel
  · decide +kernel
  · decide +kernel
  · refine ⟨by decide +kernel, by decide +kernel, rfl, rfl⟩
  · decide +kernel
  · decide +kernel
  · decide +kernel

theorem met_FaultEvidenceCommandsAct :
    ((liveAll.dev.aon = true) ∧ (externalCause (0x17 : BitVec 8).toNat (1 : BitVec 5).toNat = true) ∧ ((srcPage (0x17 : BitVec 8).toNat).any (pageOn
      (actPre 0 liveAll.dev)) = true) ∧ ((getSrc (actPre 0 liveAll.dev) (0x17 : BitVec 8).toNat).live.contains (5 : BitVec 9).toNat = false) ∧
      (resFits (actPre 0 liveAll.dev) (0x17 : BitVec 8).toNat (5 : BitVec 9).toNat = true)) ∧
    ((wLive1.dev.aon = true) ∧ ([1, 2, 3, 4, 6, 7, 8, 9, 0xE].contains (1 : BitVec 8).toNat = true) ∧ ((getSrc (actPre 0 wLive1.dev) (1 : BitVec
      8).toNat).live.contains (0 : BitVec 9).toNat = true) ∧ (([] : List Nat) = (getSrc (actPre 0 wLive1.dev) (1 : BitVec 8).toNat).live.filter (· ≠
      (0 : BitVec 9).toNat)) ∧ ((fset refStat 26 1 1
      { (actPre 0 wLive1.dev) with hdl := { (actPre 0 wLive1.dev).hdl with lockFrom := some (now (actPre 0 wLive1.dev)) } } : Dev) = (if (1 : BitVec
      8).toNat = 1 then fset refStat 26 1 1
      { (actPre 0 wLive1.dev) with hdl := { (actPre 0 wLive1.dev).hdl with lockFrom := some (now (actPre 0 wLive1.dev)) } } else (actPre 0
      wLive1.dev)))) ∧
    ((liveAll.dev.aon = true) ∧ (([] : List Shadow) = (actPre 0 liveAll.dev).flt.shadows.filter (shadowDue (actPre 0 liveAll.dev)))) ∧
    ((wSel.dev.aon = true) ∧ (accepts (actPre 0 wSel.dev) (A 2 0x88) = true) ∧ ((0x14 : Nat) = fget (actPre 0 wSel.dev) (A 2 0x80) 0 8) ∧ ((srcPage
      (0x14 : Nat)).isSome = true) ∧ (srcLive (actPre 0 wSel.dev) (0x14 : Nat) = false) ∧ ((getSrc (actPre 0 wSel.dev) 0x14 : SrcSt) = getSrc (actPre
      0 wSel.dev) (0x14 : Nat)) ∧ (((getSrc (actPre 0 wSel.dev) 0x14 : SrcSt).sticky && !(getSrc (actPre 0 wSel.dev) 0x14 : SrcSt).prereset && (actPre
      0 wSel.dev).clk && (getSrc (actPre 0 wSel.dev) 0x14 : SrcSt).last = now (actPre 0 wSel.dev)) = false)) ∧
    ((liveAll.dev.aon = true) ∧ (accepts (actPre 0 liveAll.dev) (A 2 0x80) = true)) ∧
    ((liveAll.dev.aon = true) ∧ (readable (actPre 0 liveAll.dev) (A 2 0x88) = true) ∧ (regAt (A 2 0x88) = some ((regAt (A 2 0x88)).getD (rRO 0 0) :
      Reg))) ∧
    ((liveAll.dev.aon = true) ∧ (accepts (actPre 0 liveAll.dev) (A 2 0xDC) = true)) ∧
    ((liveAll.dev.aon = true) ∧ (accepts (actPre 0 liveAll.dev) (A 2 0xE0) = true) ∧
      (({ fset (A 2 0xE0) 30 1 0 (actPre 0 liveAll.dev) with flt := { (actPre 0 liveAll.dev).flt with pulse := some (aT (actPre 0 liveAll.dev)) } } :
      Dev) =
      { fset (A 2 0xE0) 30 1 (bits (0 : Word).toNat 30 1) (actPre 0 liveAll.dev) with flt := { (actPre 0 liveAll.dev).flt with pulse := some (aT (actPre 0 liveAll.dev)) } })) ∧
    ((liveAll.dev.aon = true) ∧ (accepts (actPre 0 liveAll.dev) (A 2 0xE0) = true) ∧ (bit (0 : Word).toNat 30 = false)) ∧
    ((liveAll.dev.aon = true) ∧ (accepts (actPre 0 liveAll.dev) (A 2 0xE0) = true) ∧ (bit (0x40000000 : Word).toNat 30 = true)) ∧
    ((liveAll.dev.aon = true) ∧ (accepts (actPre 0 liveAll.dev) (A 2 0xE8) = true) ∧ ((0x30 : Nat) = (0x30 : Word).toNat ^^^ ((0x30 : Word).toNat &&&
      rdN (actPre 0 liveAll.dev) (A 2 0xE8) &&& (m32 ^^^ (mget regReset (actPre 0 liveAll.dev).mcRegs (A 2 0xE8)).toNat)))) := by
  refine ⟨?_, ?_, ?_, ?_, ?_, ?_, ?_, ?_, ?_, ?_, ?_⟩ <;> decide +kernel

theorem met_ErrQuenchAndChipResetCommandsAct :
    ((wErrP.dev.aon = true) ∧ (fbit (actPre 0 wErrP.dev) (A 2 0xC0) 28 = true) ∧ ((actPre 0 wErrP.dev).flt.errEnd ≤ aT (actPre 0 wErrP.dev)) ∧ (fbit
      (actPre 0 wErrP.dev) (A 2 0xC0) 31 = false ∨ (actPre 0 wErrP.dev).flt.errClr = true)) ∧
    ((wErrL.dev.aon = true) ∧ (fbit (actPre 0 wErrL.dev) (A 2 0xC0) 28 = true) ∧ ((actPre 0 wErrL.dev).flt.errEnd ≤ aT (actPre 0 wErrL.dev)) ∧ (fbit
      (actPre 0 wErrL.dev) (A 2 0xC0) 31 = true) ∧ ((actPre 0 wErrL.dev).flt.errClr = false)) ∧
    ((wErrPl.dev.aon = true) ∧ (accepts (actPre 0 wErrPl.dev) (A 2 0xC0) = true) ∧ ((0x40000005 : Nat) = (5 : Word).toNat ||| 0x40000000) ∧ ((fset (A
      2 0xC0) 31 1 0 (fset (A 2 0xC0) 0 14 5 (errNow (actPre 0 wErrPl.dev))) : Dev) = fset (A 2 0xC0) 31 1 (bits (0x40000005 : Nat) 31 1) (if bits
      (0x40000005 : Nat) 0 14 = 0 ∨ 10000 < bits (0x40000005 : Nat) 0 14 then errNow (actPre 0 wErrPl.dev) else fset (A 2 0xC0) 0 14 (bits (0x40000005
      : Nat) 0 14) (errNow (actPre 0 wErrPl.dev)))) ∧ (fbit (fset (A 2 0xC0) 31 1 0 (fset (A 2 0xC0) 0 14 5 (errNow (actPre 0 wErrPl.dev))) : Dev) (A
      2 0xC0) 28 = true)) ∧
    ((wErrH.dev.aon = true) ∧ (accepts (actPre 0 wErrH.dev) (A 2 0xC0) = true) ∧ ((0x40000005 : Nat) = (5 : Word).toNat ||| 0x40000000) ∧ ((fset (A 2
      0xC0) 31 1 0 (fset (A 2 0xC0) 0 14 5 (errNow (actPre 0 wErrH.dev))) : Dev) = fset (A 2 0xC0) 31 1 (bits (0x40000005 : Nat) 31 1) (if bits
      (0x40000005 : Nat) 0 14 = 0 ∨ 10000 < bits (0x40000005 : Nat) 0 14 then errNow (actPre 0 wErrH.dev) else fset (A 2 0xC0) 0 14 (bits (0x40000005
      : Nat) 0 14) (errNow (actPre 0 wErrH.dev)))) ∧ (fbit (fset (A 2 0xC0) 31 1 0 (fset (A 2 0xC0) 0 14 5 (errNow (actPre 0 wErrH.dev))) : Dev) (A 2
      0xC0) 28 = false) ∧ (fbit (fset (A 2 0xC0) 31 1 0 (fset (A 2 0xC0) 0 14 5 (errNow (actPre 0 wErrH.dev))) : Dev) (A 2 0xC0) 29 = true)) ∧
    ((wErrR.dev.aon = true) ∧ ((actPre 0 wErrR.dev).flt.errHigh = some (0 : Nat)) ∧ ((actPre 0 wErrR.dev).flt.errPend = true) ∧ ((0 : Nat) + 160 ≤ aT
      (actPre 0 wErrR.dev)) ∧ (fbit (actPre 0 wErrR.dev) (A 2 0xC0) 29 = false)) ∧
    ((wQu.dev.aon = true) ∧ (accepts (actPre 0 wQu.dev) (A 2 0xC8) = true) ∧ ((plainWrite (A 2 0xC8) 0x40000000 (actPre 0 wQu.dev) : Dev) = plainWrite
      (A 2 0xC8) ((0 : Word).toNat ||| 0x40000000) (actPre 0 wQu.dev)) ∧ (inQuench (plainWrite (A 2 0xC8) 0x40000000 (actPre 0 wQu.dev) : Dev) = true)
      ∧ (quenchLive (plainWrite (A 2 0xC8) 0x40000000 (actPre 0 wQu.dev) : Dev) = false) ∧ ((List.range 66).all (engStopped (plainWrite (A 2 0xC8)
      0x40000000 (actPre 0 wQu.dev) : Dev)) = true) ∧ (bit (actedAt (plainWrite (A 2 0xC8) 0x40000000 (actPre 0 wQu.dev) : Dev) (aT (plainWrite (A 2
      0xC8) 0x40000000 (actPre 0 wQu.dev) : Dev))).1 5 = false) ∧ ((lanesP (plainWrite (A 2 0xC8) 0x40000000 (actPre 0 wQu.dev)) : Dev) = lanesP (if
      (plainWrite (A 2 0xC8) 0x40000000 (actPre 0 wQu.dev) : Dev).flt.quenchPend then quenchPark (nowVs (plainWrite (A 2 0xC8) 0x40000000 (actPre 0
      wQu.dev) : Dev)) (plainWrite (A 2 0xC8) 0x40000000 (actPre 0 wQu.dev) : Dev) else (plainWrite (A 2 0xC8) 0x40000000 (actPre 0 wQu.dev) : Dev)))) ∧
    ((wChipR.dev.aon = true) ∧ ((actPre 0 wChipR.dev).flt.chipRst = some ((1 : Nat), (0 : Nat), (true : Bool))) ∧ ((true : Bool) = true ∨ (0 : Nat) +
      102400 ≤ aT (actPre 0 wChipR.dev))) := by
  refine ⟨?_, ?_, ?_, ?_, ?_, ?_, ?_⟩ <;> decide +kernel

theorem met_DomainAndStandbyCommandsAct :
    ((liveAll.dev.aon = true) ∧ (accepts (actPre 0 liveAll.dev) (A 5 0x84) = true) ∧ (switchables.find? (onErr (actPre 0 liveAll.dev) (0x4FFF0 :
      Word).toNat) = none) ∧ (switchables.find? (offErr (actPre 0 liveAll.dev) (0x4FFF0 : Word).toNat) = none)) ∧
    ((wSw16.dev.aon = true) ∧ ((actPre 0 wSw16.dev).sw.any (fun x => x.1 == (16 : Fin 20).val && decide (aT (actPre 0 wSw16.dev) ≤ x.2 + 32000)) =
      true) ∧ ((actPre 0 wSw16.dev).booting = true ∨ (16 : Fin 20).val < 4 ∨ 12 ≤ (16 : Fin 20).val) ∧ ((fset (A 5 0x88) 16 1 1
      { (actPre 0 wSw16.dev) with sw := [] } : Dev) = fset (A 5 0x88) (16 : Fin 20) 1 1
      { (actPre 0 wSw16.dev) with sw := (actPre 0 wSw16.dev).sw.filter fun x => x.1 != (16 : Fin 20).val })) ∧
    ((wSw5.dev.aon = true) ∧ ((actPre 0 wSw5.dev).sw.any (fun x => x.1 == (5 : Fin 20).val && decide (aT (actPre 0 wSw5.dev) ≤ x.2 + 32000)) = true) ∧
      ((actPre 0 wSw5.dev).booting = false) ∧ (4 ≤ (5 : Fin 20).val) ∧ ((5 : Fin 20).val < 12) ∧ ((fset (A 5 0x88) 5 1 1
      { (actPre 0 wSw5.dev) with sw := [] } : Dev) = fset (A 5 0x88) (5 : Fin 20) 1 1
      { (actPre 0 wSw5.dev) with sw := (actPre 0 wSw5.dev).sw.filter fun x => x.1 != (5 : Fin 20).val })) ∧
    ((wSwT.dev.aon = true) ∧ ((actPre 0 wSwT.dev).sw.find? (·.1 == (5 : Fin 20).val) = some ((5 : Nat), (0 : Nat))) ∧ ((0 : Nat) + 32000 ≤ aT (actPre
      0 wSwT.dev)) ∧ ((raise 0x0D 13 (domErr 1 5 { (actPre 0 wSwT.dev) with sw := [] }) : Dev) = raise 0x0D 13 (domErr 1 (5 : Fin 20)
      { (actPre 0 wSwT.dev) with sw := (actPre 0 wSwT.dev).sw.filter fun x => x.1 != (5 : Fin 20).val }))) ∧
    ((liveAll.dev.aon = true) ∧ (accepts (actPre 0 liveAll.dev) (A 5 0x80) = true) ∧ ((actPre 0 liveAll.dev).standby = 0) ∧ ((List.range 66).all
      (engStopped (actPre 0 liveAll.dev)) = true)) ∧
    ((wStby1.dev.aon = true) ∧ ((actPre 0 wStby1.dev).standby = 1) ∧ ((actPre 0 wStby1.dev).hmk.queue = [])) ∧
    ((wStby2.dev.aon = true) ∧ ((actPre 0 wStby2.dev).standby = 2) ∧ (fbit (actPre 0 wStby2.dev) (A 5 0x90) 30 = true) ∧ (rdN (actPre 0 wStby2.dev) (A
      5 0x94) * 25000000 ≤ (actPre 0 wStby2.dev).aonT)) ∧
    ((wHour.dev.aon = true) ∧ (((actPre 0 wHour.dev).hmk.hours + 1) * mcPerHour ≤ (actPre 0 wHour.dev).opMc) ∧ ((incSat (A 3 0x98) 0 32 1
      { (actPre 0 wHour.dev) with hmk := { (actPre 0 wHour.dev).hmk with hours := (actPre 0 wHour.dev).hmk.hours + 1 } } : Dev) = incSat (A 3 0x98) 0
      32 1 { (actPre 0 wHour.dev) with hmk := { (actPre 0 wHour.dev).hmk with hours := (actPre 0 wHour.dev).hmk.hours + 1 } }) ∧ ((hmkQueue 5 3 0
      (leBytes 4 0 ++ leBytes 4 0 ++ leBytes 4 0 ++ leBytes 2 70 ++ leBytes 2 50 ++ leBytes 4 0 ++ leBytes 4 0) (incSat (A 3 0x98) 0 32 1
      { (actPre 0 wHour.dev) with hmk := { (actPre 0 wHour.dev).hmk with hours := (actPre 0 wHour.dev).hmk.hours + 1 } }) : Dev) = hmkQueue 5 3 0
      (leBytes 4 (rdN (incSat (A 3 0x98) 0 32 1
      { (actPre 0 wHour.dev) with hmk := { (actPre 0 wHour.dev).hmk with hours := (actPre 0 wHour.dev).hmk.hours + 1 } } : Dev) (A 3 0x9C)) ++ leBytes
      4 (rdN (incSat (A 3 0x98) 0 32 1
      { (actPre 0 wHour.dev) with hmk := { (actPre 0 wHour.dev).hmk with hours := (actPre 0 wHour.dev).hmk.hours + 1 } } : Dev) (A 3 0xA0)) ++ leBytes
      4 (rdN (incSat (A 3 0x98) 0 32 1
      { (actPre 0 wHour.dev) with hmk := { (actPre 0 wHour.dev).hmk with hours := (actPre 0 wHour.dev).hmk.hours + 1 } } : Dev) (A 3 0xA8)) ++ leBytes
      2 (70 : BitVec 16).toNat ++ leBytes 2 (50 : BitVec 16).toNat ++ leBytes 4 (rdN (incSat (A 3 0x98) 0 32 1
      { (actPre 0 wHour.dev) with hmk := { (actPre 0 wHour.dev).hmk with hours := (actPre 0 wHour.dev).hmk.hours + 1 } } : Dev) (A 2 0xE8)) ++ leBytes
      4 (incSat (A 3 0x98) 0 32 1 { (actPre 0 wHour.dev) with hmk := { (actPre 0 wHour.dev).hmk with hours := (actPre 0 wHour.dev).hmk.hours + 1 } } :
      Dev).flt.sramHour) (incSat (A 3 0x98) 0 32 1
      { (actPre 0 wHour.dev) with hmk := { (actPre 0 wHour.dev).hmk with hours := (actPre 0 wHour.dev).hmk.hours + 1 } } : Dev))) := by
  refine ⟨?_, ?_, ?_, ?_, ?_, ?_, ?_, ?_⟩ <;> decide +kernel

theorem met_HallmarkAndFuseStoresAct :
    ((wHmk.dev.aon = true) ∧ (hmkBusy (actPre 0 wHmk.dev) = true) ∧ ((actPre 0 wHmk.dev).hmk.queue = (recT : HmkRec) :: ([] : List HmkRec)) ∧ ((0 :
      Nat) = fget (actPre 0 wHmk.dev) (A 3 0x84) 0 13) ∧ ((hmkBytes recT 1 : List Byte) = hmkBytes (recT : HmkRec) (rd64 (actPre 0 wHmk.dev) (A 3
      0x8C))) ∧ ((putSlot 0 (hmkBytes recT 1) wHmk.nv : Nv) = putSlot (0 : Nat) (hmkBytes recT 1 : List Byte) wHmk.nv) ∧ ((wrN (A 3 0x84) 1 (showHmk
      { (actPre 0 wHmk.dev) with hmk := { (actPre 0 wHmk.dev).hmk with queue := [] } }) : Dev) = wrN (A 3 0x84) (slotAfter (0 : Nat)) (showHmk
      { (actPre 0 wHmk.dev) with hmk := { (actPre 0 wHmk.dev).hmk with queue := ([] : List HmkRec) } }))) ∧
    ((wHmk.dev.aon = true) ∧ (hmkBusy (actPre 0 wHmk.dev) = true) ∧ ((actPre 0 wHmk.dev).hmk.queue = (recT : HmkRec) :: ([] : List HmkRec)) ∧ ((0 :
      Nat) = fget (actPre 0 wHmk.dev) (A 3 0x84) 0 13) ∧ ((hmkBytes recT 1 : List Byte) = hmkBytes (recT : HmkRec) (rd64 (actPre 0 wHmk.dev) (A 3
      0x8C))) ∧ ((putSlot 1 (hmkBytes recT 1) (putSlot 0 (tornSlot []) wHmk.nv) : Nv) = putSlot (slotAfter (0 : Nat)) (hmkBytes recT 1 : List Byte)
      (putSlot (0 : Nat) (tornSlot ([] : List Byte)) wHmk.nv)) ∧ ((raise 0xF3 0 (wrN (A 3 0x84) 2 (showHmk
      { (actPre 0 wHmk.dev) with hmk := { (actPre 0 wHmk.dev).hmk with queue := [] } })) : Dev) = raise 0xF3 0 (wrN (A 3 0x84) (slotAfter (slotAfter
      (0 : Nat))) (showHmk { (actPre 0 wHmk.dev) with hmk := { (actPre 0 wHmk.dev).hmk with queue := ([] : List HmkRec) } })))) ∧
    ((wHmk.dev.aon = true) ∧ (hmkBusy (actPre 0 wHmk.dev) = true) ∧ ((actPre 0 wHmk.dev).hmk.queue = (recT : HmkRec) :: ([] : List HmkRec)) ∧ ((0 :
      Nat) = fget (actPre 0 wHmk.dev) (A 3 0x84) 0 13) ∧ ((putSlot 1 (tornSlot []) (putSlot 0 (tornSlot []) wHmk.nv) : Nv) = putSlot (slotAfter (0 :
      Nat)) (tornSlot ([] : List Byte)) (putSlot (0 : Nat) (tornSlot ([] : List Byte)) wHmk.nv))) ∧
    ((wFuse.dev.aon = true) ∧ ((actPre 0 wFuse.dev).sec.fuse = some ((3 : Nat), (0 : Nat), (5 : Nat), (0 : Nat))) ∧ ((blow (3, 0, 5, 0) wFuse.nv : Nv)
      = blow ((3 : Nat), (0 : Nat), (5 : Nat), (0 : Nat)) wFuse.nv)) ∧
    ((wHmk.dev.aon = true) ∧ ((putSlot 0 (tornSlot []) wHmk.nv : Nv) = lossNv (some [] : Option (List Byte)) (actPre 0 wHmk.dev) wHmk.nv) ∧ ((actPre 0
      wHmk.dev).aon = true)) := by
  refine ⟨?_, ?_, ?_, ?_, ?_⟩ <;> decide +kernel

theorem met_PowerOnActs : (({ dev := { aon := false, rstLow := false } } : State).dev.aon = false) := by
  decide +kernel

theorem met_ResetAndBootCommandsAct :
    ((liveAll.dev.aon = true) ∧ ((actPre 0 liveAll.dev).rstLow = false)) ∧
    ((liveAll.dev.aon = true) ∧ (accepts (actPre 0 liveAll.dev) (A 0 8) = true)) ∧
    ((State.reset.dev.aon = true) ∧ ((actPre 0 State.reset.dev).rstLow = true)) ∧
    (((wBootAt 0).dev.aon = true) ∧ ((actPre 0 (wBootAt 0).dev).booting = true) ∧ (bootStage (actPre 0 (wBootAt 0).dev) = 0) ∧ ((hmkScan (wBootAt
      0).nv (actPre 0 (wBootAt 0).dev) : Dev) = (if fbit (actPre 0 (wBootAt 0).dev) (A 3 0x80) 31 then (actPre 0 (wBootAt 0).dev) else hmkScan
      (wBootAt 0).nv (actPre 0 (wBootAt 0).dev)))) ∧
    (((wBootAt 1).dev.aon = true) ∧ ((actPre 0 (wBootAt 1).dev).booting = true) ∧ (bootStage (actPre 0 (wBootAt 1).dev) = 1) ∧ (stageUp (actPre 0
      (wBootAt 1).dev) = true) ∧ ((rebase true (actPre 0 (wBootAt 1).dev) : Dev) = rebase true (actPre 0 (wBootAt 1).dev)) ∧
      (({ rebase true (actPre 0 (wBootAt 1).dev) with hdl := { (rebase true (actPre 0 (wBootAt 1).dev)).hdl with extFrom := none, ocxoFrom := some 0, lockFrom := some 0 } }
      : Dev) =
      { (rebase true (actPre 0 (wBootAt 1).dev) : Dev) with hdl := { (rebase true (actPre 0 (wBootAt 1).dev) : Dev).hdl with extFrom := if (false : Bool) then some 0 else none, ocxoFrom := if (true : Bool) then some 0 else none, lockFrom := some 0 } })) ∧
    (((wBootAt 2).dev.aon = true) ∧ ((actPre 0 (wBootAt 2).dev).booting = true) ∧ (bootStage (actPre 0 (wBootAt 2).dev) = 2) ∧ ((imgT (actPre 0
      (wBootAt 2).dev) : Dev) = wrN (A xspPage 0x80) (b2n (false : Bool) * 2 ^ 31 + (26 : Fin 29).val % 32 * 2 ^ 16 + (50 : BitVec 8).toNat) (actPre 0
      (wBootAt 2).dev)) ∧ ((0 : Nat) = (if (imgT (actPre 0 (wBootAt 2).dev) : Dev).sec.tried then 1 - fget (imgT (actPre 0 (wBootAt 2).dev) : Dev) (A
      4 0x84) 0 1 else fget (imgT (actPre 0 (wBootAt 2).dev) : Dev) (A 4 0x84) 0 1)) ∧ ((imgCode (wBootAt 2).nv (imgT (actPre 0 (wBootAt 2).dev))
      (slotBase 0) false : Nat) = imgCode (wBootAt 2).nv (imgT (actPre 0 (wBootAt 2).dev) : Dev) (slotBase (0 : Nat)) (false : Bool)) ∧ ((fset (A 0
      0xA4) 8 8 (imgCode (wBootAt 2).nv (imgT (actPre 0 (wBootAt 2).dev)) (slotBase 0) false) (imgT (actPre 0 (wBootAt 2).dev)) : Dev) = fset (A 0
      0xA4) (if (0 : Nat) = 0 then 8 else 0) 8 (imgCode (wBootAt 2).nv (imgT (actPre 0 (wBootAt 2).dev)) (slotBase 0) false : Nat) (imgT (actPre 0
      (wBootAt 2).dev) : Dev)) ∧ ((imgOf (wBootAt 2).nv (fset (A 0 0xA4) 8 8 (imgCode (wBootAt 2).nv (imgT (actPre 0 (wBootAt 2).dev)) (slotBase 0)
      false) (imgT (actPre 0 (wBootAt 2).dev))) 0 : Image) = imgOf (wBootAt 2).nv (fset (A 0 0xA4) 8 8 (imgCode (wBootAt 2).nv (imgT (actPre 0
      (wBootAt 2).dev)) (slotBase 0) false) (imgT (actPre 0 (wBootAt 2).dev)) : Dev) (0 : Nat))) ∧
    (((wBootAt 2).dev.aon = true) ∧ ((actPre 0 (wBootAt 2).dev).booting = true) ∧ (bootStage (actPre 0 (wBootAt 2).dev) = 2)) ∧
    (((wBootAt 3).dev.aon = true) ∧ ((actPre 0 (wBootAt 3).dev).booting = true) ∧ (bootStage (actPre 0 (wBootAt 3).dev) = 3) ∧ (stageUp (actPre 0
      (wBootAt 3).dev) = true) ∧ (([] : List Nat) = (List.range 8).filter (fun k => (mappedBy514 (List.replicate 8 (some dimmT) : List (Option
      Dimm))).contains k || (actPre 0 (wBootAt 3).dev).memOut.contains k)) ∧ (([] : List Nat).length ≤ 1) ∧ (([0, 1, 2, 3, 4, 5, 6, 7] : List Nat) =
      (List.range 8).filter (fun k => !([] : List Nat).contains k)) ∧ ((forAll (List.range 8) (channelBoots (List.replicate 8 (some dimmT)) [])
      (actPre 0 (wBootAt 3).dev) : Dev) = forAll (List.range 8) (channelBoots (List.replicate 8 (some dimmT) : List (Option Dimm)) ([] : List Nat))
      (actPre 0 (wBootAt 3).dev))) ∧
    ((wBootB.dev.aon = true) ∧ ((actPre 0 wBootB.dev).booting = true) ∧ (bootStage (actPre 0 wBootB.dev) = 4) ∧ (stageUp (actPre 0 wBootB.dev) = true)
      ∧ (((List.range 8).filter fun b => domOn (actPre 0 wBootB.dev) (4 + b) : List Nat) = (List.range 8).filter (fun b => domOn (actPre 0 wBootB.dev)
      (4 + b))) ∧ ((forAll ((List.range 8).filter fun b => domOn (actPre 0 wBootB.dev) (4 + b)) restoreSpares (forAll ((List.range 8).filter fun b =>
      domOn (actPre 0 wBootB.dev) (4 + b)) loadCoefs (actPre 0 wBootB.dev)) : Dev) = forAll ((List.range 8).filter fun b => domOn (actPre 0
      wBootB.dev) (4 + b) : List Nat) restoreSpares (forAll ((List.range 8).filter fun b => domOn (actPre 0 wBootB.dev) (4 + b) : List Nat) loadCoefs
      (actPre 0 wBootB.dev))) ∧ (((false : Bool), (forAll ((List.range 8).filter fun b => domOn (actPre 0 wBootB.dev) (4 + b)) restoreSpares (forAll
      ((List.range 8).filter fun b => domOn (actPre 0 wBootB.dev) (4 + b)) loadCoefs (actPre 0 wBootB.dev)) : Dev)) = (if bcalState (forAll
      ((List.range 8).filter fun b => domOn (actPre 0 wBootB.dev) (4 + b)) restoreSpares (forAll ((List.range 8).filter fun b => domOn (actPre 0
      wBootB.dev) (4 + b)) loadCoefs (actPre 0 wBootB.dev)) : Dev) = 1 then bcalAll (forAll ((List.range 8).filter fun b => domOn (actPre 0
      wBootB.dev) (4 + b)) restoreSpares (forAll ((List.range 8).filter fun b => domOn (actPre 0 wBootB.dev) (4 + b)) loadCoefs (actPre 0 wBootB.dev))
      : Dev) else (false, (forAll ((List.range 8).filter fun b => domOn (actPre 0 wBootB.dev) (4 + b)) restoreSpares (forAll ((List.range 8).filter
      fun b => domOn (actPre 0 wBootB.dev) (4 + b)) loadCoefs (actPre 0 wBootB.dev)) : Dev)))) ∧ ((forAll ((List.range 8).filter fun b => domOn
      (actPre 0 wBootB.dev) (4 + b)) bankReady (forAll ((List.range 8).filter fun b => domOn (actPre 0 wBootB.dev) (4 + b)) restoreSpares (forAll
      ((List.range 8).filter fun b => domOn (actPre 0 wBootB.dev) (4 + b)) loadCoefs (actPre 0 wBootB.dev))) : Dev) = forAll ((List.range 8).filter
      fun b => domOn (actPre 0 wBootB.dev) (4 + b) : List Nat) bankReady (forAll ((List.range 8).filter fun b => domOn (actPre 0 wBootB.dev) (4 + b))
      restoreSpares (forAll ((List.range 8).filter fun b => domOn (actPre 0 wBootB.dev) (4 + b)) loadCoefs (actPre 0 wBootB.dev)) : Dev)) ∧ ((0 : Nat)
      = (if bcalState (forAll ((List.range 8).filter fun b => domOn (actPre 0 wBootB.dev) (4 + b)) restoreSpares (forAll ((List.range 8).filter fun b
      => domOn (actPre 0 wBootB.dev) (4 + b)) loadCoefs (actPre 0 wBootB.dev)) : Dev) = 0 then 0 else (Config.sha384 (flashBytes (forAll ((List.range
      8).filter fun b => domOn (actPre 0 wBootB.dev) (4 + b)) restoreSpares (forAll ((List.range 8).filter fun b => domOn (actPre 0 wBootB.dev) (4 +
      b)) loadCoefs (actPre 0 wBootB.dev)) : Dev) bcalBase 4224)).toNat)) ∧ ((bootedT (actPre 0 wBootB.dev) : Dev) = fset (A 0 0xA4) 26 2 (if
      bcalState (forAll ((List.range 8).filter fun b => domOn (actPre 0 wBootB.dev) (4 + b)) restoreSpares (forAll ((List.range 8).filter fun b =>
      domOn (actPre 0 wBootB.dev) (4 + b)) loadCoefs (actPre 0 wBootB.dev)) : Dev) = 1 && (false : Bool) then 3 else bcalState (forAll ((List.range
      8).filter fun b => domOn (actPre 0 wBootB.dev) (4 + b)) restoreSpares (forAll ((List.range 8).filter fun b => domOn (actPre 0 wBootB.dev) (4 +
      b)) loadCoefs (actPre 0 wBootB.dev)) : Dev))
      { (forAll ((List.range 8).filter fun b => domOn (actPre 0 wBootB.dev) (4 + b)) bankReady (forAll ((List.range 8).filter fun b => domOn (actPre 0 wBootB.dev) (4 + b)) restoreSpares (forAll ((List.range 8).filter fun b => domOn (actPre 0 wBootB.dev) (4 + b)) loadCoefs (actPre 0 wBootB.dev))) : Dev) with booting := false, sec := { (forAll ((List.range 8).filter fun b => domOn (actPre 0 wBootB.dev) (4 + b)) bankReady (forAll ((List.range 8).filter fun b => domOn (actPre 0 wBootB.dev) (4 + b)) restoreSpares (forAll ((List.range 8).filter fun b => domOn (actPre 0 wBootB.dev) (4 + b)) loadCoefs (actPre 0 wBootB.dev))) : Dev).sec with bcal := (0 : Nat) } })) := by
  refine ⟨?_, ?_, ?_, ?_, ?_, ?_, ?_, ?_, ?_⟩
  · decide +kernel
  · decide +kernel
  · decide +kernel
  · refine ⟨by decide +kernel, by decide +kernel, by decide +kernel, rfl⟩
  · decide +kernel
  · refine ⟨by decide +kernel, by decide +kernel, by decide +kernel, rfl, by decide +kernel, rfl, rfl, rfl⟩
  · decide +kernel
  · decide +kernel
  · decide +kernel

theorem met_SecurityAndJtagCommandsAct :
    ((wFz.dev.aon = true) ∧ (accepts (actPre 0 wFz.dev) fuseCtl = true) ∧ ((0x90000000 : Nat) = putBits (0x90000000 : Word).toNat 28 4 9) ∧
      ((plainWrite fuseCtl 0x90000000 (actPre 0 wFz.dev) : Dev) = plainWrite fuseCtl (0x90000000 : Nat) (actPre 0 wFz.dev)) ∧ ((plainWrite fuseCtl
      0x90000000 (actPre 0 wFz.dev) : Dev).sec.fuse = none) ∧ (fuseErr wFz.nv (plainWrite fuseCtl 0x90000000 (actPre 0 wFz.dev) : Dev) 1 (bits
      (0x90000000 : Nat) 24 2) (bits (0x90000000 : Nat) 0 7) = 0)) ∧
    ((wFzRev.dev.aon = true) ∧ (accepts (actPre 0 wFzRev.dev) fuseCtl = true) ∧ ((0xA0000000 : Nat) = putBits (0xA0000000 : Word).toNat 28 4 10) ∧
      ((plainWrite fuseCtl 0xA0000000 (actPre 0 wFzRev.dev) : Dev) = plainWrite fuseCtl (0xA0000000 : Nat) (actPre 0 wFzRev.dev)) ∧ ((plainWrite
      fuseCtl 0xA0000000 (actPre 0 wFzRev.dev) : Dev).sec.fuse = none) ∧ (fuseErr wFzRev.nv (plainWrite fuseCtl 0xA0000000 (actPre 0 wFzRev.dev) :
      Dev) 2 (bits (0xA0000000 : Nat) 24 2) (bits (0xA0000000 : Nat) 0 7) = 0)) ∧
    ((wFz.dev.aon = true) ∧ (accepts (actPre 0 wFz.dev) fuseCtl = true) ∧ ((0xB0000005 : Nat) = putBits (0xB0000005 : Word).toNat 28 4 11) ∧
      ((plainWrite fuseCtl 0xB0000005 (actPre 0 wFz.dev) : Dev) = plainWrite fuseCtl (0xB0000005 : Nat) (actPre 0 wFz.dev)) ∧ ((plainWrite fuseCtl
      0xB0000005 (actPre 0 wFz.dev) : Dev).sec.fuse = none) ∧ (fuseErr wFz.nv (plainWrite fuseCtl 0xB0000005 (actPre 0 wFz.dev) : Dev) 3 (bits
      (0xB0000005 : Nat) 24 2) (bits (0xB0000005 : Nat) 0 7) = 0)) ∧
    (((wBootAt 5).dev.aon = true) ∧ (accepts (actPre 0 (wBootAt 5).dev) assayCtl = true) ∧ ((plainWrite assayCtl 0x80000000 (actPre 0 (wBootAt 5).dev)
      : Dev) = plainWrite assayCtl 0x80000000 (actPre 0 (wBootAt 5).dev)) ∧ ((plainWrite assayCtl 0x80000000 (actPre 0 (wBootAt 5).dev) :
      Dev).sec.assay = none) ∧ (3 ≤ bootStage (plainWrite assayCtl 0x80000000 (actPre 0 (wBootAt 5).dev) : Dev))) ∧
    ((wAssay.dev.aon = true) ∧ ((actPre 0 wAssay.dev).sec.assay = some ([] : List Word)) ∧ ((secWindow 0x200 128 (assayReport wAssay.nv [] (actPre 0
      wAssay.dev)) (actPre 0 wAssay.dev) : Dev) = secWindow 0x200 128 (assayReport wAssay.nv ([] : List Word) (actPre 0 wAssay.dev)) (actPre 0
      wAssay.dev))) ∧
    ((liveAll.dev.aon = true) ∧ (accepts (actPre 0 liveAll.dev) dbgCtl = true) ∧ ((secWindow 0x400 16 (serialBytes ++ beBytes 48 (Config.random384
      (actPre 0 liveAll.dev).freeCtr).toNat ++ leBytes 4 (rdN (actPre 0 liveAll.dev) (A 3 0xA4)) ++ zeros 4)
      { (actPre 0 liveAll.dev) with freeCtr := (actPre 0 liveAll.dev).freeCtr + 1 } : Dev) = secWindow 0x400 16 (serialBytes ++ beBytes 48
      (Config.random384 (actPre 0 liveAll.dev).freeCtr).toNat ++ leBytes 4 (rdN (actPre 0 liveAll.dev) (A 3 0xA4)) ++ zeros 4)
      { (actPre 0 liveAll.dev) with freeCtr := (actPre 0 liveAll.dev).freeCtr + 1 })) ∧
    ((liveAll.dev.aon = true) ∧ (accepts (actPre 0 liveAll.dev) dbgCtl = true) ∧ ((0x41000000 : Nat) = putBits (0x41000000 : Word).toNat 29 3 2) ∧
      ((plainWrite dbgCtl 0x41000000 (actPre 0 liveAll.dev) : Dev) = plainWrite dbgCtl (0x41000000 : Nat) (actPre 0 liveAll.dev)) ∧ ((1 : Nat) = bits
      (0x41000000 : Nat) 24 2) ∧ (fget (plainWrite dbgCtl 0x41000000 (actPre 0 liveAll.dev) : Dev) dbgStat 26 2 ≠ 3) ∧ (((secBytes (plainWrite dbgCtl
      0x41000000 (actPre 0 liveAll.dev)) 0x440 48).take 96 : List Byte) = (secBytes (plainWrite dbgCtl 0x41000000 (actPre 0 liveAll.dev) : Dev) 0x440
      48).take 96) ∧ ((false : Bool) = (fbit (plainWrite dbgCtl 0x41000000 (actPre 0 liveAll.dev) : Dev) dbgStat 29 && ((1 : Nat) == 1 || (1 : Nat) ==
      2) && dbgKeyOk liveAll.nv (bits (0x41000000 : Nat) 20 3) ((secBytes (plainWrite dbgCtl 0x41000000 (actPre 0 liveAll.dev)) 0x440 48).take 96 :
      List Byte) && Config.ecdsaVerify ((secBytes (plainWrite dbgCtl 0x41000000 (actPre 0 liveAll.dev)) 0x440 48).take 96 : List Byte) (Config.sha384
      (secBytes (plainWrite dbgCtl 0x41000000 (actPre 0 liveAll.dev) : Dev) 0x400 16 ++ leBytes 1 (1 : Nat))) ((secBytes (plainWrite dbgCtl 0x41000000
      (actPre 0 liveAll.dev) : Dev) 0x440 48).drop 96)))) ∧
    ((liveAll.dev.aon = true) ∧ (accepts (actPre 0 liveAll.dev) dbgCtl = true)) ∧
    ((liveAll.dev.aon = true)) ∧
    ((liveAll.dev.aon = true)) ∧
    ((liveAll.dev.aon = true)) ∧
    ((wQuOff.dev.aon = true) ∧ (({ (actPre 0 wQuOff.dev) with jtag := 3 } : Dev) = { (actPre 0 wQuOff.dev) with jtag := 3 }) ∧ (inQuench (actPre 0
      wQuOff.dev) = false)) ∧
    ((wQu.dev.aon = true) ∧ (({ (actPre 0 wQu.dev) with jtag := 3 } : Dev) = { (actPre 0 wQu.dev) with jtag := 3 }) ∧ (inQuench (actPre 0 wQu.dev) =
      true)) := by
  refine ⟨?_, ?_, ?_, ?_, ?_, ?_, ?_, ?_, ?_, ?_, ?_, ?_, ?_⟩
  · decide +kernel
  · decide +kernel
  · decide +kernel
  · decide +kernel
  · refine ⟨by decide +kernel, by decide +kernel, rfl⟩
  · refine ⟨by decide +kernel, by decide +kernel, rfl⟩
  · decide +kernel
  · decide +kernel
  · decide +kernel
  · decide +kernel
  · decide +kernel
  · decide +kernel
  · decide +kernel

theorem met_StepTakesTheFrontCommand : State.reset.pending = [] := rfl



theorem met_RunTakesTheCommandsInOrder : (2 ≤ ({ pending := [.idcode 0, .standbyEntered 5] } : State).pending.length) := by
  decide +kernel

theorem met_StoresStayInOrderAtEveryStep : storesOk wHmk.nv = true := by
  decide +kernel
theorem met_StoresStayInOrderAtEveryStep_1 : ∃ t, step wHmk = .next t := ⟨wHmk, rfl⟩

theorem met_OnlyTheirEnginesWriteTheStores : (∃ t, exec (.idcode 0) liveAll = .next t) ∧ writesStores (.idcode 0) = false ∧ (∃ t, exec (.hallmarkCommit 0 none none) wHmk = .next t) ∧ (∃ t, exec (.aonSupplyLoss 0 none) wHmk = .next t) ∧ ∃ t, exec (.fuseDone 0) wFuse = .next t :=
  ⟨⟨_, rfl⟩, rfl, ⟨_, rfl⟩, ⟨_, rfl⟩, ⟨_, rfl⟩⟩

theorem met_WithoutSupplyNothingActs : (({ dev := { aon := false } } : State).dev.aon = false ∧ isPowerOn (.idcode 0) = false) := by
  decide +kernel


theorem met_ScanFindsTheLastCommit : (wHmk.dev.aon = true ∧ hmkBusy (actPre 0 wHmk.dev) = true ∧ (actPre 0 wHmk.dev).hmk.queue = recT :: [] ∧ fget (actPre 0 wHmk.dev) (A 3 0x84) 0 13 = 0 ∧ rd64 (actPre 0 wHmk.dev) (A 3 0x8C) = 1 ∧ olderThan wHmk.nv 1 = true ∧ mwf regReset 0 liveAll.dev.regs = true) := by
  decide +kernel
theorem met_ScanFindsTheLastCommit_1 : ∃ t, exec (.hallmarkCommit 0 none none) wHmk = .next t := ⟨_, rfl⟩

theorem met_LossOfPowerTearsOneSlotAtMost : (storesOk wHmk.nv = true ∧ wHmk.dev.aon = true ∧ fget (actPre 0 wHmk.dev) (A 3 0x84) 0 13 = 0 ∧ (5 : Nat) ≠ 0 ∧ (5 : Nat) ≠ slotAfter 0) := by
  decide +kernel
theorem met_LossOfPowerTearsOneSlotAtMost_1 : (∃ t, exec (.aonSupplyLoss 0 (some [1])) wHmk = .next t) ∧ ∃ t, exec (.hallmarkCommit 0 (some []) none) wHmk = .next t := ⟨⟨_, rfl⟩, ⟨_, rfl⟩⟩

theorem met_FusesOnlyAdvance : (storesOk wFzRev.nv = true ∧ fuseErr wFzRev.nv wFzRev.dev 2 0 0 = 0 ∧ fuseErr wFzRev.nv wFzRev.dev 3 0 5 = 0 ∧ fuseErr wFzRev.nv wFzRev.dev 1 2 0 = 0 ∧ ownerState wFzRev.nv 0 = 1 ∧ ownerState ({ owners := [(1, { status := 3, hash := 0 })] } : Nv) 1 = 3) := by
  decide +kernel

theorem met_RegisterFileReadsWhatIsWritten : mwf regReset 0 wIssue.dev.regs = true := by
  decide +kernel

theorem met_WindowWriteStoresItsBytesAlone : (wHost.dev.aon = true ∧ calmBefore wHost.dev = true ∧ calmAfter wHost.dev = true ∧ hostOn (tick 0 wHost.dev) = true ∧ winAddr (tick 0 wHost.dev) (0x800000004 - 2 ^ 35) = 4 ∧ 4 + 2 ≤ memCapacity (tick 0 wHost.dev) ∧ rangeMapped (tick 0 wHost.dev) 4 2 = false ∧ memHolds (tick 0 wHost.dev) 4 2 = false ∧ mwf memDflt 0 wHost.dev.mem = true ∧ memGood (tick 0 wHost.dev) 5 = true) := by
  decide +kernel
theorem met_WindowWriteStoresItsBytesAlone_1 : ∃ t, exec (.windowWrite 0 0x800000004 [1, 2]) wHost = .next t := ⟨_, rfl⟩

theorem met_CalmCommandsActAlone : (calmBefore wIssue.dev = true ∧ calmAfter wIssue.dev = true) := by
  decide +kernel
theorem met_CalmCommandsActAlone_1 : ∃ u, Acts (.idcode 0) liveAll u ∧ calmAfter u = true := ⟨doIdcode (actPre 0 liveAll.dev), rfl, by decide +kernel⟩

theorem met_PlainCommandsChangeOneRegister : (liveAll.dev.aon = true ∧ calmBefore liveAll.dev = true ∧ calmAfter liveAll.dev = true ∧ accepts (tick 0 liveAll.dev) (A 2 0x80) = true ∧ accepts (tick 0 liveAll.dev) (A 2 0xDC) = true ∧ accepts (tick 0 liveAll.dev) dbgCtl = true) := by
  decide +kernel
theorem met_PlainCommandsChangeOneRegister_1 : (∃ t, exec (.srcSelWrite 0 .host 5) liveAll = .next t) ∧ (∃ t, exec (.trapClear 0 .host) liveAll = .next t) ∧ (∃ t, exec (.dbgLock 0 .host) liveAll = .next t) ∧ ∃ t, exec (.bypass 0 [true]) liveAll = .next t := ⟨⟨_, rfl⟩, ⟨_, rfl⟩, ⟨_, rfl⟩, ⟨_, rfl⟩⟩

theorem met_ReservedAndUnpoweredOffsetsReadZero : (liveAll.dev.aon = true ∧ regAt 0x008000 = none ∧ regAt (0x008000 / 4 * 4) = none ∧ pageKind 8 = none ∧ State.reset.dev.aon = true ∧ pageOn (actPre 0 State.reset.dev) (0x178080 / 0x1000) = false) := by
  decide +kernel

theorem met_RefusalsAreRecorded : (mwf regReset 0 liveAll.dev.regs = true ∧ fbit liveAll.dev (A 0 0x94) 31 = false ∧ fbit (mkS [(A 0 0x94, 2 ^ 31)]).dev (A 0 0x94) 31 = true) := by
  decide +kernel

theorem met_LockKeyDecides : (liveAll.dev.aon = true ∧ (0x17802C : Off).toNat = A 0x178 0x2C ∧ pageKind 0x178 = some .flw ∧ pageOn (actPre 0 liveAll.dev) 0x178 = true ∧ (actPre 0 liveAll.dev).resetting.contains 0x178 = false ∧ mwf regReset 0 (actPre 0 liveAll.dev).regs = true) := by
  decide +kernel

theorem met_LockedPagesRefuseWrites : (wLocked.dev.aon = true ∧ (0x178080 : Off).toNat = A 0x178 0x80 ∧ pageKind 0x178 = some .flw ∧ pageOn (actPre 0 wLocked.dev) 0x178 = true ∧ locked (actPre 0 wLocked.dev) 0x178 = true ∧ (regAt (A 0x178 0x80)).isSome = true ∧ mwf regReset 0 (actPre 0 wLocked.dev).regs = true ∧ (actPre 0 wLocked.dev).resetting.contains 0x178 = false ∧ (0x178010 : Off).toNat = A 0x178 0x10 ∧ (0x178FFC : Off).toNat = A 0x178 0xFFC ∧ regAt (A 0x178 0xFFC) = none) := by
  decide +kernel

theorem met_LatchedGroupsReadAtOneTime : (let a := A 2 0xCC; let d := liveAll.dev; (regAt a).map (·.pairing) = some (.latLo 1) ∧ (regAt (a + 4 * 1)).map (·.pairing) = some (.latMem 1) ∧ readable d a = true ∧ readable d (a + 4 * 1) = true ∧ pageKind (a / 0x1000) = some .flt ∧ mwf (fun _ => {}) 0 (beforeRead .flt 2 0xCC d).paths = true ∧ getPath (beforeRead .flt 2 0xD0 (busRead {} .host a d).2) .host = getPath (busRead {} .host a d).2 .host) := by
  decide +kernel

theorem met_MainPllLossAlwaysQuenches : (srcClass 1 = 4 ∧ srcClass 0xCA = 4) := by
  decide +kernel

theorem met_StickyAndPendFollowTheirRules : (wSel.dev.aon = true ∧ accepts (actPre 0 wSel.dev) (A 2 0x88) = true ∧ fget (actPre 0 wSel.dev) (A 2 0x80) 0 8 = 0x14 ∧ srcLive (actPre 0 wSel.dev) 0x14 = false ∧ (srcPage 0x14).isSome = true ∧ (let d := actPre 0 wSel.dev; let x := getSrc d 0x14; (x.sticky && !x.prereset && d.clk && decide (x.last = now d)) = false) ∧ (let d := actPre 0 wSel0.dev; let x := getSrc d 0x14; (x.sticky && !x.prereset && d.clk && decide (x.last = now d)) = true ∧ accepts d (A 2 0x88) = true ∧ fget d (A 2 0x80) 0 8 = 0x14 ∧ srcLive d 0x14 = false) ∧ fget wSel6.dev (A 2 0x80) 0 8 = 6 ∧ srcLive wSel6.dev 6 = true ∧ fbit wSel.dev (A 2 0xA0) 5 = false ∧ fbit wPend5.dev (A 2 0xA0) 5 = true) := by
  decide +kernel

theorem met_ErrWidthIsTakenWithinItsRange : (mwf regReset 0 wErrP.dev.regs = true) := by
  decide +kernel

theorem met_ChipResetRestoresTheFurrowMap : (resetKeepsReg (A 0x80 0x90) = false) := by
  decide +kernel

theorem met_TimingSetCommitWritesOneEntry : (liveAll.dev.aon = true ∧ accepts (actPre 0 liveAll.dev) (tsFmtAddr 1 5) = true ∧ 70 ∉ tsTargets (actPre 0 liveAll.dev) 1) := by
  decide +kernel

end Sys2Proof.Machine
end

section
/-! What a register access does once no shared rule refuses it: the frame of a command, a bus write, a bus read, and the
statement about the register commands. -/
namespace Sys2Proof.Machine

/-! ### The frame of a command -/

/-- With AON supply, a command that acts on the device leaves its effect on the device of its time. -/
theorem act_of_aon (dt : Nat) (f : Dev → Dev) {s : State} (haon : s.dev.aon = true) :
    act dt f s = .next { s with dev := actPost s.nv (f (actPre dt s.dev)) } := by
  unfold act
  rw [if_pos haon]

/-- A command whose meaning is `act dt f` acts as `f` says of the device `d` of its time. -/
theorem acts_of_act {c : Instr} {dt : Nat} {f : Dev → Dev} {s : State} {d u : Dev} (hexec : exec c s = act dt f s)
    (haon : s.dev.aon = true) (hd : d = actPre dt s.dev) (heff : f d = u) : Acts c s u := by
  unfold Acts
  rw [hexec, act_of_aon dt f haon, ← hd, heff]

/-- A command whose meaning is `actNv dt f` acts as `f` says of the stores as they stand. -/
theorem acts_of_actNv {c : Instr} {dt : Nat} {f : Nv → Dev → Dev} {s : State} {d u : Dev} (hexec : exec c s = actNv dt f s)
    (haon : s.dev.aon = true) (hd : d = actPre dt s.dev) (heff : f s.nv d = u) : Acts c s u :=
  acts_of_act hexec haon hd heff

/-- An effect whose condition is met takes place. -/
@[simp] theorem onlyIf_true (f : Dev → Dev) (d : Dev) : onlyIf true f d = f d := rfl

/-! ### Writes (R49, R50, R54, R58, R64, R71) -/

/-- An aligned write of a whole word that no shared rule refuses reaches the register it names. -/
theorem busWrite_accepts {nv : Nv} {p : Path} {a : Nat} {v : Word} {d : Dev} (halign : a % 4 = 0)
    (hacc : accepts d a = true) : busWrite nv p a 0xF v d = writeReg nv p a v.toNat d := by
  unfold busWrite
  rw [if_neg (by simp [halign]), onWrite_accepts hacc]

/-! ### Reads (R54, R56, R58, R71) -/

/-- A readable register is on a powered page that is not in reset. -/
theorem readable_page {d : Dev} {a : Nat} (h : readable d a = true) :
    pageOn d (a / 0x1000) = true ∧ d.resetting.contains (a / 0x1000) = false := by
  simp only [readable, Bool.and_eq_true, Bool.not_eq_true'] at h
  obtain ⟨⟨-, hon⟩, hrst⟩ := h
  exact ⟨hon, hrst⟩

/-- A read of the LO register of a latched group shows it and loads the path's read latch. -/
theorem busRead_latLo {nv : Nv} {p : Path} {a n : Nat} {r : Reg} {k : PageKind} {d : Dev} (halign : a % 4 = 0)
    (hreg : regAt a = some r) (hkind : pageKind (a / 0x1000) = some k) (hpair : r.pairing = .latLo n)
    (hread : readable d a = true) :
    busRead nv p a d = (shown nv p r a (beforeRead k (a / 0x1000) (a % 0x1000) d),
      loadLatch nv p n a (beforeRead k (a / 0x1000) (a % 0x1000) d)) := by
  obtain ⟨hon, hrst⟩ := readable_page hread
  have hword : a / 4 * 4 = a := by omega
  simp only [busRead, hword, hreg, hkind, hon, hrst, hpair, Bool.not_true, Bool.false_eq_true, if_false]

/-- A read of a register that belongs to no group and no pair is the read of the block that owns it. -/
theorem busRead_unpaired {nv : Nv} {p : Path} {a : Nat} {r : Reg} {k : PageKind} {d : Dev} (halign : a % 4 = 0)
    (hreg : regAt a = some r) (hkind : pageKind (a / 0x1000) = some k) (hpair : r.pairing = .none)
    (hread : readable d a = true) :
    busRead nv p a d = readReg nv p k r a (beforeRead k (a / 0x1000) (a % 0x1000) d) := by
  obtain ⟨hon, hrst⟩ := readable_page hread
  have hword : a / 4 * 4 = a := by omega
  simp only [busRead, hword, hreg, hkind, hon, hrst, hpair, Bool.not_true, Bool.false_eq_true, if_false]

/-! ### The register commands -/

/-- Settles O1: each write reaches `writeReg` through the guard, each read answers by its register's pairing. -/
theorem registerAccessesAct : Obligations.RegisterAccessesAct := by
  unfold Obligations.RegisterAccessesAct
  intro dt s d haon hd
  refine ⟨?registerWrite, ?pairLoWrite, ?pairHiWrite, ?latchedRead, ?rcRead⟩
  case registerWrite =>
    rintro p off be v halign rfl hacc
    exact acts_of_actNv rfl haon hd (busWrite_accepts halign hacc)
  case pairLoWrite =>
    intro p off v halign hlo hacc
    refine acts_of_actNv rfl haon hd ?_
    rw [doPairLoWrite, hlo, onlyIf_true, busWrite_accepts halign hacc]
  case pairHiWrite =>
    intro p off v halign hhi hacc
    refine acts_of_actNv rfl haon hd ?_
    rw [doPairHiWrite, hhi, onlyIf_true, busWrite_accepts halign hacc]
  case latchedRead =>
    intro p off r k n t halign hreg hkind hpair hread ht
    refine acts_of_actNv rfl haon hd ?_
    rw [doLatchedRead, busReadOut, busRead_latLo halign hreg hkind hpair hread, ← ht]
  case rcRead =>
    intro p off r k t halign hreg hkind hpair _ hread ht
    refine acts_of_actNv rfl haon hd ?_
    rw [doRcRead, busReadOut, busRead_unpaired halign hreg hkind hpair hread, ← ht]

end Sys2Proof.Machine
end

section
/-! A calm device: what falls due by itself before a command, and what follows a command, leave it as it is; and the statement
that a command on it acts alone. -/
namespace Sys2Proof.Machine

/-! ### Lists and tables on which nothing is due -/

/-- An effect that leaves the device as it is for every element leaves it so for the list. -/
theorem forAll_id {α : Type} {f : α → Dev → Dev} {xs : List α} {d : Dev} (h : ∀ x ∈ xs, f x d = d) : forAll xs f d = d :=
  forAll_inv (· = d) f xs d rfl fun x hx e he => by rw [he]; exact h x hx

/-- When every element has `q`, and `q` excludes `p`, no element passes the filter `p`. -/
theorem filter_eq_nil_of_all {α : Type} {p q : α → Bool} {xs : List α} (hall : xs.all q = true)
    (hpq : ∀ x, q x = true → p x = false) : xs.filter p = [] := by
  rw [List.filter_eq_nil_iff]
  intro x hx
  simp [hpq x (List.all_eq_true.mp hall x hx)]

/-- What holds of the default and of every entry holds of what the table reads. -/
theorem mget_of_all {α : Type} {df : Nat → α} {p : Nat × α → Bool} {m : NMap α} (hdf : ∀ k, p (k, df k) = true)
    (hall : m.all p = true) (k : Nat) : p (k, mget df m k) = true := by
  induction m with
  | nil => exact hdf k
  | cons e m ih =>
    obtain ⟨a, w⟩ := e
    rw [List.all_cons, Bool.and_eq_true] at hall
    obtain ⟨hhead, htail⟩ := hall
    rw [mget]
    split
    case isTrue hak => rwa [← hak]
    case isFalse => exact ih htail

/-! ### Calm lanes and furrows -/

/-- No lane waits in M, holds a step of its decoder or has an event to come. -/
def lanesStill (d : Dev) : Bool := d.lanes.all fun x => x.2.mSince.isNone && x.2.held.isNone && x.2.evs.isEmpty

/-- No running furrow has issued its last row. -/
def noLastRow (d : Dev) : Bool := d.fur.all fun x => furState d x.1 != 3 || !lastRow d (leadOf d x.1)

theorem senseAdvance_of_still {d : Dev} (h : lanesStill d = true) : senseAdvance d = d := by
  have hnone : (d.lanes.filter fun x => x.2.mSince.isSome || x.2.held.isSome) = [] := by
    refine filter_eq_nil_of_all h fun x hx => ?_
    simp only [Bool.and_eq_true, Option.isNone_iff_eq_none] at hx
    obtain ⟨⟨hmid, hheld⟩, -⟩ := hx
    simp [hmid, hheld]
  rw [senseAdvance, senseAll, hnone]
  rfl

theorem lanesUntil_of_still {d : Dev} (lim : Nat) (h : lanesStill d = true) : lanesUntil lim d = d := by
  rw [lanesUntil, filter_eq_nil_of_all h]
  · rfl
  · intro x hx
    simp only [Bool.and_eq_true, List.isEmpty_iff] at hx
    obtain ⟨-, hevs⟩ := hx
    rw [hevs]

/-- What `noLastRow` says of one furrow: it does not run, or its lead has not issued the last row. -/
theorem idle_or_more_rows {d : Dev} {m : Nat} (h : (furState d m != 3 || !lastRow d (leadOf d m)) = true) :
    furState d m ≠ 3 ∨ lastRow d (leadOf d m) = false := by
  simpa using h

theorem haltParks_of_noLastRow {d : Dev} (lim : Nat) (h : noLastRow d = true) : haltParks lim d = d := by
  rw [haltParks, filter_eq_nil_of_all h]
  · rfl
  · intro x hx
    rcases idle_or_more_rows hx with hrun | hlast
    · simp [hrun]
    · simp [hlast]

theorem drlHalts_of_noLastRow {d : Dev} (hdrl : (d.drl.all fun x => x.2.haltAt.isNone) = true) (hfur : noLastRow d = true) :
    drlHalts d = d := by
  rw [drlHalts, filter_eq_nil_of_all hfur, filter_eq_nil_of_all hdrl]
  · rfl
  · intro x hx
    rw [Option.isNone_iff_eq_none.mp hx]
    rfl
  · intro x hx
    rcases idle_or_more_rows hx with hrun | hlast
    · simp [hrun]
    · simp [hlast]

theorem holdsUntil_of_no_holds {d : Dev} (lim : Nat) (h : d.holds = []) : holdsUntil lim d = d := by
  rw [holdsUntil, h]
  rfl

theorem laneAdvance_of_calm {d : Dev} (hquench : d.flt.quenchPend = false) (hholds : d.holds = []) (hlanes : lanesStill d = true)
    (hfur : noLastRow d = true) : laneAdvance d = d := by
  simp only [laneAdvance, hquench, Bool.false_and, Bool.false_eq_true, if_false, haltParks_of_noLastRow _ hfur,
    holdsUntil_of_no_holds _ hholds, lanesUntil_of_still _ hlanes]

/-! ### The other units before a command -/

theorem softFall_of_not_live {d : Dev} (h : srcLive d 0xFF = false) : softFall d = d := by
  simp [softFall, h]

theorem releaseDone_of_no_release {d : Dev} (h : d.flt.rel = none) : releaseDone d = d := by
  simp [releaseDone, h]

theorem dskAdvance_of_no_deskew {d : Dev} (h : (d.cal.all fun x => x.2.dsk.isNone) = true) : dskAdvance d = d := by
  have hnone : ∀ b, (getCal d b).dsk = none := fun b =>
    Option.isNone_iff_eq_none.mp (mget_of_all (p := fun x : Nat × CalSt => x.2.dsk.isNone) (fun _ => rfl) h b)
  unfold dskAdvance
  split
  · rfl
  · exact forAll_id fun b _ => by simp [hnone b]

theorem glnAdvance_of_no_records {d : Dev} (h : (d.gln.slices.all fun x => x.2.pend.isEmpty && x.2.buf.isEmpty) = true) :
    glnAdvance d = d := by
  rw [glnAdvance, filter_eq_nil_of_all h]
  · rfl
  · intro x hx
    simp only [Bool.and_eq_true] at hx
    obtain ⟨hpend, hbuf⟩ := hx
    simp [hpend, hbuf]

theorem violAdvance_of_no_violations {d : Dev} (h : d.acq.viols = []) : violAdvance d = d := by
  rw [violAdvance, h]
  show { d with acq := { d.acq with viols := [] } } = d
  rw [← h]

theorem expAdvance_of_none {d : Dev} (h : d.hdl.rxq = []) : expAdvance d = d := by
  rw [expAdvance, h]
  show { d with hdl := { d.hdl with rxq := [] } } = d
  rw [← h]

theorem timeRelease_of_none {d : Dev} (h : d.hdl.timeQ = []) : timeRelease d = d := by
  rw [timeRelease, h]
  show { d with hdl := { d.hdl with timeQ := [] } } = d
  rw [← h]

theorem ppsAdvance_of_none {d : Dev} (h : d.hdl.ppsWait = []) : ppsAdvance d = d := by
  rw [ppsAdvance, h]
  show { d with hdl := { d.hdl with ppsWait := [] } } = d
  rw [← h]

theorem trigAdvance_of_none {d : Dev} (htins : d.hdl.tins = []) (hrxq : d.hdl.rxq = []) (htime : d.hdl.timeQ = [])
    (hpps : d.hdl.ppsWait = []) : trigAdvance d = d := by
  rw [trigAdvance, htins, List.map_nil, forAll_nil, expAdvance_of_none hrxq, timeRelease_of_none htime, ppsAdvance_of_none hpps]

/-! ### Before a command -/

/-- Time passing makes nothing fall due on a calm device. -/
theorem calmBefore_tick (dt : Nat) (d : Dev) : calmBefore (tick dt d) = calmBefore d := by
  unfold tick
  split <;> rfl

/-- On a calm device nothing that falls due by itself changes anything. -/
theorem advances_of_calm {d : Dev} (h : calmBefore d = true) :
    trigAdvance (violAdvance (glnAdvance (dskAdvance (releaseDone (laneAdvance (drlHalts (senseAdvance (softFall d)))))))) = d := by
  simp only [calmBefore, calmLanes, Bool.and_eq_true, Bool.not_eq_true', List.isEmpty_iff, Option.isNone_iff_eq_none] at h
  obtain ⟨⟨⟨⟨⟨⟨⟨⟨⟨⟨⟨⟨⟨hrel, hquench⟩, hholds⟩, hlanes⟩, hcal⟩, hdrl⟩, hfur⟩, htins⟩, htime⟩, hrxq⟩, hpps⟩, hviols⟩, hgln⟩, hsoft⟩ := h
  rw [softFall_of_not_live hsoft, senseAdvance_of_still hlanes, drlHalts_of_noLastRow hdrl hfur,
    laneAdvance_of_calm hquench hholds hlanes hfur, releaseDone_of_no_release hrel, dskAdvance_of_no_deskew hcal,
    glnAdvance_of_no_records hgln, violAdvance_of_no_violations hviols, trigAdvance_of_none htins hrxq htime hpps]

/-- What comes before a command on a calm device is the passing of its time. -/
theorem actPre_of_calm (dt : Nat) {d : Dev} (h : calmBefore d = true) : actPre dt d = tick dt d :=
  advances_of_calm ((calmBefore_tick dt d).trans h)

/-! ### After a command -/

theorem memWatch_of_few_errors {d : Dev} (h : (d.ueT.all fun x => decide (x.2.length < 16)) = true) : memWatch d = d := by
  rw [memWatch, filter_eq_nil_of_all h]
  · rfl
  · intro x hx
    have hfew : ¬ 16 ≤ x.2.length := Nat.not_le.mpr (of_decide_eq_true hx)
    simp [hfew]

theorem siteWatch_of_no_sites {d : Dev} (h : d.flw.sites = []) : siteWatch d = d := by
  simp [siteWatch, h, forAll_nil]

theorem liveSync_of_none_live {d : Dev} (h : (d.flt.srcs.all fun x => x.2.live.isEmpty) = true) : liveSync d = d := by
  rw [liveSync, filter_eq_nil_of_all h]
  · rfl
  · intro x hx
    rw [hx]
    rfl

theorem collect_of_none_raised (nv : Nv) (n : Nat) {d : Dev} (h : d.raised = []) : collect nv n d = d := by
  cases n with
  | zero => rfl
  | succ n => simp [collect, h]

theorem settleFaults_of_calm (nv : Nv) {d : Dev} (hraised : d.raised = [])
    (hlive : (d.flt.srcs.all fun x => x.2.live.isEmpty) = true) : settleFaults nv d = d := by
  rw [settleFaults, liveSync_of_none_live hlive, collect_of_none_raised nv _ hraised, liveSync_of_none_live hlive]

theorem wakeUp_of_no_request {d : Dev} (h : d.wakeReq = none) : wakeUp d = d := by
  simp [wakeUp, h]

/-- Nothing follows a command that leaves a calm device. -/
theorem actPost_of_calm (nv : Nv) {d : Dev} (h : calmAfter d = true) : actPost nv d = d := by
  simp only [calmAfter, Bool.and_eq_true, List.isEmpty_iff, Option.isNone_iff_eq_none] at h
  obtain ⟨⟨⟨⟨hraised, hlive⟩, hsites⟩, hwake⟩, hue⟩ := h
  rw [actPost, memWatch_of_few_errors hue, siteWatch_of_no_sites hsites, settleFaults_of_calm nv hraised hlive,
    wakeUp_of_no_request hwake]

/-- Settles O49: on a calm device each part of what comes before and after a command is the identity. -/
theorem calmCommandsActAlone : Obligations.CalmCommandsActAlone := by
  unfold Obligations.CalmCommandsActAlone
  refine ⟨fun dt d hcalm => actPre_of_calm dt hcalm, fun nv d hcalm => actPost_of_calm nv hcalm, ?alone⟩
  case alone =>
    intro c s u hacts hcalm
    rw [hacts, actPost_of_calm s.nv hcalm]

end Sys2Proof.Machine
end

section
/-! The device after power-on and after a chip reset: its registers, its map of furrows to engines, and its units. -/
namespace Sys2Proof.Machine

/-! ### The map of furrows to engines (R19, R165) -/

/-- FUR.MAP of each engine at reset: furrow k on engine k, and the spares mapped to none. -/
theorem regReset_map : ∀ e : Fin 66, bits (regReset (A (furPage e) 0x90)).toNat 0 7 = if e.val < 64 then e.val else 0x7F := by
  decide +kernel

/-- A chip reset keeps FUR.MAP of no engine (Table 19-3). -/
theorem resetKeepsReg_map : ∀ e : Fin 66, resetKeepsReg (A (furPage e) 0x90) = false := by
  decide +kernel

/-- An engine whose FUR.MAP holds its reset value serves the furrow of its own number, or none when it is a spare. -/
theorem logical_of_map_reset {d : Dev} {e : Nat} (he : e < 66) (hmap : rd d (A (furPage e) 0x90) = regReset (A (furPage e) 0x90)) :
    logical d e = if e < 64 then e else 0x7F := by
  rw [logical, fget, rdN, hmap]
  exact regReset_map ⟨e, he⟩

/-! ### The device after a chip reset (R602, R65, Table 19-3) -/

theorem rd_wrN_ne {a b : Nat} (n : Nat) (d : Dev) (h : b ≠ a) : rd (wrN a n d) b = rd d b :=
  mget_mset_ne regReset a b _ (Ne.symm h) d.regs

/-- The registers that a chip reset neither keeps (Table 19-3) nor writes hold their reset values. -/
theorem rd_resetRegs (c i : Nat) (d : Dev) {a : Nat} (hkeep : resetKeepsReg a = false) (hstat : a ≠ A 3 0x80) (hcount : a ≠ A 3 0xA8)
    (hcause : a ≠ A 0 0xA0) : rd (resetRegs c i d) a = regReset a := by
  rw [resetRegs, rd_wrN_ne _ _ hcause, incSat, fset_frame _ _ _ _ _ _ hcount, rd_wrN_ne _ _ hstat, rd, mget_mdrop, hkeep]
  rfl

/-- What a chip reset leaves beside the registers: of the device with its registers reset, the units start anew, and the boot
begins unless RESET# holds it. -/
theorem chipReset_eq (c i : Nat) (d : Dev) : ∃ e s : Dev, s = resetRegs c i e ∧ chipReset c i d =
    { s with flt := resetFlt s.flt, paths := [], hdl := {}, pci := { s.pci with held := [] }, sec := {}, standby := 0, wakeReq := none
             booting := !s.rstLow, bootT := 0, jtag := 0 } :=
  ⟨clockOff (allDown (resetQuench d)), _, rfl, rfl⟩

theorem rd_chipReset (c i : Nat) (d : Dev) {a : Nat} (hkeep : resetKeepsReg a = false) (hstat : a ≠ A 3 0x80) (hcount : a ≠ A 3 0xA8)
    (hcause : a ≠ A 0 0xA0) : rd (chipReset c i d) a = regReset a := by
  obtain ⟨e, s, hs, heq⟩ := chipReset_eq c i d
  rw [heq]
  show rd s a = regReset a
  rw [hs, rd_resetRegs c i e hkeep hstat hcount hcause]

theorem logical_chipReset (c i : Nat) (d : Dev) {e : Nat} (he : e < 66) : logical (chipReset c i d) e = if e < 64 then e else 0x7F := by
  refine logical_of_map_reset he (rd_chipReset c i d (resetKeepsReg_map ⟨e, he⟩) ?_ ?_ ?_)
  all_goals (simp only [A, furPage]; omega)

/-- Settles O59: FUR.MAP is one of the registers that a chip reset neither keeps nor writes. -/
theorem chipResetRestoresTheFurrowMap : Obligations.ChipResetRestoresTheFurrowMap := by
  unfold Obligations.ChipResetRestoresTheFurrowMap
  intro c i d
  refine ⟨fun e => logical_chipReset c i d, fun a => rd_chipReset c i d, ?units⟩
  case units =>
    obtain ⟨e, s, -, heq⟩ := chipReset_eq c i d
    rw [heq]
    exact ⟨rfl, rfl, rfl, rfl, rfl, rfl⟩

/-! ### The state after power-on (R601, R602, R568) -/

/-- Settles O37: every register of the device after power-on holds its reset value, and the rest is its first state. -/
theorem resetIsTheStateAfterPowerOn : Obligations.ResetIsTheStateAfterPowerOn := by
  unfold Obligations.ResetIsTheStateAfterPowerOn
  have hregs : ∀ a, rd State.reset.dev a = regReset a := fun _ => rfl
  refine ⟨rfl, rfl, hregs, rfl, rfl, rfl, rfl, ?quench, ?first, ?domains, ?map, ?before, ?after, ?err, ?extra, ?field⟩
  case map => exact fun e => logical_of_map_reset e.isLt (hregs _)
  all_goals decide +kernel

end Sys2Proof.Machine
end

section
/-! Reactions that no write masks: QUENCH of the sources of class SAFETY (R30, R547, R548, Table 18-2). -/
namespace Sys2Proof.Machine

theorem bit_eq_testBit (n i : Nat) : bit n i = n.testBit i := by
  unfold bit bits
  rw [Nat.testBit, Nat.one_and_eq_mod_two]
  rcases Nat.mod_two_eq_zero_or_one (n >>> i) with h | h <;> simp [h]

/-- The reaction mask in force of a source of class SAFETY holds QUENCH, whatever was written to its reactions. -/
theorem srcReact_quench_of_safety (d : Dev) {i : Nat} (hclass : srcClass i = 4) : bit (srcReact d i) 5 = true := by
  have hforced : (srcForced i).testBit 5 = true := by
    rw [srcForced, if_pos hclass]
    decide
  rw [bit_eq_testBit, srcReact, Nat.testBit_or, hforced, Bool.or_true]

/-- Settles O56: the loss of lock of the main PLL is of class SAFETY, and QUENCH is forced for that class. -/
theorem mainPllLossAlwaysQuenches : Obligations.MainPllLossAlwaysQuenches := by
  unfold Obligations.MainPllLossAlwaysQuenches
  exact ⟨rfl, fun d _ => srcReact_quench_of_safety d⟩

end Sys2Proof.Machine
end

section
/-! The boundary of a running furrow: what each command of a boundary does when its rule applies, and the statement about those
commands. -/
namespace Sys2Proof.Machine

/-! ### Rows -/

/-- The issue of the row at the next boundary, no instruction being named: the boundary acts, and what is due is issued (R22). -/
theorem issueNext_none {m : Nat} {d : Dev} (hmay : mayIssue d m = true) (hend : (getFur (boundary m d) m).ending = none) :
    issueNext m none d = rowIssued d m (issueGo m (boundary m d)) := by
  simp only [issueNext, hmay, hend, Bool.not_true, Bool.false_eq_true, if_false, Option.isSome_none, rowIssued]

/-! ### Decisions (R187) -/

/-- BRANCH_DECIDE gives every pending branch and every row of a WAIT the value that its condition has now. -/
theorem branchDecide_eq {e : Eng} {m : Nat} {u : Dev} (hm : m = leadOf u e) : branchDecide e u = setFur m
    { getFur u m with
      pend := (getFur u m).pend.map fun b => { b with dec := decided u m b.cond b.sel b.k b.tD b.dec }
      waitRows := (getFur u m).waitRows.map fun r => (r.1, r.2.1, decided u m ((getFur u m).cur.elim 0 fun c => condOf c.1)
        ((getFur u m).cur.elim 0 fun c => selOf c.1) r.1 r.2.1 r.2.2) } u := by
  subst hm
  unfold branchDecide
  dsimp only
  cases (getFur u (leadOf u e)).cur <;> rfl

/-! ### Branches and waits (R192, R195) -/

/-- A taken branch that is due and the oldest acts, and nothing resolves after it. -/
theorem resolveGo_taken {m n : Nat} {b : Pend} {bs : List Pend} {t : Dev} (hpend : (getFur t m).pend = b :: bs)
    (hdue : pendDue (getFur t m) b = true) (hdec : b.dec = some true) : resolveGo m (n + 1) t = takeBranch m b t := by
  simp [resolveGo, hpend, hdue, hdec]

/-- A WAIT whose true condition is due ends, once no branch is due. -/
theorem waitEndGo_hit {m i n td : Nat} {w : BitVec 64} {u : Dev} (hcur : (getFur u m).cur = some (w, i, n)) (hop : opOf w = 12)
    (hn : 0 < n) (hpend : (getFur u m).pend.any (pendDue (getFur u m)) = false) (hhit : waitHit (getFur u m) = some td) :
    waitEndGo m u = goTo m (i + 1) i (setFur m
      { getFur (onlyIf (wf w 41 1 == 1) (clearAtBoundary m (condOf w) (selOf w) td) u) m with cur := none, waitRows := [] }
      (onlyIf (wf w 41 1 == 1) (clearAtBoundary m (condOf w) (selOf w) td) u)) := by
  simp [waitEndGo, hcur, hop, hn, hpend, hhit]

/-- A WAIT that has issued TIMEOUT rows, with no true condition and no decision open, ends in its fault or in its flag. -/
theorem waitTimeoutGo_over {m i n : Nat} {w : BitVec 64} {u : Dev} (hcur : (getFur u m).cur = some (w, i, n)) (hop : opOf w = 12)
    (hlimit : wf w 0 28 ≠ 0) (hn : n = wf w 0 28) (hpend : (getFur u m).pend.any (pendDue (getFur u m)) = false)
    (hopen : waitOpen (getFur u m) = false) (hhit : waitHit (getFur u m) = none) :
    waitTimeoutGo m u = if wf w 42 1 = 1 then progFault m 9 i (setFur m { getFur u m with cur := none, waitRows := [] } u)
      else goTo m (i + 1) i (irqSet (furPage m) 4 (fset (fa m 0x84) 14 1 1 (setFur m { getFur u m with cur := none, waitRows := [] } u))) := by
  subst hn
  simp [waitTimeoutGo, hcur, hop, hlimit, hpend, hopen, hhit]

/-! ### End codes (R197) -/

/-- LEND: the innermost loop goes on at its body start, or after its last pass with the next instruction. -/
theorem doEndCode_lend {m c st : Nat} {rest : List (Nat × Nat)} {d : Dev} (hend : (getFur d m).endc = 1)
    (hloops : (getFur d m).loops = (c, st) :: rest) :
    doEndCode m d = if c ≠ 1 then goTo m st (getFur d m).pc (setFur m { getFur d m with endc := 0, loops := (c - 1, st) :: rest } d)
      else goTo m ((getFur d m).pc + 1) (getFur d m).pc (setFur m { getFur d m with endc := 0, loops := rest } d) := by
  simp only [doEndCode, hend, if_true, hloops]

/-- RET: the furrow goes on at the index that the innermost call has left. -/
theorem doEndCode_ret {m r : Nat} {rest : List Nat} {d : Dev} (hend : (getFur d m).endc = 2) (hcalls : (getFur d m).calls = r :: rest) :
    doEndCode m d = goTo m r (getFur d m).pc (setFur m { getFur d m with endc := 0, calls := rest } d) := by
  simp [doEndCode, hend, hcalls]

/-! ### The commands of a boundary -/

section
variable {e : Eng} {m : Nat} {d : Dev} (hm : m = leadOf d e) (hrun : furState d m = 3)
include hm hrun

/-- BRANCH_RESOLVE on a running furrow. -/
theorem doBranchResolve_running : doBranchResolve e d = showFur m (resolveGo m 5 (noteSel m d)) := by
  subst hm
  simp [doBranchResolve, hrun]

/-- WAIT_END on a running furrow. -/
theorem doWaitEnd_running : doWaitEnd e d = showFur m (waitEndGo m (noteSel m d)) := by
  subst hm
  simp [doWaitEnd, hrun]

/-- WAIT_TIMEOUT on a running furrow. -/
theorem doWaitTimeout_running : doWaitTimeout e d = showFur m (waitTimeoutGo m (noteSel m d)) := by
  subst hm
  simp [doWaitTimeout, hrun]

/-- LEND on a running furrow that has come to the end of a loop body, with no branch pending. -/
theorem doLend_running (hend : (getFur d m).endc = 1) (hpend : (getFur d m).pend = []) : doLend e d = showFur m (doEndCode m d) := by
  subst hm
  simp [doLend, hrun, hend, hpend]

/-- RET on a running furrow that has come to the end of a call, with no branch pending. -/
theorem doRet_running (hend : (getFur d m).endc = 2) (hpend : (getFur d m).pend = []) : doRet e d = showFur m (doEndCode m d) := by
  subst hm
  simp [doRet, hrun, hend, hpend]

end

/-- Settles O4: each command is the effect of its boundary rule, under the conditions with which the rule applies. -/
theorem furrowBoundaryCommandsAct : Obligations.FurrowBoundaryCommandsAct := by
  unfold Obligations.FurrowBoundaryCommandsAct
  intro dt s d haon hd
  refine ⟨?rowIssue, ?rowTick, ?compareResult, ?branchDecide, ?branchResolve, ?takenBranch, ?waitEnd, ?waitTimeout, ?lend, ?ret⟩
  case rowIssue =>
    rintro e m b rfl hmay rfl hend
    exact acts_of_act rfl haon hd (issueNext_none hmay hend)
  case rowTick =>
    rintro e m rfl
    exact acts_of_act (f := doRowTick e) rfl haon hd rfl
  case compareResult =>
    rintro e m rfl
    exact acts_of_act (f := doCompareResult e) rfl haon hd rfl
  case branchDecide =>
    rintro e m u rfl hm
    exact acts_of_act (f := doBranchDecide e) rfl haon hd (branchDecide_eq hm)
  case branchResolve =>
    intro e m hm hrun
    exact acts_of_act rfl haon hd (doBranchResolve_running hm hrun)
  case takenBranch =>
    rintro e m b bs t hm hrun rfl hpend hdue hdec
    refine acts_of_act rfl haon hd ?_
    rw [doBranchResolve_running hm hrun, resolveGo_taken hpend hdue hdec]
  case waitEnd =>
    rintro e m w i n td u t hm hrun rfl hcur hop hn hpend hhit rfl
    refine acts_of_act rfl haon hd ?_
    rw [doWaitEnd_running hm hrun, waitEndGo_hit hcur hop hn hpend hhit]
  case waitTimeout =>
    rintro e m w i n u t hm hrun rfl hcur hop hlimit hn hpend hopen hhit rfl
    refine acts_of_act rfl haon hd ?_
    rw [doWaitTimeout_running hm hrun, waitTimeoutGo_over hcur hop hlimit hn hpend hopen hhit]
  case lend =>
    intro e m c st rest hm hrun hend hpend hloops
    refine acts_of_act rfl haon hd ?_
    rw [doLend_running hm hrun hend hpend, doEndCode_lend hend hloops]
  case ret =>
    intro e m r rest hm hrun hend hpend hcalls
    refine acts_of_act rfl haon hd ?_
    rw [doRet_running hm hrun hend hpend, doEndCode_ret hend hcalls]

end Sys2Proof.Machine
end

section
/-! The register file: what a field, an evidence bit and an interrupt bit read as once they are set, and the statements about
the register file and about CHIP.ACCESS_ERR. -/
namespace Sys2Proof.Machine

/-! ### Fields of a word -/

/-- A word with a field replaced, as its high part, the new field and its low part. -/
theorem putBits_eq (n lo w v : Nat) : putBits n lo w v = 2 ^ lo * (2 ^ w * (n / 2 ^ lo / 2 ^ w) + v % 2 ^ w) + n % 2 ^ lo := by
  have hlow := Nat.div_add_mod n (2 ^ lo)
  have hfield := Nat.div_add_mod (n / 2 ^ lo) (2 ^ w)
  have hword : n = 2 ^ lo * (2 ^ w * (n / 2 ^ lo / 2 ^ w)) + 2 ^ lo * (n / 2 ^ lo % 2 ^ w) + n % 2 ^ lo := by
    rw [← Nat.mul_add, hfield, hlow]
  rw [putBits, bits, Nat.shiftRight_eq_div_pow, Nat.mul_add, Nat.mul_comm (n / 2 ^ lo % 2 ^ w), Nat.mul_comm (v % 2 ^ w)]
  omega

/-- What stands from bit `lo` up once a field at `lo` is replaced. -/
theorem putBits_div (n lo w v : Nat) : putBits n lo w v / 2 ^ lo = 2 ^ w * (n / 2 ^ lo / 2 ^ w) + v % 2 ^ w := by
  rw [putBits_eq, Nat.mul_add_div (Nat.two_pow_pos lo), Nat.div_eq_of_lt (Nat.mod_lt n (Nat.two_pow_pos lo)), Nat.add_zero]

/-- The field that was replaced reads as what was put there. -/
theorem bits_putBits (n lo w v : Nat) : bits (putBits n lo w v) lo w = v % 2 ^ w := by
  rw [bits, Nat.shiftRight_eq_div_pow, putBits_div, Nat.mul_add_mod, Nat.mod_mod]

/-- Replacing a field of a word of `k` bits leaves a word of `k` bits. -/
theorem putBits_lt {n lo w k : Nat} (v : Nat) (hn : n < 2 ^ k) (hk : lo + w ≤ k) : putBits n lo w v < 2 ^ k := by
  obtain ⟨j, rfl⟩ := Nat.exists_eq_add_of_le hk
  rw [show lo + w + j = j + w + lo by omega, Nat.pow_add, Nat.pow_add, ← Nat.div_lt_iff_lt_mul (Nat.two_pow_pos lo),
    ← Nat.div_lt_iff_lt_mul (Nat.two_pow_pos w)] at hn ⊢
  rwa [putBits_div, Nat.mul_add_div (Nat.two_pow_pos w), Nat.div_eq_of_lt (Nat.mod_lt v (Nat.two_pow_pos w)), Nat.add_zero]

/-! ### Fields and evidence bits of a register -/

/-- Registers at different offsets of their pages are different registers. -/
theorem A_ne_of_offset {p q o r : Nat} (ho : o < 0x1000) (hr : r < 0x1000) (hne : o ≠ r) : A p o ≠ A q r := by
  unfold A
  omega

/-- Every register is 32 bits wide (R54). -/
theorem rdN_lt (d : Dev) (a : Nat) : rdN d a < 2 ^ 32 := (rd d a).isLt

section
variable {d : Dev} (hwf : mwf regReset 0 d.regs = true)
include hwf

/-- A register after one of its fields is set. -/
theorem rdN_fset {a lo w : Nat} (v : Nat) (hw : lo + w ≤ 32) : rdN (fset a lo w v d) a = putBits (rdN d a) lo w v := by
  rw [fset, rdN_wrN a _ d hwf, Nat.mod_eq_of_lt (putBits_lt v (rdN_lt d a) hw)]

/-- A field reads as it is set. -/
theorem fget_fset {a lo w : Nat} (v : Nat) (hw : lo + w ≤ 32) : fget (fset a lo w v d) a lo w = v % 2 ^ w := by
  rw [fget, rdN_fset hwf v hw, bits_putBits]

/-- A one-bit field reads as it is set. -/
theorem fbit_fset {a i : Nat} (b : Bool) (hi : i < 32) : fbit (fset a i 1 (b2n b) d) a i = b := by
  rw [fbit, fget_fset hwf _ hi]
  cases b <;> rfl

theorem fset_wf (a lo w v : Nat) : mwf regReset 0 (fset a lo w v d).regs = true := wrN_wf a _ d hwf

theorem hit_wf (a i : Nat) : mwf regReset 0 (hit a i d).regs = true := fset_wf (d := markSet a (2 ^ i) d) hwf a i 1 1

/-- An evidence bit is 1 once hardware has set it. -/
theorem fbit_hit {a i : Nat} (hi : i < 32) : fbit (hit a i d) a i = true := fbit_fset (d := markSet a (2 ^ i) d) hwf true hi

/-- A register after hardware has set one of its evidence bits. -/
theorem rdN_hit {a i : Nat} (hi : i < 32) : rdN (hit a i d) a = putBits (rdN d a) i 1 1 := rdN_fset (d := markSet a (2 ^ i) d) hwf 1 hi

/-- A bit of IRQ_STAT after hardware sets bits of it: those set, and those that were 1 (R51). -/
theorem fbit_irqSet (p m : Nat) {i : Nat} (hi : i < 32) : fbit (irqSet p m d) (A p 0x10) i = (fbit d (A p 0x10) i || m.testBit i) := by
  rw [fbit_test, fbit_test, irqSet_at p m d hwf (A_ne_of_offset (by decide) (by decide) (by decide)), Nat.testBit_mod_two_pow,
    Nat.testBit_or, decide_eq_true hi, Bool.true_and]

end

/-- Setting an evidence bit leaves every other register. -/
theorem rdN_hit_ne {a b : Nat} (i : Nat) (d : Dev) (hne : b ≠ a) : rdN (hit a i d) b = rdN d b :=
  rdN_fset_ne a i 1 1 b (markSet a (2 ^ i) d) (Ne.symm hne)

/-- Settles O47: a table in canonical form reads what is set in it, and every change of the register file sets entries. -/
theorem registerFileReadsWhatIsWritten : Obligations.RegisterFileReadsWhatIsWritten := by
  unfold Obligations.RegisterFileReadsWhatIsWritten
  intro d a n hwf
  refine ⟨rdN_wrN a n d hwf, fun b hb => rdN_wrN_ne a b n d (Ne.symm hb), wrN_wf a n d hwf, ?fields, ?interrupts⟩
  case fields => exact fun lo w v => ⟨fset_wf hwf a lo w v, fun b hb => rdN_fset_ne a lo w v b d (Ne.symm hb)⟩
  case interrupts => exact fun p m => ⟨irqSet_wf p m d hwf, fun b hstat hcount => rdN_irqSet_ne p m b d (Ne.symm hstat) (Ne.symm hcount)⟩

/-! ### CHIP.ACCESS_ERR (R59, Table 02-11) -/

/-- CHIP.ACCESS_ERR after a refusal: the first one loads it, a later one sets OVF alone. -/
def errLogged (p : Path) (a c : Nat) (d : Dev) : Dev :=
  if fbit d (A 0 0x94) 31 then hit (A 0 0x94) 25 d
  else wrN (A 0 0x94) (2 ^ 31 + c * 2 ^ 28 + pathCode p * 2 ^ 26 + (a % 2 ^ 22 / 4) * 4) d

/-- A refusal is logged in ACCESS_ERR and then sets bit 0 of CHIP.IRQ_STAT. -/
theorem accessErr_eq (p : Path) (a c : Nat) (d : Dev) : accessErr p a c d = irqSet 0 1 (errLogged p a c d) := rfl

/-- The log of a refusal changes no other register. -/
theorem rdN_errLogged_ne (p : Path) (a c : Nat) (d : Dev) {b : Nat} (hb : b ≠ A 0 0x94) : rdN (errLogged p a c d) b = rdN d b := by
  unfold errLogged
  split
  · exact rdN_hit_ne 25 d hb
  · exact rdN_wrN_ne _ _ _ _ (Ne.symm hb)

/-- The log of a refusal keeps the register file in canonical form. -/
theorem errLogged_wf (p : Path) (a c : Nat) {d : Dev} (hwf : mwf regReset 0 d.regs = true) : mwf regReset 0 (errLogged p a c d).regs = true := by
  unfold errLogged
  split
  · exact hit_wf hwf _ _
  · exact wrN_wf _ _ _ hwf

/-- The first refusal's record fits in the register. -/
theorem errRecord_lt (p : Path) (a : Nat) {c : Nat} (hc : c < 8) :
    2 ^ 31 + c * 2 ^ 28 + pathCode p * 2 ^ 26 + (a % 2 ^ 22 / 4) * 4 < 2 ^ 32 := by
  have hpath : pathCode p ≤ 3 := by cases p <;> decide
  omega

/-- A refusal changes no register but ACCESS_ERR, IRQ_STAT of page CHIP and the count of messages. -/
theorem rdN_accessErr_ne (p : Path) (a c : Nat) (d : Dev) {b : Nat} (herr : b ≠ A 0 0x94) (hstat : b ≠ A 0 0x10) (hcount : b ≠ A 0x190 0x94) :
    rdN (accessErr p a c d) b = rdN d b := by
  rw [accessErr_eq, rdN_irqSet_ne 0 1 b _ (Ne.symm hstat) (Ne.symm hcount), rdN_errLogged_ne p a c d herr]

/-- ACCESS_ERR reads as the refusal has logged it. -/
theorem rdN_accessErr (p : Path) (a c : Nat) (d : Dev) : rdN (accessErr p a c d) (A 0 0x94) = rdN (errLogged p a c d) (A 0 0x94) :=
  rdN_irqSet_ne 0 1 _ _ (by decide) (by decide)

/-- Settles O52: VALID decides what is logged, and the interrupt bit follows in either case. -/
theorem refusalsAreRecorded : Obligations.RefusalsAreRecorded := by
  unfold Obligations.RefusalsAreRecorded
  intro p a c d hwf hc
  refine ⟨fun hvalid => ?first, fun hvalid => ?later, ?interrupt, fun b herr hstat hcount => rdN_accessErr_ne p a c d herr hstat hcount⟩
  case first =>
    rw [rdN_accessErr, errLogged, hvalid, if_neg Bool.false_ne_true, rdN_wrN _ _ d hwf, Nat.mod_eq_of_lt (errRecord_lt p a hc)]
  case later => rw [rdN_accessErr, errLogged, hvalid, if_pos rfl, rdN_hit hwf (by decide)]
  case interrupt =>
    rw [accessErr_eq, irqSet_at 0 1 _ (errLogged_wf p a c hwf) (by decide), rdN_errLogged_ne p a c d (by decide),
      Nat.mod_eq_of_lt (Nat.or_lt_two_pow (rdN_lt d _) (by decide))]

end Sys2Proof.Machine
end

section
/-! Register accesses under the rules of the register pages: what a reserved, unpowered or locked page answers, what the common
header takes, and what a latched group shows; and the statements about them. -/
namespace Sys2Proof.Machine

/-! ### Reserved and unpowered offsets (R49, R50, R58) -/

/-- The common header assigns no register at 0x030 to 0x07F. -/
theorem rowsHdr_reserved : ∀ i : Fin 0x50, (rowsHdr.find? fun r => r.hits (0x30 + i.val)) = none := by
  decide +kernel

theorem regAt_hdr_reserved (p : Nat) {o : Nat} (hlo : 0x30 ≤ o) (hhi : o < 0x80) : regAt (A p o) = none := by
  obtain ⟨i, rfl⟩ := Nat.exists_eq_add_of_le hlo
  unfold regAt
  rw [A_div p _ (by omega), A_mod p _ (by omega)]
  cases pageKind p with
  | none => rfl
  | some k =>
    simp only [hhi, if_true]
    exact rowsHdr_reserved ⟨i, by omega⟩

/-- Settles O51: a read there answers before any block is asked, and a write ends in the guard. -/
theorem reservedAndUnpoweredOffsetsReadZero : Obligations.ReservedAndUnpoweredOffsetsReadZero := by
  unfold Obligations.ReservedAndUnpoweredOffsetsReadZero
  refine ⟨?accesses, regAt_none_page, fun p o => regAt_hdr_reserved p⟩
  intro dt s d p off be v haon hd
  refine ⟨fun hoff => ?reads, fun hoff => acts_of_actNv rfl haon hd (busWrite_off s.nv p off.toNat be v d hoff)⟩
  have hread : busReadOut s.nv p off.toNat d = emit (.rd p 0) d := by rw [busReadOut, busRead_off s.nv p off.toNat d hoff]
  exact ⟨acts_of_actNv rfl haon hd hread, acts_of_actNv rfl haon hd hread⟩

/-! ### Writes to the common header (R51, R63, R66 to R70) -/

/-- A header register that LOCK does not guard takes writes on a powered page out of reset, locked or not (R64). -/
theorem accepts_unguarded {pg o : Nat} {k : PageKind} {d : Dev} (hkind : pageKind pg = some k) (hon : pageOn d pg = true)
    (hrst : d.resetting.contains pg = false) (ho : o = 0x10 ∨ o = 0x14 ∨ o = 0x18 ∨ o = 0x1C ∨ o = 0x2C) :
    accepts d (A pg o) = true := by
  have hguard : lockGuards o = false := by rcases ho with rfl | rfl | rfl | rfl | rfl <;> rfl
  unfold accepts
  rw [A_div pg o (by omega), A_mod pg o (by omega), regAt_hdr pg o k hkind ho, hon, hrst, hguard, Bool.and_false]
  rfl

/-- A write to a header register that no shared rule refuses acts by the header's own rules. -/
theorem busWrite_hdr (nv : Nv) (p : Path) {pg o : Nat} (v : Word) {d : Dev} (ho : o < 0x80) (halign : o % 4 = 0)
    (hacc : accepts d (A pg o) = true) : busWrite nv p (A pg o) 0xF v d = writeHdr nv pg o v.toNat d := by
  obtain ⟨k, hkind⟩ := pk_of_accepts (by omega) hacc
  rw [busWrite_accepts (by unfold A; omega) hacc, writeReg, A_div pg o (by omega), A_mod pg o (by omega), hkind]
  exact if_pos ho

/-! ### LOCK (R63, R64) -/

/-- A write of LOCK leaves LOCKED as KEY says. -/
theorem locked_writeLock (pg v : Nat) {d : Dev} (hwf : mwf regReset 0 d.regs = true) :
    locked (writeLock pg v d) pg = (v % 2 ^ 16 != 0x5EED) :=
  fbit_fset (plainWrite_wf _ v d hwf) _ (by decide)

/-- A write of LOCK changes no other register. -/
theorem rd_writeLock_ne (pg v : Nat) (d : Dev) {b : Nat} (hb : b ≠ A pg 0x2C) : rd (writeLock pg v d) b = rd d b := by
  rw [writeLock, fset_frame _ _ _ _ _ b hb]
  exact (plain_frame (A pg 0x2C) v d).2 b hb

/-- A write of LOCK that no shared rule refuses. -/
theorem busWrite_lock (nv : Nv) (p : Path) {pg : Nat} (v : Word) {d : Dev} (hacc : accepts d (A pg 0x2C) = true) :
    busWrite nv p (A pg 0x2C) 0xF v d = writeLock pg v.toNat d := by
  rw [busWrite_hdr nv p v (by decide) rfl hacc, writeHdr_lock]

/-- Settles O53: LOCK is not guarded by the lock, and its write decides LOCKED by KEY. -/
theorem lockKeyDecides : Obligations.LockKeyDecides := by
  unfold Obligations.LockKeyDecides
  intro dt s d p off v pg k haon hd hoff hkind hon hrst hwf
  have hacc : accepts d (A pg 0x2C) = true := accepts_unguarded hkind hon hrst (by decide)
  refine ⟨writeLock pg v.toNat d, acts_of_actNv rfl haon hd ?write, locked_writeLock pg v.toNat hwf, fun b => rd_writeLock_ne pg v.toNat d⟩
  rw [doRegisterWrite, hoff, busWrite_lock s.nv p v hacc]

/-- A write that the lock refuses is counted as a violation (R64). -/
theorem busWrite_locked (nv : Nv) (p : Path) {pg o : Nat} (v : Word) {d : Dev} (ho : o < 0x1000) (halign : o % 4 = 0)
    (hreg : (regAt (A pg o)).isSome = true) (hon : pageOn d pg = true) (hlock : locked d pg = true) (hguard : lockGuards o = true) :
    busWrite nv p (A pg o) 0xF v d = lockViolation p (A pg o) d := by
  obtain ⟨r, hr⟩ := Option.isSome_iff_exists.mp hreg
  have hmod : A pg o % 4 = 0 := by unfold A; omega
  simp [busWrite, onWrite, guardWrite, hr, hmod, A_div pg o ho, A_mod pg o ho, hon, hlock, hguard]

/-- What a violation of the lock leaves before it is reported: VIOL, and IRQ_STAT.LOCKVIOL. -/
theorem lockViolation_eq (p : Path) {pg o : Nat} (d : Dev) (ho : o < 0x1000) :
    lockViolation p (A pg o) d = accessErr p (A pg o) 4 (irqSet pg 0x10000000 (hit (A pg 0x2C) 30 d)) := by
  rw [lockViolation, A_div pg o ho]

/-- A refusal leaves the interrupt bits of every page that were 1. -/
theorem fbit_irqStat_accessErr (p : Path) (a c pg : Nat) {i : Nat} {d : Dev} (hi : i < 32) (hwf : mwf regReset 0 d.regs = true)
    (hset : fbit d (A pg 0x10) i = true) : fbit (accessErr p a c d) (A pg 0x10) i = true := by
  have hlogged : fbit (errLogged p a c d) (A pg 0x10) i = true := by
    rwa [fbit_test, rdN_errLogged_ne p a c d (A_ne_of_offset (by decide) (by decide) (by decide)), ← fbit_test]
  rw [accessErr_eq]
  by_cases hpg : pg = 0
  case pos =>
    subst hpg
    rw [fbit_irqSet (errLogged_wf p a c hwf) 0 1 hi, hlogged, Bool.true_or]
  case neg =>
    have hstat : A 0 0x10 ≠ A pg 0x10 := by unfold A; omega
    rwa [fbit_test, rdN_irqSet_ne 0 1 _ _ hstat (A_ne_of_offset (by decide) (by decide) (by decide)), ← fbit_test]

section
variable (p : Path) (pg a : Nat) {d : Dev} (hwf : mwf regReset 0 d.regs = true)
include hwf

/-- VIOL of the page is 1 after a violation of its lock. -/
theorem fbit_viol_of_violation : fbit (accessErr p a 4 (irqSet pg 0x10000000 (hit (A pg 0x2C) 30 d))) (A pg 0x2C) 30 = true := by
  have hne : ∀ {q r : Nat}, r < 0x1000 → 0x2C ≠ r → A pg 0x2C ≠ A q r := A_ne_of_offset (by decide)
  rw [fbit_test, rdN_accessErr_ne p a 4 _ (hne (by decide) (by decide)) (hne (by decide) (by decide)) (hne (by decide) (by decide)),
    rdN_irqSet_ne pg _ _ _ (hne (by decide) (by decide)).symm (hne (by decide) (by decide)).symm, ← fbit_test]
  exact fbit_hit hwf (by decide)

/-- IRQ_STAT.LOCKVIOL of the page is 1 after a violation of its lock. -/
theorem fbit_lockviol_of_violation : fbit (accessErr p a 4 (irqSet pg 0x10000000 (hit (A pg 0x2C) 30 d))) (A pg 0x10) 28 = true := by
  refine fbit_irqStat_accessErr p a 4 pg (by decide) (irqSet_wf _ _ _ (hit_wf hwf _ _)) ?_
  rw [fbit_irqSet (hit_wf hwf _ _) pg _ (by decide), show Nat.testBit 0x10000000 28 = true by decide, Bool.or_true]

end

/-- Settles O54: the guard answers for the lock before a block is asked, and five header registers are outside the lock. -/
theorem lockedPagesRefuseWrites : Obligations.LockedPagesRefuseWrites := by
  unfold Obligations.LockedPagesRefuseWrites
  intro dt s d p off v pg o k haon hd hoff ho halign hkind hon hlock
  have hacts : ∀ {u : Dev}, busWrite s.nv p (A pg o) 0xF v d = u → Acts (.registerWrite dt p off 0xF v) s u := fun hwrite =>
    acts_of_actNv rfl haon hd (by rw [doRegisterWrite, hoff, hwrite])
  refine ⟨fun hreg hguard hwf => ?guarded, fun hhdr hrst => hacts ?header, fun hnone => hacts ?unassigned⟩
  case guarded =>
    have hguards : lockGuards o = true := by simpa [lockGuards] using hguard
    refine ⟨_, hacts ?_, rfl, fbit_viol_of_violation p pg (A pg o) hwf, fbit_lockviol_of_violation p pg (A pg o) hwf⟩
    rw [busWrite_locked s.nv p v ho halign hreg hon hlock hguards, lockViolation_eq p d ho]
  case header => exact busWrite_hdr s.nv p v (by omega) halign (accepts_unguarded hkind hon hrst hhdr)
  case unassigned =>
    have hmod : A pg o % 4 = 0 := by unfold A; omega
    rw [busWrite_off s.nv p (A pg o) 0xF v d (.inl hnone)]
    simp [hmod, hnone]

/-! ### Latched groups (R56) -/

/-- The model's indexing with a default is the library's. -/
theorem nth_eq_getD {α : Type} (df : α) (xs : List α) (i : Nat) : nth df xs i = xs.getD i df := by
  induction xs generalizing i with
  | nil => rfl
  | cons x xs ih =>
    cases i with
    | zero => rfl
    | succ i => exact ih i

/-- A path's staging reads as it is set. -/
theorem getPath_setPath (p : Path) (x : PathSt) {d : Dev} (hwf : mwf (fun _ => {}) 0 d.paths = true) : getPath (setPath p x d) p = x := by
  exact (mget_mset _ _ _ _ 0 _ hwf).trans (if_pos rfl)

/-- A read of a further register of a latched group shows the path's read latch, when that holds the register's group. -/
theorem busRead_latMem {nv : Nv} {p : Path} {a i : Nat} {r : Reg} {k : PageKind} {d : Dev} (halign : a % 4 = 0)
    (hreg : regAt a = some r) (hkind : pageKind (a / 0x1000) = some k) (hpair : r.pairing = .latMem i)
    (hread : readable d a = true) :
    (busRead nv p a d).1 = if (getPath (beforeRead k (a / 0x1000) (a % 0x1000) d) p).latchGrp = some (a - 4 * i)
      then nth 0 (getPath (beforeRead k (a / 0x1000) (a % 0x1000) d) p).latch (i - 1) else 0 := by
  obtain ⟨hon, hrst⟩ := readable_page hread
  have hword : a / 4 * 4 = a := by omega
  simp only [busRead, hword, hreg, hkind, hon, hrst, hpair, Bool.not_true, Bool.false_eq_true, if_false]

section
variable (nv : Nv) (p : Path) {a i n : Nat} {d : Dev} (hwf : mwf (fun _ => {}) 0 d.paths = true)
include hwf

/-- The read latch holds the group of the LO register that was read. -/
theorem latchGrp_loadLatch : (getPath (loadLatch nv p n a d) p).latchGrp = some a := by
  rw [loadLatch, getPath_setPath p _ hwf]

/-- The read latch holds what each further register of the group showed. -/
theorem latch_loadLatch {r : Reg} (hreg : regAt (a + 4 * i) = some r) (hlo : 1 ≤ i) (hhi : i ≤ n) :
    nth 0 (getPath (loadLatch nv p n a d) p).latch (i - 1) = shown nv p r (a + 4 * i) d := by
  have hidx : i - 1 < n := by omega
  have hback : i - 1 + 1 = i := by omega
  rw [loadLatch, getPath_setPath p _ hwf, nth_eq_getD]
  simp [List.getD, hidx, hback, hreg]

end

/-- Settles O55: the read of LO loads the latch with what the group shows, and the later read answers from the latch. -/
theorem latchedGroupsReadAtOneTime : Obligations.LatchedGroupsReadAtOneTime := by
  unfold Obligations.LatchedGroupsReadAtOneTime
  rintro nv nv' p a i n r r' k k' d t e u hwf halign hreg hpair hread hkind rfl hreg' hpair' ⟨hlo, hhi⟩ hread' hkind' rfl hheld
  rw [busRead_latLo halign hreg hkind hpair hread] at hheld
  have hback : a + 4 * i - 4 * i = a := by omega
  rw [busRead_latMem (by omega) hreg' hkind' hpair' hread', hheld, hback, if_pos (latchGrp_loadLatch nv p hwf),
    latch_loadLatch nv p hwf hreg' hlo hhi]

end Sys2Proof.Machine
end

section
/-! The block control register, the header's other operations and the time base: what each command does when its rule applies, and
the statements about those commands. -/
namespace Sys2Proof.Machine

/-! ### BLK_CTL (R60, R66 to R70) -/

/-- A write of BLK_CTL that no shared rule refuses. -/
theorem blkCtlWrite_accepts {nv : Nv} {p : Path} {pg : Page} (v : Word) {d : Dev} (hacc : accepts d (A pg.toNat 8) = true) :
    blkCtlWrite p pg v nv d = writeBlkCtl nv pg.toNat v.toNat d :=
  busWrite_hdr nv p v (by decide) rfl hacc

/-- BLK_CTL without SRST: FREEZE is taken first, and then EN (R60, R66, R67). -/
theorem writeBlkCtl_no_reset {nv : Nv} {pg v : Nat} {k : PageKind} {d : Dev} (hkind : pageKind pg = some k) (hsrst : bit v 1 = false) :
    writeBlkCtl nv pg v d = writeEn pg (bit v 0) (writeFreeze nv pg (bit v 2) d) := by
  simp [writeBlkCtl, hkind, hsrst]

/-- BLK_CTL with SRST resets the block, and the chip on page 0 (R70). -/
theorem writeBlkCtl_reset {nv : Nv} {pg v : Nat} {k : PageKind} {d : Dev} (hkind : pageKind pg = some k) (hro : srstRO k = false)
    (hsrst : bit v 1 = true) : writeBlkCtl nv pg v d = if pg = 0 then chipReset 3 0 d else blkReset pg d := by
  simp [writeBlkCtl, hkind, hsrst, hro]

/-- The fields of a word of BLK_CTL with EN and FREEZE, as BLOCK_ENABLE, DRAIN and FREEZE write it. -/
theorem blkCtl_fields (en fr : Bool) : bit (w32 (b2n en + 4 * b2n fr)).toNat 1 = false ∧ bit (w32 (b2n en + 4 * b2n fr)).toNat 0 = en ∧
    bit (w32 (b2n en + 4 * b2n fr)).toNat 2 = fr := by
  cases en <;> cases fr <;> decide

/-- A write of EN and FREEZE alone that no shared rule refuses. -/
theorem blkCtlWrite_en {nv : Nv} {p : Path} {pg : Page} {k : PageKind} (en fr : Bool) {d : Dev} (hacc : accepts d (A pg.toNat 8) = true)
    (hkind : pageKind pg.toNat = some k) :
    blkCtlWrite p pg (w32 (b2n en + 4 * b2n fr)) nv d = writeEn pg.toNat en (writeFreeze nv pg.toNat fr d) := by
  obtain ⟨hsrst, hen, hfr⟩ := blkCtl_fields en fr
  rw [blkCtlWrite_accepts _ hacc, writeBlkCtl_no_reset hkind hsrst, hen, hfr]

/-- EN = 1 starts a block that is not enabled and not draining, where no rule of its chapter refuses it (R66, R135, R302). -/
theorem writeEn_enables {pg : Nat} {k : PageKind} {t : Dev} (hkind : pageKind pg = some k) (hfix : enFixed k = false)
    (hdrain : blkDraining t pg = false) (hen : blkEn t pg = false)
    (hlent : 0x140 ≤ pg ∧ pg < 0x150 → timLent t (pg - 0x140) = false) (hjes : k = .jes → jesErr (jesWould t (pg - 0x1A0)) = 0) :
    writeEn pg true t = blkRise pg (fset (A pg 8) 0 1 1 t) := by
  have hfree : (decide (0x140 ≤ pg) && decide (pg < 0x150) && timLent t (pg - 0x140)) = false := by simpa using hlent
  simpa [writeEn, hkind, hfix, hdrain, hen, hfree] using fun hk hbad => absurd (hjes hk) hbad

/-- EN = 0 of an ACTIVE block starts its drain (R67). -/
theorem writeEn_drains {pg : Nat} {k : PageKind} {t : Dev} (hkind : pageKind pg = some k) (hfix : enFixed k = false)
    (hen : blkEn t pg = true) (hact : blkActive t pg = true) :
    writeEn pg false t = blkDrainStart pg (fset (A pg 0xC) 1 1 1 (fset (A pg 8) 0 1 0 t)) := by
  simp [writeEn, hkind, hfix, hen, hact]

section
variable {pg : Page} {d : Dev} (hon : pageOn d pg.toNat = true) (hdrain : blkDraining d pg.toNat = true)
  (hrst : d.resetting.contains pg.toNat = false) (hidle : blkIdle d pg.toNat = true)
include hon hdrain hrst hidle

/-- DRAIN_DONE of a block whose chapter adds nothing to it (R67). -/
theorem doDrainDone_plain {k : PageKind} (hkind : pageKind pg.toNat = some k) (hmem : k ≠ .mem) (hmem0 : k ≠ .mem0) (hgrn : k ≠ .grn) :
    doDrainDone pg d = irqSet pg.toNat 0x40000000 (fset (A pg.toNat 0xC) 0 2 0 d) := by
  simp only [doDrainDone, hon, hdrain, hrst, hidle, hkind, Bool.not_false, Bool.and_self, if_true]
  split
  · next heq => exact absurd (Option.some.inj heq) hmem
  · next heq => exact absurd (Option.some.inj heq) hmem0
  · next heq => exact absurd (Option.some.inj heq) hgrn
  · rfl

/-- DRAIN_DONE of the Granary writes its cached descriptors back. -/
theorem doDrainDone_grn (hkind : pageKind pg.toNat = some .grn) :
    doDrainDone pg d = grnDrained (irqSet pg.toNat 0x40000000 (fset (A pg.toNat 0xC) 0 2 0 d)) := by
  simp only [doDrainDone, hon, hdrain, hrst, hidle, hkind, Bool.not_false, Bool.and_self, if_true]

/-- DRAIN_DONE of a DDR-5 channel maps it out (R521). -/
theorem doDrainDone_mem {k : PageKind} (hkind : pageKind pg.toNat = some k) (hmem : k = .mem ∨ k = .mem0) :
    doDrainDone pg d = mapoutMem (pg.toNat - 0x188) (irqSet pg.toNat 0x40000000 (fset (A pg.toNat 0xC) 0 2 0 d)) := by
  simp only [doDrainDone, hon, hdrain, hrst, hidle, hkind, Bool.not_false, Bool.and_self, if_true]
  rcases hmem with rfl | rfl <;> rfl

end

/-- BLOCK_RESET_DONE of a page in reset ends its reset, and a shadow that waits for it starts its EXTRA (R70, R525, R570). -/
theorem doBlockResetDone_resetting {pg : Page} {d : Dev} (hrst : d.resetting.contains pg.toNat = true) :
    doBlockResetDone pg d = hostRelease
      { d with
        resetting := d.resetting.filter (· ≠ pg.toNat)
        flt := { d.flt with
          shadows := d.flt.shadows.map fun x =>
            if x.page == some pg.toNat && x.closeAt.isNone then { x with closeAt := some (now d + fget d (A 2 0xD8) 0 16) } else x } } :=
  if_neg (by rw [hrst]; decide)

/-- Settles O2: each word of BLK_CTL and each end of a drain or a reset is the block control rule that it falls under. -/
theorem blockControlActs : Obligations.BlockControlActs := by
  unfold Obligations.BlockControlActs
  intro dt s d haon hd
  refine ⟨?blockEnable, ?drain, ?freeze, ?blockReset, ?drainDone, ?drainDoneGrn, ?drainDoneMem, ?blockResetDone⟩
  case blockEnable =>
    rintro p pg fr k t hacc hkind hfix rfl hdrain hen hlent hjes
    exact acts_of_actNv rfl haon hd ((blkCtlWrite_en true fr hacc hkind).trans (writeEn_enables hkind hfix hdrain hen hlent hjes))
  case drain =>
    rintro p pg fr k t hacc hkind hfix rfl hen hact
    refine acts_of_actNv rfl haon hd ?_
    rw [doDrain, ← Nat.zero_add (4 * b2n fr)]
    exact (blkCtlWrite_en false fr hacc hkind).trans (writeEn_drains hkind hfix hen hact)
  case freeze =>
    intro p pg en k hacc hkind
    refine acts_of_actNv rfl haon hd ?_
    rw [doFreeze, Nat.add_comm]
    exact blkCtlWrite_en en true hacc hkind
  case blockReset =>
    intro p pg k hacc hkind hro
    exact acts_of_actNv rfl haon hd ((blkCtlWrite_accepts 2 hacc).trans (writeBlkCtl_reset hkind hro (by decide)))
  case drainDone =>
    intro pg k hon hdrain hrst hidle hkind hmem hmem0 hgrn
    exact acts_of_act rfl haon hd (doDrainDone_plain hon hdrain hrst hidle hkind hmem hmem0 hgrn)
  case drainDoneGrn =>
    intro pg hon hdrain hrst hidle hkind
    exact acts_of_act rfl haon hd (doDrainDone_grn hon hdrain hrst hidle hkind)
  case drainDoneMem =>
    intro pg k hon hdrain hrst hidle hkind hmem
    exact acts_of_act rfl haon hd (doDrainDone_mem hon hdrain hrst hidle hkind hmem)
  case blockResetDone =>
    intro pg hrst
    exact acts_of_act rfl haon hd (doBlockResetDone_resetting hrst)

/-! ### The header's other operations and the time base (R30, R35, R36, R51, R63, R533) -/

/-- A pending message that nothing blocks is sent, and no longer pends (R533). -/
theorem doMsixPendingSend_sends {vec : BitVec 11} {d : Dev} (hpend : mget (fun _ => false) d.pci.pba vec.toNat = true)
    (hfree : msixBlocked d vec.toNat = false) : doMsixPendingSend vec d = msixSendNow vec.toNat
      { d with pci := { d.pci with pba := mset (fun _ => false) vec.toNat false d.pci.pba } } := by
  simp [doMsixPendingSend, hpend, hfree]

/-- A valid field period is requested (R36). -/
theorem writeFieldCfg_valid {v : Nat} (d : Dev) (hlo : 1 ≤ bits v 0 7) (hhi : bits v 0 7 ≤ 100) :
    writeFieldCfg v d = fset (A 0 0x80) 0 7 (bits v 0 7) (onlyIf (bit v 31) (clrHit (A 0 0x80) 31) d) := by
  have hvalid : ¬ ((bits v 0 7 = 0 || bits v 0 7 > 100) = true) := by simp; omega
  exact if_neg hvalid

/-- Another value sets the error bit (R36). -/
theorem writeFieldCfg_invalid {v : Nat} (d : Dev) (hbad : bits v 0 7 = 0 ∨ 100 < bits v 0 7) :
    writeFieldCfg v d = hit (A 0 0x80) 31 (onlyIf (bit v 31) (clrHit (A 0 0x80) 31) d) := by
  have hinvalid : (bits v 0 7 = 0 || bits v 0 7 > 100) = true := by simpa using hbad
  exact if_pos hinvalid

/-- A field tick that is due counts, loads the latched TS and the new period, takes the snapshots and paces the service layer (R35). -/
theorem doFieldTick_due {d t : Dev} (hclk : d.clk = true) (hper : fieldMcs d ≠ 0) (hmult : now d % fieldMcs d = 0)
    (hlate : d.fieldMc.all (fun m => decide (m + 1600 ≤ now d)) = true)
    (ht : t = wr64 (A 0 0x8C) (now d) (wr64 (A 0 0x84) (rd64 { d with fieldMc := some (now d) } (A 0 0x84) + 1) { d with fieldMc := some (now d) })) :
    doFieldTick d = flwTick (fieldSnapshots (fset (A 0 0x80) 16 7 (fget t (A 0 0x80) 0 7) t)) := by
  subst ht
  refine if_neg ?_
  cases hmc : d.fieldMc with
  | none => simp [hclk, hper, hmult]
  | some m =>
    have hgap : m + 1600 ≤ now d := by simpa [hmc] using hlate
    simpa [hclk, hper, hmult] using hgap

/-- An unlock of the locked main PLL clears MAIN_LOCK and WARM and raises its source (R30). -/
theorem doMainPllUnlock_locked {d : Dev} (hclk : d.clk = true) (hlock : fbit d refStat 26 = true) :
    doMainPllUnlock d = raise 1 0 (setWarm false (fset refStat 26 1 0 { d with hdl := { d.hdl with lockFrom := none } })) := by
  simp [doMainPllUnlock, hclk, hlock]

/-- Settles O3: each command is the effect of its rule, under the conditions with which the rule applies. -/
theorem headerAndTimeBaseCommandsAct : Obligations.HeaderAndTimeBaseCommandsAct := by
  unfold Obligations.HeaderAndTimeBaseCommandsAct
  intro dt s d haon hd
  refine ⟨?lockKey, ?irqForce, ?msixPendingSend, ?fieldCfgValid, ?fieldCfgInvalid, ?fieldTick, ?mainPllUnlock⟩
  case lockKey => exact fun p pg v hacc => acts_of_actNv rfl haon hd (busWrite_lock s.nv p v hacc)
  case irqForce => exact fun p pg v hacc => acts_of_actNv rfl haon hd (busWrite_hdr s.nv p v (by decide) rfl hacc)
  case msixPendingSend => exact fun vec hpend hfree => acts_of_act rfl haon hd (doMsixPendingSend_sends hpend hfree)
  case fieldCfgValid =>
    exact fun p v hacc hlo hhi => acts_of_act rfl haon hd ((onWrite_accepts hacc).trans (writeFieldCfg_valid d hlo hhi))
  case fieldCfgInvalid =>
    exact fun p v hacc hbad => acts_of_act rfl haon hd ((onWrite_accepts hacc).trans (writeFieldCfg_invalid d hbad))
  case fieldTick => exact fun t hclk hper hmult hlate ht => acts_of_act rfl haon hd (doFieldTick_due hclk hper hmult hlate ht)
  case mainPllUnlock => exact fun hclk hlock => acts_of_act rfl haon hd (doMainPllUnlock_locked hclk hlock)

end Sys2Proof.Machine
end

section
/-! The lanes of a bank: what each command on a sense lane, a lane's owner, a lane's failure and a spare timing slice does when its
rule applies, and the statement about those commands. -/
namespace Sys2Proof.Machine

/-! ### Sense lanes (R83, R84) -/

section
variable {l : LaneId} {d : Dev} (hon : domOn d (4 + l / 64) = true)
include hon

/-- A transition of a powered bank comes after what the decoders still held at its time (R83). -/
theorem doSenseTransition_powered (vs : BitVec 10) (st : SState) : doSenseTransition l vs st d =
    senseUpdate [(l.val, senseChange (nowVs d + vs.toNat) (mqual (senseAll (nowVs d + vs.toNat) d) l) st
      (getLane (senseAll (nowVs d + vs.toNat) d) l))] (senseAll (nowVs d + vs.toNat) d) :=
  if_neg (by simp [hon])

/-- A lane of a powered bank whose common mode has been low for as long as OPEN_EN asks becomes OPEN (R84). -/
theorem doSenseOpenDetect_counted (hopen : openCounted d (l / 64) = true) :
    doSenseOpenDetect l d = updHealth l (setOpen l true d) :=
  if_pos (by rw [hopen, hon]; rfl)

/-- A lane of a powered bank leaves OPEN (R84). -/
theorem doSenseOpenRecover_powered : doSenseOpenRecover l d = updHealth l (setOpen l false d) :=
  if_pos hon

/-- The transmitter or the receiver of a lane of a powered bank fails: the lane is lost, and its source occurs (R108). -/
theorem doLaneIoFail_powered (rx : Bool) : doLaneIoFail l rx d =
    raiseOn (0x15 + 4 * (l / 64)) (b2n rx) l (laneLost l (setLane l { getLane d l with ioFail := true } d)) :=
  if_pos hon

end

/-! ### Ownership and spare slices (R75, R109) -/

/-- A word of LANE_CFG that R75 does not refuse is taken. -/
theorem writeLaneCfg_taken {l v : Nat} {d : Dev} (hok : ownErr d l (bits v 0 7) (bit v 8) = 0) :
    writeLaneCfg l v d = idlePark l (repark l (updHealth l (fset (laneCfg l) 8 1 (b2n (bit v 8)) (fset (laneCfg l) 0 7 (bits v 0 7) d)))) :=
  if_neg (not_not_intro hok)

section
variable {b v x : Nat} {d : Dev} (hspare : x = bits v 24 1)
include hspare

/-- A word of SPARE_CFG with MAP that R109 does not refuse maps the spare to the lane. -/
theorem writeSpareCfg_map {l : Nat} (hmap : bit v 31 = true) (hlane : l = 64 * b + bits v 16 6) (hok : mapRefused d b x l = false) :
    writeSpareCfg b v d = mapSpare b x l (plainWrite (A (cfgPage b) 0x84) v d) := by
  subst hspare hlane
  simp [writeSpareCfg, hmap, hok]

/-- A word of SPARE_CFG with UNMAP and without MAP frees a spare in use whose lane's owner is stopped. -/
theorem writeSpareCfg_unmap (hmap : bit v 31 = false) (hunmap : bit v 30 = true)
    (hstop : furStopped d (owner d (spareLane d b x)) = true) (hused : spareUsed (plainWrite (A (cfgPage b) 0x84) v d) b x = true) :
    writeSpareCfg b v d = unmapSpare b x (plainWrite (A (cfgPage b) 0x84) v d) := by
  subst hspare
  simp [writeSpareCfg, hmap, hunmap, hstop, hused]

end

/-- Settles O7: each command is the effect of its rule, under the conditions with which the rule applies. -/
theorem laneCommandsAct : Obligations.LaneCommandsAct := by
  unfold Obligations.LaneCommandsAct
  intro dt s d haon hd
  refine ⟨?senseTransition, ?senseOpenDetect, ?senseOpenRecover, ?laneCfgWrite, ?laneIoFail, ?spareMap, ?spareUnmap⟩
  case senseTransition =>
    rintro l vs st c q hon rfl rfl
    exact acts_of_act rfl haon hd (doSenseTransition_powered hon vs st)
  case senseOpenDetect => exact fun l hopen hon => acts_of_act rfl haon hd (doSenseOpenDetect_counted hon hopen)
  case senseOpenRecover => exact fun l hon => acts_of_act rfl haon hd (doSenseOpenRecover_powered hon)
  case laneCfgWrite =>
    exact fun p l v hacc hok => acts_of_act rfl haon hd ((onWrite_accepts hacc).trans (writeLaneCfg_taken hok))
  case laneIoFail => exact fun l rx hon => acts_of_act rfl haon hd (doLaneIoFail_powered hon rx)
  case spareMap =>
    rintro p b v x l w hacc rfl hspare hlane hok
    exact acts_of_act rfl haon hd ((onWrite_accepts hacc).trans (writeSpareCfg_map hspare (bit_or31 v.toNat) hlane hok))
  case spareUnmap =>
    rintro p b v x w hacc rfl hspare _ hstop hused
    obtain ⟨hmap, hunmap⟩ := put30 v.toNat v.isLt
    exact acts_of_act rfl haon hd ((onWrite_accepts hacc).trans (writeSpareCfg_unmap hspare hmap hunmap hstop hused))

end Sys2Proof.Machine
end

section
/-! The registers of the front-end control bus: what a command word, the group control, a read of FEC.RSP and the poll interval do
when their rules apply, and the statement about those commands. -/
namespace Sys2Proof.Machine

/-! ### FEC.CMD (R91, R95, R96, R103) -/

section
variable {b : Nat} {c : FecCmd} {d : Dev} (htakes : fecTakes d b = true)
  (hchip : c.kind = 4 ∨ c.kind = 5 ∨ fbit d (A (fecPage b) 0x80) c.chip = true)
include htakes hchip

/-- A command to a present chip, or to all, is taken by its kind: an armed one for the open group, another as an immediate command,
each only while there is room (R95, R96, R103). -/
theorem fecCommand_addressed : fecCommand b c d =
    if isArmed c.kind then
      if (List.range 8).any (fun n => decide (armedFor ((getFec d b).opn ++ [c]) n > 16)) then hit (A (fecPage b) 0x98) 29 d
      else putFec b { getFec d b with opn := (getFec d b).opn ++ [c] } d
    else if (getFec d b).imm.length ≥ 64 then hit (A (fecPage b) 0x98) 29 d
    else putFec b { getFec d b with imm := (getFec d b).imm ++ [c] } d := by
  have hpresent : (decide (c.kind ≠ 4) && decide (c.kind ≠ 5) && !fbit d (A (fecPage b) 0x80) c.chip) = false := by
    rcases hchip with h | h | h <;> simp [h]
  simp only [fecCommand, htakes, hpresent, Bool.not_true, Bool.false_eq_true, if_false]

/-- A command of an immediate kind waits last among the immediate commands. -/
theorem fecCommand_immediate (hkind : isArmed c.kind = false) (hroom : (getFec d b).imm.length < 64) :
    fecCommand b c d = putFec b { getFec d b with imm := (getFec d b).imm ++ [c] } d := by
  rw [fecCommand_addressed htakes hchip, hkind, if_neg Bool.false_ne_true, if_neg (Nat.not_le.mpr hroom)]

/-- A command of an armed kind joins the open group. -/
theorem fecCommand_armed (hkind : isArmed c.kind = true)
    (hroom : (List.range 8).any (fun n => decide (armedFor ((getFec d b).opn ++ [c]) n > 16)) = false) :
    fecCommand b c d = putFec b { getFec d b with opn := (getFec d b).opn ++ [c] } d := by
  rw [fecCommand_addressed htakes hchip, hkind, if_pos rfl, hroom, if_neg Bool.false_ne_true]

end

/-! ### GRP_CTL (R97, R105) -/

/-- A word of GRP_CTL with FLUSH discards every group. -/
theorem writeGrpCtl_flush {b v : Nat} (d : Dev) (hflush : bit v 27 = true) :
    writeGrpCtl b v d = flushGroups b (plainWrite (A (fecPage b) 0x8C) v d) :=
  if_pos hflush

/-- A word of GRP_CTL with CLOSE and without FLUSH queues the open group with the target that it names, while there is room. -/
theorem writeGrpCtl_close {b v : Nat} {d : Dev} {g : GrpTarget} {c : Option Nat} (hflush : bit v 27 = false) (hclose : bit v 31 = true)
    (htakes : fecTakes d b = true) (htarget : groupTarget d b v = some (g, c)) (hroom : (getFec d b).groups.length < 8) :
    writeGrpCtl b v d = checkDone b (putFec b
      { getFec d b with opn := [], groups := (getFec d b).groups ++ [{ frames := (getFec d b).opn, target := g, time := c }] }
      (plainWrite (A (fecPage b) 0x8C) v d)) := by
  simp [writeGrpCtl, hflush, hclose, htakes, htarget, Nat.not_le.mpr hroom]

/-! ### FEC.RSP and the polls (R102, R114) -/

/-- The page of a bank's bus is a FEC page. -/
theorem pageKind_fecPage (b : Bank) : pageKind (fecPage b) = some .fec := by
  revert b
  decide

/-- FEC.RSP is a register of its own, in no pair and no latched group. -/
theorem regAt_fecRsp (b : Bank) : ∃ r, regAt (A (fecPage b) 0x88) = some r ∧ r.pairing = .none := by
  have hrow : ∃ r, (rowsOf .fec).find? (fun r => r.hits 0x88) = some r ∧ r.pairing = .none := by decide
  unfold regAt
  rw [A_div _ _ (by decide), A_mod _ _ (by decide), pageKind_fecPage]
  exact hrow

/-- A read of FEC.RSP of a page that is not frozen answers the oldest response and takes it from the FIFO. -/
theorem busRead_fecRsp (nv : Nv) (p : Path) {b : Bank} {d : Dev} (hread : readable d (A (fecPage b) 0x88) = true)
    (hfrz : d.frozen.contains (fecPage b) = false) : busRead nv p (A (fecPage b) 0x88) d = rspRead b d := by
  obtain ⟨r, hreg, hpair⟩ := regAt_fecRsp b
  have hpage : A (fecPage b) 0x88 / 0x1000 = fecPage b := A_div _ _ (by decide)
  have hoff : A (fecPage b) 0x88 % 0x1000 = 0x88 := A_mod _ _ (by decide)
  have hbank : fecPage b - 0x194 = b := Nat.add_sub_cancel_left ..
  rw [busRead_unpaired (by unfold A; omega) hreg (by rw [hpage, pageKind_fecPage]) hpair hread]
  simp only [readReg, beforeRead, hpage, hoff, hfrz, hbank, decide_true, Bool.and_self, Bool.false_eq_true, if_true, if_false]

/-- A poll interval that has passed adds a poll of each present chip, and the next begins (R102). -/
theorem doStatusPoll_due {b : Bank} {d t : Dev} (hus : fget d (A (fecPage b) 0x80) 16 8 ≠ 0) (htakes : fecTakes d b = true)
    (hdue : (getFec d b).nextPoll ≤ now d)
    (ht : t = forAll ((List.range 8).filter fun n => fbit d (A (fecPage b) 0x80) n) (addPoll b) d) :
    doStatusPoll b d = setFec b { getFec t b with nextPoll := now t + fget d (A (fecPage b) 0x80) 16 8 * 1600 } t := by
  subst ht
  simp [doStatusPoll, hus, htakes, Nat.not_lt.mpr hdue]

/-- Settles O8: each command is what its register's rule makes of its word, under the conditions with which the rule applies. -/
theorem frontEndCommandsAreTaken : Obligations.FrontEndCommandsAreTaken := by
  unfold Obligations.FrontEndCommandsAreTaken
  intro dt s d haon hd
  refine ⟨?writeNow, ?read, ?poll, ?bcastNow, ?writeArmed, ?bcastArmed, ?close, ?flush, ?fecRspRead, ?statusPoll⟩
  case writeNow =>
    exact fun p b ch ad da hacc htakes hchip hroom =>
      acts_of_act rfl haon hd ((onWrite_accepts hacc).trans (fecCommand_immediate htakes (.inr (.inr hchip)) rfl hroom))
  case read =>
    exact fun p b ch ad hacc htakes hchip hroom =>
      acts_of_act rfl haon hd ((onWrite_accepts hacc).trans (fecCommand_immediate htakes (.inr (.inr hchip)) rfl hroom))
  case poll =>
    exact fun p b ch hacc htakes hchip hroom =>
      acts_of_act rfl haon hd ((onWrite_accepts hacc).trans (fecCommand_immediate htakes (.inr (.inr hchip)) rfl hroom))
  case bcastNow =>
    exact fun p b ad da hacc htakes hroom =>
      acts_of_act rfl haon hd ((onWrite_accepts hacc).trans (fecCommand_immediate htakes (.inl rfl) rfl hroom))
  case writeArmed =>
    rintro p b ch ad da c hacc htakes hchip rfl hroom
    exact acts_of_act rfl haon hd ((onWrite_accepts hacc).trans (fecCommand_armed htakes (.inr (.inr hchip)) rfl hroom))
  case bcastArmed =>
    rintro p b ad da c hacc htakes rfl hroom
    exact acts_of_act rfl haon hd ((onWrite_accepts hacc).trans (fecCommand_armed htakes (.inr (.inl rfl)) rfl hroom))
  case close =>
    rintro p b v w g c hacc htakes rfl htarget hroom
    exact acts_of_act rfl haon hd ((onWrite_accepts hacc).trans
      (writeGrpCtl_close (bit_put27 _) (bit_close v.toNat v.isLt) htakes htarget hroom))
  case flush =>
    exact fun p b v hacc => acts_of_act rfl haon hd ((onWrite_accepts hacc).trans (writeGrpCtl_flush d (bit_flush v.toNat v.isLt)))
  case fecRspRead =>
    intro p b hread hfrz
    refine acts_of_actNv rfl haon hd ?_
    rw [doFecRspRead, busReadOut, busRead_fecRsp s.nv p hread hfrz]
  case statusPoll =>
    rintro b us t rfl hus htakes hdue ht
    exact acts_of_act rfl haon hd (doStatusPoll_due hus htakes hdue ht)

end Sys2Proof.Machine
end

section
/-! The front-end control bus at work: what frames, responses, time-outs, applies and the end of a bus reset do when their rules
apply, and the statement about those commands. -/
namespace Sys2Proof.Machine

/-! ### Frames and responses (R92 to R94, R97, R100) -/

/-- The next frame by priority leaves in its slot, which begins in this mc (R97). -/
theorem doFecFrameSend_slot {b : Bank} {d : Dev} {k : Nat} {c : FecCmd} {y : FecBus} (hon : pageOn d (fecPage b) = true)
    (hact : blkActive d (fecPage b) = true) (hrst : (getFec d b).resetAt = none)
    (hk : k = max (getFec d b).freeAt (launchFrom (nowVs d))) (hslot : fckFall (k - 1) < nowVs d + 1024)
    (hpick : pickFrame (getFec d b) k (fckFall (k + 47) / 1024) = some (c, y)) :
    doFecFrameSend b d = checkDone b (putFec b
      { y with seq := (y.seq + 1) % 128, freeAt := k + 49, outs := if noResponse c then y.outs else y.outs ++ [(c, k)] }
      (emit (.fcmd b (fckFall (k - 1)) (fecFrame c c.seqno)) d)) := by
  subst hk
  simp [doFecFrameSend, hon, hact, hrst, hpick, Nat.not_le.mpr hslot]

section
variable {b : Bank} {d : Dev} {c : FecCmd} {k : Nat} {rest : List (FecCmd × Nat)} (houts : (getFec d b).outs = (c, k) :: rest)
include houts

/-- No response has started within the window: the oldest command has missed (R100). -/
theorem doFecResponseTimeout_over (hover : fckRise (k + 55) + fget d (A (fecPage b) 0x80) 12 4 * 1024 < nowVs d + 1024) :
    doFecResponseTimeout b d = missed b c (fecErr b 16 (popOut b d)) := by
  simp [doFecResponseTimeout, houts, Nat.not_le.mpr hover]

variable {frame : BitVec 39} {edge : BitVec 5}
  (hover : fckRise (k + 47 + edge.toNat + 38) + fget d (A (fecPage b) 0x80) 12 4 * 1024 < nowVs d + 1024)
include hover

/-- A response outside the window of R94, or without its start bit: the oldest command has missed (R100). -/
theorem doFecResponse_outside (hout : bit frame.toNat 38 = false ∨ edge.toNat < 2 ∨ 8 < edge.toNat) :
    doFecResponse b frame edge d = missed b c (fecErr b 16 (popOut b d)) := by
  have hwindow : (!bit frame.toNat 38 || decide (edge.toNat < 2) || decide (edge.toNat > 8)) = true := by
    rcases hout with h | h | h <;> simp [h]
  simp only [doFecResponse, houts, if_neg (Nat.not_le.mpr hover), hwindow, if_true]

variable (hstart : bit frame.toNat 38 = true) (hlo : 2 ≤ edge.toNat) (hhi : edge.toNat ≤ 8)
include hstart hlo hhi

/-- A response within the window with a bad CRC, chip or SEQ: the oldest command has missed (R93, R100). -/
theorem doFecResponse_bad (hbad : crc8 30 (bits frame.toNat 8 30) ≠ bits frame.toNat 0 8 ∨ bits frame.toNat 35 3 ≠ c.chip ∨
    bits frame.toNat 24 7 ≠ c.seqno) : doFecResponse b frame edge d = missed b c (fecErr b 24 (popOut b d)) := by
  have hcheck : (decide (crc8 30 (bits frame.toNat 8 30) ≠ bits frame.toNat 0 8) || decide (bits frame.toNat 35 3 ≠ c.chip) ||
      decide (bits frame.toNat 24 7 ≠ c.seqno)) = true := by simpa [or_assoc] using hbad
  simp only [doFecResponse, houts, if_neg (Nat.not_le.mpr hover), hstart, Nat.not_lt.mpr hlo, Nat.not_lt.mpr hhi, hcheck, Bool.not_true,
    Bool.false_or, decide_false, Bool.false_eq_true, if_false, if_true]

/-- A response within the window with good CRC, chip and SEQ answers the oldest command (R92, R93). -/
theorem doFecResponse_good (hcrc : crc8 30 (bits frame.toNat 8 30) = bits frame.toNat 0 8) (hchip : bits frame.toNat 35 3 = c.chip)
    (hseq : bits frame.toNat 24 7 = c.seqno) : doFecResponse b frame edge d =
      answered b c (bits frame.toNat 31 3) (bit frame.toNat 34) (bits frame.toNat 8 16)
        ((fckRise (k + 47 + edge.toNat + 38) + fget d (A (fecPage b) 0x80) 12 4 * 1024) / 1024) (popOut b d) := by
  simp [doFecResponse, houts, Nat.not_le.mpr hover, hstart, Nat.not_lt.mpr hlo, Nat.not_lt.mpr hhi, hcrc, hchip, hseq]

end

/-! ### APPLY and the end of a bus reset (R90, R98, R99) -/

section
variable {b : Bank} {g : Group} {gs : List Group} {k : Nat} {d u : Dev} (hu : u = checkDone b d) (hgroups : (getFec u b).groups = g :: gs)
  (hrst : (getFec u b).resetAt = none) (hact : blkActive u (fecPage b) = true) (hslot : fckFall (k - 1) < nowVs u + 1024)
include hu hgroups hrst hact hslot

/-- The head group is applied on time, on its edge (R98). -/
theorem doApply_onTime {t : Dev} (hedge : applyEdge u b g = some (k, none))
    (ht : t = ampRefill b (checkDone b (irqSet (fecPage b) 0x10 (putFec b { getFec u b with groups := gs, syncAt := k + 2, grpAt := k + 1 }
      (emit (.fapply b (fckRise k)) u))))) : doApply b d = onlyIf ((getFec u b).rstDue && gs.isEmpty) (busReset b) t := by
  subst hu ht
  simp [doApply, hgroups, hrst, hact, hedge, Nat.not_le.mpr hslot]

/-- The head group is applied late, on the first edge that is left, with LATE and the lateness recorded (R99). -/
theorem doApply_late {c : Nat} {v t : Dev} (hedge : applyEdge u b g = some (k, some c))
    (hv : v = putFec b { getFec u b with groups := gs, syncAt := k + 2, grpAt := k + 1 } (emit (.fapply b (fckRise k)) u))
    (ht : t = ampRefill b (checkDone b (irqSet (fecPage b) 0x10 (irqSet (fecPage b) 2 (hit (A (fecPage b) 0x98) 31
      (wrN (A (fecPage b) 0x9C) (sat (cdiv (fckRise k + fget v (A (fecPage b) 0x80) 24 7 * 128 - c) 1024) m32) v)))))) :
    doApply b d = onlyIf ((getFec u b).rstDue && gs.isEmpty) (busReset b) t := by
  subst hu ht hv
  simp [doApply, hgroups, hrst, hact, hedge, Nat.not_le.mpr hslot]

end

/-- A bus reset that has lasted its 16 cycles ends on a falling edge of this mc (R90). -/
theorem doBusResetEnd_over {b : Bank} {k0 k : Nat} {d : Dev} (hrst : (getFec d b).resetAt = some k0)
    (hk : k = max (k0 + 16) (launchFrom (nowVs d))) (hslot : fckFall (k - 1) < nowVs d + 1024) :
    doBusResetEnd b d = fset (A (fecPage b) 0xA4) 8 1 0 (emit (.freset b (fckFall (k - 1)) false)
      (setFec b { getFec d b with resetAt := none, syncAt := k + 1 } d)) := by
  subst hk
  simp [doBusResetEnd, hrst, Nat.not_le.mpr hslot]

/-- Settles O9: each event is the effect of its rule, under the conditions with which the rule applies. -/
theorem frontEndBusEventsAct : Obligations.FrontEndBusEventsAct := by
  unfold Obligations.FrontEndBusEventsAct
  intro dt s d haon hd
  refine ⟨?frameSend, ?responseGood, ?responseBad, ?responseOutside, ?responseTimeout, ?applyOnTime, ?applyLate, ?busResetEnd⟩
  case frameSend =>
    exact fun b k c y hon hact hrst hk hslot hpick => acts_of_act rfl haon hd (doFecFrameSend_slot hon hact hrst hk hslot hpick)
  case responseGood =>
    exact fun b frame edge c k rest houts hover hstart hlo hhi hcrc hchip hseq =>
      acts_of_act rfl haon hd (doFecResponse_good houts hover hstart hlo hhi hcrc hchip hseq)
  case responseBad =>
    exact fun b frame edge c k rest houts hover hstart hlo hhi hbad =>
      acts_of_act rfl haon hd (doFecResponse_bad houts hover hstart hlo hhi hbad)
  case responseOutside =>
    exact fun b frame edge c k rest houts hover hout => acts_of_act rfl haon hd (doFecResponse_outside houts hover hout)
  case responseTimeout => exact fun b c k rest houts hover => acts_of_act rfl haon hd (doFecResponseTimeout_over houts hover)
  case applyOnTime =>
    exact fun b g gs k u t hu hgroups hrst hact hedge hslot ht =>
      acts_of_act rfl haon hd (doApply_onTime hu hgroups hrst hact hslot hedge ht)
  case applyLate =>
    exact fun b g gs k c u v t hu hgroups hrst hact hedge hslot hv ht =>
      acts_of_act rfl haon hd (doApply_late hu hgroups hrst hact hslot hedge hv ht)
  case busResetEnd => exact fun b k0 k hrst hk hslot => acts_of_act rfl haon hd (doBusResetEnd_over hrst hk hslot)

end Sys2Proof.Machine
end

section
/-! The timing-set entries: which words of the tables a commit changes, and the statement about a commit. -/
namespace Sys2Proof.Machine

/-- A timing-set word read after one is put into another entry, or into another lane's. -/
theorem tsWord_putTs_ne {l j w l' j' w' : Nat} (v : Word) (d : Dev) (hj : j < 128) (hw : w < 7) (hj' : j' < 128) (hw' : w' < 7)
    (hne : l ≠ l' ∨ j ≠ j') : tsWord (putTs l j w v d) l' j' w' = tsWord d l' j' w' :=
  mget_mset_ne _ ((l * 128 + j) * 7 + w) ((l' * 128 + j') * 7 + w') v (by omega) d.tsets

/-- Writing a whole entry leaves the words of every other entry, and of every other lane's, as they are. -/
theorem tsWord_putEntry_ne {l j l' j' w' : Nat} (fmt : Word) (edge : Nat → Word) (d : Dev) (hj : j < 128) (hj' : j' < 128)
    (hw' : w' < 7) (hne : l ≠ l' ∨ j ≠ j') :
    tsWord (forAll (List.range 6) (fun i => putTs l j (i + 1) (edge i)) (putTs l j 0 fmt d)) l' j' w' = tsWord d l' j' w' := by
  refine forAll_inv (fun e => tsWord e l' j' w' = tsWord d l' j' w') _ _ _ ?fmt ?edges
  case fmt => exact tsWord_putTs_ne fmt d hj (by decide) hj' hw' hne
  case edges =>
    intro i hi e he
    have hi6 : i < 6 := List.mem_range.mp hi
    exact (tsWord_putTs_ne (edge i) e hj (by omega) hj' hw' hne).trans he

/-- A refused commit records its cause and changes no timing-set word (R122). -/
theorem tsWord_refusedCommit (pg m a c x : Nat) (d : Dev) (l j w : Nat) :
    tsWord (irqSet pg m (recordErr a c x d)) l j w = tsWord d l j w := by
  have hrec : (recordErr a c x d).tsets = d.tsets := by
    unfold recordErr
    split <;> rfl
  simp only [tsWord, irqSet_ts, hrec]

/-- A commit of entry `j`, refused or not, changes no word of another entry and none of a lane that it does not address (R121). -/
theorem tsWord_commitTs_ne (p : Path) {b j l' j' w' : Nat} (v : Word) (d : Dev) (hj : j < 128) (hj' : j' < 128) (hw' : w' < 7)
    (hother : l' ∉ tsTargets d b ∨ j' ≠ j) : tsWord (commitTs p b j v d) l' j' w' = tsWord d l' j' w' := by
  unfold commitTs
  dsimp only
  split
  case isTrue => exact tsWord_refusedCommit ..
  case isFalse =>
    refine forAll_inv (fun e => tsWord e l' j' w' = tsWord d l' j' w') _ (tsTargets d b) d rfl ?_
    intro l hl e he
    have hne : l ≠ l' ∨ j ≠ j' := hother.imp (fun hout heq => hout (heq ▸ hl)) Ne.symm
    exact (tsWord_putEntry_ne _ _ e hj hj' hw' hne).trans he

/-- A commit that the guard lets through acts. -/
theorem tsFmtCommit_acts {dt : Nat} {p : Path} {b : Bank} {j : Fin 128} {s : State} {d : Dev} (v : Word) (haon : s.dev.aon = true)
    (hd : d = actPre dt s.dev) (hacc : accepts d (tsFmtAddr b j) = true) : Acts (.tsFmtCommit dt p b j v) s (commitTs p b j v d) :=
  acts_of_act rfl haon hd (onWrite_accepts hacc)

/-- Settles O60: the commit acts, and each word that it puts lies in entry `j` of a lane that it addresses. -/
theorem timingSetCommitWritesOneEntry : Obligations.TimingSetCommitWritesOneEntry := by
  unfold Obligations.TimingSetCommitWritesOneEntry
  intro dt p b j v s d haon hd hacc
  exact ⟨tsFmtCommit_acts v haon hd hacc, fun l' j' w' hj' hw' hother => tsWord_commitTs_ne p v d j.isLt hj' hw' hother⟩

end Sys2Proof.Machine
end

section
/-! Row timing: what period writes, calibration offsets, deskew, background recalibration and swaps do when their rules apply, and
the statement about those commands. -/
namespace Sys2Proof.Machine

/-! ### Period tables (R118, R119) -/

/-- A nonzero PER_N commits with the fraction that its path has staged for the same entry. -/
theorem writePerN_staged {p : Path} {e i v : Nat} {f : Word} {d : Dev} (hv : v ≠ 0) (hstaged : (getPath d p).per = some (e, i, f)) :
    writePerN p e i v d = wrN (perNAddr e i) v (setPath p { getPath d p with per := none }
      (wr (perNAddr e i + 4) f (noteRow (perNAddr e i) d))) := by
  simp [writePerN, hv, hstaged]

/-- A nonzero PER_N whose path has staged no fraction for its entry leaves PER_F, and empties the latch. -/
theorem writePerN_unstaged {p : Path} {e i v : Nat} {d : Dev} (hv : v ≠ 0)
    (hother : (getPath d p).per.all (fun x => decide (x.1 ≠ e ∨ x.2.1 ≠ i)) = true) :
    writePerN p e i v d = wrN (perNAddr e i) v (setPath p { getPath d p with per := none } (noteRow (perNAddr e i) d)) := by
  unfold writePerN
  rw [if_neg hv]
  cases hper : (getPath d p).per with
  | none => simp [hper]
  | some x =>
    obtain ⟨e', i', f⟩ := x
    have hentry : ¬ (e' = e ∧ i' = i) := by
      rintro ⟨rfl, rfl⟩
      simp [hper] at hother
    simp [hper, hentry]

/-! ### Calibration offsets (R125, R136) -/

/-- A DSK in range is taken, and its lane, when busy, keeps the adjustment in force. -/
theorem writeCalOffset_dsk {l : LaneId} {v : Nat} {d : Dev} (hok : adjOk (planeDly d) v (rdN d (rpoAddr l)) = true) :
    writeCalOffset (.dsk l) v d = wrN (dskAddr l) v (keepAdj ((busyLanes d).filter (· == l.toNat)) d) :=
  if_neg (by simp [hok])

/-- An RPO in range is taken, and its lane, when busy, keeps the adjustment in force. -/
theorem writeCalOffset_rpo {l : LaneId} {v : Nat} {d : Dev} (hok : adjOk (planeDly d) (rdN d (dskAddr l)) v = true) :
    writeCalOffset (.rpo l) v d = wrN (rpoAddr l) v (keepAdj ((busyLanes d).filter (· == l.toNat)) d) :=
  if_neg (by simp [hok])

/-- A PLANE_DLY with which every lane and every marker output stays in range is taken, and all busy lanes keep theirs. -/
theorem writeCalOffset_plane {v : Nat} {d t : Dev} (ht : t = onlyIf (bit v 31) (clrHit (A 1 0xC0) 31) d)
    (hlanes : (List.range 512).any (fun l => domOn t (4 + l / 64) && !adjOk (bits v 0 14) (rdN t (dskAddr l)) (rdN t (rpoAddr l))) = false)
    (hmarks : (List.range 16).filter (fun i => !markOk (bits v 0 14) (fget t (A (0x160 + i) 0x108) 0 14)) = []) :
    writeCalOffset .plane v d = plainWrite (A 1 0xC0) v (keepAdj (busyLanes t) t) := by
  subst ht
  simp only [writeCalOffset, hlanes, hmarks, List.isEmpty_nil, Bool.not_true, Bool.or_self, Bool.false_eq_true, if_false]

/-! ### Board deskew (R133, R135) -/

/-- A word of DSK_CTL with START that nothing refuses starts the engine of the bank, which holds its TIM channel. -/
theorem writeDskCtl_starts {b w : Nat} {d t : Dev} (hstart : bit w 31 = true) (hdrain : blkDraining d (calPage b) = false)
    (howned : (dskLanes d b).any (fun l => owner d l != 0x7F) = false) (htim : blkActive d (0x140 + bits w 24 4) = false)
    (hidle : fbit d (A (calPage b) 0x84) 28 = false) (hlo : 4 ≤ bits w 16 4) (hhi : bits w 16 4 ≤ 12)
    (ht : t = wr64 (A (calPage b) 0x9C) 0 (fset (A (calPage b) 0x84) 28 1 1 (plainWrite (A (calPage b) 0x90) w d))) :
    writeDskCtl b w d = showLent (bits w 24 4) (setCal b { getCal t b with
      dsk := some { tim := bits w 24 4, n := 2 ^ bits w 16 4, loop := bits w 0 16, mask := dskLanes t b, todo := dskLanes t b,
                    start := now t + 1 } } t) := by
  subst ht
  simp only [writeDskCtl, hstart, hdrain, howned, htim, hidle, Nat.not_lt.mpr hlo, Nat.not_lt.mpr hhi, Bool.not_true, Bool.or_self,
    decide_false, Bool.false_eq_true, if_false]

/-- An engine that has no lane left ends. The lanes' DSK and FAIL are not of this step: each lane has got its own at the end of its
measurement (`dskLane`, log entry 87). -/
theorem doDeskewDone_over {b : Bank} {x : Dsk} {d : Dev} (rt : List (Option (BitVec 32))) (hdsk : (getCal d b).dsk = some x)
    (htodo : x.todo = []) : doDeskewDone b rt d = irqSet (calPage b) 2 (fset (A (calPage b) 0x84) 28 1 0 (dskEnd b d)) := by
  simp [doDeskewDone, hdsk, htodo]

/-! ### Background recalibration and swaps (R136, R137, R139) -/

/-- A recalibration that is enabled and due stores its temperature and judges every slice. -/
theorem doBackgroundRecalibration_due {b : Bank} {d : Dev} (temp pend : BitVec 16) (bad : List (Fin 66))
    (hen : fbit d (A (calPage b) 0x80) 31 = true) (hon : domOn d (4 + b) = true) (hready : blkReady d (cfgPage b) = true)
    (hdue : (getCal d b).lastBg.all (fun t => decide (t + 102400 ≤ now d)) = true) :
    doBackgroundRecalibration b temp pend bad d = forAll (List.range 66) (fun j => judgeSlice b j (bad.any (·.toNat == j)))
      (lagRule b pend (wrN (A (calPage b) 0xA4) temp.toNat (setCal b { getCal d b with lastBg := some (now d), ready := List.range 66 } d))) := by
  unfold doBackgroundRecalibration
  cases hlast : (getCal d b).lastBg with
  | none => simp [hlast, hen, hon, hready]
  | some t =>
    have hspaced : ¬ now d < t + 102400 := by simpa [hlast] using hdue
    simp [hlast, hen, hon, hready, hspaced]

/-- Bank `b` has had no swap in the last 1,600 mc (R137). -/
def swapFresh (d : Dev) (b : Nat) : Bool :=
  match (getCal d b).lastSwap with
  | some u => decide (u + 1600 ≤ now d)
  | none => true

/-- The instant is fresh when the last swap, if there was one, lies 1,600 mc back. -/
theorem swapFresh_of_spaced {d : Dev} {b : Nat} (hspaced : (getCal d b).lastSwap.all (fun u => decide (u + 1600 ≤ now d)) = true) :
    swapFresh d b = true := by
  unfold swapFresh
  cases hlast : (getCal d b).lastSwap with
  | none => rfl
  | some u => simpa [hlast] using hspaced

/-- A swap of `slice` with the drift `drift` would take new coefficients: they are ready, no adjustment moves, and the drift lies
within its step (R137). -/
def swapTakes (d : Dev) (b slice drift : Nat) : Bool :=
  (getCal d b).ready.contains slice && !fbit d (A (calPage b) 0x80) 30 && !swapMoves d b slice &&
    driftStep (fget d (A (calPage b) 0x8C) 0 16) drift

/-- The calibration state of bank `b` after a swap of `slice`: in a fresh instant or in that of the last swap, with new coefficients
or without. -/
def swapCounted (d : Dev) (b slice pend : Nat) (fresh takes : Bool) : CalSt :=
  { getCal d b with
    lastSwap := some (now d), swapped := if fresh then [slice] else slice :: (getCal d b).swapped,
    swaps := mset (fun _ => 0) slice (mget (fun _ => 0) (getCal d b).swaps slice + 1) (getCal d b).swaps,
    swapRow := swapRows d b slice,
    ready := if takes && pend = 0 then (getCal d b).ready.filter (· != slice) else (getCal d b).ready }

/-- A swap that its guard lets through is counted in the bank's state and in SWAP_COUNT, and shows. -/
theorem doSwap_eq (b : Bank) (slice : Fin 66) (pend drift : BitVec 16) (d : Dev) : doSwap b slice pend drift d =
    if !(swapFresh d b || ((getCal d b).lastSwap == some (now d) && !(getCal d b).swapped.contains slice.toNat))
      || !fbit d (A (calPage b) 0x80) 31 || !(swapMoves d b slice || swapTakes d b slice drift.toNat) || !domOn d (4 + b)
      || swapWaits d b slice then d
    else
      let t := setCal b (swapCounted d b slice pend.toNat (swapFresh d b) (swapTakes d b slice drift.toNat)) d
      swapShown b slice pend (if swapTakes d b slice drift.toNat then drift.toNat else fget d (A (calPage b) 0x8C) 0 16)
        (wrN (A (calPage b) 0x88) (rdN t (A (calPage b) 0x88) + 1) t) := rfl

/-- A swap in a fresh instant that has something to swap, and whose row boundary has come, takes place (R137). -/
theorem doSwap_due {b : Bank} {slice : Fin 66} {pend drift : BitVec 16} {d t : Dev} (hfresh : swapFresh d b = true)
    (hen : fbit d (A (calPage b) 0x80) 31 = true) (hon : domOn d (4 + b) = true) (hwait : swapWaits d b slice = false)
    (hsome : (swapMoves d b slice || swapTakes d b slice drift.toNat) = true)
    (ht : t = setCal b (swapCounted d b slice pend.toNat true (swapTakes d b slice drift.toNat)) d) :
    doSwap b slice pend drift d = swapShown b slice pend
      (if swapTakes d b slice drift.toNat then drift.toNat else fget d (A (calPage b) 0x8C) 0 16)
      (wrN (A (calPage b) 0x88) (rdN t (A (calPage b) 0x88) + 1) t) := by
  rw [doSwap_eq, hfresh, hen, hon, hwait, hsome, ← ht]
  rfl

/-- Settles O10: each command is the effect of its rule, under the conditions with which the rule applies. -/
theorem timingAndCalibrationCommandsAct : Obligations.TimingAndCalibrationCommandsAct := by
  unfold Obligations.TimingAndCalibrationCommandsAct
  intro dt s d haon hd
  refine ⟨?perStaged, ?perUnstaged, ?perF, ?tsEdge, ?tsCommit, ?dsk, ?rpo, ?plane, ?deskewStart, ?deskewDone, ?background, ?swap⟩
  case perStaged =>
    exact fun p e i v f hacc hv hper => acts_of_act rfl haon hd ((onWrite_accepts hacc).trans (writePerN_staged hv hper))
  case perUnstaged =>
    exact fun p e i v hacc hv hper => acts_of_act rfl haon hd ((onWrite_accepts hacc).trans (writePerN_unstaged hv hper))
  case perF => exact fun p e i v hacc => acts_of_act rfl haon hd (onWrite_accepts hacc)
  case tsEdge => exact fun p b j edge v hacc => acts_of_act rfl haon hd (onWrite_accepts hacc)
  case tsCommit => exact fun p b j v hacc _ => tsFmtCommit_acts v haon hd hacc
  case dsk => exact fun p l v hacc hok => acts_of_act rfl haon hd ((onWrite_accepts hacc).trans (writeCalOffset_dsk hok))
  case rpo => exact fun p l v hacc hok => acts_of_act rfl haon hd ((onWrite_accepts hacc).trans (writeCalOffset_rpo hok))
  case plane =>
    exact fun p v t hacc ht hlanes hmarks =>
      acts_of_act rfl haon hd ((onWrite_accepts hacc).trans (writeCalOffset_plane ht hlanes hmarks))
  case deskewStart =>
    rintro p b v w ch ls t hacc hdrain rfl rfl rfl howned htim hidle hlo hhi ht
    exact acts_of_act rfl haon hd ((onWrite_accepts hacc).trans
      (writeDskCtl_starts (bit_or31 v.toNat) hdrain howned htim hidle hlo hhi ht))
  case deskewDone => exact fun b rt x hdsk htodo => acts_of_act rfl haon hd (doDeskewDone_over rt hdsk htodo)
  case background =>
    exact fun b temp pend bad hen hon hready hdue =>
      acts_of_act rfl haon hd (doBackgroundRecalibration_due temp pend bad hen hon hready hdue)
  case swap =>
    rintro b slice pend drift c cf t rfl hspaced hen hon hwait rfl hsome ht
    exact acts_of_act rfl haon hd (doSwap_due (swapFresh_of_spaced hspaced) hen hon hwait hsome ht)

end Sys2Proof.Machine
end

section
/-! Furrow programs: the commands that name an instruction, and the statement about the instructions of a program. What an instruction
does as it begins is said once, by `issueNext_given` and the lemmas that follow it. -/
namespace Sys2Proof.Machine

section
variable {c : Instr} {dt : Nat} {e : Eng} {w : BitVec 64} {s : State} {d t : Dev}
variable (haon : s.dev.aon = true) (hd : d = actPre dt s.dev)
include haon hd

/-- A command whose instruction is neither LOOP nor SYNC leaves the device that its first row makes (R178, R185). -/
theorem acts_of_firstRow {op : Nat} (hexec : exec c s = act dt (doInstr op e w) s) (hop : op < 64 ∧ op ≠ 10 ∧ op ≠ 13)
    (hfirst : firstRow e (opWord op w) d = some t) : Acts c s t :=
  acts_of_act hexec haon hd (issueNext_firstRow_op op e w d t hop hfirst)

/-- LOOP leaves the device that its carried row makes with the loop entry pushed (R197). -/
theorem acts_of_firstLoop (hexec : exec c s = act dt (doInstr 10 e w) s) (hfirst : firstLoop e (opWord 10 w) d = some t) : Acts c s t :=
  acts_of_act hexec haon hd (issueNext_firstLoop e _ d t (opOf_opWord 10 w (by decide)) hfirst)

/-- A SYNC that begins legally leaves the device that its first row makes (R196). -/
theorem acts_of_syncRow {m : Nat} (hexec : exec c s = act dt (doInstr 13 e w) s) (hm : m = leadOf d e) (hbegin : mayBegin d m = true)
    (hlegal : decodeFault (fetched d m) m (opWord 13 w) = 0) :
    Acts c s (rowIssued d m (syncRow m (getFur (boundary m d) m).pc 0 (opWord 13 w) (fetched d m))) := by
  subst hm
  exact acts_of_act hexec haon hd (issueNext_sync _ _ d (opOf_opWord 13 w (by decide)) hbegin hlegal)

end

/-- Settles O5: each command begins the instruction of its opcode, and what follows is the first row of that instruction. -/
theorem programInstructionsIssue : Obligations.ProgramInstructionsIssue := by
  unfold Obligations.ProgramInstructionsIssue
  intro dt s d haon hd
  refine ⟨?emit, ?rpt, ?agen, ?gset, ?jmp, ?call, ?br, ?wait, ?setReg, ?recWrite, ?halt, ?loop, ?sync⟩
  case emit => exact fun e w t => acts_of_firstRow haon hd rfl (by decide)
  case rpt => exact fun e w t => acts_of_firstRow haon hd rfl (by decide)
  case agen => exact fun e w t => acts_of_firstRow haon hd rfl (by decide)
  case gset => exact fun e w t => acts_of_firstRow haon hd rfl (by decide)
  case jmp => exact fun e w t => acts_of_firstRow haon hd rfl (by decide)
  case call => exact fun e w t => acts_of_firstRow haon hd rfl (by decide)
  case br => exact fun e w t => acts_of_firstRow haon hd rfl (by decide)
  case wait => exact fun e w t => acts_of_firstRow haon hd rfl (by decide)
  case setReg => exact fun e w t => acts_of_firstRow haon hd rfl (by decide)
  case recWrite => exact fun e w t => acts_of_firstRow haon hd rfl (by decide)
  case halt => exact fun e w t => acts_of_firstRow haon hd rfl (by decide)
  case loop => exact fun e w t => acts_of_firstLoop haon hd rfl
  case sync =>
    rintro e w m t hm hbegin rfl hlegal
    exact acts_of_syncRow haon hd rfl hm hbegin hlegal

end Sys2Proof.Machine
end

section
/-! The Gleaner: how a slice takes or leaves a row, how its transition records age and drain, what its statistics and histogram
registers do with a write, and the statement about the commands that do these. -/
namespace Sys2Proof.Machine

/-! ### A slice comes to its next row (R265, R266) -/

/-- Slice `f` comes to row `r` of engine `e`: it keeps the marks that it may still need, and the row is marked before its records
are made (R130). -/
def rowMet (f e : Nat) (r : Row) (d : Dev) : Dev := markEarly e r.k (setSl f { getSl d f with marks := keepMarks d f r } d)

/-- The row of `r`'s index as engine `e` now holds it, with its timing-invalid mark as of now. -/
def rowAsMarked (e : Nat) (r : Row) (d : Dev) : Row :=
  let q := ((getFur d e).issued.find? fun z => z.k == r.k).getD r
  { q with tinv := rowTinv d e q }

/-- Engine `e` lets the row go that slice `f` has taken or left, and a snapshot that waited for that row is copied (R37). -/
def letGo (f e : Nat) (d : Dev) : Dev :=
  let y := getFur d e
  snapDue f (y.taken + 1) (setFur e { y with taken := y.taken + 1, issued := y.issued.filter fun z => y.taken < z.k + 64 } d)

section
variable {f e lim : Nat} {r : Row} {d : Dev}
variable (heng : engOf d f = some e) (hrow : (getFur d e).issued.find? (fun z => z.k == (getFur d e).taken) = some r)
variable (hflag : r.flagged = true) (hlim : r.flagT < lim)
include heng hrow hflag hlim

/-- A row whose results are complete is taken by a slice that takes rows, else counted in UNSEEN, and its engine lets it go. -/
theorem takeNext_complete (on : Bool) : takeNext f lim on d =
    letGo f e (if on then takeRowSl f e (rowAsMarked e r (rowMet f e r d)) (rowMet f e r d) else inc64 (ga f 0x60) 1 (rowMet f e r d)) := by
  have hready : ¬ ((!r.flagged || decide (lim ≤ r.flagT)) = true) := by simpa [hflag] using hlim
  simp only [takeNext, heng, hrow, if_neg hready]
  rfl

end

/-- ROW_TAKE brings the yoke up to the slice's row, and then the slice comes to it (R267, R271). -/
theorem doRowTake_eq (f : Fin 64) (d : Dev) :
    doRowTake f d = showSl f (takeNext f (nextMcVs (caughtUp f d)) (glnOn (caughtUp f d) f) (caughtUp f d)) := rfl

/-! ### Transition records (R281, R282) -/

/-- The open record of a kind closes when CLOSE_MC is set and has passed since the record's base. -/
theorem doTransitionRecordAge_due {f : Fin 64} {kind : Fin 2} {r : TRec} {d : Dev} (hopen : openRec (getSl d f) kind = some r)
    (hset : bits (eff d f 5) 0 20 ≠ 0) (hage : r.base + bits (eff d f 5) 0 20 ≤ now d) :
    doTransitionRecordAge f kind d = showSl f (closeTrans f kind d) := by
  simp [doTransitionRecordAge, hopen, hset, hage]

/-- A free back end drains the first slice in rotation that holds staged entries, and is busy for the entries it has moved. -/
theorem doTransitionDrain_due {f : Nat} {l : List Nat} {d : Dev} (hl : l = (d.gln.slices.filter fun x => !x.2.stage.isEmpty).map (·.1))
    (hfree : d.gln.freeAt ≤ now d) (hedge : now d % 2 = 0) (hnext : (l.filter (fun i => d.gln.next ≤ i) ++ l).head? = some f) :
    doTransitionDrain d = showSl f
      { (drainStage f false d).2 with
        gln := { (drainStage f false d).2.gln with
          next := f + 1, freeAt := now (drainStage f false d).2 + 2 * cdiv (2 * (drainStage f false d).1) 5 } } := by
  have hacts : ¬ ((decide (now d < d.gln.freeAt) || decide (now d % 2 = 1)) = true) := by simp [hedge, hfree]
  obtain ⟨rest, horder⟩ := List.head?_eq_some_iff.mp hnext
  rw [hl] at horder
  simp only [doTransitionDrain, if_neg hacts, ge_iff_le, horder]

/-! ### Writes of the slice and histogram registers (R286, R289, R299) -/

/-- The offset of a unit's STAT_CFG in its page. -/
theorem sa_mod (f : Fin 64) (u : Fin 4) : sa f u 0 % 0x1000 = 0x200 + 0x400 * (f % 2) + 0x40 * u := by
  rw [sa, ga, A_mod _ _ (by omega)]
  omega

/-- STAT_CFG by its page and its offset there. -/
theorem A_sa_mod (f : Fin 64) (u : Fin 4) : A (glnPage f) (sa f u 0 % 0x1000) = sa f u 0 := by
  rw [sa, ga, A_mod _ _ (by omega)]

/-- A window register takes a word that its own rules allow, and STAT_CFG with FLUSH closes its unit's set; `w` is the offset in the
slice's window. -/
theorem writeGln_window {p o w v : Nat} (d : Dev) (hlo : 0x100 ≤ o) (hhi : o < 0x900) (hw : w = (o - 0x100) % 0x400)
    (hok : glnWriteErr w v = 0) :
    writeGln p o v d = onlyIf (decide (0x100 ≤ w) && decide (w < 0x200) && decide (w % 0x40 = 0) && bit v 31)
      (flushSet (2 * (p - 0x100) + (o - 0x100) / 0x400) ((w - 0x100) / 0x40)) (plainWrite (A p o) v d) := by
  have hne : o ≠ 0x900 ∧ o ≠ 0x904 := by omega
  have hnoHist : ¬ ((decide (o = 0x900) || decide (o = 0x904)) = true) := by simp [hne]
  have hslice : (decide (0x100 ≤ o) && decide (o < 0x900)) = true := by simp [hlo, hhi]
  simp only [writeGln, if_neg hnoHist, if_pos hslice, ← hw, hok, onlyIf, ne_eq, not_true_eq_false, if_false]

/-- STAT_CFG allows every word whose operation is not reserved. -/
theorem glnWriteErr_statCfg {u v : Nat} (hu : u < 4) (hop : bits v 27 3 < 5) : glnWriteErr (0x100 + 0x40 * u) v = 0 := by
  have hunit : (0x100 + 0x40 * u) % 0x40 = 0 ∧ 0x100 + 0x40 * u < 0x200 := by omega
  have hcfg : 0x100 + 0x40 * u ≠ 0x10 ∧ 0x100 + 0x40 * u ≠ 0x14 ∧ 0x100 + 0x40 * u ≠ 0x18 := by omega
  simp [glnWriteErr, hunit, hcfg, Nat.not_le.mpr hop]

/-- STAT_CFG takes a word with FLUSH whose operation is not reserved, and the set of its unit closes (R286). -/
theorem writeGln_flush {f : Fin 64} {u : Fin 4} {v : Nat} (d : Dev) (hflush : bit v 31 = true) (hop : bits v 27 3 < 5) :
    writeGln (glnPage f) (sa f u 0 % 0x1000) v d = flushSet f u (plainWrite (sa f u 0) v d) := by
  have hoff := sa_mod f u
  have hwin : 0x100 + 0x40 * u.val = (sa f u 0 % 0x1000 - 0x100) % 0x400 := by omega
  have hslice : 2 * (glnPage f - 0x100) + (sa f u 0 % 0x1000 - 0x100) / 0x400 = f.val := by unfold glnPage; omega
  have hunit : (0x100 + 0x40 * u.val - 0x100) / 0x40 = u.val := by omega
  have hcfg : (0x100 + 0x40 * u.val) % 0x40 = 0 ∧ 0x100 + 0x40 * u.val < 0x200 := by omega
  rw [writeGln_window d (by omega) (by omega) hwin (glnWriteErr_statCfg u.isLt hop), hslice, hunit, A_sa_mod]
  simp [hcfg, hflush]

/-- A histogram register takes a write while the unit is disabled (R289). -/
theorem writeGln_hist {p o : Nat} (v : Nat) {d : Dev} (ho : o = 0x900 ∨ o = 0x904) (hdis : fbit d (A p 0x900) 31 = false) :
    writeGln p o v d = plainWrite (A p o) v d := by
  rcases ho with rfl | rfl <;> simp [writeGln, hdis]

/-- Settles O12: each command is the effect of its rule, under the conditions with which the rule applies. -/
theorem gleanerCommandsAct : Obligations.GleanerCommandsAct := by
  unfold Obligations.GleanerCommandsAct
  intro dt s d haon hd
  refine ⟨?taken, ?left, ?age, ?drain, ?flush, ?histCfg, ?histBase⟩
  case taken =>
    rintro f e r q u t w rfl heng hrow hflag hlim hon rfl rfl rfl
    refine acts_of_act rfl haon hd ?_
    rw [doRowTake_eq, takeNext_complete heng hrow hflag hlim, hon, if_pos rfl]
    rfl
  case left =>
    rintro f e r u t w rfl heng hrow hflag hlim hoff rfl rfl
    refine acts_of_act rfl haon hd ?_
    rw [doRowTake_eq, takeNext_complete heng hrow hflag hlim, hoff, if_neg Bool.false_ne_true]
    rfl
  case age => exact fun f kind r hopen hset hage => acts_of_act rfl haon hd (doTransitionRecordAge_due hopen hset hage)
  case drain => exact fun l f hl hfree hedge hnext => acts_of_act rfl haon hd (doTransitionDrain_due hl hfree hedge hnext)
  case flush =>
    rintro p f u v w hacc rfl hop
    exact acts_of_act rfl haon hd ((onWrite_accepts hacc).trans (writeGln_flush d (bit_or31 v.toNat) hop))
  case histCfg =>
    exact fun p k v hacc hdis => acts_of_act rfl haon hd ((onWrite_accepts hacc).trans (writeGln_hist v.toNat (.inl rfl) hdis))
  case histBase =>
    exact fun p k v hacc hdis => acts_of_act rfl haon hd ((onWrite_accepts hacc).trans (writeGln_hist v.toNat (.inr rfl) hdis))

end Sys2Proof.Machine
end

section
/-! Acquisition channels: when a channel takes a sample, closes a record and leaves REARM, what the words of its control register
do, how its envelope memory is read and written, and the statement about the commands that do these. -/
namespace Sys2Proof.Machine

/-! ### Samples and records (R309, R333, R335) -/

section
variable {c : Fin 64} {d t : Dev} (ht : t = retryOpen c 8 d)
include ht

/-- A channel that processes samples takes its next one, once received, in the mc P(n) or after. -/
theorem doSampleProcess_due {v : BitVec 16} {crc : Bool} (htakes : acqTakes t c = true)
    (hsample : chanSample t (getAcq t c) (getAcq t c).next = some (v, crc))
    (hdue : procMc (getJes t (af (getAcq t c) 0 30 2)) (getAcq t c).next ≤ now t) :
    doSampleProcess c d = takeSample c (getAcq t c).next (procMc (getJes t (af (getAcq t c) 0 30 2)) (getAcq t c).next) v crc (getAcq t c) t := by
  subst ht
  have hproc : (!acqTakes (retryOpen c 8 d) c) = false := by rw [htakes, Bool.not_true]
  simp only [doSampleProcess, hproc, Bool.false_eq_true, if_false, hsample, if_neg (Nat.not_lt.mpr hdue)]

/-- The oldest complete record closes once it has reached its ring, and its gap record follows it. -/
theorem doSegmentRecordClose_oldest {r : AcqRec} {rest : List AcqRec} (hclosing : (getAcq t c).closing = r :: rest)
    (hring : recWaits t c r.tag = false) :
    doSegmentRecordClose c d = gapAfter r (closeTag r.tag r.body (flagTag r.tag (idleFlag t r.site)
      (setAcq c (recHanded r { getAcq t c with closing := rest, closedAt := now t }) t))) := by
  subst ht
  simp only [doSegmentRecordClose, hclosing, hring, Bool.false_eq_true, if_false]

end

/-! ### The end of REARM (R325, R326, R331) -/

/-- By mc `m`, at R or after, a channel in REARM is STOPPED where a violation stops its arm, DONE after its last segment with its
interrupt bit, and else ARMED. -/
theorem rearm_due {c m r : Nat} {d : Dev} (hr : rearmMc (getAcq d c) = some r) (hstate : acqState d c = 3) (hdue : r ≤ m) :
    rearm c m d =
      if (getAcq d c).stop then setAcqState c 5 d
      else if (getAcq d c).segN = segsOf (getAcq d c) then irqSet (acqPage c) (2 ^ (c % 2)) (setAcqState c 4 d)
      else setAcqState c 1 (setAcq c { getAcq d c with armedAt := r } d) := by
  have hleaves : ¬ ((!(acqState d c == 3 || (acqState d c == 6 && armEnds (getAcq d c))) || decide (m < r)) = true) := by
    simp [hstate, hdue]
  simp only [rearm, hr, if_neg hleaves]

/-! ### ARM (R321) -/

/-- A channel in IDLE, DONE or STOPPED whose page is enabled latches its settings, clears its counts and arms, or waits for its link. -/
theorem armAcq_latches {c : Nat} {d : Dev} (hstate : acqState d c = 0 ∨ acqState d c = 4 ∨ acqState d c = 5)
    (hen : blkEn d (acqPage c) = true) :
    armAcq c d =
      let u := wr64 (aa c 0x44) 0 (wrN (aa c 0x3C) 0 (wrN (aa c 0x40) 0 (setAcq c (armedAcq d c) d)))
      setAcqState c (if acqLinked u (armedAcq d c) then 1 else 6) u := by
  have harms : ¬ ((!(acqState d c == 0 || acqState d c == 4 || acqState d c == 5) || !blkEn d (acqPage c)) = true) := by
    rcases hstate with h | h | h <;> simp [h, hen]
  exact if_neg harms

/-! ### Envelope memory (R336) -/

/-- Outside the armed states a write of ENV_DATA writes the point that ENV_ADDR names, and POINT advances. -/
theorem writeEnv_unarmed {c : Nat} (v : Nat) {d : Dev} (hstate : acqState d c = 0 ∨ acqState d c = 4 ∨ acqState d c = 5) :
    writeEnv c v d =
      envNext c { d with acq := { d.acq with env := mset (fun _ => 0) (envKey d c) (BitVec.ofNat 16 v) d.acq.env } } := by
  have hunarmed : ¬ ((acqState d c == 1 || acqState d c == 2 || acqState d c == 3 || acqState d c == 6) = true) := by
    rcases hstate with h | h | h <;> simp [h]
  exact if_neg hunarmed

/-- The page of a channel is an ACQ page. -/
theorem pageKind_acqPage (c : Fin 64) : pageKind (acqPage c) = some .acq := by
  revert c
  decide

/-- A register of a channel lies in its channel's page. -/
theorem aa_div {c o : Nat} (ho : o < 0x400) : aa c o / 0x1000 = acqPage c := A_div _ _ (by omega)

/-- The offset of a channel's register in its page. -/
theorem aa_mod {c o : Nat} (ho : o < 0x400) : aa c o % 0x1000 = 0x100 + 0x400 * (c % 2) + o := A_mod _ _ (by omega)

/-- A channel's registers stand at whole words. -/
theorem aa_aligned {c o : Nat} (ho : o % 4 = 0) : aa c o % 4 = 0 := by unfold aa A; omega

/-- ENV_DATA is a register of its own, in no pair and no latched group. -/
theorem regAt_envData (c : Fin 64) : ∃ r, regAt (aa c 0x38) = some r ∧ r.pairing = .none := by
  have hrows : ∀ i : Fin 2, ∃ r, (rowsOf .acq).find? (fun r => r.hits (0x100 + 0x400 * i.val + 0x38)) = some r ∧ r.pairing = .none := by
    decide
  have hblock : ¬ (0x100 + 0x400 * (c.val % 2) + 0x38 < 0x80) := by omega
  unfold regAt
  rw [aa_div (by decide), aa_mod (by decide), pageKind_acqPage]
  simpa only [if_neg hblock] using hrows ⟨c.val % 2, Nat.mod_lt _ (by decide)⟩

/-- The page's write at the offset of ENV_DATA is the channel's write of the point. -/
theorem writeAcq_envData (c : Fin 64) (v : Nat) (d : Dev) :
    writeAcq (acqPage c) (0x100 + 0x400 * (c.val % 2) + 0x38) v d = writeEnv c (bits v 0 16) d := by
  have hwindow : ¬ (0x100 + 0x400 * (c.val % 2) + 0x38 < 0x100) := by omega
  have hoff : (0x100 + 0x400 * (c.val % 2) + 0x38 - 0x100) % 0x400 = 0x38 := by omega
  have hchan : 2 * (acqPage c - 0x120) + (0x100 + 0x400 * (c.val % 2) + 0x38 - 0x100) / 0x400 = c.val := by unfold acqPage; omega
  simp only [writeAcq, if_neg hwindow, hoff, hchan]
  exact if_neg (by decide)

/-- A write access to ENV_DATA that no shared rule refuses is the channel's write of the point. -/
theorem busWrite_envData (nv : Nv) (p : Path) {c : Fin 64} (v : Word) {d : Dev} (hacc : accepts d (aa c 0x38) = true) :
    busWrite nv p (aa c 0x38) 0xF v d = writeEnv c (bits v.toNat 0 16) d := by
  have hblock : ¬ (0x100 + 0x400 * (c.val % 2) + 0x38 < 0x80) := by omega
  rw [busWrite_accepts (aa_aligned (by decide)) hacc, writeReg, aa_div (by decide), aa_mod (by decide), pageKind_acqPage]
  exact (if_neg hblock).trans (writeAcq_envData c v.toNat d)

/-- A read access to ENV_DATA is the channel's read of the point. -/
theorem busRead_envData (nv : Nv) (p : Path) {c : Fin 64} {d : Dev} (hread : readable d (aa c 0x38) = true) :
    busRead nv p (aa c 0x38) d = readEnv c d := by
  obtain ⟨r, hreg, hpair⟩ := regAt_envData c
  have hpage : aa c 0x38 / 0x1000 = acqPage c := aa_div (by decide)
  have hoff : aa c 0x38 % 0x1000 = 0x100 + 0x400 * (c.val % 2) + 0x38 := aa_mod (by decide)
  have henv : (decide (0x100 + 0x400 * (c.val % 2) + 0x38 = 0x138) || decide (0x100 + 0x400 * (c.val % 2) + 0x38 = 0x538)) = true := by
    simp only [Bool.or_eq_true, decide_eq_true_eq]
    omega
  have hchan : 2 * (acqPage c - 0x120) + (0x100 + 0x400 * (c.val % 2) + 0x38) / 0x538 = c.val := by unfold acqPage; omega
  rw [busRead_unpaired (aa_aligned (by decide)) hreg (by rw [hpage, pageKind_acqPage]) hpair hread]
  simp only [readReg, beforeRead, hpage, hoff, henv, hchan, reduceCtorEq, decide_false, decide_true, Bool.false_and, Bool.true_and,
    Bool.false_eq_true, if_false, if_true]

/-- Settles O14: each command is the effect of its rule, under the conditions with which the rule applies. -/
theorem acquisitionCommandsAct : Obligations.AcquisitionCommandsAct := by
  unfold Obligations.AcquisitionCommandsAct
  intro dt s d haon hd
  refine ⟨?sample, ?recordClose, ?stopped, ?done, ?rearmed, ?arm, ?stop, ?force, ?envWrite, ?envRead⟩
  case sample =>
    rintro c x v crc n pm t ht rfl htakes rfl hsample rfl hdue
    exact acts_of_act rfl haon hd (doSampleProcess_due ht htakes hsample hdue)
  case recordClose =>
    rintro c r x rest t ht rfl hclosing hring
    exact acts_of_act rfl haon hd (doSegmentRecordClose_oldest ht hclosing hring)
  case stopped =>
    intro c r hr hstate hdue hstop
    refine acts_of_act rfl haon hd ?_
    rw [doAcqRearm, rearm_due hr hstate hdue, if_pos hstop]
  case done =>
    rintro c r x rfl hr hstate hdue hgoes hlast
    refine acts_of_act rfl haon hd ?_
    rw [doAcqRearm, rearm_due hr hstate hdue, if_neg (ne_true_of_eq_false hgoes), if_pos hlast]
  case rearmed =>
    rintro c r x rfl hr hstate hdue hgoes hmore
    refine acts_of_act rfl haon hd ?_
    rw [doAcqRearm, rearm_due hr hstate hdue, if_neg (ne_true_of_eq_false hgoes), if_neg hmore]
  case arm =>
    rintro p c y hacc hstate hen - rfl
    exact acts_of_act rfl haon hd ((onWrite_accepts hacc).trans (armAcq_latches hstate hen))
  case stop => exact fun p c hacc => acts_of_act rfl haon hd (onWrite_accepts hacc)
  case force => exact fun p c hacc => acts_of_act rfl haon hd (onWrite_accepts hacc)
  case envWrite =>
    exact fun p c v hacc hstate => acts_of_actNv rfl haon hd ((busWrite_envData s.nv p v hacc).trans (writeEnv_unarmed _ hstate))
  case envRead =>
    intro p c v hread
    refine acts_of_actNv rfl haon hd ?_
    rw [doEnvDataAccess, if_neg Bool.false_ne_true, busReadOut, busRead_envData s.nv p hread]
    rfl

end Sys2Proof.Machine
end

section
/-! Time-interval meters: when a channel arms, what it decides and ends when, how an input's edge is taken and what the interpolators'
commands show, and the statement about the commands that do these. -/
namespace Sys2Proof.Machine

/-! ### ARM (R348, R355) -/

/-- A channel that can be armed, and whose pair has no DIFF, arms alone. -/
theorem armTim_alone {k : Nat} {d : Dev} (harms : canArm d k = true) (hpair : fbit d (ta (k / 2 * 2 + 1) 0x88) 31 = false) :
    armTim k d = armOne k d := by
  simp [armTim, hpair, harms]

/-- An odd channel with DIFF arms with its even partner when both can be armed. -/
theorem armTim_pair {k : Nat} {d : Dev} (hodd : k % 2 = 1) (harms : canArm d k = true) (hpartner : canArm d (k - 1) = true)
    (hdiff : fbit d (ta k 0x88) 31 = true) : armTim k d = armOne (k - 1) (armOne k d) := by
  have hself : k / 2 * 2 + 1 = k := by omega
  simp [armTim, hself, hodd, hdiff, harms, hpartner]

/-! ### Events, limits and dead times (R344, R351, R352) -/

/-- A running channel decides its earliest waiting event once 48 mc after it have come: first the limit and the dead time that come
before it end, and then the event is taken. -/
theorem doTimEvent_due {k : Fin 16} {e : TimEv} {es : List TimEv} {d : Dev} (hevs : (getTim d k).evs = e :: es)
    (hdue : e.t + 48 * 1024 ≤ nowVs d + 1023) (hrun : running d (timPage k) = true) :
    doTimEvent k d = takeEvent k e (deadBefore k e (limitBefore k (getTim d k) e (setTim k { getTim d k with evs := es } d))) := by
  have hdecides : ¬ ((decide (e.t + 48 * 1024 > nowVs d + 1023) || !running d (timPage k)) = true) := by
    simpa [hrun] using hdue
  simp only [doTimEvent, hevs, if_neg hdecides]

/-- A measurement in progress ends without a value once 48 mc after its limit have come and no event up to the limit waits. -/
theorem doTimTimeout_due {k : Fin 16} {f : TimFirst} {d : Dev} (hfirst : (getTim d k).first = some f) (hstate : timState d k = 2)
    (hrun : running d (timPage k) = true) (hdue : limitOf (getTim d k) f + 48 * 1024 ≤ nowVs d + 1023)
    (hnone : (getTim d k).evs.any (fun e => decide (e.t ≤ limitOf (getTim d k) f)) = false) :
    doTimTimeout k d = endNone k f d := by
  have hends : ¬ ((decide (timState d k ≠ 2) || !running d (timPage k)
      || decide (limitOf (getTim d k) f + 48 * 1024 > nowVs d + 1023)
      || (getTim d k).evs.any (fun e => decide (e.t ≤ limitOf (getTim d k) f))) = true) := by
    rw [hnone]
    simpa [hstate, hrun] using hdue
  simp only [doTimTimeout, hfirst, if_neg hends]

/-- The dead time of a running channel ends once it has come. -/
theorem doDeadTimeEnd_due {k : Fin 16} {d : Dev} (hdue : (getTim d k).dead ≤ nowVs d + 1023) (hrun : running d (timPage k) = true) :
    doDeadTimeEnd k d = endDead k d := by
  simp [doDeadTimeEnd, hdue, hrun]

/-! ### Inputs (R346, R347) -/

/-- An edge of an enabled input is an event at its corrected time, of its direction or of either. -/
theorem doTimInEdge_enabled {i : Fin 4} (vs : BitVec 10) (rising : Bool) {d : Dev} (hdom : domOn d 19 = true)
    (hen : fbit d (ta 0 (0x200 + 8 * i)) 31 = true) :
    doTimInEdge i vs rising d = timEvent 2 i (fun c => c == 2 || c == b2n (!rising))
      (((nowVs d + vs.toNat : Nat) : Int) - sgn (rdN d (ta 0 (0x200 + 8 * i) + 4)) 32) (tinInvalid d i vs.toNat) none d := by
  have htakes : ¬ ((!domOn d 19 || !fbit d (ta 0 (0x200 + 8 * i)) 31) = true) := by simp [hdom, hen]
  exact if_neg htakes

/-! ### Interpolators (R361) -/

/-- While domain TIME is powered, a new table of an interpolator sets its table bit and shows its loop locked (the model's reading: log 56). -/
theorem doBinTableBuilt_powered (k : Fin 16) (stop : Bool) {d : Dev} (hdom : domOn d 19 = true) :
    doBinTableBuilt k stop d = showCal k (setTim k
      { getTim d k with cal := if stop then putBits (putBits (getTim d k).cal 1 1 1) 3 1 0 else putBits (putBits (getTim d k).cal 0 1 1) 2 1 0 } d) := by
  rw [doBinTableBuilt, hdom, onlyIf_true]

/-- While domain TIME is powered, the loss of a loop shows CAL_LOCK, and from lock it raises cause 0 with its interrupt bit. -/
theorem doCalLockLoss_powered (k : Fin 16) (stop : Bool) {d : Dev} (hdom : domOn d 19 = true) :
    doCalLockLoss k stop d =
      let u := showCal k (setTim k { getTim d k with cal := putBits (getTim d k).cal (if stop then 3 else 2) 1 1 } d)
      if calLock (getTim d k) then raise (0xBA + k) 0 (irqSet (timPage k) 0x10 u) else u := by
  have hacts : ¬ ((!domOn d 19) = true) := by simp [hdom]
  exact if_neg hacts

/-- Settles O17: each command is the effect of its rule, under the conditions with which the rule applies. -/
theorem meterCommandsAct : Obligations.MeterCommandsAct := by
  unfold Obligations.MeterCommandsAct
  intro dt s d haon hd
  refine ⟨?armAlone, ?armPair, ?stop, ?flush, ?event, ?timeout, ?deadTime, ?inEdge, ?tinCfg, ?stopTable, ?startTable, ?lossFromLock,
    ?lossUnlocked⟩
  case armAlone =>
    exact fun p k hacc harms hpair => acts_of_act rfl haon hd ((onWrite_accepts hacc).trans (armTim_alone harms hpair))
  case armPair =>
    exact fun p k hacc hodd harms hpartner hdiff =>
      acts_of_act rfl haon hd ((onWrite_accepts hacc).trans (armTim_pair hodd harms hpartner hdiff))
  case stop => exact fun p k hacc => acts_of_act rfl haon hd (onWrite_accepts hacc)
  case flush => exact fun p k hacc => acts_of_act rfl haon hd (onWrite_accepts hacc)
  case event =>
    rintro k x e es rfl hevs hdue hrun
    exact acts_of_act rfl haon hd (doTimEvent_due hevs hdue hrun)
  case timeout =>
    rintro k x f rfl hfirst hstate hrun hdue hnone
    exact acts_of_act rfl haon hd (doTimTimeout_due hfirst hstate hrun hdue hnone)
  case deadTime => exact fun k hdue hrun => acts_of_act rfl haon hd (doDeadTimeEnd_due hdue hrun)
  case inEdge =>
    rintro i vs rising t tinv hdom hen rfl rfl
    exact acts_of_act rfl haon hd (doTimInEdge_enabled vs rising hdom hen)
  case tinCfg => exact fun p i v hacc => acts_of_act rfl haon hd (onWrite_accepts hacc)
  case stopTable => exact fun k hdom => acts_of_act rfl haon hd (doBinTableBuilt_powered k true hdom)
  case startTable => exact fun k hdom => acts_of_act rfl haon hd (doBinTableBuilt_powered k false hdom)
  case lossFromLock =>
    exact fun k stop hdom hlock => acts_of_act rfl haon hd ((doCalLockLoss_powered k stop hdom).trans (if_pos hlock))
  case lossUnlocked =>
    exact fun k stop hdom hlock =>
      acts_of_act rfl haon hd ((doCalLockLoss_powered k stop hdom).trans (if_neg (ne_true_of_eq_false hlock)))

end Sys2Proof.Machine
end

section
/-! Fences and ramps: which window writes no rule refuses and what they do, when a hold or a power-up response ends, what a ramp's
commands do to its state, and the statement about the commands that do these. -/
namespace Sys2Proof.Machine

/-! ### Window writes (R376, R383, R384) -/

/-- A window register other than TEST takes a word that its own rules allow on the fence brought up to now. -/
theorem writeFence_allowed {f o v : Nat} (d : Dev) (ho : o ≠ 0x10) (hok : fenWriteErr o v = 0) :
    writeFence f o v d =
      if o = 0 then writeFenCfg f v (fenNow f d)
      else if o = 0xC then fenInit f (plainWrite (na f 0xC) v (fenNow f d))
      else plainWrite (na f o) v (fenNow f d) := by
  simp only [writeFence, hok, ho, ne_eq, not_true_eq_false, if_false]

/-- CFG allows every word whose SRC fields name the input or a ramp. -/
theorem fenWriteErr_cfg {v : Nat} (hup : bits v 19 3 ≤ 4) (hlo : bits v 16 3 ≤ 4) : fenWriteErr 0 v = 0 := by
  have hnone : ¬ ((decide (bits v 19 3 > 4) || decide (bits v 16 3 > 4)) = true) := by simp [hup, hlo]
  exact if_neg hnone

/-- FILT allows a majority K of N samples, none of its fields 0. -/
theorem fenWriteErr_filt {v : Nat} (hn : bits v 24 5 ≠ 0) (hk : bits v 16 5 ≠ 0) (hle : bits v 16 5 ≤ bits v 24 5)
    (hmaj : bits v 24 5 < 2 * bits v 16 5) (hdiv : bits v 0 16 ≠ 0) : fenWriteErr 0xC v = 0 := by
  have hnone : ¬ ((decide (bits v 24 5 = 0) || decide (bits v 16 5 = 0) || decide (bits v 16 5 > bits v 24 5)
      || decide (2 * bits v 16 5 ≤ bits v 24 5) || decide (bits v 0 16 = 0)) = true) := by
    simp [hn, hk, hle, hmaj, hdiv]
  exact if_neg hnone

/-- CFG takes a word whose SRC fields name the input or a ramp. -/
theorem writeFence_cfg {f v : Nat} (d : Dev) (hup : bits v 19 3 ≤ 4) (hlo : bits v 16 3 ≤ 4) :
    writeFence f 0 v d = writeFenCfg f v (fenNow f d) := by
  rw [writeFence_allowed d (by decide) (fenWriteErr_cfg hup hlo), if_pos rfl]

/-- FILT takes a word that sets a majority filter, which starts from the output. -/
theorem writeFence_filt {f v : Nat} (d : Dev) (hn : bits v 24 5 ≠ 0) (hk : bits v 16 5 ≠ 0) (hle : bits v 16 5 ≤ bits v 24 5)
    (hmaj : bits v 24 5 < 2 * bits v 16 5) (hdiv : bits v 0 16 ≠ 0) :
    writeFence f 0xC v d = fenInit f (plainWrite (na f 0xC) v (fenNow f d)) := by
  rw [writeFence_allowed d (by decide) (fenWriteErr_filt hn hk hle hmaj hdiv), if_neg (by decide), if_pos rfl]

/-- The DAC registers hold no setting that a rule refuses: a word takes effect at its DAC_SETTLE. -/
theorem writeFence_dac {f : Nat} {r : Fin 5} (v : Nat) (d : Dev) (hr : r = 1 ∨ r = 2) :
    writeFence f (fenOff r) v d = plainWrite (na f (fenOff r)) v (fenNow f d) := by
  rcases hr with rfl | rfl <;> exact writeFence_allowed d (by decide) rfl

/-- TEST takes every word on the fence as it stood in the mc before. -/
theorem writeFence_test (f v : Nat) (d : Dev) : writeFence f 0x10 v d = writeFenTest f v (fenUpTo f (fenT d - 1) d) := rfl

/-! ### Holds and power-up responses (R372, R373) -/

section
variable {f : Fin 24} {u : Bool} {m : Nat} {d t : Dev} (ht : t = fenNow f d) (hdue : m ≤ fenT t)
include ht hdue

/-- A mode hold that has come frees the latch, and the filter starts from the output. -/
theorem doModeHoldEnd_due (hhold : (fcmp (getFen t f) u).hold = some (m, true)) :
    doModeHoldEnd f u d = fenInit f (refreshFen f (setFen f (putCmp u { fcmp (getFen t f) u with hold := none } (getFen t f)) t)) := by
  subst ht
  simp only [doModeHoldEnd, hhold, if_neg (Nat.not_lt.mpr hdue)]

/-- A power-up response that has come frees the latch. -/
theorem doPowerUpResponseEnd_due (hhold : (fcmp (getFen t f) u).hold = some (m, false)) :
    doPowerUpResponseEnd f u d = refreshFen f (setFen f (putCmp u { fcmp (getFen t f) u with hold := none } (getFen t f)) t) := by
  subst ht
  simp only [doPowerUpResponseEnd, hhold, if_neg (Nat.not_lt.mpr hdue)]

end

/-! ### Ramps (R380, R381) -/

section
variable {r : Nat} {d t : Dev} (ht : t = rmpNow r d)
include ht

/-- A trigger starts a ramp that is in IDLE on a running page, and counts. -/
theorem rmpTrigger_idle (m : Nat) (hidle : rmpState t r = 0) (hrun : running t (rmpPage r) = true) :
    rmpTrigger r m d = incSat (A (rmpPage r) 0x98) 0 32 1 (rmpPut r m 1 (rmpStart t r) t) := by
  subst ht
  have hstarts : (decide (rmpState (rmpNow r d) r = 0) && running (rmpNow r d) (rmpPage r)) = true := by simp [hidle, hrun]
  exact if_pos hstarts

/-- STOP holds a running ramp at its VALUE. -/
theorem rmpStop_running (hrun : rmpState t r = 1) : rmpStop r d = rmpPut r (fenT t) 2 (rmpValue t r) t := by
  subst ht
  exact if_pos hrun

/-- REARM returns a held ramp to IDLE at its START_CODE. -/
theorem rmpRearm_held (hheld : rmpState t r = 2) : rmpRearm r d = rmpPut r (fenT t) 0 (rmpStart t r) t := by
  subst ht
  exact if_pos hheld

end

/-- Settles O18: each command is the effect of its rule on the fence or ramp as of now, under the conditions with which the rule
applies. -/
theorem fenceCommandsAct : Obligations.FenceCommandsAct := by
  unfold Obligations.FenceCommandsAct
  intro dt s d haon hd
  refine ⟨?crossing, ?sample, ?cfg, ?dac, ?filt, ?settle, ?modeHold, ?response, ?test, ?start, ?stop, ?rearm, ?step⟩
  case crossing =>
    rintro f u pos t rfl
    exact acts_of_act (f := doFenceCrossing f u pos) rfl haon hd rfl
  case sample => exact fun f => acts_of_act (f := doFenceFilterSample f) rfl haon hd rfl
  case cfg =>
    rintro p f v t hacc rfl hup hlo
    exact acts_of_act rfl haon hd ((onWrite_accepts hacc).trans (writeFence_cfg d hup hlo))
  case dac =>
    rintro p f r v t hacc rfl hr
    exact acts_of_act rfl haon hd ((onWrite_accepts hacc).trans (writeFence_dac v.toNat d hr))
  case filt =>
    rintro p f v t hacc rfl hn hk hle hmaj hdiv
    exact acts_of_act rfl haon hd ((onWrite_accepts hacc).trans (writeFence_filt d hn hk hle hmaj hdiv))
  case settle =>
    rintro f u t rfl
    exact acts_of_act (f := doDacSettle f u) rfl haon hd rfl
  case modeHold => exact fun f u t m ht hhold hdue => acts_of_act rfl haon hd (doModeHoldEnd_due ht hdue hhold)
  case response => exact fun f u t m ht hhold hdue => acts_of_act rfl haon hd (doPowerUpResponseEnd_due ht hdue hhold)
  case test =>
    rintro p f v t hacc rfl
    exact acts_of_act rfl haon hd ((onWrite_accepts hacc).trans (writeFence_test f v.toNat d))
  case start =>
    exact fun p r t hacc ht hidle hrun =>
      acts_of_act rfl haon hd ((onWrite_accepts hacc).trans (rmpTrigger_idle ht (fenT d) hidle hrun))
  case stop => exact fun p r t hacc ht hrun => acts_of_act rfl haon hd ((onWrite_accepts hacc).trans (rmpStop_running ht hrun))
  case rearm => exact fun p r t hacc ht hheld => acts_of_act rfl haon hd ((onWrite_accepts hacc).trans (rmpRearm_held ht hheld))
  case step => exact fun r => acts_of_act (f := doRampStep r) rfl haon hd rfl

end Sys2Proof.Machine
end

section
/-! Drills, marker outputs and sync events: which START a drill takes, what a drill does when its time or a crossing comes, which
amplitude groups it closes, what a sync event with none pending does, and the statement about the commands that do these. -/
namespace Sys2Proof.Machine

/-! ### Starting and stopping (R399, R400) -/

/-- A START that is not refused arms the drill at its first entry, and with AMP enabled builds the groups of that entry. -/
theorem startDrl_taken {k mo : Nat} {t u v w : Dev} (htakes : drlRefused t k mo = false)
    (hu : u = onlyIf (startIsLate t k mo) (hit (da k 0x84) 31) t)
    (hv : v = setDrl k { armed := now t, mode := mo, start := (drlStart t k mo).map (· * 1024), segs := (getDrl u k).segs } u)
    (hw : w = setDrlState k 1 (fset (da k 0x84) 0 12 (drlFirst v k) v)) :
    startDrl k mo t =
      if fbit w (da k 0x98) 31 then forAll (ampBanks w k) (fun b => ampBuild k b (drlFirst w k) none) w else w := by
  subst hu hv hw
  exact if_neg (ne_true_of_eq_false htakes)

/-- STOP ends the run of an armed or running drill in STOPPED, after the step that is due. -/
theorem stopDrl_active {k : Nat} {d : Dev} (hactive : drlState d k = 1 ∨ drlState d k = 2) :
    stopDrl k d = drlEnd k 4 (nowVs d) (drlAdvance (nowVs d) k d) := by
  have hstops : (decide (drlState d k = 1) || decide (drlState d k = 2)) = true := by simpa using hactive
  exact if_pos hstops

/-! ### Steps and edges (R391, R392, R396) -/

section
variable {k t lim : Nat} {d : Dev}

/-- An armed drill begins its first entry once its start has come. -/
theorem drlAdvance_armed (hstate : drlState d k = 1) (hstart : (getDrl d k).start = some t) (hdue : t ≤ lim) :
    drlAdvance lim k d = beginStep k (drlFirst d k) t 0 true d := by
  simp only [drlAdvance, hstate, if_true, hstart, if_pos hdue]

/-- A running drill ends its step once the step's end has come. -/
theorem drlAdvance_running (hstate : drlState d k = 2) (hend : (getDrl d k).endAt = some t) (hdue : t ≤ lim) :
    drlAdvance lim k d = endStep k t ((getDrl d k).endRow.getD 0) d := by
  have hnotArmed : ¬ drlState d k = 1 := by omega
  simp only [drlAdvance, if_neg hnotArmed, if_pos hstate, hend, if_pos hdue]

/-- A running drill makes the edge of a crossing before the limit: to high where an even half cycle begins. -/
theorem drlEdges_next (hstate : drlState d k = 2) (hcross : nextCross (getDrl d k) = some t) (hcome : t < lim) (fuel : Nat) :
    drlEdges k lim (fuel + 1) d =
      drlEdges k lim fuel (drlEdge k t ((getDrl d k).half % 2 == 0) (setDrl k { getDrl d k with half := (getDrl d k).half + 1 } d)) := by
  have hmakes : (decide (drlState d k = 2) && decide (t < lim)) = true := by simp [hstate, hcome]
  simp only [drlEdges, hcross, if_pos hmakes]

end

/-! ### Amplitude groups (R402, R403) -/

section
variable {k : Fin 16} {b : Bank} {d : Dev} (htakes : fecTakes d b = true) (hnone : (getFec d b).groups.any (isAmp k) = false)
include htakes hnone

/-- A bank that takes new commands and has no group of the drill is free for its next one. -/
theorem ampBank_free : ¬ ((!fecTakes d b || (getFec d b).groups.any (isAmp k)) = true) := by simp [htakes, hnone]

/-- A bank without a group of the drill takes the group that the drill holds for it. -/
theorem doAmpGroupClose_held (hheld : (getDrl d k).held.any (·.1 == b.toNat) = true) : doAmpGroupClose k b d = ampRefill b d := by
  simp only [doAmpGroupClose, if_neg (ampBank_free htakes hnone), if_pos hheld]

/-- With none held, a bank without a group of the drill takes that of the drill's next amplitude step. -/
theorem doAmpGroupClose_next {j : Nat} (hheld : (getDrl d k).held.any (·.1 == b.toNat) = false)
    (hamp : fbit d (da k 0x98) 31 = true) (hactive : drlState d k = 1 ∨ drlState d k = 2)
    (hnext : (mget (fun _ => none) (getDrl d k).ahead b).bind (ampNext d k 4097) = some j) :
    doAmpGroupClose k b d = ampBuild k b j none d := by
  have hsteps : ¬ ((!fbit d (da k 0x98) 31 || !(drlState d k == 1 || drlState d k == 2)) = true) := by
    rcases hactive with h | h <;> simp [hamp, h]
  simp only [doAmpGroupClose, if_neg (ampBank_free htakes hnone), if_neg (ne_true_of_eq_false hheld), if_neg hsteps, hnext]

end

/-! ### MK_DLY (R408) -/

/-- MK_DLY takes a delay in range. -/
theorem writeMkDly_inRange {k v : Nat} {d : Dev} (hok : markOk (planeDly d) (bits v 0 14) = true) :
    writeMkDly k v d = plainWrite (da k 0x108) v d :=
  if_pos hok

/-! ### Sync events (R410 to R412) -/

/-- A sync event that arrives with none pending, and that neither SYNC_OUT nor the ring passes on, is pending for its Q; SYNC_COMP
of at least SYNC_DIST leaves SHORT as it was. -/
theorem syncArrive_unsent {a : Nat} {own : Bool} {d t : Dev} (ht : t = syncDone (syncOutEnd d)) (hfree : fbit t (A 1 0x10C) 29 = false)
    (hout : fbit t (A 1 0x100) 29 = false) (hring : fbit t (A ringPage 0x80) 26 = false)
    (hcomp : fget t (A 1 0x108) 0 16 ≤ fget t (A 1 0x104) 0 16) :
    syncArrive a own d = syncLate a (syncQ t a) { fset (A 1 0x10C) 29 1 1 t with syncEv := some (a, syncQ t a) } := by
  have hreaches : decide (fget t (A 1 0x104) 0 16 < fget t (A 1 0x108) 0 16) = false := decide_eq_false (Nat.not_lt.mpr hcomp)
  simp [syncArrive, ← ht, hout, hring, hfree, hreaches, onlyIf]

/-- A pulse is an event of the device's own while the page runs and takes its events from SYNC_IN. -/
theorem doSyncInPulse_taken {d : Dev} (hrun : running d 1 = true) (hsrc : fget d (A 1 0x100) 30 2 = 1) :
    doSyncInPulse d = syncArrive (now d) true d := by
  have htakes : (running d 1 && decide (fget d (A 1 0x100) 30 2 = 1)) = true := by simp [hrun, hsrc]
  exact if_pos htakes

/-- FIRE is an event of the device's own while the page runs. -/
theorem syncFire_running {d : Dev} (hrun : running d 1 = true) : syncFire d = syncArrive (now d) true d := by
  rw [syncFire, hrun, onlyIf_true]

/-- A pending event whose Q has come counts, and the markers and TRIG_OUT that name it fire at Q. -/
theorem syncDone_due {a q : Nat} {d t : Dev} (hev : d.syncEv = some (a, q)) (hpend : fbit d (A 1 0x10C) 29 = true) (hdue : q ≤ now d)
    (ht : t = fset (A 1 0x10C) 29 1 0 (fset (A 1 0x10C) 0 29 (fget d (A 1 0x10C) 0 29 + 1) (wr64 (A 1 0x110) q d))) :
    syncDone d = toutBy 5 q (fun _ => true) (mkBy 3 none (q * 1024) (fun _ => true) t) := by
  subst ht
  have hcomes : (fbit d (A 1 0x10C) 29 && decide (q ≤ now d)) = true := by simp [hpend, hdue]
  simp only [syncDone, hev, if_pos hcomes]

/-- SYNC_OUT falls once it has been high for 8 mc. -/
theorem syncOutEnd_due {a : Nat} {d : Dev} (hhigh : d.syncOut = some a) (hdue : a + 8 ≤ now d) :
    syncOutEnd d = { emit (.pin .syncOut false) d with syncOut := none } := by
  simp only [syncOutEnd, hhigh, if_pos hdue]

/-- Settles O19: each command is the effect of its rule, under the conditions with which the rule applies. -/
theorem drillMarkerAndSyncCommandsAct : Obligations.DrillMarkerAndSyncCommandsAct := by
  unfold Obligations.DrillMarkerAndSyncCommandsAct
  intro dt s d haon hd
  refine ⟨?start, ?stop, ?begins, ?ends, ?edge, ?stage, ?commit, ?refill, ?build, ?release, ?mkDly, ?pulse, ?fire, ?qualified,
    ?outEnd⟩
  case start =>
    rintro p k mo t u v w hacc rfl htakes hu hv hw
    exact acts_of_act rfl haon hd ((onWrite_accepts hacc).trans (startDrl_taken htakes hu hv hw))
  case stop => exact fun p k hacc hactive => acts_of_act rfl haon hd ((onWrite_accepts hacc).trans (stopDrl_active hactive))
  case begins => exact fun k t hstate hstart hdue => acts_of_act rfl haon hd (drlAdvance_armed hstate hstart hdue)
  case ends => exact fun k t hstate hend hdue => acts_of_act rfl haon hd (drlAdvance_running hstate hend hdue)
  case edge => exact fun k t hstate hcross hcome => acts_of_act rfl haon hd (drlEdges_next hstate hcross hcome 0)
  case stage => exact fun p k w v hacc => acts_of_act rfl haon hd (onWrite_accepts hacc)
  case commit => exact fun p k v hacc => acts_of_act rfl haon hd (onWrite_accepts hacc)
  case refill => exact fun k b htakes hnone hheld => acts_of_act rfl haon hd (doAmpGroupClose_held htakes hnone hheld)
  case build =>
    exact fun k b j htakes hnone hheld hamp hactive hnext =>
      acts_of_act rfl haon hd (doAmpGroupClose_next htakes hnone hheld hamp hactive hnext)
  case release => exact fun k => acts_of_act (f := doMarkerRelease k) rfl haon hd rfl
  case mkDly => exact fun p k v hacc hok => acts_of_act rfl haon hd ((onWrite_accepts hacc).trans (writeMkDly_inRange hok))
  case pulse =>
    exact fun t hrun hsrc ht hfree hout hring hcomp =>
      acts_of_act rfl haon hd ((doSyncInPulse_taken hrun hsrc).trans (syncArrive_unsent ht hfree hout hring hcomp))
  case fire =>
    exact fun p t hacc hrun ht hfree hout hring hcomp => acts_of_act rfl haon hd
      ((onWrite_accepts hacc).trans ((syncFire_running hrun).trans (syncArrive_unsent ht hfree hout hring hcomp)))
  case qualified => exact fun a q t hev hpend hdue ht => acts_of_act rfl haon hd (syncDone_due hev hpend hdue ht)
  case outEnd => exact fun a hhigh hdue => acts_of_act rfl haon hd (syncOutEnd_due hhigh hdue)

end Sys2Proof.Machine
end

section
/-! The statements about every command, and those about the non-volatile stores that follow from them: what a command that is
none of the engines of the stores keeps, and what each engine writes (R580, R613). -/
namespace Sys2Proof.Machine

/-- Settles O36: `step` gives the command in front to `exec`. -/
theorem stepTakesTheFrontCommand : Obligations.StepTakesTheFrontCommand := by
  unfold Obligations.StepTakesTheFrontCommand
  refine ⟨fun c rest s => rfl, ?idle⟩
  case idle =>
    intro s hqueue
    rw [step, hqueue]

/-- Settles O38: what a command answers is a next state that differs in the device and the stores alone. -/
theorem everyCommandAnswersANextState : Obligations.EveryCommandAnswersANextState := by
  unfold Obligations.EveryCommandAnswersANextState
  intro c s
  obtain ⟨d, nv, hnext, -⟩ := exec_next c s
  exact ⟨_, hnext, rfl⟩

/-! ### The engines of the stores, and the others without AON supply -/

theorem exec_hallmarkCommit (dt : Nat) (b1 b2 : Option (List Byte)) (s : State) :
    exec (.hallmarkCommit dt b1 b2) s = actStore dt (commitNv b1 b2) (commitDev b1 b2) s := rfl

theorem exec_aonSupplyLoss (dt : Nat) (x : Option (List Byte)) (s : State) :
    exec (.aonSupplyLoss dt x) s = actStore dt (lossNv x) (fun _ => doAonSupplyLoss) s := rfl

theorem exec_fuseDone (dt : Nat) (s : State) : exec (.fuseDone dt) s = actStore dt fuseNv (fun _ => doFuseDone) s := rfl

/-- Without AON supply a command that acts on the device answers the same state. -/
theorem act_off (dt : Nat) (f : Dev → Dev) {s : State} (hoff : s.dev.aon = false) : act dt f s = .next s := by
  unfold act
  rw [if_neg (by simp [hoff])]

/-- Without AON supply an engine of the stores answers the same state. -/
theorem actStore_off (dt : Nat) (g : Dev → Nv → Nv) (f : Nv → Dev → Dev) {s : State} (hoff : s.dev.aon = false) :
    actStore dt g f s = .next s := by
  unfold actStore
  rw [if_neg (by simp [hoff])]

/-- Settles O42: every command but the rise of the supply has one of the two shapes that need it. -/
theorem withoutSupplyNothingActs : Obligations.WithoutSupplyNothingActs := by
  unfold Obligations.WithoutSupplyNothingActs
  intro c s hoff hpower
  cases c
  case powerOn => cases hpower
  case hallmarkCommit => rw [exec_hallmarkCommit, actStore_off _ _ _ hoff]
  case aonSupplyLoss => rw [exec_aonSupplyLoss, actStore_off _ _ _ hoff]
  case fuseDone => rw [exec_fuseDone, actStore_off _ _ _ hoff]
  all_goals exact act_off _ _ hoff

/-! ### What the engines of the stores keep -/

/-- With AON supply an engine of the stores changes them by `g`, and the device by `f` as the stores then are. -/
theorem actStore_of_aon (dt : Nat) (g : Dev → Nv → Nv) (f : Nv → Dev → Dev) {s : State} {d : Dev} {nv : Nv} (haon : s.dev.aon = true)
    (hd : d = actPre dt s.dev) (hnv : nv = g d s.nv) : actStore dt g f s = .next { s with nv := nv, dev := actPost nv (f nv d) } := by
  unfold actStore
  rw [if_pos haon, ← hd, ← hnv]

/-- What holds of the stores of `s`, and of what an engine makes of them, holds of those of the state that it answers. -/
theorem actStore_keeps {P : Nv → Prop} {dt : Nat} {g : Dev → Nv → Nv} {f : Nv → Dev → Dev} {s t : State}
    (hnext : actStore dt g f s = .next t) (hsame : P s.nv) (hwrites : P (g (actPre dt s.dev) s.nv)) : P t.nv := by
  cases haon : s.dev.aon
  case false =>
    rw [actStore_off dt g f haon] at hnext
    cases hnext
    exact hsame
  case true =>
    rw [actStore_of_aon dt g f haon rfl rfl] at hnext
    cases hnext
    exact hwrites

/-- A command that is none of the engines of the stores leaves them as they are. -/
theorem nv_of_exec {c : Instr} {s t : State} (hnext : exec c s = .next t) (hother : writesStores c = false) : t.nv = s.nv := by
  obtain ⟨d, nv, heq, hnv⟩ := exec_next c s
  rw [hnext] at heq
  cases heq
  exact hnv hother

/-- Each engine of the stores keeps them in order. -/
theorem storesOk_of_engine {c : Instr} {s t : State} (hengine : writesStores c = true) (hok : storesOk s.nv = true)
    (hnext : exec c s = .next t) : storesOk t.nv = true := by
  unfold writesStores at hengine
  split at hengine
  case h_1 dt b1 b2 =>
    rw [exec_hallmarkCommit] at hnext
    exact actStore_keeps (P := fun n => storesOk n = true) hnext hok (storesOk_commitNv b1 b2 _ _ hok)
  case h_2 dt x =>
    rw [exec_aonSupplyLoss] at hnext
    exact actStore_keeps (P := fun n => storesOk n = true) hnext hok (storesOk_lossNv x _ _ hok)
  case h_3 dt =>
    rw [exec_fuseDone] at hnext
    exact actStore_keeps (P := fun n => storesOk n = true) hnext hok (storesOk_fuseNv _ _ hok)
  case h_4 => cases hengine

/-- Settles O40: a step is idling, a command of an engine of the stores, or one that leaves them as they are. -/
theorem storesStayInOrderAtEveryStep : Obligations.StoresStayInOrderAtEveryStep := by
  unfold Obligations.StoresStayInOrderAtEveryStep
  intro s t hok hstep
  unfold step at hstep
  split at hstep
  case h_1 =>
    cases hstep
    exact hok
  case h_2 c rest _ =>
    cases hengine : writesStores c
    case true => exact storesOk_of_engine (s := { s with pending := rest }) hengine hok hstep
    case false => rwa [nv_of_exec hstep hengine]

/-- Settles O41: the other commands keep the stores, and each engine writes the slots or the fuses alone. -/
theorem onlyTheirEnginesWriteTheStores : Obligations.OnlyTheirEnginesWriteTheStores := by
  unfold Obligations.OnlyTheirEnginesWriteTheStores
  refine ⟨fun c s t => nv_of_exec, ?commit, ?loss, ?fuse⟩
  case commit =>
    intro dt b1 b2 s t hnext
    rw [exec_hallmarkCommit] at hnext
    exact actStore_keeps (P := fun n => n.owners = s.nv.owners ∧ n.arb = s.nv.arb) hnext ⟨rfl, rfl⟩ (commitNv_fuses b1 b2 _ _)
  case loss =>
    intro dt x s t hnext
    rw [exec_aonSupplyLoss] at hnext
    exact actStore_keeps (P := fun n => n.owners = s.nv.owners ∧ n.arb = s.nv.arb) hnext ⟨rfl, rfl⟩ (lossNv_fuses x _ _)
  case fuse =>
    intro dt s t hnext
    rw [exec_fuseDone] at hnext
    exact actStore_keeps (P := fun n => n.slots = s.nv.slots) hnext rfl (fuseNv_slots _ _)

end Sys2Proof.Machine
end

section
/-! The records of the Hallmark store: a record reads back from its slot, the scan finds the last one that was committed, a
loss of supply tears one slot at most, and fuses only advance. -/
namespace Sys2Proof.Machine

/-! ### A record in its slot (R577, R578) -/

/-- The bytes of a record before its CRC: each field stands at the offset that Table 18-6 gives it. -/
theorem slotNum_of_split {bs a b c : List Byte} {o n : Nat} (hsplit : bs = a ++ (b ++ c)) (ha : a.length = o) (hb : b.length = n) :
    slotNum bs o n = leNat b := by
  rw [hsplit, slotNum_mid a b c o n ha hb]

section
variable (r : HmkRec) (seq : Nat)

theorem slotNum_magic : slotNum (hmkBytes r seq) 0 2 = 0x4D48 := by
  exact (slotNum_of_split (o := 0) (a := []) (b := leBytes 2 0x4D48) (by simp only [hmkBytes, List.append_assoc, List.nil_append]; rfl) rfl
    (leBytes_length _ _)).trans (leNat_leBytes _ _)

theorem slotNum_kind : slotNum (hmkBytes r seq) 2 1 = r.kind % 256 := by
  rw [slotNum_of_split (a := leBytes 2 0x4D48) (b := leBytes 1 r.kind) (by simp only [hmkBytes, List.append_assoc]; rfl)
    (leBytes_length _ _) (leBytes_length _ _), leNat_leBytes, Nat.pow_one]

theorem slotNum_seq : slotNum (hmkBytes r seq) 8 8 = seq % 2 ^ 64 := by
  exact (slotNum_of_split (a := leBytes 2 0x4D48 ++ leBytes 1 r.kind ++ leBytes 1 1 ++ leBytes 4 r.flags) (b := leBytes 8 seq)
    (by simp only [hmkBytes, List.append_assoc]; rfl) (by simp [leBytes_length]) (leBytes_length _ _)).trans (leNat_leBytes _ _)

theorem slotNum_seqLow : slotNum (hmkBytes r seq) 8 4 = seq % 2 ^ 32 := by
  have hsplit : leBytes 8 seq = leBytes 4 seq ++ leBytes 4 (seq / 2 ^ 32) := by
    simp [leBytes, Nat.div_div_eq_div_mul]
  exact (slotNum_of_split (a := leBytes 2 0x4D48 ++ leBytes 1 r.kind ++ leBytes 1 1 ++ leBytes 4 r.flags) (b := leBytes 4 seq)
    (by simp only [hmkBytes, hsplit, List.append_assoc]; rfl) (by simp [leBytes_length]) (leBytes_length _ _)).trans (leNat_leBytes _ _)

theorem take_hmkBytes : (hmkBytes r seq).take 248 = hmkHead r seq := by
  rw [hmkBytes_eq, ← hmkHead_length r seq, List.take_left]

theorem slotNum_crc : slotNum (hmkBytes r seq) 248 4 = crc32c (hmkHead r seq) := by
  rw [slotNum_of_split (hmkBytes_eq r seq) (hmkHead_length r seq) (leBytes_length _ _), leNat_leBytes]
  exact Nat.mod_eq_of_lt (crc32c_lt _)

theorem slotNum_commit : slotNum (hmkBytes r seq) 252 4 = 2 ^ 32 - 1 - seq % 2 ^ 32 := by
  rw [slotNum_of_split (a := hmkHead r seq ++ leBytes 4 (crc32c (hmkHead r seq))) (b := leBytes 4 (2 ^ 32 - 1 - seq % 2 ^ 32)) (c := [])
    (by rw [hmkBytes_eq, List.append_nil, List.append_assoc]) (by simp [hmkHead_length, leBytes_length]) (leBytes_length _ _), leNat_leBytes]
  omega

theorem body_hmkBytes : ((hmkBytes r seq).drop 40).take 208 = fitBytes 208 r.body := by
  have hsplit : hmkBytes r seq = (leBytes 2 0x4D48 ++ leBytes 1 r.kind ++ leBytes 1 1 ++ leBytes 4 r.flags ++ leBytes 8 seq ++ leBytes 8 r.ts
      ++ leBytes 8 r.sec ++ leBytes 4 r.poh ++ leBytes 4 r.boots) ++ (fitBytes 208 r.body ++ (leBytes 4 (crc32c (hmkHead r seq))
      ++ leBytes 4 (2 ^ 32 - 1 - seq % 2 ^ 32))) := by
    simp only [hmkBytes_eq, hmkHead, List.append_assoc]
  rw [hsplit, List.drop_append_of_le_length (by simp [leBytes_length]), List.drop_eq_nil_of_le (by simp [leBytes_length]), List.nil_append]
  exact List.take_left' (fitBytes_length _ _)

theorem slotOk_hmkBytes : slotOk (hmkBytes r seq) = true := by
  simp [slotOk, hmkBytes_length, slotNum_magic, take_hmkBytes, slotNum_crc, slotNum_commit, slotNum_seqLow]

end

/-- Settles O43: each field of a record stands at the offset that Table 18-6 gives it. -/
theorem committedRecordReadsBack : Obligations.CommittedRecordReadsBack := by
  unfold Obligations.CommittedRecordReadsBack
  exact fun r seq => ⟨hmkBytes_length r seq, slotOk_hmkBytes r seq, slotNum_seq r seq, slotNum_kind r seq, body_hmkBytes r seq⟩

/-! ### What a loss of supply and a commit leave in the slots (R578) -/

/-- A slot whose first byte is 0 has no MAGIC. -/
theorem slotOk_zero_cons (bs : List Byte) : slotOk (0 :: bs) = false := by
  have hmagic : slotNum (0 :: bs) 0 2 = 256 * leNat (bs.take 1) := by
    simp [slotNum, leNat]
  have hne : (slotNum (0 :: bs) 0 2 == 0x4D48) = false := by
    rw [hmagic, beq_eq_false_iff_ne]
    omega
  rw [slotOk, hne, Bool.and_false, Bool.false_and, Bool.false_and]

/-- What an unfinished write leaves is no committed record. -/
theorem slotOk_tornSlot (x : List Byte) : slotOk (tornSlot x) = false := by
  unfold tornSlot
  split
  case isTrue => exact slotOk_zero_cons _
  case isFalse hno => simpa using hno

/-- Reading a slot other than the one written. -/
theorem getSlot_putSlot_ne {k j : Nat} (bs : List Byte) (nv : Nv) (hne : j ≠ k) : getSlot (putSlot k bs nv) j = getSlot nv j :=
  mget_mset_ne _ _ _ _ (Ne.symm hne) _

/-- The stores of the state that an engine of the stores answers. -/
theorem nv_of_actStore {dt : Nat} {g : Dev → Nv → Nv} {f : Nv → Dev → Dev} {s t : State} (haon : s.dev.aon = true)
    (hnext : actStore dt g f s = .next t) : t.nv = g (actPre dt s.dev) s.nv := by
  rw [actStore_of_aon dt g f haon rfl rfl] at hnext
  cases hnext
  rfl

/-- A loss of supply leaves the stores, or the slot of the commit in progress torn. -/
theorem lossNv_cases (x : Option (List Byte)) (d : Dev) (nv : Nv) :
    lossNv x d nv = nv ∨ ∃ bs, lossNv x d nv = putSlot (fget d (A 3 0x84) 0 13) (tornSlot bs) nv := by
  unfold lossNv
  split
  case h_1 bs =>
    split
    · exact .inr ⟨bs, rfl⟩
    · exact .inl rfl
  case h_2 => exact .inl rfl

/-- The writes of a commit go to its slot and the slot after it. -/
theorem commitPlan_slots (k : Nat) (bytes : List Byte) (b1 b2 : Option (List Byte)) :
    ∀ w ∈ (commitPlan k bytes b1 b2).1, w.1 = k ∨ w.1 = slotAfter k := by
  cases b1 with
  | none => simp [commitPlan]
  | some x => cases b2 <;> simp [commitPlan]

/-- Writes to other slots leave a slot as it is. -/
theorem getSlot_writes_ne {j : Nat} (ws : List (Nat × List Byte)) (nv : Nv) (hne : ∀ w ∈ ws, j ≠ w.1) :
    getSlot (ws.foldl (fun n w => putSlot w.1 w.2 n) nv) j = getSlot nv j := by
  induction ws generalizing nv with
  | nil => rfl
  | cons w ws ih =>
    rw [List.foldl_cons, ih _ fun x hx => hne x (List.mem_cons_of_mem _ hx), getSlot_putSlot_ne _ _ (hne w List.mem_cons_self)]

/-- A commit writes no slot but NEXT and the slot after it. -/
theorem getSlot_commitNv_ne (b1 b2 : Option (List Byte)) {d : Dev} {nv : Nv} {k j : Nat} (hk : k = fget d (A 3 0x84) 0 13)
    (hj : j ≠ k) (hafter : j ≠ slotAfter k) : getSlot (commitNv b1 b2 d nv) j = getSlot nv j := by
  unfold commitNv
  split
  case h_2 => rfl
  case h_1 =>
    split
    case isTrue => rfl
    case isFalse =>
      refine getSlot_writes_ne _ _ fun w hw => ?_
      rcases commitPlan_slots _ _ b1 b2 w hw with hat | hat
      · rwa [hat, ← hk]
      · rwa [hat, ← hk]

/-- Settles O45: a loss writes torn content into NEXT at most, and a commit writes NEXT and the slot after it at most. -/
theorem lossOfPowerTearsOneSlotAtMost : Obligations.LossOfPowerTearsOneSlotAtMost := by
  unfold Obligations.LossOfPowerTearsOneSlotAtMost
  refine ⟨?loss, ?commit⟩
  case loss =>
    intro dt x s t k j hok haon hk hnext
    rw [exec_aonSupplyLoss] at hnext
    rw [nv_of_actStore haon hnext]
    rcases lossNv_cases x (actPre dt s.dev) s.nv with hsame | ⟨bs, htorn⟩
    · rw [hsame]
      exact ⟨fun _ => rfl, .inl rfl⟩
    · rw [htorn, ← hk]
      refine ⟨fun hj => getSlot_putSlot_ne _ _ hj, .inr ?_⟩
      rw [getSlot_putSlot _ _ _ _ hok, if_pos rfl]
      exact slotOk_tornSlot bs
  case commit =>
    intro dt b1 b2 s t k j _ haon hk hnext hj hafter
    rw [exec_hallmarkCommit] at hnext
    rw [nv_of_actStore haon hnext]
    exact getSlot_commitNv_ne b1 b2 hk hj hafter

/-! ### The scan after a commit (R576, R578, R579) -/

/-- A commit whose write verifies writes the first queued record to NEXT. -/
theorem commitNv_verified (b : Option (List Byte)) {d : Dev} {r : HmkRec} {rest : List HmkRec} (nv : Nv) (hbusy : hmkBusy d = true)
    (hqueue : d.hmk.queue = r :: rest) :
    commitNv none b d nv = putSlot (fget d (A 3 0x84) 0 13) (hmkBytes r (rd64 d (A 3 0x8C))) nv := by
  simp [commitNv, hqueue, hbusy, commitPlan]

/-- A record written over an older store is the newest of the store. -/
theorem newestOf_committed_putSlot {nv : Nv} {k q : Nat} (r : HmkRec) (hq : q < 2 ^ 64) (hold : olderThan nv q = true) :
    newestOf (committed (putSlot k (hmkBytes r q) nv)) = some (k, q) := by
  have hseq : slotNum (hmkBytes r q) 8 8 = q := (slotNum_seq r q).trans (Nat.mod_eq_of_lt hq)
  refine newestOf_max k q _ ?_ fun e he => ?_
  · refine List.mem_map.mpr ⟨(k, hmkBytes r q), List.mem_filter.mpr ⟨?_, slotOk_hmkBytes r q⟩, by rw [hseq]⟩
    refine mset_mem _ _ _ _ fun hnil => ?_
    have hlen := hmkBytes_length r q
    rw [hnil] at hlen
    cases hlen
  · obtain ⟨x, hx, rfl⟩ := List.mem_map.mp he
    obtain ⟨hmem, hok⟩ := List.mem_filter.mp hx
    rcases mem_mset _ _ _ _ _ hmem with rfl | hin
    · exact .inl (by rw [hseq])
    · have hcomm : (x.1, slotNum x.2 8 8) ∈ committed nv := List.mem_map.mpr ⟨x, List.mem_filter.mpr ⟨hin, hok⟩, rfl⟩
      exact .inr (of_decide_eq_true (List.all_eq_true.mp hold _ hcomm))

/-- What the scan does first: NEXT, SEQ and the counters of hours and boots follow the newest record. -/
def scanNext (nv : Nv) (d : Dev) : Dev :=
  match newestOf (committed nv) with
  | some (k, q) => addCount 0x98 (slotNum (getSlot nv k) 32 4) (addCount 0xA4 (slotNum (getSlot nv k) 36 4)
      (wr64 (A 3 0x8C) (q + 1) (wrN (A 3 0x84) (slotAfter k) d)))
  | none => wr64 (A 3 0x8C) 1 (wrN (A 3 0x84) 0 d)

/-- OLDEST follows the ring. -/
def scanOldest (nv : Nv) (d : Dev) : Dev :=
  match oldestRing nv with
  | some o => wrN (A 3 0x88) o d
  | none => wrN (A 3 0x88) ((freshWord d).1.toNat % 8192) (freshWord d).2

/-- The counters of the newest record of hours of operation are restored (R583). -/
def scanCounts (nv : Nv) (d : Dev) : Dev :=
  match newestKind nv 3 fun _ => true with
  | some r => addCount 0x9C (slotNum r 40 4) (addCount 0xA0 (slotNum r 44 4) (addCount 0xA8 (slotNum r 48 4) d))
  | none => d

/-- The spares of the newest degradation record are restored (R589). -/
def scanSpares (nv : Nv) (d : Dev) : Dev :=
  match newestKind nv 2 fun _ => true with
  | some r => { d with spareKeep := (List.range 8).foldl (fun m b => mset (fun _ => 0) b (slotNum r (48 + 4 * b) 4) m) d.spareKeep }
  | none => d

/-- SCANNED sets, and a torn slot is reported (R579). -/
def scanEnds (nv : Nv) (d : Dev) : Dev :=
  let t := fset (A 3 0x80) 31 1 1 { d with memOut := recordedOut nv }
  if nv.slots.any (fun e => !slotOk e.2) then raise 0xF3 1 (irqSet 3 4 (hit (A 3 0x80) 29 t)) else t

/-- The scan is its parts in order. -/
theorem hmkScan_eq (nv : Nv) (d : Dev) : hmkScan nv d = scanEnds nv (scanSpares nv (scanCounts nv (scanOldest nv (scanNext nv d)))) := rfl

/-- NEXT and the halves of SEQ: the registers that the scan writes first and no later part of it writes. -/
def scanReg (b : Nat) : Prop := b = A 3 0x84 ∨ b = A 3 0x8C ∨ b = A 3 0x90

/-- A register of the scan's first part is none of those that the other parts write. -/
theorem scanReg_ne {b : Nat} (hb : scanReg b) {p o : Nat} (ho : o ≠ 0x84 ∧ o ≠ 0x8C ∧ o ≠ 0x90) (hlt : o < 0x1000) :
    A p o ≠ b := by
  rcases hb with rfl | rfl | rfl
  · exact A_ne_of_offset hlt (by decide) ho.1
  · exact A_ne_of_offset hlt (by decide) ho.2.1
  · exact A_ne_of_offset hlt (by decide) ho.2.2

section
variable {b : Nat} (hb : scanReg b) (nv : Nv) (d : Dev)
include hb

theorem rdN_scanOldest : rdN (scanOldest nv d) b = rdN d b := by
  unfold scanOldest
  split
  · exact rdN_wrN_ne _ _ _ _ (scanReg_ne hb (by decide) (by decide))
  · exact rdN_wrN_ne _ _ _ _ (scanReg_ne hb (by decide) (by decide))

theorem rdN_scanCounts : rdN (scanCounts nv d) b = rdN d b := by
  unfold scanCounts
  split
  · rw [rdN_addCount_ne _ _ _ _ (scanReg_ne hb (by decide) (by decide)),
      rdN_addCount_ne _ _ _ _ (scanReg_ne hb (by decide) (by decide)),
      rdN_addCount_ne _ _ _ _ (scanReg_ne hb (by decide) (by decide))]
  · rfl

omit hb in
theorem rdN_scanSpares : rdN (scanSpares nv d) b = rdN d b := by
  unfold scanSpares
  split
  · rfl
  · rfl

theorem rdN_scanEnds : rdN (scanEnds nv d) b = rdN d b := by
  have hscanned : rdN (fset (A 3 0x80) 31 1 1 { d with memOut := recordedOut nv }) b = rdN d b :=
    rdN_fset_ne _ _ _ _ _ _ (scanReg_ne hb (by decide) (by decide))
  unfold scanEnds
  dsimp only
  split
  · exact (rdN_irqSet_ne _ _ _ _ (scanReg_ne hb (by decide) (by decide)) (scanReg_ne hb (by decide) (by decide))).trans
      ((rdN_hit_ne _ _ (scanReg_ne hb (by decide) (by decide)).symm).trans hscanned)
  · exact hscanned

theorem rdN_hmkScan : rdN (hmkScan nv d) b = rdN (scanNext nv d) b := by
  rw [hmkScan_eq, rdN_scanEnds hb, rdN_scanSpares, rdN_scanCounts hb, rdN_scanOldest hb]

end

/-- A pair reads as it is written. -/
theorem rd64_wr64 {a v : Nat} {d : Dev} (hv : v < 2 ^ 64) (hwf : mwf regReset 0 d.regs = true) : rd64 (wr64 a v d) a = v := by
  have hlo : rdN (wr64 a v d) a = v % 2 ^ 32 := by
    rw [wr64, rdN_wrN_ne _ _ _ _ (by omega), rdN_wrN _ _ _ hwf]
  have hhi : rdN (wr64 a v d) (a + 4) = v / 2 ^ 32 % 2 ^ 32 := by
    rw [wr64, rdN_wrN _ _ _ (wrN_wf _ _ _ hwf)]
  rw [rd64, hlo, hhi]
  omega

/-- The scan's first part when it finds a newest record: NEXT, SEQ, and the two counters raised. -/
theorem scanNext_newest {nv : Nv} {k q : Nat} (d : Dev) (hnewest : newestOf (committed nv) = some (k, q)) :
    ∃ m n, scanNext nv d = addCount 0x98 m (addCount 0xA4 n (wr64 (A 3 0x8C) (q + 1) (wrN (A 3 0x84) (slotAfter k) d))) := by
  simp only [scanNext, hnewest]
  exact ⟨_, _, rfl⟩

theorem slotAfter_lt_word (k : Nat) (hk : k < 8192) : slotAfter k % 2 ^ 32 = slotAfter k := by
  have := slotAfter_lt k hk
  omega

/-- After the scan, NEXT is the slot after the newest record and SEQ the number after its own. -/
theorem hmkScan_newest {nv : Nv} {k q : Nat} {d : Dev} (hnewest : newestOf (committed nv) = some (k, q)) (hk : k < 8192)
    (hq : q + 1 < 2 ^ 64) (hwf : mwf regReset 0 d.regs = true) :
    rdN (hmkScan nv d) (A 3 0x84) = slotAfter k ∧ rd64 (hmkScan nv d) (A 3 0x8C) = q + 1 := by
  obtain ⟨m, n, hfirst⟩ := scanNext_newest d hnewest
  have hscan : ∀ b, scanReg b → rdN (hmkScan nv d) b = rdN (wr64 (A 3 0x8C) (q + 1) (wrN (A 3 0x84) (slotAfter k) d)) b := by
    intro b hb
    rw [rdN_hmkScan hb, hfirst, rdN_addCount_ne _ _ _ _ (scanReg_ne hb (by decide) (by decide)),
      rdN_addCount_ne _ _ _ _ (scanReg_ne hb (by decide) (by decide))]
  constructor
  · rw [hscan _ (.inl rfl), wr64, rdN_wrN_ne _ _ _ _ (by decide), rdN_wrN_ne _ _ _ _ (by decide), rdN_wrN _ _ _ hwf,
      slotAfter_lt_word k hk]
  · rw [rd64, hscan _ (.inr (.inl rfl)), hscan (A 3 0x8C + 4) (.inr (.inr rfl))]
    exact rd64_wr64 hq (wrN_wf _ _ _ hwf)

/-- Settles O44: the record committed last is the newest that the scan finds, and no later part of the scan changes NEXT or SEQ. -/
theorem scanFindsTheLastCommit : Obligations.ScanFindsTheLastCommit := by
  unfold Obligations.ScanFindsTheLastCommit
  intro dt b s t d r rest k q haon hd hbusy hqueue hk hq hlt hold hnext u hwf
  have hstores : t.nv = putSlot k (hmkBytes r q) s.nv := by
    rw [exec_hallmarkCommit] at hnext
    rw [nv_of_actStore haon hnext, ← hd, commitNv_verified b s.nv hbusy hqueue, ← hk, ← hq]
  rw [hstores]
  exact hmkScan_newest (newestOf_committed_putSlot r (by omega) hold) (hk ▸ fget_lt _ _ _ _) hlt hwf

/-! ### Fuses (R612, R613) -/

section
variable {nv : Nv} {d : Dev} {slot val : Nat}

/-- A chain of causes that answers 0 passes over each cause but 0. -/
theorem not_and_of_ite_eq_zero {p : Prop} [Decidable p] {n m : Nat} (hn : n ≠ 0) (h : (if p then n else m) = 0) : ¬ p ∧ m = 0 := by
  by_cases hp : p
  · rw [if_pos hp] at h
    exact absurd h hn
  · rw [if_neg hp] at h
    exact ⟨hp, h⟩

/-- The causes that refuse a fuse operation, each for the operation that it concerns (R613). -/
theorem fuseErr_eq_zero {op : Nat} (hok : fuseErr nv d op slot val = 0) :
    (op = 1 → ownerState nv slot = 0) ∧ (op = 2 → ownerState nv slot = 1 ∧ ∃ k, k ≠ slot ∧ ownerState nv k = 1) ∧
      (op = 3 → nv.arb < val) := by
  unfold fuseErr at hok
  obtain ⟨-, hok⟩ := not_and_of_ite_eq_zero (by decide) hok
  obtain ⟨hblank, hok⟩ := not_and_of_ite_eq_zero (by decide) hok
  obtain ⟨hactive, hok⟩ := not_and_of_ite_eq_zero (by decide) hok
  obtain ⟨hother, hok⟩ := not_and_of_ite_eq_zero (by decide) hok
  obtain ⟨hvalue, -⟩ := not_and_of_ite_eq_zero (by decide) hok
  refine ⟨fun hop => ?_, fun hop => ⟨?_, ?_⟩, fun hop => ?_⟩
  · simpa [hop] using hblank
  · simpa [hop] using hactive
  · simp only [hop, decide_true, Bool.true_and, Bool.not_eq_true, List.isEmpty_eq_false_iff_exists_mem] at hother
    obtain ⟨k, hk⟩ := hother
    have hkeys := (List.mem_filter.mp hk).2
    simp only [Bool.and_eq_true, bne_iff_ne, beq_iff_eq] at hkeys
    exact ⟨k, hkeys⟩
  · simp [hop] at hvalue
    omega
end

section
variable {nv : Nv} (slot val hash : Nat)

/-- A fuse operation changes no owner slot but the one that it names. -/
theorem owner_blow_ne (op : Nat) {k : Nat} (hne : k ≠ slot) :
    (mget (fun _ => {}) (blow (op, slot, val, hash) nv).owners k : OwnerSlot) = mget (fun _ => {}) nv.owners k := by
  simp only [blow]
  split
  · exact mget_mset_ne _ _ _ _ hne.symm _
  · split
    · exact mget_mset_ne _ _ _ _ hne.symm _
    · rfl

theorem ownerState_blow_ne (op : Nat) {k : Nat} (hne : k ≠ slot) :
    ownerState (blow (op, slot, val, hash) nv) k = ownerState nv k :=
  congrArg OwnerSlot.status (owner_blow_ne slot val hash op hne)

/-- A revoked slot is REVOKED. -/
theorem ownerState_revoke (hok : storesOk nv = true) : ownerState (blow (2, slot, val, hash) nv) slot = 3 :=
  congrArg OwnerSlot.status ((owner_get slot slot _ nv hok).trans (if_pos rfl))

end

/-- Settles O46: what the causes of R613 leave to an operation is a BLANK slot to program, an ACTIVE one beside another to
revoke, or a higher ARB. -/
theorem fusesOnlyAdvance : Obligations.FusesOnlyAdvance := by
  unfold Obligations.FusesOnlyAdvance
  intro nv d op slot val hash hok hop herr
  obtain ⟨hprogram, hrevoke, hadvance⟩ := fuseErr_eq_zero herr
  have hother : ∀ k, k ≠ slot → ownerState (blow (op, slot, val, hash) nv) k = ownerState nv k := fun k =>
    ownerState_blow_ne slot val hash op
  obtain rfl | rfl | rfl : op = 1 ∨ op = 2 ∨ op = 3 := by omega
  · have hblank := hprogram rfl
    refine ⟨Nat.le_refl nv.arb, fun k hk => ?_, fun k hk => .inl ?_, fun k => owner_blow_ne slot val hash 1, fun _ _ h => by cases h⟩
    all_goals
      have hne : k ≠ slot := by
        rintro rfl
        omega
      rw [hother k hne, hk]
  · obtain ⟨hactive, j, hj, hjactive⟩ := hrevoke rfl
    refine ⟨Nat.le_refl nv.arb, fun k hk => ?_, fun k hk => ?_, fun k => owner_blow_ne slot val hash 2, fun _ _ _ => ⟨j, hj, ?_⟩⟩
    · have hne : k ≠ slot := by
        rintro rfl
        omega
      rw [hother k hne, hk]
    · by_cases hslot : k = slot
      · exact .inr ⟨rfl, hslot, hslot ▸ ownerState_revoke k val hash hok⟩
      · exact .inl ((hother k hslot).trans hk)
    · rw [hother j hj, hjactive]
  · exact ⟨Nat.le_of_lt (hadvance rfl), fun k hk => hk, fun k hk => .inl hk, fun k _ => rfl, fun _ _ h => by cases h⟩

end Sys2Proof.Machine
end

section
/-! Single statements about power-on, the host window, the plain registers of a calm device, STICKY and PEND, and the width of
the ERR# pulse. -/
namespace Sys2Proof.Machine

/-! ### The rise of the supply (R601, R602) -/

/-- The domains that are ON while every register holds its reset value: AON alone. -/
theorem domOn_reset : ∀ g : Fin 20, domOn {} g = decide (g.val = 0) := by decide +kernel

/-- Settles O33: the device after the rise is the cold device with AON supply, and QUENCH# low. -/
theorem powerOnActs : Obligations.PowerOnActs := by
  unfold Obligations.PowerOnActs
  intro dt s hoff
  have hexec : exec (.powerOn dt) s = .next { s with dev := doPowerOn s.dev } := by
    show actPowerOn dt s = _
    rw [actPowerOn, if_neg (by simp [hoff])]
  have hdev : doPowerOn s.dev = emit (.pin .quenchN false) (coldDev true s.dev) := by
    rw [doPowerOn, if_neg (by simp [hoff])]
  refine ⟨_, hexec, ?_⟩
  rw [hdev]
  exact ⟨rfl, rfl, rfl, rfl, rfl, rfl, rfl, rfl, rfl, rfl, fun _ => rfl, domOn_reset⟩

/-! ### A write through the window of BAR2 (R518, R531) -/

/-- A write above 2^35 that meets no mapped-out channel and no channel in a block reset is a write of memory. -/
theorem doWindowWrite_memory {off : BitVec 36} {w : List Byte} {d : Dev} {a : Nat} (hhost : hostOn d = true) (hoff : 2 ^ 35 ≤ off.toNat)
    (ha : a = winAddr d (off.toNat - 2 ^ 35)) (hcap : a + w.length ≤ memCapacity d) (hmapped : rangeMapped d a w.length = false)
    (hholds : memHolds d a w.length = false) : doWindowWrite off w d = memWrite .host a w d := by
  simp only [doWindowWrite, hhost, hoff, Bool.not_true, Bool.false_eq_true, if_false, if_true, ← ha, hostReq, hholds, winWriteNow, hmapped,
    if_neg (Nat.not_lt.mpr hcap)]

/-- A write within the capacity marks its tags and puts its bytes. -/
theorem memWrite_inside {c : MemClass} {a : Nat} {w : List Byte} {d : Dev} (hcap : a + w.length ≤ memCapacity d) :
    memWrite c a w d = memPuts a w (tagPass c a w.length d) := by
  have hin : ¬ memCapacity (tagPass c a w.length d) < a + w.length := Nat.not_lt.mpr hcap
  rw [memWrite, outCount, if_neg (by simp [hin])]

/-- Memory and the count of tags have no part in what follows a command. -/
theorem calmAfter_mem (m : NMap Byte) (n : Nat) (d : Dev) : calmAfter { d with mem := m, tagPeak := n } = calmAfter d := rfl

theorem mem_tick (dt : Nat) (d : Dev) : (tick dt d).mem = d.mem := by
  unfold tick
  split
  · rfl
  · rfl

/-- Settles O48: on a calm device the command is its write of memory alone. -/
theorem windowWriteStoresItsBytesAlone : Obligations.WindowWriteStoresItsBytesAlone := by
  unfold Obligations.WindowWriteStoresItsBytesAlone
  intro dt off w s t d a haon hd hbefore hafter hhost hoff ha hcap hmapped hholds hwf hnext
  have hmem : d.mem = s.dev.mem := by rw [hd, mem_tick]
  have hact : Acts (.windowWrite dt off w) s (memPuts a w (tagPass .host a w.length d)) :=
    acts_of_act rfl haon (hd.trans (actPre_of_calm dt hbefore).symm)
      ((doWindowWrite_memory hhost hoff ha hcap hmapped hholds).trans (memWrite_inside hcap))
  obtain ⟨m, hm⟩ := memPuts_regs w a (tagPass .host a w.length d)
  have hcalm : calmAfter (memPuts a w (tagPass .host a w.length d)) = true := by
    rw [hm]
    exact (calmAfter_mem m _ d).trans (by rw [hd, calmAfter_tick, hafter])
  rw [hact, actPost_of_calm _ hcalm] at hnext
  cases hnext
  have hwf' : mwf memDflt 0 (tagPass .host a w.length d).mem = true := by
    show mwf memDflt 0 d.mem = true
    rwa [hmem]
  refine ⟨?_, memPuts_wf w a _ hwf', fun x hx => ?_, fun i b hi hgood => memPuts_in w a _ hwf' i b hi hgood⟩
  · dsimp only
    rw [hm]
    rfl
  · refine (memPuts_out w a _ x hx).trans ?_
    show mget memDflt d.mem x = _
    rw [hmem]
    rfl

/-! ### Plain registers of a calm device (R556, R590, R620, R623) -/

/-- A command on a calm device whose effect leaves a calm device ends with that effect. -/
theorem next_of_calm {c : Instr} {dt : Nat} {f : Dev → Dev} {s t : State} (haon : s.dev.aon = true) (hbefore : calmBefore s.dev = true)
    (hexec : exec c s = act dt f s) (hcalm : calmAfter (f (tick dt s.dev)) = true) (hnext : exec c s = .next t) :
    t = { s with dev := f (tick dt s.dev) } := by
  rw [hexec, act_of_aon dt f haon, actPre_of_calm dt hbefore, actPost_of_calm _ hcalm] at hnext
  cases hnext
  rfl

/-- A write that changes the register file alone, and there one register, changes nothing else on a calm device. -/
theorem next_of_one_register {c : Instr} {dt : Nat} {f g : Dev → Dev} {s t : State} {a : Nat} (haon : s.dev.aon = true)
    (hbefore : calmBefore s.dev = true) (hafter : calmAfter s.dev = true) (hexec : exec c s = act dt f s)
    (hf : f (tick dt s.dev) = g (tick dt s.dev)) (hregs : ∀ d : Dev, g d = { d with regs := (g d).regs })
    (hframe : ∀ (d : Dev) (b : Nat), b ≠ a → rd (g d) b = rd d b) (hnext : exec c s = .next t) :
    t = { s with dev := { tick dt s.dev with regs := t.dev.regs } } ∧ ∀ b, b ≠ a → rd t.dev b = rd s.dev b := by
  have hcalm : calmAfter (f (tick dt s.dev)) = true := by
    rw [hf, hregs, calmAfter_regs, calmAfter_tick, hafter]
  have ht := next_of_calm haon hbefore hexec hcalm hnext
  rw [hf] at ht
  subst ht
  refine ⟨?_, fun b hb => (hframe _ b hb).trans (rd_tick dt s.dev b)⟩
  rw [hregs (tick dt s.dev)]

/-- Settles O50: SRC_SEL, TRAP and the level of debug access are written plainly, and the JTAG instructions send alone. -/
theorem plainCommandsChangeOneRegister : Obligations.PlainCommandsChangeOneRegister := by
  unfold Obligations.PlainCommandsChangeOneRegister
  intro dt s haon hbefore hafter
  refine ⟨?select, ?trap, ?lock, ?jtag⟩
  case select =>
    exact fun p v t hacc => next_of_one_register haon hbefore hafter rfl (onWrite_accepts hacc) (fun d => (plain_frame _ _ d).1)
      fun d => (plain_frame _ _ d).2
  case trap =>
    exact fun p t hacc => next_of_one_register haon hbefore hafter rfl (onWrite_accepts hacc) (fun d => (plain_frame _ _ d).1)
      fun d => (plain_frame _ _ d).2
  case lock =>
    exact fun p t hacc => next_of_one_register haon hbefore hafter rfl (onWrite_accepts hacc) (fun d => rfl)
      fun d b hb => fset_frame _ _ _ _ d b hb
  case jtag =>
    rintro tdi t (hnext | hnext)
    · rw [next_of_calm (f := doBypass tdi) haon hbefore rfl ((calmAfter_tick dt s.dev).trans hafter) hnext]
      rfl
    · rw [next_of_calm (f := doIdcode) haon hbefore rfl ((calmAfter_tick dt s.dev).trans hafter) hnext]
      rfl

/-! ### STICKY and PEND (R550, R555, R17) -/

/-- A W1C of STICKY leaves a source that is LIVE. -/
theorem clearSticky_live {d : Dev} (hlive : srcLive d (fget d (A 2 0x80) 0 8) = true) : clearSticky d = d := by
  rw [clearSticky, if_pos (by simp [hlive])]

section
variable {d : Dev} {i : Nat} {x : SrcSt} (hi : i = fget d (A 2 0x80) 0 8) (hx : x = getSrc d i) (hlive : srcLive d i = false)
  (hpage : (srcPage i).isSome = true)
include hi hx hlive hpage

/-- A W1C of STICKY leaves a source whose STICKY hardware has set in the same mc. -/
theorem clearSticky_hot (hhot : (x.sticky && !x.prereset && d.clk && decide (x.last = now d)) = true) : clearSticky d = d := by
  have hnone : (srcPage i).isNone = false := by rw [← Option.not_isSome, hpage]; rfl
  simp only [clearSticky, ← hi, ← hx, hnone, hlive, Bool.or_self, Bool.false_eq_true, if_false, hhot, if_true]

/-- A W1C of STICKY of any other source clears the evidence flags, and keeps what they were for an occurrence of the same mc. -/
theorem clearSticky_clears (hcold : (x.sticky && !x.prereset && d.clk && decide (x.last = now d)) = false) :
    clearSticky d = setSrc i { x with sticky := false, transient := false, conseq := false, prereset := false, parent := 0, undo := if x.sticky then some (aT d, x.transient, x.conseq, x.prereset, x.parent) else x.undo } d := by
  have hnone : (srcPage i).isNone = false := by rw [← Option.not_isSome, hpage]; rfl
  simp only [clearSticky, ← hi, ← hx, hnone, hlive, Bool.or_self, Bool.false_eq_true, if_false, hcold]

end

/-- Settles O57: the cases of a W1C of STICKY, and of an IRQ reaction by the bit of PEND. -/
theorem stickyAndPendFollowTheirRules : Obligations.StickyAndPendFollowTheirRules := by
  unfold Obligations.StickyAndPendFollowTheirRules
  refine ⟨?sticky, ?pend⟩
  case sticky =>
    intro dt p s d i x haon hd hacc hi hx
    refine ⟨fun hlive => ?_, fun hlive hpage hhot => ?_, fun hlive hpage hcold => ?_⟩
    · exact acts_of_act rfl haon hd ((onWrite_accepts hacc).trans (clearSticky_live (hi ▸ hlive)))
    · exact acts_of_act rfl haon hd ((onWrite_accepts hacc).trans (clearSticky_hot hi hx hlive hpage hhot))
    · exact acts_of_act rfl haon hd ((onWrite_accepts hacc).trans (clearSticky_clears hi hx hlive hpage hcold))
  case pend =>
    intro d i
    constructor
    · intro hset
      rw [irqReact, hset]
      rfl
    · intro hclear
      rw [irqReact, hclear]
      rfl

/-! ### The width of the ERR# pulse (R560 to R562) -/

/-- A field below the one written keeps its value. -/
theorem bits_putBits_below {n lo w w' : Nat} (v : Nat) (hw : w' ≤ lo) : bits (putBits n lo w v) 0 w' = bits n 0 w' := by
  have hdvd : 2 ^ w' ∣ 2 ^ lo := Nat.pow_dvd_pow 2 hw
  have hzero : ∀ x, 2 ^ lo * x % 2 ^ w' = 0 := fun x => Nat.mod_eq_zero_of_dvd (Nat.dvd_trans hdvd (Nat.dvd_mul_right _ x))
  simp only [bits, Nat.shiftRight_zero, putBits_eq]
  rw [Nat.add_mod, hzero, Nat.zero_add, Nat.mod_mod, Nat.mod_mod_of_dvd _ hdvd]

/-- The register file is in order, and WIDTH is `width`. -/
def widthIs (width : Nat) (d : Dev) : Prop := mwf regReset 0 d.regs = true ∧ fget d (A 2 0xC0) 0 14 = width

/-- Writes to the upper fields of ERR_CFG keep WIDTH. -/
theorem widthIs_fset {width lo w : Nat} (v : Nat) {d : Dev} (h : widthIs width d) (hlo : 14 ≤ lo) (hw : lo + w ≤ 32) :
    widthIs width (fset (A 2 0xC0) lo w v d) := by
  obtain ⟨hwf, hwidth⟩ := h
  refine ⟨fset_wf hwf _ _ _ _, ?_⟩
  rw [fget, rdN_fset hwf v hw, bits_putBits_below v hlo]
  exact hwidth

/-- WIDTH is a matter of the register file alone. -/
theorem widthIs_of_regs {width : Nat} {d e : Dev} (hregs : e.regs = d.regs) (h : widthIs width d) : widthIs width e := by
  simp only [widthIs, fget, rdN, rd] at h ⊢
  rwa [hregs]

theorem widthIs_errFall {width : Nat} (t : Nat) {d : Dev} (h : widthIs width d) : widthIs width (errFall t d) := by
  have hfield : widthIs width (fset (A 2 0xC0) 28 2 3 d) := widthIs_fset 3 h (by decide) (by decide)
  exact widthIs_of_regs rfl hfield

theorem widthIs_errRise {width : Nat} (t : Nat) {d : Dev} (h : widthIs width d) : widthIs width (errRise t d) := by
  have hfield : widthIs width (fset (A 2 0xC0) 28 2 0 d) := widthIs_fset 0 h (by decide) (by decide)
  exact widthIs_of_regs rfl hfield

theorem widthIs_errPulseEnd {width : Nat} {d : Dev} (h : widthIs width d) : widthIs width (doErrPulseEnd d) := by
  unfold doErrPulseEnd
  split
  · exact h
  · split
    · exact widthIs_errRise _ h
    · exact widthIs_fset 0 h (by decide) (by decide)

theorem widthIs_errReassert {width : Nat} {d : Dev} (h : widthIs width d) : widthIs width (doErrReassert d) := by
  unfold doErrReassert
  split
  · split
    · exact widthIs_errFall _ h
    · exact h
  · exact h

/-- A pulse and a high time that have run out leave WIDTH. -/
theorem widthIs_errNow {width : Nat} {d : Dev} (h : widthIs width d) : widthIs width (errNow d) :=
  widthIs_errPulseEnd (widthIs_errReassert (widthIs_errPulseEnd h))

/-- A write of CLR leaves WIDTH. -/
theorem widthIs_clearErr {width : Nat} {d : Dev} (h : widthIs width d) : widthIs width (clearErr d) := by
  unfold clearErr
  split
  · exact h
  · split
    · exact widthIs_errRise _ h
    · exact h

/-- What a write of `v` to ERR_CFG does after WIDTH: MODE and CLR, which leave WIDTH. -/
theorem widthIs_errCfgRest {width : Nat} (v : Nat) {d : Dev} (h : widthIs width d) :
    widthIs width (onlyIf (bit v 30) clearErr (fset (A 2 0xC0) 31 1 (bits v 31 1) d)) := by
  have hmode := widthIs_fset (lo := 31) (w := 1) (bits v 31 1) h (by decide) (by decide)
  unfold onlyIf
  split
  · exact widthIs_clearErr hmode
  · exact hmode

/-- A write of CLR leaves the end of the pulse in progress. -/
theorem errEnd_clearErr (d : Dev) : (clearErr d).flt.errEnd = d.flt.errEnd := by
  unfold clearErr
  split
  · rfl
  · split
    · rfl
    · rfl

/-- Settles O58: WIDTH is written within its range alone, and nothing else of the write reaches it. -/
theorem errWidthIsTakenWithinItsRange : Obligations.ErrWidthIsTakenWithinItsRange := by
  unfold Obligations.ErrWidthIsTakenWithinItsRange
  intro d v hwf
  obtain ⟨hnow, hwidth⟩ := widthIs_errNow (d := d) ⟨hwf, rfl⟩
  have hbits : bits v 0 14 = v % 2 ^ 14 := by simp [bits]
  refine ⟨fun hout => ?_, fun hzero hmax => ?_, ?_, fun t => ?_⟩
  · have hcfg : writeErrCfg v d = onlyIf (bit v 30) clearErr (fset (A 2 0xC0) 31 1 (bits v 31 1) (errNow d)) := by
      simp only [writeErrCfg, hbits]
      rw [if_pos (by simpa using hout)]
    rw [hcfg]
    exact (widthIs_errCfgRest v ⟨hnow, hwidth⟩).2
  · have hcfg : writeErrCfg v d =
        onlyIf (bit v 30) clearErr (fset (A 2 0xC0) 31 1 (bits v 31 1) (fset (A 2 0xC0) 0 14 (v % 2 ^ 14) (errNow d))) := by
      simp only [writeErrCfg, hbits]
      rw [if_neg (by simp; omega)]
    rw [hcfg]
    refine (widthIs_errCfgRest v ⟨fset_wf hnow _ _ _ _, ?_⟩).2
    rw [fget_fset hnow _ (by decide), Nat.mod_mod]
  · have hwritten : (fset (A 2 0xC0) 31 1 (bits v 31 1)
        (if bits v 0 14 = 0 || bits v 0 14 > 10000 then errNow d else fset (A 2 0xC0) 0 14 (bits v 0 14) (errNow d))).flt.errEnd =
        (errNow d).flt.errEnd := by
      split
      · rfl
      · rfl
    simp only [writeErrCfg, onlyIf]
    split
    · exact (errEnd_clearErr _).trans hwritten
    · exact hwritten
  · have hfall := widthIs_fset (lo := 28) (w := 2) 3 (d := d) ⟨hwf, rfl⟩ (by decide) (by decide)
    show t + fget (fset (A 2 0xC0) 28 2 3 d) (A 2 0xC0) 0 14 * 160 = _
    rw [hfall.2]

end Sys2Proof.Machine
end

section
/-! The Granary's commands: QCMD operations, records, doorbells, pop ports, notice rings and the table, and the statements about
them. -/
namespace Sys2Proof.Machine

/-! ### QCMD (R418, R419, R431 to R433, R439, R443, R448) -/

/-- An operation that nothing refuses acts on the selected queue's descriptor, and reads BUSY. -/
theorem writeQcmd_taken {op n : Nat} (e : Nat) {d : Dev} (hok : qcmdErr d op = 0) (hn : n = fget d (gna 0x88) 0 20) :
    writeQcmd op e d = qcmdTaken op n e (cacheSettle n (qcmdDo op e d)) := by
  subst hn
  simp only [writeQcmd, hok, ne_eq, not_true_eq_false, if_false]

/-- A QCMD row whose operation nothing refuses, and whose effect on the descriptor is `u`. -/
theorem acts_of_qcmd {c : Instr} {dt op e n : Nat} {p : Path} {s : State} {d u : Dev}
    (hexec : exec c s = act dt (onWrite p (gna 0x8C) (writeQcmd op e)) s) (haon : s.dev.aon = true) (hd : d = actPre dt s.dev)
    (hacc : accepts d (gna 0x8C) = true) (hok : qcmdErr d op = 0) (hn : n = fget d (gna 0x88) 0 20) (hdo : qcmdDo op e d = u) :
    Acts c s (qcmdTaken op n e (cacheSettle n u)) :=
  acts_of_act hexec haon hd ((onWrite_accepts hacc).trans ((writeQcmd_taken e hok hn).trans (by rw [hdo])))

/-- Settles O15: each row is a write of QCMD with its operation, and each operation has its own effect on the descriptor. -/
theorem queueCommandsAct : Obligations.QueueCommandsAct := by
  unfold Obligations.QueueCommandsAct
  intro dt s d haon hd
  refine ⟨?load, ?write, ?setMark, ?clrMark, ?rewind, ?clrWm, ?clrFlags, ?sealEpoch, ?flushCache, ?done, ?select⟩
  case done =>
    intro hbusy
    refine acts_of_act rfl haon hd ?_
    rw [doQcmdDone, if_pos hbusy]
  case select =>
    intro p v hacc hidle
    refine acts_of_act rfl haon hd ((onWrite_accepts hacc).trans ?_)
    rw [writeQsel, if_neg (by simp [hidle])]
  case sealEpoch =>
    rintro p e n t hacc hok rfl rfl
    exact acts_of_qcmd rfl haon hd hacc hok rfl rfl
  all_goals
    rintro p n t hacc hok rfl rfl
    exact acts_of_qcmd rfl haon hd hacc hok rfl rfl

/-! ### Records (R422, R423, R425, R443) -/

/-- A producer closes a record that it holds open with at most the bytes it has reserved. -/
theorem doRecordClose_open {tag q pos t : Nat} {r : GRec} (body : List Byte) {d : Dev}
    (hopen : d.grn.opens.find? (·.1 == tag % 2 ^ 80) = some (t, q, pos))
    (hrec : (getQ d q).recs.find? (fun r => r.pos == pos && r.opn) = some r) :
    doRecordClose tag body d = closeTag (tag % 2 ^ 80) (body.take (16 * r.units - 16)) d := by
  simp only [doRecordClose, hopen, hrec]

/-- The descriptor that waiting records need has been read: they are placed, and producers offer again. -/
theorem doCacheFill_waiting {q : BitVec 20} {d t : Dev} (hdom : domOn d 2 = true) (hwait : d.grn.intake.any (·.q == q.toNat) = true)
    (ht : t = cacheLoad q.toNat d) (hcached : qCached t q.toNat = true) :
    doCacheFill q d = pumpProducers (placeIntake q.toNat t) := by
  subst ht
  simp only [doCacheFill, hdom, hwait, hcached, Bool.not_true, Bool.or_self, Bool.false_eq_true, if_false, if_true]

/-! ### Pop ports (R428) -/

/-- POP_DATA is a register of its own, in no pair and no latched group. -/
theorem regAt_popData : ∃ r, regAt (A 0x171 0x84) = some r ∧ r.pairing = .none := by
  have hrow : ∃ r, (rowsOf .grnPop).find? (fun r => r.hits 0x84) = some r ∧ r.pairing = .none := by decide
  exact hrow

/-- A read of POP_DATA pops for its path. -/
theorem busRead_popData (nv : Nv) (p : Path) {d : Dev} (hread : readable d (A 0x171 0x84) = true) :
    busRead nv p (A 0x171 0x84) d = popRead p d := by
  obtain ⟨r, hreg, hpair⟩ := regAt_popData
  exact busRead_unpaired (k := .grnPop) rfl hreg rfl hpair hread

/-! ### Notice rings and the table (R440 to R442, R446) -/

/-- A write of NR_RD that leaves notices waiting re-arms its ring and sends its message. -/
theorem writeNrRd_waiting {n : Fin 16} {v : Word} {d : Dev} (hwait : v.toNat ≠ rdN d (gna (0x240 + 4 * n))) :
    writeNrRd n v.toNat d = nrMessage n (fset (gna (0x108 + 16 * n)) 29 1 1 (wrN (gna (0x200 + 4 * n)) v.toNat d)) := by
  have hword : v.toNat % posM = v.toNat := Nat.mod_eq_of_lt v.isLt
  have hsame : rdN (fset (gna (0x108 + 16 * n)) 29 1 1 (wrN (gna (0x200 + 4 * n)) v.toNat d)) (gna (0x240 + 4 * n)) =
      rdN d (gna (0x240 + 4 * n)) := by
    have hlt := n.isLt
    rw [rdN_fset_ne _ _ _ _ _ _ (by simp only [gna, A]; omega), rdN_wrN_ne _ _ _ _ (by simp only [gna, A]; omega)]
  simp only [writeNrRd, hsame, hword, ne_eq, hwait, not_false_eq_true, if_true]

/-- The end of the table's initialisation: every descriptor is 0, READY rises, and an enabled Granary starts. -/
theorem doDescInitDone_initing {d t : Dev} (hinit : d.grn.initing = true) (hdom : domOn d 2 = true)
    (ht : t = { d with mem := d.mem.filter fun e => !(descBase d ≤ e.1 && e.1 < descBase d + 32 * 2 ^ 20 && memGood d e.1), grn := { d.grn with initing := false, queues := [], cache := [] } }) :
    doDescInitDone d = irqSet grnPage 8 (fset (A grnPage 0xC) 2 1 1
      (if blkEn t grnPage && !t.resetting.contains grnPage then fset (A grnPage 0xC) 0 1 1 t else t)) := by
  subst ht
  simp only [doDescInitDone, hinit, hdom, Bool.not_true, Bool.or_self, Bool.false_eq_true, if_false]
  rfl

/-- Settles O16: each command is the effect of its rule, under the conditions with which the rule applies. -/
theorem queueRecordCommandsAct : Obligations.QueueRecordCommandsAct := by
  unfold Obligations.QueueRecordCommandsAct
  intro dt s d haon hd
  refine ⟨?recordOpen, ?recordClose, ?commitAdvance, ?sealPlace, ?cacheFill, ?doorbell, ?popSel, ?popRelease, ?popData, ?nrRd, ?nrBase,
    ?descBase, ?initDone, ?siteCur⟩
  case recordOpen =>
    intro site typ flags epoch len tag hdom hmin hunit
    refine acts_of_act rfl haon hd ?_
    rw [doRecordOpen, if_neg (by simp [hdom, hunit, Nat.not_lt.mpr hmin])]
  case recordClose => exact fun tag body q pos t r hopen hrec => acts_of_act rfl haon hd (doRecordClose_open body hopen hrec)
  case commitAdvance => exact fun q hdom => acts_of_act rfl haon hd (if_pos hdom)
  case sealPlace =>
    intro q e hdom hclosed
    refine acts_of_act rfl haon hd ?_
    rw [doSealPlace, if_pos (by simp [hdom, hclosed])]
  case cacheFill => exact fun q t hdom hwait ht hcached => acts_of_act rfl haon hd (doCacheFill_waiting hdom hwait ht hcached)
  case doorbell => exact fun q v _ hhost => acts_of_act rfl haon hd (if_pos hhost)
  case popSel => exact fun p v hacc => acts_of_act rfl haon hd (onWrite_accepts hacc)
  case popRelease => exact fun p hacc => acts_of_act rfl haon hd (onWrite_accepts hacc)
  case popData =>
    intro p hread
    refine acts_of_actNv rfl haon hd ?_
    rw [doPopDataRead, busReadOut, busRead_popData s.nv p hread]
  case nrRd => exact fun p n v hacc hwait => acts_of_act rfl haon hd ((onWrite_accepts hacc).trans (writeNrRd_waiting hwait))
  case nrBase => exact fun p n v hacc => acts_of_act rfl haon hd (onWrite_accepts hacc)
  case descBase =>
    intro p v hacc hoff
    refine acts_of_act rfl haon hd ((onWrite_accepts hacc).trans ?_)
    rw [writeDescBase, if_neg (by simp [hoff])]
  case initDone => exact fun t hinit hdom ht => acts_of_act rfl haon hd (doDescInitDone_initing hinit hdom ht)
  case siteCur => exact fun p site v hacc => acts_of_act rfl haon hd (onWrite_accepts hacc)

end Sys2Proof.Machine
end

section
/-! The site sequencer's mailbox and its time limits, and the statement about them (R449, R450, R458, R460, R469, R472). -/
namespace Sys2Proof.Machine

/-! ### The mailbox -/

/-- A code written while BUSY is 0 is taken with the arguments as they stand. -/
theorem writeMbCmd_taken (c : Nat) {d : Dev} (hbusy : fbit d (fw 0x114) 31 = false) :
    writeMbCmd c d = fset (fw 0x114) 31 1 1
      { d with flw := { d.flw with cmd := some c, args := (List.range 4).map fun n => rdN d (fw (0x104 + 4 * n)), cmdOld := false } } :=
  if_neg (by simp [hbusy])

/-- A mailbox row on a page that takes writes, with BUSY 0. -/
theorem acts_of_mbRow {c : Instr} {dt code : Nat} {p : Path} {s : State} {d : Dev} (hexec : exec c s = act dt (mbRow code p) s)
    (haon : s.dev.aon = true) (hd : d = actPre dt s.dev) (hacc : accepts d (fw 0x100) = true) (hbusy : fbit d (fw 0x114) 31 = false) :
    Acts c s (fset (fw 0x114) 31 1 1
      { d with flw := { d.flw with cmd := some code, args := (List.range 4).map fun n => rdN d (fw (0x104 + 4 * n)), cmdOld := false } }) :=
  acts_of_act hexec haon hd ((onWrite_accepts hacc).trans (writeMbCmd_taken code hbusy))

/-! ### The work of each code -/

/-- A furrow that no site but `i` has. -/
theorem any_ne_eq_false_of_all_eq {i : Nat} {x : Option Nat} (hall : x.all (· == i) = true) : x.any (· != i) = false := by
  cases x with
  | none => rfl
  | some j => simpa using hall

/-- No furrow that site `i` would take belongs, or is promised, to another site. -/
theorem any_takenBySite_eq_false {d : Dev} {i : Nat} {fs : List Nat}
    (hfree : fs.all (fun g => (siteOfFur d g).all (· == i) && (promised d g).all (· == i)) = true) :
    fs.any (takenBySite d i) = false := by
  rw [List.any_eq_false]
  intro g hg
  obtain ⟨hsite, hprom⟩ := Bool.and_eq_true_iff.mp (List.all_eq_true.mp hfree g hg)
  simp [takenBySite, any_ne_eq_false_of_all_eq hsite, any_ne_eq_false_of_all_eq hprom]

/-- SITE_SET of a furrow that nothing refuses places the site. -/
theorem mbSiteSet_places {i f : Nat} {d : Dev} (hi : i = bits (mbArg d 0) 16 6) (hf : f = bits (mbArg d 0) 0 7) (hle : f ≤ 63)
    (hidle : siteState d i = 0 ∨ siteIdle d i = true) (hrole : (engOf d f).elim 0 (yokeRole d) ≠ 2)
    (hfree : (siteFurs d f).all (fun g => (siteOfFur d g).all (· == i) && (promised d g).all (· == i)) = true)
    (hready : flwReady d = true) :
    mbSiteSet d = mbDone 0 [] (setSiteState i 1 (fset (siteStat i) 16 7 f (setSite i { getSite d i with furs := siteFurs d f } d))) := by
  subst hi hf
  have hstate : (decide (siteState d (bits (mbArg d 0) 16 6) ≠ 0) && !siteIdle d (bits (mbArg d 0) 16 6)) = false := by
    rcases hidle with h | h <;> simp [h]
  simp only [mbSiteSet, Nat.not_lt.mpr hle, hstate, hrole, any_takenBySite_eq_false hfree, hready, decide_false, Bool.or_self, Bool.not_true,
    Bool.false_eq_true, if_false]

/-- SITE_CLEAR of an idle site removes its furrows. -/
theorem mbSiteClear_idle {i : Nat} {d : Dev} (hi : i = bits (mbArg d 0) 16 6) (hidle : siteIdle d i = true) (hready : flwReady d = true) :
    mbSiteClear d = mbDone 0 [] (setSiteState i 0 (fset (siteStat i) 16 7 0x7F (setSite i { getSite d i with furs := [] } d))) := by
  subst hi
  simp only [mbSiteClear, hidle, hready, Bool.not_true, Bool.false_eq_true, if_false]

/-- FLOW_START with a site to start, on a page that is ready with both its tables, starts the masked idle sites. -/
theorem mbFlowStart_starts {d : Dev} (hany : (List.range 64).any (mbStarts d) = true) (hready : flwReady d = true)
    (hflow : rd64 d (fw 0x80) ≠ 0) (hyield : rd64 d (fw 0x8C) ≠ 0) :
    mbFlowStart d = mbDone 0 [boolBits (((List.range 64).map fun i => mbMasked d i && !mbStarts d i).take 32),
      boolBits (((List.range 64).map fun i => mbMasked d i && !mbStarts d i).drop 32)] (forAll ((List.range 64).filter (mbStarts d)) startFlow d) := by
  have hflow' : (rd64 d (fw 0x80) != 0) = true := bne_iff_ne.mpr hflow
  have hyield' : (rd64 d (fw 0x8C) != 0) = true := bne_iff_ne.mpr hyield
  simp only [mbFlowStart, hany, hready, hflow', hyield', Bool.and_self, Bool.not_true, Bool.false_eq_true, if_false, beq_self_eq_true, Bool.true_and]

/-- MIGRATE of a site that nothing refuses notes the new furrows. -/
theorem mbMigrate_takes {i : Nat} {d : Dev} (hi : i = bits (mbArg d 0) 16 6) (harg : migBadArg d = false) (hplaced : siteState d i ≠ 0)
    (hleft : siteState d i ≠ 4) (hnone : (getSite d i).mig = none) (hfur : migBadFur d i = false) (hgroup : migGroup d i = false)
    (hready : flwReady d = true) :
    mbMigrate d = mbDone 0 [] (setSite i { getSite d i with mig := some (migFurs d i, now d) } d) := by
  subst hi
  simp only [mbMigrate, harg, hplaced, hleft, hnone, hfur, hgroup, hready, decide_false, Option.isSome_none, Bool.or_self, Bool.not_true,
    Bool.false_eq_true, if_false]

/-- Settles O20: each row writes its code, and the work of each code and the two limits have their effects where nothing refuses them. -/
theorem mailboxCommandsAct : Obligations.MailboxCommandsAct := by
  unfold Obligations.MailboxCommandsAct
  intro dt s d haon hd
  refine ⟨?ping, ?siteSet, ?siteClear, ?flowStart, ?flowAbort, ?siteStatus, ?migrate, ?yieldClear, ?runPing, ?runSiteSet, ?runSiteClear,
    ?runFlowStart, ?runFlowAbort, ?runSiteStatus, ?runMigrate, ?runYieldClear, ?stepTimeout, ?stepLimit⟩
  case runPing => rfl
  case runSiteSet => exact fun i f hi hf hle hidle hrole hfree hready => mbSiteSet_places hi hf hle hidle hrole hfree hready
  case runSiteClear => exact fun i hi hidle hready => mbSiteClear_idle hi hidle hready
  case runFlowStart => exact fun hany hready hflow hyield => mbFlowStart_starts hany hready hflow hyield
  case runFlowAbort => exact fun hready => if_neg (by simp [hready])
  case runSiteStatus =>
    rintro i rfl
    rfl
  case runMigrate => exact fun i hi harg hplaced hleft hnone hfur hgroup hready => mbMigrate_takes hi harg hplaced hleft hnone hfur hgroup hready
  case runYieldClear => exact fun hready hyield => if_neg (by simp [hready, hyield])
  case stepTimeout =>
    rintro i x lim rfl hstate rfl hlim htick hfirst
    exact acts_of_act rfl haon hd (if_pos (by simp [hstate, hlim, htick, hfirst]))
  case stepLimit => exact fun i hstate hlimit => acts_of_act rfl haon hd (if_pos (by simp [hstate, hlimit]))
  all_goals exact fun p hacc hbusy => acts_of_mbRow rfl haon hd hacc hbusy

end Sys2Proof.Machine
end

section
/-! The Headland ring: its ports, express words and bulk frames, the walk, and the statement about them (R477 to R487, R506, R507,
R509). -/
namespace Sys2Proof.Machine

/-! ### Ports (R477, R478) -/

/-- Training that ends with every lane in lock, on a port not held to a pair, raises it on four lanes. -/
theorem doTrainingDone_four {i : Fin 2} {l : BitVec 16} {peer : BitVec 10} {d : Dev} (hrun : running d (portPage i) = true)
    (htrain : portState d i = 1) (hpair : (getPort d i).pair = 0) :
    doTrainingDone i 15 l peer d = portRises i 2 15 l.toNat peer.toNat d := by
  simp only [doTrainingDone, hrun, htrain, hpair, Bool.not_true, ne_eq, not_true_eq_false, decide_false, Bool.or_self, Bool.false_eq_true,
    if_false]
  rfl

/-- Training that ends with FALLBACK and a pair in lock raises the port on that pair, with the degraded cause. -/
theorem doTrainingDone_pair {i : Fin 2} {l : BitVec 16} {peer : BitVec 10} {lanes : BitVec 4} {pair : Nat} {d : Dev}
    (hrun : running d (portPage i) = true) (htrain : portState d i = 1) (hpart : (getPort d i).pair ≠ 0 ∨ lanes.toNat ≠ 15)
    (hfb : fbit d (A (portPage i) 0x80) 30 = true)
    (hpair : pair = (if (getPort d i).pair ≠ 0 then (if lanes.toNat &&& (getPort d i).pair = (getPort d i).pair then (getPort d i).pair else 0)
      else if bits lanes.toNat 0 2 = 3 then 3 else if bits lanes.toNat 2 2 = 3 then 12 else 0)) (hsome : pair ≠ 0) :
    doTrainingDone i lanes l peer d = raise (0xEA + i) 1 (irqSet (portPage i) 4 (portRises i 3 pair l.toNat peer.toNat d)) := by
  have hpart' : (decide ((getPort d i).pair = 0) && decide (lanes.toNat = 15)) = false := by
    rcases hpart with h | h <;> simp [h]
  simp only [doTrainingDone, hrun, htrain, hpart', hfb, ← hpair, Bool.not_true, ne_eq, not_true_eq_false, decide_false, Bool.or_self,
    Bool.false_eq_true, if_false, hsome, not_false_eq_true, decide_true, Bool.and_self, if_true]

/-! ### Express words (R480, R481, R484) -/

/-- A word taken at most 12 mc ago leaves in a free slot with its wait. -/
theorem doExpressSend_inTime {i : Fin 2} {x : HPort} {w : ExpWord} {rest : List ExpWord} {q : Nat × Bool} {d : Dev} (hx : x = getPort d i)
    (htxq : x.txq = w :: rest) (hup : portUp d i = true) (hfree : x.slot.all (fun m => decide (m + 4 ≤ now d)) = true) (htake : w.take ≤ now d)
    (hwait : now d ≤ w.take + 12) (hq : q = distAdd w.dist 0 w.satd) :
    doExpressSend i d = emit (.express i (BitVec.ofNat 64 (expEncode w q.1 q.2 (now d - w.take))))
      (setPort i { x with txq := rest, slot := some (now d) } d) := by
  subst hx hq
  have hzero : now d - w.take - 12 = 0 := by omega
  have hshort : ¬ 12 < now d - w.take := by omega
  have hmin : min (now d - w.take) 12 = now d - w.take := by omega
  simp only [doExpressSend, htxq, hup, Nat.not_lt.mpr htake, decide_false, Bool.not_true, Bool.false_eq_true, if_false, hzero, hshort, hmin,
    onlyIf]
  refine if_neg ?_
  cases hslot : (getPort d i).slot <;> simp_all

/-- A word whose CRC is right and whose kind is defined is not discarded. -/
theorem doExpressReceive_good {i : Fin 2} {w : BitVec 64} {d : Dev} (hup : portUp d i = true)
    (hcrc : crc8 56 (w.toNat / 256) = bits w.toNat 0 8) (hkind : bits w.toNat 60 4 ≠ 0) (hle : bits w.toNat 60 4 ≤ 3) :
    doExpressReceive i w d = if bits w.toNat 28 4 < 12 then
        { d with hdl := { d.hdl with rxq := d.hdl.rxq ++ [(i.toNat, w.toNat, now d + 12 - bits w.toNat 28 4)] } }
      else presentExp i w.toNat (now d) d := by
  simp only [doExpressReceive, hup, hcrc, hkind, Nat.not_lt.mpr hle, ne_eq, not_true_eq_false, decide_false, Bool.or_self, Bool.not_true,
    Bool.false_eq_true, if_false]

/-- A word that is not the device's own come round a ring is used and goes on. -/
theorem presentExp_other {i v m : Nat} {d : Dev} (hother : hdlChain d = true ∨ bits v 50 10 ≠ hdlId d) :
    presentExp i v m d =
      (let q := distAdd (bits v 32 16) (fget d (A (portPage i) 0x88) 0 16) (bit v 49)
       let t := useExpress m (bits v 60 4) (bits v 50 10) (bits v 8 20) q.1 q.2 d
       queueExp (if hdlChain t then otherPort i else 0)
        { kind := bits v 60 4, origin := bits v 50 10, satd := q.2, dist := q.1, data := bits v 8 20, take := m, fwd := true } t) := by
  have hown : (!hdlChain d && hdlMember d && decide (bits v 50 10 = hdlId d)) = false := by
    rcases hother with h | h <;> simp [h]
  simp only [presentExp, hown, Bool.false_eq_true, if_false]

/-! ### Bulk frames (R479, R482, R483, R487) -/

/-- A good frame that arrives on a port that is up is taken by its words. -/
theorem recvBulk_good {i : Nat} {frame : List (BitVec 64)} {f : List Nat → Dev → Dev} {d : Dev} (hup : portUp d i = true)
    (hgood : frameBad (frame.map (·.toNat)) = false) : recvBulk i frame f d = f (frame.map (·.toNat)) d := by
  simp only [recvBulk, hup, hgood, Bool.not_true, Bool.false_eq_true, if_false]

/-- A good frame for this device by its ID is consumed. -/
theorem recvFor_own {kind i : Nat} {frame : List (BitVec 64)} {ws : List Nat} {own f : List Nat → Dev → Dev} {d : Dev}
    (hws : ws = frame.map (·.toNat)) (hup : portUp d i = true) (hgood : frameBad ws = false) (hkind : bits (nth 0 ws 0) 60 4 = kind)
    (hdst : bits (nth 0 ws 0) 50 10 = hdlId d) (hmem : hdlMember d = true) (hid : hdlId d ≠ 0) : recvFor kind i frame own f d = f ws d := by
  subst hws
  rw [recvFor, recvBulk_good hup hgood]
  simp only [hkind, hdst, hid, hmem, ne_eq, not_true_eq_false, decide_true, Bool.and_self, if_false, if_true]

/-- A good DISC frame is taken by its operation. -/
theorem recvDisc_good {op i : Nat} {frame : List (BitVec 64)} {ws : List Nat} {f : List Nat → Dev → Dev} {d : Dev}
    (hws : ws = frame.map (·.toNat)) (hup : portUp d i = true) (hgood : frameBad ws = false) (hkind : bits (nth 0 ws 0) 60 4 = 0xB)
    (hop : bits (nth 0 ws 0) 20 4 = op) : recvDisc op i frame f d = f ws d := by
  subst hws
  rw [recvDisc, recvBulk_good hup hgood, if_pos (by simp [hkind, hop])]

/-- A walk frame of 19 words is the root's return while a walk is in progress, and a visit else. -/
theorem doWalk_good {i : Fin 2} {frame : List (BitVec 64)} {ws : List Nat} {least : BitVec 16} {d : Dev} (hws : ws = frame.map (·.toNat))
    (hup : portUp d i = true) (hgood : frameBad ws = false) (hkind : bits (nth 0 ws 0) 60 4 = 0xB) (hop : bits (nth 0 ws 0) 20 4 = 1)
    (hlen : ws.length = 19) :
    doWalk i frame least d = if d.hdl.walk ≠ 0 then
        walkRoot i ((ws.drop 1).take 16) (bits (nth 0 ws 17) 16 16) (bits (nth 0 ws 17) 0 16 + bits (nth 0 ws 17) 32 32) least.toNat d
      else walkVisit i ((ws.drop 1).take 16) (bits (nth 0 ws 17) 16 16) (bits (nth 0 ws 17) 0 16 + bits (nth 0 ws 17) 32 32) d :=
  (recvDisc_good hws hup hgood hkind hop).trans (if_neg (by simp [hlen]))

/-- A report of another device loads SPAN and the mode and goes on. -/
theorem doReport_other {i : Fin 2} {frame : List (BitVec 64)} {ws : List Nat} {d : Dev} (hws : ws = frame.map (·.toNat))
    (hup : portUp d i = true) (hgood : frameBad ws = false) (hkind : bits (nth 0 ws 0) 60 4 = 0xB) (hop : bits (nth 0 ws 0) 20 4 = 2)
    (hlen : ws.length = 3) (hother : bits (nth 0 ws 0) 40 10 ≠ hdlId d) :
    doReport i frame d =
      (let t := fset (A ringPage 0x8C) 31 1 (b2n (!d.hdl.walkRing)) (fset (A ringPage 0x8C) 0 16 (bits (nth 0 ws 1) 0 16) d)
       onlyIf (portUp t (otherPort i)) (sendBulk (otherPort i) ws) t) :=
  (recvDisc_good hws hup hgood hkind hop).trans (if_neg (by simp [hlen, hother]))

/-- Settles O21: each command is the effect of its rule, with a frame or word that is good and for the device. -/
theorem headlandLinkCommandsAct : Obligations.HeadlandLinkCommandsAct := by
  unfold Obligations.HeadlandLinkCommandsAct
  intro dt s d haon hd
  refine ⟨?train, ?four, ?pair, ?lockLoss, ?retry, ?send, ?held, ?used, ?result, ?pageReq, ?pageRsp, ?root, ?visit, ?report, ?breakFrame, ?disc⟩
  case train => exact fun p i v hacc => acts_of_act rfl haon hd (onWrite_accepts hacc)
  case four => exact fun i l peer hrun htrain hpair => acts_of_act rfl haon hd (doTrainingDone_four hrun htrain hpair)
  case pair =>
    exact fun i l peer lanes pair hrun htrain hpart hfb hpair hsome =>
      acts_of_act rfl haon hd (doTrainingDone_pair hrun htrain hpart hfb hpair hsome)
  case lockLoss => exact fun i lane hup hlock => acts_of_act rfl haon hd (if_neg (by simp [hup, hlock]))
  case retry => exact fun i hrun hdown hdue => acts_of_act rfl haon hd (if_pos (by simp [hrun, hdown, hdue]))
  case send =>
    exact fun i x w rest q hx htxq hup hfree htake hwait hq =>
      acts_of_act rfl haon hd (doExpressSend_inTime hx htxq hup hfree htake hwait hq)
  case held =>
    rintro i w kind hup rfl hcrc hkind hle hwait
    exact acts_of_act rfl haon hd ((doExpressReceive_good hup hcrc hkind hle).trans (if_pos hwait))
  case used =>
    rintro i w kind origin q t hup rfl hcrc hkind hle rfl hwait hother rfl rfl
    exact acts_of_act rfl haon hd ((doExpressReceive_good hup hcrc hkind hle).trans
      ((if_neg (Nat.not_lt.mpr hwait)).trans (presentExp_other hother)))
  case result =>
    exact fun i frame ws hws hup hgood hkind hdst hmem hid => acts_of_act rfl haon hd (recvFor_own hws hup hgood hkind hdst hmem hid)
  case pageReq =>
    exact fun i frame ws hws hup hgood hkind hdst hmem hid => acts_of_actNv rfl haon hd (recvFor_own hws hup hgood hkind hdst hmem hid)
  case pageRsp =>
    exact fun i frame ws hws hup hgood hkind hdst hmem hid => acts_of_act rfl haon hd (recvFor_own hws hup hgood hkind hdst hmem hid)
  case root =>
    exact fun i frame ws least hws hup hgood hkind hop hlen hwalk =>
      acts_of_act rfl haon hd ((doWalk_good hws hup hgood hkind hop hlen).trans (if_pos hwalk))
  case visit =>
    exact fun i frame ws least hws hup hgood hkind hop hlen hwalk =>
      acts_of_act rfl haon hd ((doWalk_good hws hup hgood hkind hop hlen).trans (if_neg (by simp [hwalk])))
  case report =>
    exact fun i frame ws hws hup hgood hkind hop hlen hother =>
      acts_of_act rfl haon hd (doReport_other hws hup hgood hkind hop hlen hother)
  case breakFrame =>
    exact fun i frame ws hws hup hgood hkind hop => acts_of_act rfl haon hd (recvDisc_good hws hup hgood hkind hop)
  case disc =>
    intro p v hacc
    refine acts_of_act rfl haon hd ((onWrite_accepts hacc).trans ?_)
    rw [writeDisc, bit_or31, onlyIf_true]

end Sys2Proof.Machine
end

section
/-! The reference and the time of day, and the statements about them (R489 to R498). -/
namespace Sys2Proof.Machine

/-! ### The reference (R489 to R492) -/

/-- A write of REF_CFG leaves SEL to the switch, and WARM falls where its settling time is no longer reached. -/
theorem writeRefCfg_eq {v : Nat} {d u t : Dev} (hu : u = fset (A 1 0x80) 28 2 (refSel d) (plainWrite (A 1 0x80) v d))
    (ht : t = onlyIf (warmFails u) (setWarm false) u) :
    writeRefCfg v d =
      if bits v 28 2 = 0 || bits v 28 2 = 3 || (bits v 28 2 = 1 && t.hdl.ocxoFrom.isNone) || (bits v 28 2 = 2 && t.hdl.extFrom.isNone) then
        hit refStat 25 t
      else if bits v 28 2 = refSel d then t else switchRef (bits v 28 2) t := by
  subst ht hu
  rfl

/-- SEL names a source that is there, so the write is not refused. -/
theorem writeRefCfg_present {v : Nat} {d u t : Dev} (hu : u = fset (A 1 0x80) 28 2 (refSel d) (plainWrite (A 1 0x80) v d))
    (ht : t = onlyIf (warmFails u) (setWarm false) u)
    (hpresent : (bits v 28 2 = 1 ∧ t.hdl.ocxoFrom.isSome = true) ∨ (bits v 28 2 = 2 ∧ t.hdl.extFrom.isSome = true)) :
    writeRefCfg v d = if bits v 28 2 = refSel d then t else switchRef (bits v 28 2) t := by
  rw [writeRefCfg_eq hu ht, if_neg]
  rcases hpresent with ⟨hsel, hsrc⟩ | ⟨hsel, hsrc⟩ <;> simp [hsel, Option.isSome_iff_ne_none.mp hsrc]

/-- SEL names an absent source or a reserved code, and the write of SEL is refused. -/
theorem writeRefCfg_absent {v : Nat} {d u t : Dev} (hu : u = fset (A 1 0x80) 28 2 (refSel d) (plainWrite (A 1 0x80) v d))
    (ht : t = onlyIf (warmFails u) (setWarm false) u)
    (habsent : bits v 28 2 = 0 ∨ bits v 28 2 = 3 ∨ (bits v 28 2 = 1 ∧ t.hdl.ocxoFrom = none) ∨ (bits v 28 2 = 2 ∧ t.hdl.extFrom = none)) :
    writeRefCfg v d = hit refStat 25 t := by
  rw [writeRefCfg_eq hu ht, if_pos]
  rcases habsent with hsel | hsel | ⟨hsel, hsrc⟩ | ⟨hsel, hsrc⟩
  · simp [hsel]
  · simp [hsel]
  · simp [hsel, hsrc]
  · simp [hsel, hsrc]

/-- EXT has been present again for 10 s in a holdover. -/
theorem doExtRefReturn_due {m : Nat} {d : Dev} (hext : d.hdl.extFrom = some m) (hon : timeOn d = true) (hsel : refSel d = 2)
    (hhold : fbit d refStat 28 = true) (hdue : m + 10 * mcPerSec ≤ now d) :
    doExtRefReturn d = setWarm false (fset refStat 28 1 0 (fset refStat 27 1 1 { d with hdl := { d.hdl with holdFrom := none } })) := by
  simp only [doExtRefReturn, hext]
  exact if_pos (by simp [hon, hsel, hhold, hdue])

/-- The conditions of WARM have held for WARM_MIN seconds. -/
theorem doWarmRise_due {m : Nat} {d : Dev} (hsince : warmSince d = some m) (hon : timeOn d = true) (hslew : fbit d refStat 27 = false)
    (hhold : fbit d refStat 28 = false) (hdue : m + fget d (A 1 0x80) 0 16 * mcPerSec ≤ now d) : doWarmRise d = setWarm true d := by
  simp only [doWarmRise, hsince]
  exact if_pos (by simp [hon, hslew, hhold, hdue])

/-- A holdover has lasted its limit. -/
theorem doHoldoverExpiry_due {m : Nat} {d : Dev} (hfrom : d.hdl.holdFrom = some m) (hon : timeOn d = true) (hhold : fbit d refStat 28 = true)
    (hdue : m + fget d (A 1 0x88) 0 16 * mcPerSec ≤ now d) : doHoldoverExpiry d = setWarm false d := by
  simp only [doHoldoverExpiry, hfrom]
  exact if_pos (by simp [hon, hhold, hdue])

/-- Settles O22: each command is the effect of its rule, under the conditions with which the rule applies. -/
theorem referenceCommandsAct : Obligations.ReferenceCommandsAct := by
  unfold Obligations.ReferenceCommandsAct
  intro dt s d haon hd
  refine ⟨?extLoss, ?ocxoFall, ?extReturn, ?slewDone, ?warmRise, ?expiry, ?selects, ?keeps, ?refuses, ?extPresence, ?ocxoChange⟩
  case extLoss =>
    rintro u t hon hsel hext rfl rfl
    exact acts_of_act rfl haon hd (if_neg (by simp [hon, hsel, Option.isSome_iff_ne_none.mp hext]))
  case ocxoFall =>
    rintro t hon hsel hocxo rfl
    exact acts_of_act rfl haon hd (if_neg (by simp [hon, hsel, Option.isSome_iff_ne_none.mp hocxo]))
  case extReturn => exact fun m hext hon hsel hhold hdue => acts_of_act rfl haon hd (doExtRefReturn_due hext hon hsel hhold hdue)
  case slewDone => exact fun hon => acts_of_act rfl haon hd (if_pos hon)
  case warmRise => exact fun m hsince hon hslew hhold hdue => acts_of_act rfl haon hd (doWarmRise_due hsince hon hslew hhold hdue)
  case expiry => exact fun m hfrom hon hhold hdue => acts_of_act rfl haon hd (doHoldoverExpiry_due hfrom hon hhold hdue)
  case selects =>
    exact fun p v u t hacc hu ht hnew hpresent =>
      acts_of_act rfl haon hd ((onWrite_accepts hacc).trans ((writeRefCfg_present hu ht hpresent).trans (if_neg hnew)))
  case keeps =>
    exact fun p v u t hacc hu ht hsame hpresent =>
      acts_of_act rfl haon hd ((onWrite_accepts hacc).trans ((writeRefCfg_present hu ht hpresent).trans (if_pos hsame)))
  case refuses =>
    exact fun p v u t hacc hu ht habsent => acts_of_act rfl haon hd ((onWrite_accepts hacc).trans (writeRefCfg_absent hu ht habsent))
  case extPresence =>
    exact fun b hclk hfree => acts_of_act rfl haon hd (if_neg (by rcases hfree with h | h <;> simp [hclk, h]))
  case ocxoChange =>
    exact fun b hclk hfree => acts_of_act rfl haon hd (if_neg (by rcases hfree with h | h <;> simp [hclk, h]))

/-! ### The time of day (R494 to R498) -/

/-- An edge of the selected polarity on a running page waits for the boundary that it marks. -/
theorem doPpsEdge_selected {rising : Bool} {d : Dev} (hon : timeOn d = true) (hen : fbit d (A 6 0x80) 29 = true)
    (hedge : rising ≠ fbit d (A 6 0x80) 28) (hrun : running d 6 = true) :
    doPpsEdge rising d = ppsAdvance
      { d with hdl := { d.hdl with ppsWait := d.hdl.ppsWait ++ [((now d : Int), ppsBound d)], lastPps := some (now d) } } :=
  if_neg (by simp [hon, hen, hedge, hrun])

/-- The one boundary that waits has come. -/
theorem ppsAdvance_due {m b : Int} {d : Dev} (hwait : d.hdl.ppsWait = [(m, b)]) (hdue : b ≤ (now d : Int)) :
    ppsAdvance d =
      (let t := { d with hdl := { d.hdl with ppsWait := [] } }
       ppsTake b (ppsSec t b) (ppsJumps t b) t) := by
  simp only [ppsAdvance, hwait, List.filter_cons, hdue, decide_true, Bool.not_true, Bool.false_eq_true, if_true, if_false, List.filter_nil,
    List.map_cons, List.map_nil]
  rfl

/-- No boundary that waits has come. -/
theorem ppsAdvance_early {d : Dev} (hearly : ∀ x ∈ d.hdl.ppsWait, (now d : Int) < x.2) : ppsAdvance d = d := by
  have hnone : d.hdl.ppsWait.filter (fun x => decide (x.2 ≤ (now d : Int))) = [] :=
    List.filter_eq_nil_iff.mpr fun x hx => by simp [hearly x hx]
  have hall : d.hdl.ppsWait.filter (fun x => !decide (x.2 ≤ (now d : Int))) = d.hdl.ppsWait :=
    List.filter_eq_self.mpr fun x hx => by simp [hearly x hx]
  rw [ppsAdvance, hnone, hall]
  rfl

/-- Two seconds have passed without an edge. -/
theorem doPpsLoss_due {b : Int} {d : Dev} (hlast : d.hdl.lastPps = some b) (hon : timeOn d = true) (hok : fbit d todStat 27 = true)
    (hdue : b + 2 * mcPerSec ≤ (now d : Int)) : doPpsLoss d = irqSet 6 8 (fset todStat 27 1 0 d) := by
  simp only [doPpsLoss, hlast]
  exact if_pos (by simp [hon, hok, hdue])

/-- Settles O23: each command is the effect of its rule, under the conditions with which the rule applies. -/
theorem timeOfDayCommandsAct : Obligations.TimeOfDayCommandsAct := by
  unfold Obligations.TimeOfDayCommandsAct
  intro dt s d haon hd
  refine ⟨?timeFrame, ?reload, ?edgeNow, ?edgeLater, ?roll, ?loss, ?latch, ?arm⟩
  case timeFrame =>
    exact fun hclk hmaster hmem hrun hdue => acts_of_act rfl haon hd (if_neg (by simp [hclk, hmaster, hmem, hrun, hdue]))
  case reload =>
    exact fun p hacc hfollows hsrc => acts_of_act rfl haon hd ((onWrite_accepts hacc).trans (if_neg (by simp [hfollows, hsrc])))
  case edgeNow =>
    rintro rising b t hon hen hedge hrun rfl hempty rfl hdue
    exact acts_of_act rfl haon hd ((doPpsEdge_selected hon hen hedge hrun).trans (ppsAdvance_due (m := now d) (by rw [hempty]; rfl) hdue))
  case edgeLater =>
    rintro rising b hon hen hedge hrun rfl hwait hearly
    refine acts_of_act rfl haon hd ((doPpsEdge_selected hon hen hedge hrun).trans (ppsAdvance_early ?_))
    intro x hx
    rcases List.mem_append.mp hx with hold | hnew
    · exact of_decide_eq_true (List.all_eq_true.mp hwait x hold)
    · rw [List.mem_singleton.mp hnew]
      exact hearly
  case roll => exact fun hon hdue hfree => acts_of_act rfl haon hd (if_pos (by simp [hon, hdue, hfree]))
  case loss => exact fun b hlast hon hok hdue => acts_of_act rfl haon hd (doPpsLoss_due hlast hon hok hdue)
  case latch => exact fun p hacc => acts_of_act rfl haon hd (onWrite_accepts hacc)
  case arm => exact fun p v hacc => acts_of_act rfl haon hd (onWrite_accepts hacc)

end Sys2Proof.Machine
end

section
/-! DDR-5 memory, the host port and the exporter, and the statements about them (R516 to R524, R529 to R539, R599). -/
namespace Sys2Proof.Machine

/-! ### DDR-5 memory (R516, R519 to R521, R523, R524) -/

/-- A corrected error of an UP channel counts and is logged, and sets the degradation when the rate reaches CE_THR. -/
theorem doCorrectedError_up {a : BitVec 48} {n thr : Nat} {ts : List Nat} {d t : Dev} (hn : n = memChannel d a.toNat)
    (hin : memInside d a.toNat = true) (hup : memUp d n = true) (ht : t = errAddr n a.toNat false (incSat (A (memPage n) 0x8C) 0 32 1 d))
    (hthr : thr = fget t (A (memPage n) 0x94) 0 16)
    (hts : ts = t.opMc :: (mget (fun _ => []) t.ceT n).filter (fun u => t.opMc < u + mcPerHour)) :
    doCorrectedError a d = if thr ≠ 0 ∧ thr ≤ ts.length then
        degBit 4 5 n true (irqSet (memPage n) 1 { t with ceT := mset (fun _ => []) n [] t.ceT })
      else { t with ceT := mset (fun _ => []) n ts t.ceT } := by
  subst hts hthr ht hn
  simp only [doCorrectedError, hin, hup, Bool.not_true, Bool.or_self, Bool.false_eq_true, if_false, Bool.and_eq_true, decide_eq_true_eq, ge_iff_le]

/-- A temperature of a powered channel is shown, and one of 95 °C or more sets HOT. -/
theorem doMemThermal_on {k : Fin 8} {temp : BitVec 8} {d : Dev} (hon : pageOn d (memPage k) = true) (hstate : memState d k ≠ 0) :
    doMemThermal k temp d =
      (let t := fset (A (memPage k) 0x84) 0 8 temp.toNat d
       if temp.toInt ≥ 95 then raise (0xE2 + k) 2 (irqSet (memPage k) 8 (hit (A (memPage k) 0x84) 29 t)) else t) :=
  if_neg (by simp [hon, hstate])

/-- A second channel that fails is reported alone. -/
theorem mapoutMem_second {k : Nat} {d : Dev} (hup : memUp d k = true) (hout : (List.range 8).any (fun j => memState d j == 3) = true) :
    mapoutMem k d = raise (0xE2 + k) 3 { d with ueT := mset (fun _ => []) k [] d.ueT } := by
  simp only [mapoutMem, hup, hout, Bool.not_true, Bool.false_eq_true, if_false, if_true]

/-- The first channel that fails is mapped out. -/
theorem mapoutMem_first {k : Nat} {d t : Dev} (hup : memUp d k = true) (hout : (List.range 8).any (fun j => memState d j == 3) = false)
    (ht : t = irqSet (memPage k) 4 (fset (A (memPage k) 0x84) 30 2 3 d)) :
    mapoutMem k d = raise (0xE2 + k) 1 (degMem k (setDegraded (memPage k) true
      { t with memOut := t.memOut.filter (· ≠ k) ++ [k], ueT := mset (fun _ => []) k [] t.ueT })) := by
  subst ht
  simp only [mapoutMem, hup, hout, Bool.not_true, Bool.false_eq_true, if_false]

/-- Settles O25: each command is the effect of its rule, on a channel to which the rule applies. -/
theorem memoryCommandsAct : Obligations.MemoryCommandsAct := by
  unfold Obligations.MemoryCommandsAct
  intro dt s d haon hd
  refine ⟨?uncorrectable, ?corrected, ?scrub, ?warm, ?hot, ?second, ?first, ?mapout, ?restore⟩
  case uncorrectable =>
    rintro a n rfl hin hup
    exact acts_of_act rfl haon hd (if_neg (by simp [hin, hup]))
  case corrected => exact fun a n thr ts t hn hin hup ht hthr hts => acts_of_act rfl haon hd (doCorrectedError_up hn hin hup ht hthr hts)
  case scrub => exact fun k hup hrate hreset => acts_of_act rfl haon hd (if_neg (by simp [hup, hrate]; simpa using hreset))
  case warm =>
    exact fun k temp hon hstate hcool => acts_of_act rfl haon hd ((doMemThermal_on hon hstate).trans (if_neg (Int.not_le.mpr hcool)))
  case hot => exact fun k temp hon hstate hhot => acts_of_act rfl haon hd ((doMemThermal_on hon hstate).trans (if_pos hhot))
  case second => exact fun k hup hout => acts_of_act rfl haon hd (mapoutMem_second hup hout)
  case first => exact fun k t hup hout ht => acts_of_act rfl haon hd (mapoutMem_first hup hout ht)
  case mapout => exact fun p k hacc => acts_of_act rfl haon hd (onWrite_accepts hacc)
  case restore => exact fun p k hacc => acts_of_act rfl haon hd (onWrite_accepts hacc)

/-! ### The host port (R529 to R534, R599) -/

/-- A memory read inside the capacity that meets no mapped-out channel returns its bytes. -/
theorem hostReq_read {a n : Nat} {d t : Dev} (hfree : memHolds d a n = false) (ht : t = tagPass .host a n d) (hcap : a + n ≤ memCapacity t)
    (hmapped : rangeMapped t a n = false) :
    hostReq { write := false, a := a, n := n, err := false } d = emit (.win (memBytes t a n) false false) t := by
  subst ht
  simp only [hostReq, hfree, winReadNow, Nat.not_lt.mpr hcap, hmapped, Bool.false_eq_true, if_false]

/-- The memory window. -/
theorem doWindowRead_memory {off : BitVec 36} {n : Fin 4097} {err : Bool} {d : Dev} (hhost : hostOn d = true) (hoff : 2 ^ 35 ≤ off.toNat) :
    doWindowRead off n err d = hostReq { write := false, a := winAddr d (off.toNat - 2 ^ 35), n := n, err := err } d := by
  simp only [doWindowRead, hhost, hoff, Bool.not_true, Bool.false_eq_true, if_false, if_true]

/-- The doorbells of the queues read COMMIT. -/
theorem doWindowRead_doorbells {off : BitVec 36} {n : Fin 4097} {err : Bool} {d : Dev} {x : List Byte × Dev} (hhost : hostOn d = true)
    (hoff : off.toNat < 0x400000) (hx : x = commitBytes (off.toNat / 4) ((off.toNat + n.toNat + 3) / 4 - off.toNat / 4) d) :
    doWindowRead off n err d = emit (.win ((x.1.drop (off.toNat % 4)).take n.toNat) false false) x.2 := by
  subst hx
  have hlow : ¬ 2 ^ 35 ≤ off.toNat := by omega
  simp only [doWindowRead, hhost, hlow, hoff, Bool.not_true, Bool.false_eq_true, if_false, if_true]
  rfl

/-- COMMIT of one queue. -/
theorem commitBytes_one {q : Nat} {ok : Bool} {d t : Dev} (hok : ok = (domOn d 2 && blkReady d grnPage))
    (ht : t = (if ok then cacheGet q d else d)) :
    commitBytes q 1 d = (leBytes 4 (if ok then (getQ t q).commit else 0), t) := by
  subst ht hok
  simp only [commitBytes, List.append_nil]

/-- The MSI-X table and its pending bits. -/
theorem doWindowRead_msix {off : BitVec 36} {n : Fin 4097} {err : Bool} {d : Dev} (hhost : hostOn d = true) (hlo : 0x400000 ≤ off.toNat)
    (hhi : off.toNat + n ≤ 0x408100) :
    doWindowRead off n err d = emit (.win ((List.range n).map fun i =>
      BitVec.ofNat 8 (bits (msixWord d ((off.toNat + i) / 4 * 4)).toNat (8 * ((off.toNat + i) % 4)) 8)) false false) d := by
  have hmem : ¬ 2 ^ 35 ≤ off.toNat := by omega
  have hbell : ¬ off.toNat < 0x400000 := Nat.not_lt.mpr hlo
  simp only [doWindowRead, hhost, hmem, hbell, hhi, Bool.not_true, Bool.false_eq_true, if_false, if_true]

/-- Whole words written to the doorbells. -/
theorem doWindowWrite_doorbells {off : BitVec 36} {w : List Byte} {d : Dev} (hhost : hostOn d = true) (hoff : off.toNat < 0x400000)
    (hlen : w.length % 4 = 0) (halign : off.toNat % 4 = 0) :
    doWindowWrite off w d =
      forAll (List.range (w.length / 4)) (fun i => doorbell (off.toNat / 4 + i) (leNat ((w.drop (4 * i)).take 4))) d := by
  have hmem : ¬ 2 ^ 35 ≤ off.toNat := by omega
  simp only [doWindowWrite, hhost, hmem, hoff, hlen, halign, decide_true, Bool.and_self, Bool.not_true, Bool.false_eq_true, if_false, if_true]

/-- Whole words written to the MSI-X table. -/
theorem doWindowWrite_msix {off : BitVec 36} {w : List Byte} {d : Dev} (hhost : hostOn d = true) (hlo : 0x400000 ≤ off.toNat)
    (hhi : off.toNat + w.length ≤ 0x408000) (hlen : w.length % 4 = 0) (halign : off.toNat % 4 = 0) :
    doWindowWrite off w d = forAll (List.range (w.length / 4))
      (fun i => writeMsix ((off.toNat - 0x400000) / 4 + i) (w32 (leNat ((w.drop (4 * i)).take 4)))) d := by
  have hmem : ¬ 2 ^ 35 ≤ off.toNat := by omega
  have hbell : ¬ off.toNat < 0x400000 := Nat.not_lt.mpr hlo
  simp only [doWindowWrite, hhost, hmem, hbell, hhi, hlen, halign, decide_true, Bool.and_self, Bool.not_true, Bool.false_eq_true, if_false, if_true]

/-- A link that comes up in a powered domain shows its speed and width, with IRQ bit 0 on a rise. -/
theorem doLinkUp_trains {speed : Fin 6} {width : Fin 9} (bme fmask : Bool) {d : Dev} (hdom : domOn d 3 = true) (hspeed : speed.val ≠ 0)
    (hwidth : width.val = 1 ∨ width.val = 2 ∨ width.val = 4 ∨ width.val = 8) :
    doLinkUp speed width bme fmask d = onlyIf (!fbit d (A pciPage 0x80) 0) (irqSet pciPage 1)
      (wrN (A pciPage 0x80) (speed * 2 ^ 28 + width * 2 ^ 24 + 1) { d with pci := { d.pci with bme := bme, fmask := fmask } }) := by
  refine if_neg ?_
  rcases hwidth with h | h | h | h <;> simp [hdom, hspeed, Fin.toNat, h]

/-- Settles O26: each command is the effect of its rule, in the part of the window that it reaches. -/
theorem hostPortCommandsAct : Obligations.HostPortCommandsAct := by
  unfold Obligations.HostPortCommandsAct
  intro dt s d haon hd
  refine ⟨?readMemory, ?readNow, ?held, ?readDoorbell, ?readDoorbells, ?readMsix, ?writeMemory, ?writeDoorbells, ?writeMsix, ?linkRise,
    ?linkStays, ?linkDown, ?flr, ?hotReset, ?perstFall, ?perstRise⟩
  case readMemory => exact fun off n err hhost hoff => acts_of_act rfl haon hd (doWindowRead_memory hhost hoff)
  case readNow => exact fun a n t hfree ht hcap hmapped => hostReq_read hfree ht hcap hmapped
  case held => exact fun r hheld => if_pos hheld
  case readDoorbell =>
    rintro off n err ok t hhost hoff ⟨hn, halign⟩ hok ht
    refine acts_of_act rfl haon hd ((doWindowRead_doorbells hhost hoff rfl).trans ?_)
    have hone : (off.toNat + n.toNat + 3) / 4 - off.toNat / 4 = 1 := by omega
    rw [hone, commitBytes_one hok ht, halign, hn]
    rfl
  case readDoorbells => exact fun off n err x hhost hoff hx => acts_of_act rfl haon hd (doWindowRead_doorbells hhost hoff hx)
  case readMsix => exact fun off n err hhost hlo hhi => acts_of_act rfl haon hd (doWindowRead_msix hhost hlo hhi)
  case writeMemory =>
    exact fun off w a hhost hoff ha hcap hmapped hfree => acts_of_act rfl haon hd (doWindowWrite_memory hhost hoff ha hcap hmapped hfree)
  case writeDoorbells => exact fun off w hhost hoff hlen halign => acts_of_act rfl haon hd (doWindowWrite_doorbells hhost hoff hlen halign)
  case writeMsix => exact fun off w hhost hlo hhi hlen halign => acts_of_act rfl haon hd (doWindowWrite_msix hhost hlo hhi hlen halign)
  case linkRise =>
    intro speed width bme fmask hdom hspeed hwidth hdown
    refine acts_of_act rfl haon hd ((doLinkUp_trains bme fmask hdom hspeed hwidth).trans ?_)
    rw [hdown, Bool.not_false, onlyIf_true]
  case linkStays =>
    intro speed width bme fmask hdom hspeed hwidth hup
    refine acts_of_act rfl haon hd ((doLinkUp_trains bme fmask hdom hspeed hwidth).trans ?_)
    rw [hup]
    rfl
  case linkDown => exact fun hup => acts_of_act rfl haon hd (if_pos hup)
  case flr => exact fun hhost => acts_of_act rfl haon hd (if_pos hhost)
  case hotReset => exact fun hhost => acts_of_act rfl haon hd (if_pos hhost)
  case perstFall => exact acts_of_act rfl haon hd rfl
  case perstRise => exact fun hwake => acts_of_act rfl haon hd (if_pos hwake)

/-! ### The exporter (R536 to R539) -/

/-- The queue in turn sends. -/
theorem doEthFrameSend_turn {q : Nat} {d : Dev} (hon : ethOn d = true) (hdom : domOn d 2 = true) (hnext : ethNext d = some q) :
    doEthFrameSend d = ethFrom q d := by
  simp only [doEthFrameSend, hon, hdom, hnext, Bool.not_true, Bool.or_self, Bool.false_eq_true, if_false]

/-- The heartbeat's time has come. -/
theorem doHeartbeat_due {ms q : Nat} {y : Queue} {d : Dev} (hon : ethOn d = true) (hms : ms = fget d (A ethPage 0x84) 0 16) (hsome : ms ≠ 0)
    (hdue : d.eth.sent + ms * 1600000 ≤ now d) (hq : (d.grn.queues.filter fun x => qClass x.2 == 1 && x.2.en).head? = some (q, y)) :
    doHeartbeat d = ethSend 0 false q 1 (header 1 2 0 0 (qSite q) 16 y.seq (now d)) d := by
  subst hms
  simp only [doHeartbeat, hon, hsome, Nat.not_lt.mpr hdue, hq, decide_false, Bool.not_true, Bool.or_self, Bool.false_eq_true, if_false]

/-- The module's levels show, with IRQ bit 2 on a change and the cause on a rise of TX_FAULT. -/
theorem doEthModuleChange_on {modAbs txFault : Bool} {d t : Dev} (hon : pageOn d ethPage = true)
    (ht : t = fset (A ethPage 0x88) 29 1 (b2n txFault) (fset (A ethPage 0x88) 30 1 (b2n (!modAbs)) d)) :
    doEthModuleChange modAbs txFault d = onlyIf (txFault && !fbit d (A ethPage 0x88) 29) (raise 0xF0 0)
      (if fget t (A ethPage 0x88) 29 2 = fget d (A ethPage 0x88) 29 2 then t else irqSet ethPage 4 t) := by
  subst ht
  simp only [doEthModuleChange, hon, Bool.not_true, Bool.false_eq_true, if_false]

/-- Settles O27: each command is the effect of its rule, under the conditions with which the rule applies. -/
theorem exporterCommandsAct : Obligations.ExporterCommandsAct := by
  unfold Obligations.ExporterCommandsAct
  intro dt s d haon hd
  refine ⟨?send, ?goesOn, ?heartbeat, ?drop, ?linkUp, ?linkDown, ?levelsStay, ?levelsChange⟩
  case send => exact fun q hon hdom hnext => acts_of_act rfl haon hd (doEthFrameSend_turn hon hdom hnext)
  case goesOn =>
    rintro q off t rfl rfl hoff
    rw [ethFrom, if_pos hoff]
  case heartbeat => exact fun ms q y hon hms hsome hdue hq => acts_of_act rfl haon hd (doHeartbeat_due hon hms hsome hdue hq)
  case drop => exact fun hon => acts_of_act rfl haon hd (if_pos hon)
  case linkUp => exact fun hon hdown => acts_of_act rfl haon hd (if_neg (by simp [hon, hdown]))
  case linkDown => exact fun hup => acts_of_act rfl haon hd (if_pos hup)
  case levelsStay =>
    exact fun modAbs txFault t hon ht hsame => acts_of_act rfl haon hd ((doEthModuleChange_on hon ht).trans (by rw [if_pos hsame]))
  case levelsChange =>
    exact fun modAbs txFault t hon ht hnew => acts_of_act rfl haon hd ((doEthModuleChange_on hon ht).trans (by rw [if_neg hnew]))

end Sys2Proof.Machine
end

section
/-! SMBus and the boot flash, and the statement about them (R540 to R543, R584, R599). -/
namespace Sys2Proof.Machine

/-! ### SMBus (R540, R541) -/

/-- On a running page a transaction with a right PEC, or with none where none is required, counts and is carried out. -/
theorem smbCmd_good {pec : Option Bool} {f : Dev → Dev} {d t : Dev} (hrun : running d 0x192 = true)
    (hpec : pec = some true ∨ (pec = none ∧ fbit d (A 0x192 0x80) 31 = false)) (ht : t = incSat (A 0x192 0x84) 16 16 1 d) :
    smbCmd pec f d = f t := by
  subst ht
  rcases hpec with rfl | ⟨rfl, hfree⟩
  · simp [smbCmd, hrun]
  · simp [smbCmd, hrun, hfree]

/-! ### The boot flash (R542, R543) -/

/-- A GO that nothing refuses starts with BUSY. -/
theorem writeXspCmd_starts {v op len a : Nat} {d : Dev} (hgo : bit v 31 = true) (hop : bits v 28 2 = op) (hlen : bits v 0 8 + 1 = len)
    (hdef : op ≠ 3) (hwren : op = 0 ∨ fbit d (A xspPage 0x90) 31 = true) (ha : a = fget d (A xspPage 0x88) 0 28)
    (hready : blkReady d xspPage = true) (hfree : d.xsp = none) (hrun : running d xspPage = true) (hin : a + len ≤ flashSize d) :
    writeXspCmd v d = fset (A xspPage 0x84) 30 1 1 { plainWrite (A xspPage 0x84) v d with xsp := some (op, a, len) } := by
  subst ha hop hlen
  have hopen : ((decide (bits v 28 2 = 1) || decide (bits v 28 2 = 2)) && !fbit d (A xspPage 0x90) 31) = false := by
    rcases hwren with h | h <;> simp [h]
  have hnot : (decide (bits v 28 2 = 3) || !running d xspPage) = false := by simp [hdef, hrun]
  simp only [writeXspCmd, hgo, hopen, hready, hfree, hnot, gt_iff_lt, Nat.not_lt.mpr hin, decide_false, Option.isSome_none, Bool.or_self,
    Bool.not_true, Bool.false_eq_true, if_false]

/-- The fields of the word that starts a command of `op` with the length byte `len`. -/
theorem xspWord_fields {w op len : Nat} (hw : w = 2 ^ 31 + op * 2 ^ 28 + len) (hop : op < 4) (hlen : len < 256) :
    bit w 31 = true ∧ bits w 28 2 = op ∧ bits w 0 8 = len := by
  subst hw
  simp only [bit, bits, Nat.shiftRight_eq_div_pow, Nat.reducePow, beq_iff_eq]
  omega

/-- A flash row whose word names `op` and `len` on a port where nothing refuses it. -/
theorem acts_of_xspCmd {c : Instr} {dt w op len a : Nat} {p : Path} {s : State} {d : Dev}
    (hexec : exec c s = act dt (onWrite p (A xspPage 0x84) (writeXspCmd w)) s) (haon : s.dev.aon = true) (hd : d = actPre dt s.dev)
    (hw : w = 2 ^ 31 + op * 2 ^ 28 + len) (hop : op < 3) (hlen : len < 256) (hwren : op = 0 ∨ fbit d (A xspPage 0x90) 31 = true)
    (hacc : accepts d (A xspPage 0x84) = true) (ha : a = fget d (A xspPage 0x88) 0 28) (hready : blkReady d xspPage = true)
    (hfree : d.xsp = none) (hrun : running d xspPage = true) (hin : a + (len + 1) ≤ flashSize d) :
    Acts c s (fset (A xspPage 0x84) 30 1 1 { plainWrite (A xspPage 0x84) w d with xsp := some (op, a, len + 1) }) := by
  obtain ⟨hgo, hopw, hlenw⟩ := xspWord_fields hw (by omega) hlen
  exact acts_of_act hexec haon hd ((onWrite_accepts hacc).trans
    (writeXspCmd_starts hgo hopw (by rw [hlenw]) (by omega) hwren ha hready hfree hrun hin))

/-- Settles O28: each SMBus command is its effect after the count, each flash command starts, and each end is the one of its kind. -/
theorem smbusAndFlashCommandsAct : Obligations.SmbusAndFlashCommandsAct := by
  unfold Obligations.SmbusAndFlashCommandsAct
  intro dt s d haon hd
  refine ⟨?status, ?regAddr, ?regRead, ?regWrite, ?hmkSel, ?hmkRead, ?hmkRange, ?wake, ?flashRead, ?program, ?erase, ?failed, ?readDone,
    ?programDone, ?eraseDone⟩
  case status => exact fun pec t hrun hpec ht => acts_of_act rfl haon hd (smbCmd_good hrun hpec ht)
  case regAddr => exact fun off pec t hrun hpec ht => acts_of_act rfl haon hd (smbCmd_good hrun hpec ht)
  case regRead => exact fun pec t hrun hpec ht => acts_of_actNv rfl haon hd (smbCmd_good hrun hpec ht)
  case regWrite => exact fun v pec t hrun hpec ht => acts_of_actNv rfl haon hd (smbCmd_good hrun hpec ht)
  case hmkSel => exact fun v pec t hrun hpec ht => acts_of_act rfl haon hd (smbCmd_good hrun hpec ht)
  case hmkRead => exact fun pec t hrun hpec ht => acts_of_actNv rfl haon hd (smbCmd_good hrun hpec ht)
  case hmkRange => exact fun pec t hrun hpec ht => acts_of_act rfl haon hd (smbCmd_good hrun hpec ht)
  case wake => exact fun pec t hrun hpec ht => acts_of_actNv rfl haon hd (smbCmd_good hrun hpec ht)
  case flashRead =>
    intro p len a hacc ha hready hfree hrun hin
    exact acts_of_xspCmd (op := 0) rfl haon hd (by omega) (by omega) len.isLt (.inl rfl) hacc ha hready hfree hrun hin
  case program =>
    intro p len a hacc ha hready hfree hrun hin hwren
    exact acts_of_xspCmd (op := 1) rfl haon hd (by omega) (by omega) len.isLt (.inr hwren) hacc ha hready hfree hrun hin
  case erase =>
    intro p a hacc ha hready hfree hrun hin hwren
    exact acts_of_xspCmd (op := 2) (len := 0) rfl haon hd (by omega) (by omega) (by omega) (.inr hwren) hacc ha hready hfree hrun hin
  case failed =>
    rintro op a n t u hxsp rfl rfl
    refine acts_of_act rfl haon hd ?_
    simp only [doXspComplete, hxsp, if_true]
  case readDone =>
    rintro a n t hxsp rfl
    refine acts_of_act rfl haon hd ?_
    simp only [doXspComplete, hxsp, Bool.false_eq_true, if_false]
  case programDone =>
    rintro a n t hxsp rfl
    refine acts_of_act rfl haon hd ?_
    simp only [doXspComplete, hxsp, Bool.false_eq_true, if_false]
  case eraseDone =>
    rintro a n t hxsp rfl
    refine acts_of_act rfl haon hd ?_
    simp only [doXspComplete, hxsp, Bool.false_eq_true, if_false]

end Sys2Proof.Machine
end

section
/-! The fault collector's commands, ERR#, the release of Quench and the chip reset of a reaction, and the statements about them
(R545, R549 to R551, R556, R558 to R562, R566, R567, R574, R585, R590). -/
namespace Sys2Proof.Machine

/-! ### Evidence (R545, R549 to R551, R574, R585, R590) -/

/-- A source that the outside brings occurs for a resource that is not in its condition yet. -/
theorem doFaultOccurrence_new {src : BitVec 8} {cause : BitVec 5} {res : BitVec 9} {d : Dev} (hext : externalCause src.toNat cause.toNat = true)
    (hon : (srcPage src.toNat).any (pageOn d) = true) (hnew : (getSrc d src.toNat).live.contains res.toNat = false)
    (hfits : resFits d src.toNat res.toNat = true) :
    doFaultOccurrence src cause res d = raiseOn src.toNat cause.toNat res.toNat (externalEffect src.toNat res.toNat d) := by
  simp only [doFaultOccurrence, hext, hon, hnew, hfits, Bool.not_true, Bool.or_self, Bool.false_eq_true, if_false]

/-- A resource leaves the condition of a source, and LIVE falls with the last one. -/
theorem doLiveFall_live {src : BitVec 8} {res : BitVec 9} {l : List Nat} {d t : Dev}
    (hsrc : [1, 2, 3, 4, 6, 7, 8, 9, 0xE].contains src.toNat = true) (hlive : (getSrc d src.toNat).live.contains res.toNat = true)
    (hl : l = (getSrc d src.toNat).live.filter (· ≠ res.toNat))
    (ht : t = (if src.toNat = 1 then fset refStat 26 1 1 { d with hdl := { d.hdl with lockFrom := some (now d) } } else d)) :
    doLiveFall src res d = if l.isEmpty then liveFell src.toNat t else setSrc src.toNat { getSrc d src.toNat with live := l } t := by
  subst ht hl
  simp only [doLiveFall, hsrc, hlive, Bool.not_true, Bool.or_self, Bool.false_eq_true, if_false]

/-- SRC_STAT is a register of its own, in no pair and no latched group. -/
theorem srcStat_unpaired {r : Reg} (hreg : regAt (A 2 0x88) = some r) : r.pairing = .none := by
  have hpair : (regAt (A 2 0x88)).all (fun r => r.pairing == .none) = true := by decide
  rw [hreg] at hpair
  exact eq_of_beq hpair

/-- A read of SRC_STAT returns it and counts as a look. -/
theorem busReadOut_srcStat (nv : Nv) (p : Path) {r : Reg} {d : Dev} (hread : readable d (A 2 0x88) = true) (hreg : regAt (A 2 0x88) = some r) :
    busReadOut nv p (A 2 0x88) d = emit (.rd p (shown nv p r (A 2 0x88) d)) (lookSrc d) := by
  rw [busReadOut, busRead_unpaired (k := .flt) rfl hreg rfl (srcStat_unpaired hreg) hread]
  rfl

/-! ### INJECT (R545) -/

/-- A one-bit field is its bit as a number. -/
theorem bits_one (n i : Nat) : bits n i 1 = b2n (bit n i) := by
  have hlt : bits n i 1 < 2 := Nat.mod_lt _ (by decide)
  simp only [bit, b2n, beq_iff_eq]
  split <;> omega

/-- PULSE added to a word leaves its LEVEL. -/
theorem bit30_or31 (n : Nat) : bit (n ||| 0x80000000) 30 = bit n 30 := by
  have hzero : Nat.testBit 0x80000000 30 = false := by decide
  rw [bit_eq_testBit, bit_eq_testBit, Nat.testBit_or, hzero, Bool.or_false]

/-- A word without PULSE keeps its LEVEL. -/
theorem bits_withoutPulse {n : Nat} (hn : n < 2 ^ 32) :
    bit (putBits n 31 1 0) 31 = false ∧ bit (putBits n 31 1 0) 30 = bit n 30 := by
  rw [Bool.eq_iff_iff (a := bit (putBits n 31 1 0) 30)]
  simp only [bit, bits, putBits, Nat.shiftRight_eq_div_pow, Nat.reducePow, beq_eq_false_iff_ne, beq_iff_eq]
  omega

/-- A pulse takes the LEVEL that its write carries and raises SOFT unless its condition stood. -/
theorem writeInject_pulse {v : Nat} {d t : Dev}
    (ht : t = { fset (A 2 0xE0) 30 1 (bits v 30 1) d with flt := { d.flt with pulse := some (aT d) } }) :
    writeInject (v ||| 0x80000000) d = if srcLive d 0xFF || d.flt.pulse.any (fun m => m + 1 == aT d) then t else raise 0xFF 0 t := by
  subst ht
  simp only [writeInject, bits_one, bit30_or31, bit_or31, Bool.or_true, if_true, softRise]
  rfl

/-- LEVEL written 0 ends the level condition. -/
theorem writeInject_levelLow {v : Nat} {d : Dev} (hpulse : bit v 31 = false) (hlevel : bit v 30 = false) :
    writeInject v d = fset (A 2 0xE0) 30 1 0 d := by
  simp only [writeInject, bits_one, hpulse, hlevel, Bool.or_self, Bool.false_eq_true, if_false, b2n]

/-- LEVEL written 1 raises SOFT unless its condition stood. -/
theorem writeInject_levelHigh {v : Nat} {d : Dev} (hpulse : bit v 31 = false) (hlevel : bit v 30 = true) :
    writeInject v d = if srcLive d 0xFF || d.flt.pulse.any (fun m => m + 1 == aT d) then fset (A 2 0xE0) 30 1 1 d
      else raise 0xFF 0 (fset (A 2 0xE0) 30 1 1 d) := by
  simp only [writeInject, bits_one, hpulse, hlevel, Bool.true_or, Bool.false_eq_true, if_true, if_false, b2n, softRise]

/-- Settles O29: each command is the effect of its rule, under the conditions with which the rule applies. -/
theorem faultEvidenceCommandsAct : Obligations.FaultEvidenceCommandsAct := by
  unfold Obligations.FaultEvidenceCommandsAct
  intro dt s d haon hd
  refine ⟨?occurs, ?liveFall, ?shadowClose, ?stickyClear, ?srcSel, ?srcStat, ?trapClear, ?pulse, ?levelLow, ?levelHigh, ?degClear⟩
  case occurs =>
    exact fun src cause res hext hon hnew hfits => acts_of_act rfl haon hd (doFaultOccurrence_new hext hon hnew hfits)
  case liveFall => exact fun src res t l hsrc hlive hl ht => acts_of_act rfl haon hd (doLiveFall_live hsrc hlive hl ht)
  case shadowClose =>
    rintro due rfl
    exact acts_of_act rfl haon hd rfl
  case stickyClear =>
    exact fun p i x hacc hi hpage hlive hx hcold =>
      acts_of_act rfl haon hd ((onWrite_accepts hacc).trans (clearSticky_clears hi hx hlive hpage hcold))
  case srcSel => exact fun p v hacc => acts_of_act rfl haon hd (onWrite_accepts hacc)
  case srcStat => exact fun p r hread hreg => acts_of_actNv rfl haon hd (busReadOut_srcStat s.nv p hread hreg)
  case trapClear => exact fun p hacc => acts_of_act rfl haon hd (onWrite_accepts hacc)
  case pulse => exact fun p v t hacc ht => acts_of_act rfl haon hd ((onWrite_accepts hacc).trans (writeInject_pulse ht))
  case levelLow =>
    intro p v hacc hlevel
    obtain ⟨hpulse, hkeeps⟩ := bits_withoutPulse v.isLt
    exact acts_of_act rfl haon hd ((onWrite_accepts hacc).trans (writeInject_levelLow hpulse (hkeeps.trans hlevel)))
  case levelHigh =>
    intro p v hacc hlevel
    obtain ⟨hpulse, hkeeps⟩ := bits_withoutPulse v.isLt
    exact acts_of_act rfl haon hd ((onWrite_accepts hacc).trans (writeInject_levelHigh hpulse (hkeeps.trans hlevel)))
  case degClear =>
    rintro p v w hacc rfl
    exact acts_of_act rfl haon hd (onWrite_accepts hacc)

/-! ### ERR# (R560 to R562) -/

/-- The pulse has run its width, and ERR# rises in pulse mode or when CLR was written in the pulse. -/
theorem doErrPulseEnd_rises {d : Dev} (hpulse : fbit d (A 2 0xC0) 28 = true) (hdue : d.flt.errEnd ≤ aT d)
    (hrise : fbit d (A 2 0xC0) 31 = false ∨ d.flt.errClr = true) : doErrPulseEnd d = errRise d.flt.errEnd d := by
  have hrise' : (!fbit d (A 2 0xC0) 31 || d.flt.errClr) = true := by
    rcases hrise with h | h <;> simp [h]
  simp only [doErrPulseEnd, hpulse, Nat.not_lt.mpr hdue, hrise', decide_false, Bool.not_true, Bool.or_self, Bool.false_eq_true, if_false,
    if_true]

/-- The pulse has run its width, and ERR# is held. -/
theorem doErrPulseEnd_holds {d : Dev} (hpulse : fbit d (A 2 0xC0) 28 = true) (hdue : d.flt.errEnd ≤ aT d)
    (hlevel : fbit d (A 2 0xC0) 31 = true) (hclr : d.flt.errClr = false) : doErrPulseEnd d = fset (A 2 0xC0) 28 1 0 d := by
  simp only [doErrPulseEnd, hpulse, Nat.not_lt.mpr hdue, hlevel, hclr, decide_false, Bool.not_true, Bool.or_self, Bool.false_eq_true, if_false]

/-- A write of ERR_CFG with CLR clears ERR# once the mode and the width are taken. -/
theorem writeErrCfg_clr {v w : Nat} {d t : Dev} (hw : w = v ||| 0x40000000)
    (ht : t = fset (A 2 0xC0) 31 1 (bits w 31 1)
      (if bits w 0 14 = 0 ∨ 10000 < bits w 0 14 then errNow d else fset (A 2 0xC0) 0 14 (bits w 0 14) (errNow d))) :
    writeErrCfg (v ||| 0x40000000) d = clearErr t := by
  subst ht hw
  simp only [writeErrCfg, bit_or30, onlyIf_true, Bool.or_eq_true, decide_eq_true_eq, gt_iff_lt]

/-- CLR in the held state raises ERR#. -/
theorem clearErr_held {d : Dev} (hpulse : fbit d (A 2 0xC0) 28 = false) (hheld : fbit d (A 2 0xC0) 29 = true) :
    clearErr d = errRise (aT d) d := by
  simp only [clearErr, hpulse, hheld, Bool.false_eq_true, if_false, if_true]

/-- A pending ERR falls once ERR# has been high for 100 ns. -/
theorem doErrReassert_due {m : Nat} {d : Dev} (hhigh : d.flt.errHigh = some m) (hpend : d.flt.errPend = true) (hdue : m + 160 ≤ aT d)
    (hup : fbit d (A 2 0xC0) 29 = false) : doErrReassert d = errFall (m + 160) d := by
  simp only [doErrReassert, hhigh]
  exact if_pos (by simp [hpend, hdue, hup])

/-! ### The release of Quench and the chip reset (R558, R566, R567) -/

/-- An accepted RELEASE makes every formatted state P and ends Quench. -/
theorem releaseQuench_accepted {t u : Dev} (hin : inQuench t = true) (hlive : quenchLive t = false)
    (hstop : (List.range 66).all (engStopped t) = true) (hacted : bit (actedAt t (aT t)).1 5 = false)
    (hu : u = lanesP (if t.flt.quenchPend then quenchPark (nowVs t) t else t)) :
    releaseQuench t = fset (A 2 0xC8) 31 1 0 { u with flt := { u.flt with rel := some (aT u) } } := by
  subst hu
  simp only [releaseQuench, hin, hlive, hstop, hacted, Bool.not_true, Bool.or_self, Bool.false_eq_true, if_false]

/-- A waiting chip reset acts once its record has committed or 64 µs have passed. -/
theorem doChipRst_due {i m : Nat} {done : Bool} {d : Dev} (hwait : d.flt.chipRst = some (i, m, done))
    (hdue : done = true ∨ m + 102400 ≤ aT d) : doChipRst d = chipReset 4 i d := by
  simp only [doChipRst, hwait]
  exact if_pos (by simpa using hdue)

/-- Settles O30: each command is the effect of its rule, under the conditions with which the rule applies. -/
theorem errQuenchAndChipResetCommandsAct : Obligations.ErrQuenchAndChipResetCommandsAct := by
  unfold Obligations.ErrQuenchAndChipResetCommandsAct
  intro dt s d haon hd
  refine ⟨?rises, ?holds, ?clrInPulse, ?clrHeld, ?reassert, ?release, ?chipRst⟩
  case rises => exact fun hpulse hdue hrise => acts_of_act rfl haon hd (doErrPulseEnd_rises hpulse hdue hrise)
  case holds => exact fun hpulse hdue hlevel hclr => acts_of_act rfl haon hd (doErrPulseEnd_holds hpulse hdue hlevel hclr)
  case clrInPulse =>
    exact fun p v w t hacc hw ht hpulse =>
      acts_of_act rfl haon hd ((onWrite_accepts hacc).trans ((writeErrCfg_clr hw ht).trans (if_pos hpulse)))
  case clrHeld =>
    exact fun p v w t hacc hw ht hpulse hheld =>
      acts_of_act rfl haon hd ((onWrite_accepts hacc).trans ((writeErrCfg_clr hw ht).trans (clearErr_held hpulse hheld)))
  case reassert => exact fun m hhigh hpend hdue hup => acts_of_act rfl haon hd (doErrReassert_due hhigh hpend hdue hup)
  case release =>
    intro p v t u hacc ht hin hlive hstop hacted hu
    refine acts_of_act rfl haon hd ((onWrite_accepts hacc).trans ?_)
    rw [writeQuench, bit_or30, onlyIf_true, ← ht, releaseQuench_accepted hin hlive hstop hacted hu]
  case chipRst => exact fun i m done hwait hdue => acts_of_act rfl haon hd (doChipRst_due hwait hdue)

end Sys2Proof.Machine
end

section
/-! Power domains, standby, the hour of operation and the engines of the non-volatile stores, and the statements about them (R578,
R581 to R583, R588, R594, R595, R597, R599, R613, R636). -/
namespace Sys2Proof.Machine

/-! ### Domains (R594, R595) -/

/-- A request that is in order and stops no work is stored, and its domains go down and come up. -/
theorem writeDomReq_allowed {v : Nat} {d : Dev} (hon : switchables.find? (onErr d v) = none) (hoff : switchables.find? (offErr d v) = none) :
    writeDomReq v d = bootSwitches (forAll (switchables.filter fun g => bit v g && !fbit d (A 5 0x84) g) closeSwitch
      (forAll (switchables.filter fun g => !bit v g) powerDown (plainWrite (A 5 0x84) v d))) := by
  simp only [writeDomReq, hon, hoff]

/-- POWER_GOOD in time turns the domain ON, and a bank that comes up outside a boot gets back what it held. -/
theorem doPowerGood_inTime {g : Fin 20} {d t : Dev} (hsw : d.sw.any (fun x => x.1 == g.val && decide (aT d ≤ x.2 + 32000)) = true)
    (ht : t = fset (A 5 0x88) g 1 1 { d with sw := d.sw.filter fun x => x.1 != g.val }) :
    doPowerGood g d = bootSwitches (onlyIf (!d.booting && decide (4 ≤ g.val) && decide (g.val < 12)) (bankAgain (g.val - 4)) t) := by
  subst ht
  exact if_neg (by simp only [Fin.toNat, hsw, Bool.not_true, Bool.false_eq_true, not_false_eq_true])

/-- A switch that stays without its POWER_GOOD is a PWR error, and in a boot leads to RECOVERY. -/
theorem doPowerGoodTimeout_due (nv : Nv) {g : Fin 20} {n m : Nat} {d t : Dev} (hsw : d.sw.find? (·.1 == g.val) = some (n, m))
    (hdue : m + 32000 ≤ aT d) (ht : t = raise 0x0D 13 (domErr 1 g { d with sw := d.sw.filter fun x => x.1 != g.val })) :
    doPowerGoodTimeout nv g d = if t.booting then recovery nv 3 t else t := by
  subst ht
  unfold doPowerGoodTimeout
  rw [show g.toNat = g.val from rfl, hsw]
  dsimp only
  rw [if_neg (Nat.not_lt.mpr hdue)]

/-! ### Standby and the hour of operation (R582, R583, R588, R597, R599) -/

/-- STANDBY with every engine stopped enters Quench and waits for the journal. -/
theorem writePwrCtl_standby (p : Path) {d : Dev} (hoff : d.standby = 0) (hstop : (List.range 66).all (engStopped d) = true) :
    writePwrCtl p 0x80000000 d = { quenchNow d with standby := 1 } := by
  have hwake : bit 0x80000000 30 = false := by decide
  have hask : bit 0x80000000 31 = true := by decide
  simp only [writePwrCtl, hwake, hask, Bool.false_and, onlyIf, Bool.false_eq_true, if_false, if_true, askStandby, hoff, hstop, ne_eq,
    not_true_eq_false, Bool.not_true]

/-- An hour of operation counts, places its record, and starts the count of SRAM errors afresh. -/
theorem doHourOfOperation_due {hi lo : BitVec 16} {d t u : Dev} (hdue : (d.hmk.hours + 1) * mcPerHour ≤ d.opMc)
    (ht : t = incSat (A 3 0x98) 0 32 1 { d with hmk := { d.hmk with hours := d.hmk.hours + 1 } })
    (hu : u = hmkQueue 5 3 0 (leBytes 4 (rdN t (A 3 0x9C)) ++ leBytes 4 (rdN t (A 3 0xA0)) ++ leBytes 4 (rdN t (A 3 0xA8)) ++
      leBytes 2 hi.toNat ++ leBytes 2 lo.toNat ++ leBytes 4 (rdN t (A 2 0xE8)) ++ leBytes 4 t.flt.sramHour) t) :
    doHourOfOperation hi lo d = if rdN u (A 2 0xE8) = 0 then { u with flt := { u.flt with sramHour := 0 } }
      else irqSet 2 4 (degEvent 0x10 0 { u with flt := { u.flt with sramHour := 0 } }) := by
  subst hu ht
  rw [doHourOfOperation, if_neg (Nat.not_lt.mpr hdue)]
  rfl

/-- Settles O31: each command is the effect of its rule, under the conditions with which the rule applies. -/
theorem domainAndStandbyCommandsAct : Obligations.DomainAndStandbyCommandsAct := by
  unfold Obligations.DomainAndStandbyCommandsAct
  intro dt s d haon hd
  refine ⟨?domReq, ?good, ?goodBank, ?timeout, ?standby, ?entered, ?wakeTimer, ?hour⟩
  case domReq => exact fun p v hacc hon hoff => acts_of_act rfl haon hd ((onWrite_accepts hacc).trans (writeDomReq_allowed hon hoff))
  case good =>
    intro g t hsw hother ht
    refine acts_of_act rfl haon hd ((doPowerGood_inTime hsw ht).trans ?_)
    have hbank : (!d.booting && decide (4 ≤ g.val) && decide (g.val < 12)) = false := by
      rcases hother with h | h | h
      · simp [h]
      · simp [Nat.not_le.mpr h]
      · simp [Nat.not_lt.mpr h]
    rw [hbank]
    rfl
  case goodBank =>
    intro g t hsw hboot hlo hhi ht
    refine acts_of_act rfl haon hd ((doPowerGood_inTime hsw ht).trans ?_)
    have hbank : (!d.booting && decide (4 ≤ g.val) && decide (g.val < 12)) = true := by simp [hboot, hlo, hhi]
    rw [hbank, onlyIf_true]
  case timeout =>
    exact fun g n m t hsw hdue ht =>
      acts_of_actNv (f := fun nv => doPowerGoodTimeout nv g) rfl haon hd (doPowerGoodTimeout_due s.nv hsw hdue ht)
  case standby => exact fun p hacc hoff hstop => acts_of_act rfl haon hd ((onWrite_accepts hacc).trans (writePwrCtl_standby p hoff hstop))
  case entered => exact fun hasked hempty => acts_of_act rfl haon hd (if_neg (by simp [hasked, hempty]))
  case wakeTimer => exact fun hin hen hdue => acts_of_act rfl haon hd (if_pos (by simp [hin, hen, hdue]))
  case hour => exact fun hi lo t u hdue ht hu => acts_of_act rfl haon hd (doHourOfOperation_due hdue ht hu)

/-! ### The engines of the stores (R578, R581, R613, R636) -/

section
variable {d t : Dev} {r : HmkRec} {rest : List HmkRec} {k : Nat} (hbusy : hmkBusy d = true) (hqueue : d.hmk.queue = r :: rest)
  (hk : k = fget d (A 3 0x84) 0 13)
include hbusy hqueue hk

/-- The writes of a commit whose first read-back fails: a torn slot, and the record or a second torn slot after it. -/
theorem commitNv_retried (x : List Byte) (b : Option (List Byte)) (nv : Nv) :
    commitNv (some x) b d nv = putSlot (slotAfter k) (b.elim (hmkBytes r (rd64 d (A 3 0x8C))) tornSlot) (putSlot k (tornSlot x) nv) := by
  subst hk
  cases b <;> simp [commitNv, hqueue, hbusy, commitPlan]

/-- A commit that verifies goes on after its slot. -/
theorem commitDev_verified (b : Option (List Byte)) (nv : Nv)
    (ht : t = wrN (A 3 0x84) (slotAfter k) (showHmk { d with hmk := { d.hmk with queue := rest } })) :
    commitDev none b nv d = recordKept nv r t := by
  subst ht hk
  simp [commitDev, hqueue, hbusy, commitPlan, onlyIf]

/-- A commit that verifies in the second slot raises the failure and goes on after that slot. -/
theorem commitDev_secondSlot (x : List Byte) (nv : Nv)
    (ht : t = raise 0xF3 0 (wrN (A 3 0x84) (slotAfter (slotAfter k)) (showHmk { d with hmk := { d.hmk with queue := rest } }))) :
    commitDev (some x) none nv d = recordKept nv r t := by
  subst ht hk
  simp [commitDev, hqueue, hbusy, commitPlan, onlyIf]

/-- A commit whose read-backs both fail loses its record. -/
theorem commitDev_lost (x y : List Byte) (nv : Nv) :
    commitDev (some x) (some y) nv d = hmkDropped
      (raise 0xF3 0 (wrN (A 3 0x84) (slotAfter (slotAfter k)) (showHmk { d with hmk := { d.hmk with queue := rest } }))) := by
  subst hk
  simp [commitDev, hqueue, hbusy, commitPlan, onlyIf]

end

/-- Settles O32: each engine's effect on the stores, and on the device as the stores then are. -/
theorem hallmarkAndFuseStoresAct : Obligations.HallmarkAndFuseStoresAct := by
  unfold Obligations.HallmarkAndFuseStoresAct
  intro dt s d haon hd
  refine ⟨?verified, ?secondSlot, ?lost, ?fuse, ?loss⟩
  case verified =>
    intro b2 r rest k bytes nv t hbusy hqueue hk hbytes hnv ht
    have hstores : nv = commitNv none b2 d s.nv := by rw [commitNv_verified b2 s.nv hbusy hqueue, hnv, hbytes, hk]
    rw [exec_hallmarkCommit, actStore_of_aon dt _ _ haon hd hstores, commitDev_verified hbusy hqueue hk b2 nv ht]
  case secondSlot =>
    intro x r rest k bytes nv t hbusy hqueue hk hbytes hnv ht
    have hstores : nv = commitNv (some x) none d s.nv := by rw [commitNv_retried hbusy hqueue hk x none s.nv, hnv, hbytes]; rfl
    rw [exec_hallmarkCommit, actStore_of_aon dt _ _ haon hd hstores, commitDev_secondSlot hbusy hqueue hk x nv ht]
  case lost =>
    intro x y r rest k nv hbusy hqueue hk hnv
    have hstores : nv = commitNv (some x) (some y) d s.nv := by rw [commitNv_retried hbusy hqueue hk x (some y) s.nv, hnv]; rfl
    rw [exec_hallmarkCommit, actStore_of_aon dt _ _ haon hd hstores, commitDev_lost hbusy hqueue hk x y nv]
  case fuse =>
    intro op slot val hash nv hfuse hnv
    have hstores : nv = fuseNv d s.nv := by rw [fuseNv, hfuse, hnv]
    have hdone : doFuseDone d = irqSet 4 4 (fset fuseRes 30 1 0 (hit fuseRes 31 { d with sec := { d.sec with fuse := none } })) :=
      if_neg (by simp [hfuse])
    rw [exec_fuseDone, actStore_of_aon dt _ _ haon hd hstores, hdone]
  case loss =>
    intro torn nv hnv hon
    have hoff : doAonSupplyLoss d = emit (.undriven none) (coldDev false (xspReset d)) := if_pos hon
    rw [exec_aonSupplyLoss, actStore_of_aon dt _ _ haon hd hnv, hoff]

end Sys2Proof.Machine
end

section
/-! The resets and the boot, and the statement about them (R488, R493, R514, R589, R601, R602, R604, R605, R609, R610, R616, R635). -/
namespace Sys2Proof.Machine

/-! ### The stages of a boot (R604, R605, R610) -/

/-- Stage SCAN completes. -/
theorem doBootStage_scan {nv : Nv} {d t : Dev} (hboot : d.booting = true) (hstage : bootStage d = 0)
    (ht : t = (if fbit d (A 3 0x80) 31 then d else hmkScan nv d)) :
    doBootStage nv .scan d = bootSwitches (fset (A 0 0xA4) 29 3 1 (incSat (A 3 0xA4) 0 32 1 (setReady 3 true t))) := by
  subst ht
  simp only [doBootStage, hboot, hstage, Bool.not_true, Bool.false_eq_true, if_false, ne_eq, not_true_eq_false, toStage]

/-- Stage CLOCKS completes once its domains are up. -/
theorem doBootStage_clocks {nv : Nv} {ext ocxo : Bool} {d : Dev} (hboot : d.booting = true) (hstage : bootStage d = 1)
    (hup : stageUp d = true) : doBootStage nv (.clocks ext ocxo) d = bootClocks ext ocxo d := by
  simp only [doBootStage, hboot, hstage, hup, Bool.not_true, ne_eq, not_true_eq_false, decide_false, Bool.or_self, Bool.false_eq_true, if_false]

/-- Stage IMAGE tries a slot. -/
theorem doBootStage_image {nv : Nv} {sfdp octal : Bool} {size : Fin 29} {mhz : BitVec 8} {err : Bool} {d : Dev} (hboot : d.booting = true)
    (hstage : bootStage d = 2) : doBootStage nv (.image sfdp octal size mhz err) d = bootImage nv sfdp octal size mhz.toNat err d := by
  simp only [doBootStage, hboot, hstage, Bool.not_true, ne_eq, not_true_eq_false, Bool.false_eq_true, if_false]

/-- Stage MEMORY completes once its domains are up. -/
theorem doBootStage_memory {nv : Nv} {dimms : List (Option Dimm)} {d : Dev} (hboot : d.booting = true) (hstage : bootStage d = 3)
    (hup : stageUp d = true) : doBootStage nv (.memory dimms) d = bootMemory nv dimms d := by
  simp only [doBootStage, hboot, hstage, hup, Bool.not_true, ne_eq, not_true_eq_false, decide_false, Bool.or_self, Bool.false_eq_true, if_false]

/-- Stage BLOCKS completes once its domains are up. -/
theorem doBootStage_blocks {nv : Nv} {d : Dev} (hboot : d.booting = true) (hstage : bootStage d = 4) (hup : stageUp d = true) :
    doBootStage nv .blocks d = bootBlocks nv d := by
  simp only [doBootStage, hboot, hstage, hup, Bool.not_true, ne_eq, not_true_eq_false, decide_false, Bool.or_self, Bool.false_eq_true, if_false]

/-- A flash with SFDP: the image of the slot in turn is accepted, or the other slot is tried, or the boot fails. -/
theorem bootImage_sfdp {nv : Nv} {octal : Bool} {size mhz : Nat} {err : Bool} {k c : Nat} {d t u : Dev} {img : Image}
    (ht : t = wrN (A xspPage 0x80) (b2n octal * 2 ^ 31 + size % 32 * 2 ^ 16 + mhz) d)
    (hk : k = (if t.sec.tried then 1 - fget t (A 4 0x84) 0 1 else fget t (A 4 0x84) 0 1)) (hc : c = imgCode nv t (slotBase k) err)
    (hu : u = fset (A 0 0xA4) (if k = 0 then 8 else 0) 8 c t) (himg : img = imgOf nv u k) :
    bootImage nv true octal size mhz err d = if c = 0 then
        toStage 3 (setReady xspPage true (fset (A 0 0xA4) 28 1 k { u with sec := { u.sec with image := some img }, fwBuild := img.build }))
      else if (raise 0xF2 0 u).sec.tried then recovery nv 1 (raise 0xF2 0 u)
      else { raise 0xF2 0 u with sec := { (raise 0xF2 0 u).sec with tried := true } } := by
  unfold bootImage
  rw [if_neg (by decide)]
  dsimp only
  rw [← ht, ← hk, ← hc, ← hu, ← himg]
  by_cases hok : c = 0
  · rw [if_neg (not_not_intro hok), if_pos hok]
  · rw [if_pos hok, if_neg hok]

/-- At most one channel is out, and the others are ready. -/
theorem bootMemory_inUse {nv : Nv} {dimms : List (Option Dimm)} {out use : List Nat} {d t : Dev}
    (hout : out = (List.range 8).filter (fun k => (mappedBy514 dimms).contains k || d.memOut.contains k)) (hone : out.length ≤ 1)
    (huse : use = (List.range 8).filter (fun k => !out.contains k)) (ht : t = forAll (List.range 8) (channelBoots dimms out) d) :
    bootMemory nv dimms d = toStage 4 (degMem (out.headD 0)
      (wrN (A 0x188 0xC4) (use.length * 2 ^ 8 + use.foldl (fun m k => m + 2 ^ k) 0) { t with memOut := out })) := by
  unfold bootMemory
  rw [← hout, if_neg (Nat.not_lt.mpr hone)]
  dsimp only
  rw [← huse, ← ht]

/-- What stage BLOCKS restores, shows and records. -/
theorem bootBlocks_eq {nv : Nv} {banks : List Nat} {part : Bool} {hash : Nat} {d t u x y : Dev}
    (hbanks : banks = (List.range 8).filter (fun b => domOn d (4 + b))) (ht : t = forAll banks restoreSpares (forAll banks loadCoefs d))
    (hu : (part, u) = (if bcalState t = 1 then bcalAll t else (false, t))) (hx : x = forAll banks bankReady u)
    (hhash : hash = (if bcalState t = 0 then 0 else (Config.sha384 (flashBytes t bcalBase 4224)).toNat))
    (hy : y = fset (A 0 0xA4) 26 2 (if bcalState t = 1 && part then 3 else bcalState t)
      { x with booting := false, sec := { x.sec with bcal := hash } }) :
    bootBlocks nv d = bootRecord nv (wrN (A 0 0xA8) (((y.aonT - y.bootT) * 64 + now y) / 1600)
      (setReady 0 true (fset (A 0 0xA4) 29 3 5 y))) := by
  unfold bootBlocks
  rw [← hbanks]
  dsimp only
  rw [← ht, ← hhash, ← hu]
  dsimp only
  rw [← hx, ← hy]

/-- Settles O34: each reset is the chip reset with its cause, and each stage of a boot ends as its rule says. -/
theorem resetAndBootCommandsAct : Obligations.ResetAndBootCommandsAct := by
  unfold Obligations.ResetAndBootCommandsAct
  intro dt s d haon hd
  refine ⟨?resetPin, ?chipReset, ?release, ?scan, ?clocks, ?image, ?noFlash, ?memory, ?blocks⟩
  case resetPin => exact fun hhigh => acts_of_act rfl haon hd (if_neg (by simp [hhigh]))
  case chipReset => exact fun p hacc => acts_of_act rfl haon hd (onWrite_accepts hacc)
  case release => exact fun hlow => acts_of_act rfl haon hd (if_pos hlow)
  case scan =>
    exact fun t hboot hstage ht => acts_of_actNv (f := fun nv => doBootStage nv .scan) rfl haon hd (doBootStage_scan hboot hstage ht)
  case clocks =>
    rintro ext ocxo t u hboot hstage hup rfl rfl
    exact acts_of_actNv (f := fun nv => doBootStage nv (.clocks ext ocxo)) rfl haon hd (doBootStage_clocks hboot hstage hup)
  case image =>
    intro octal size mhz err k c t u img hboot hstage ht hk hc hu himg
    exact acts_of_actNv (f := fun nv => doBootStage nv (.image true octal size mhz err)) rfl haon hd
      ((doBootStage_image hboot hstage).trans (bootImage_sfdp ht hk hc hu himg))
  case noFlash =>
    intro octal size mhz err hboot hstage
    exact acts_of_actNv (f := fun nv => doBootStage nv (.image false octal size mhz err)) rfl haon hd
      ((doBootStage_image hboot hstage).trans (if_pos (by decide)))
  case memory =>
    intro dimms out use t hboot hstage hup hout hone huse ht
    exact acts_of_actNv (f := fun nv => doBootStage nv (.memory dimms)) rfl haon hd
      ((doBootStage_memory hboot hstage hup).trans (bootMemory_inUse hout hone huse ht))
  case blocks =>
    intro banks t part u x hash y hboot hstage hup hbanks ht hu hx hhash hy
    exact acts_of_actNv (f := fun nv => doBootStage nv .blocks) rfl haon hd
      ((doBootStage_blocks hboot hstage hup).trans (bootBlocks_eq hbanks ht hu hx hhash hy))

end Sys2Proof.Machine
end

section
/-! The security block and JTAG, and the statement about them (R613, R618 to R623). -/
namespace Sys2Proof.Machine

/-! ### Fuses (R613) -/

/-- The word of a fuse row holds GO and the operation. -/
theorem fuseWord_fields {v op : Nat} (hop : op < 8) :
    bit (putBits v 28 4 (8 + op)) 31 = true ∧ bits (putBits v 28 4 (8 + op)) 28 3 = op := by
  have hfield := bits_putBits v 28 4 (8 + op)
  simp only [bit, bits, Nat.shiftRight_eq_div_pow, Nat.reducePow, beq_iff_eq] at hfield ⊢
  omega

/-- An operation that nothing refuses is in progress. -/
theorem writeFuse_starts {nv : Nv} {v op w : Nat} {d t : Dev} (hop : 0 < op) (hdef : op ≤ 3) (hw : w = putBits v 28 4 (8 + op))
    (ht : t = plainWrite fuseCtl w d) (hfree : t.sec.fuse = none) (hok : fuseErr nv t op (bits w 24 2) (bits w 0 7) = 0) :
    writeFuse w nv d = fset fuseRes 27 4 8 { t with sec := { t.sec with fuse := some (op, bits w 24 2, bits w 0 7, fuseData t) } } := by
  obtain ⟨hgo, hopw⟩ := fuseWord_fields (v := v) (op := op) (by omega)
  rw [← hw] at hgo hopw
  have hnone : (decide (op = 0) || decide (op > 3)) = false := by simp; omega
  unfold writeFuse
  rw [← ht, hopw]
  simp only [hgo, hfree, hok, hnone, Option.isSome_none, Bool.not_true, Bool.or_self, Bool.false_eq_true, if_false, ne_eq, not_true_eq_false]

/-! ### Assay and debug access (R618 to R622) -/

/-- GO takes the nonce once the boot has reached MEMORY and no report is being made. -/
theorem writeAssay_go {d t : Dev} (ht : t = plainWrite assayCtl 0x80000000 d) (hfree : t.sec.assay = none) (hstage : 3 ≤ bootStage t) :
    writeAssay 0x80000000 d = fset assayCtl 30 1 1
      { t with sec := { t.sec with assay := some ((List.range 8).map fun w => rd t (A 4 (0x100 + 4 * w))) } } := by
  have hgo : bit 0x80000000 31 = true := by decide
  unfold writeAssay
  rw [← ht]
  simp only [hgo, hfree, Nat.not_lt.mpr hstage, decide_false, Option.isSome_none, Bool.not_true, Bool.or_self, Bool.false_eq_true, if_false]

/-- The report in progress is written and shown. -/
theorem doAssayDone_report {nv : Nv} {nonce : List Word} {d t : Dev} (hassay : d.sec.assay = some nonce)
    (ht : t = secWindow 0x200 128 (assayReport nv nonce d) d) :
    doAssayDone nv d = irqSet 4 1 (fset assayCtl 30 1 0 (hit assayCtl 29 { t with sec := { t.sec with assay := none } })) := by
  unfold doAssayDone
  rw [hassay]
  dsimp only
  rw [← ht]

/-- The word of a SUBMIT holds neither NEW nor LOCK. -/
theorem dbgWord_fields (v : Nat) :
    bit (putBits v 29 3 2) 31 = false ∧ bit (putBits v 29 3 2) 30 = true ∧ bit (putBits v 29 3 2) 29 = false := by
  have hfield := bits_putBits v 29 3 2
  simp only [bit, bits, Nat.shiftRight_eq_div_pow, Nat.reducePow, Nat.reduceMod, beq_iff_eq, beq_eq_false_iff_ne] at hfield ⊢
  omega

/-- SUBMIT alone is the answer. -/
theorem writeDbg_submit {nv : Nv} {v w : Nat} {d t : Dev} (hw : w = putBits v 29 3 2) (ht : t = plainWrite dbgCtl w d) :
    writeDbg w nv d = dbgAnswer (bits w 24 2) (bits w 20 3) nv t := by
  subst ht hw
  obtain ⟨hnew, hsubmit, hlock⟩ := dbgWord_fields v
  simp only [writeDbg, hnew, hsubmit, hlock, onlyIf, Bool.false_eq_true, if_false, if_true]

/-- An answer that verifies takes its level, and another one counts. -/
theorem dbgAnswer_eq {nv : Nv} {lv sel : Nat} {key : List Byte} {ok : Bool} {t : Dev} (hleft : fget t dbgStat 26 2 ≠ 3)
    (hkey : key = (secBytes t 0x440 48).take 96)
    (hok : ok = (fbit t dbgStat 29 && (lv == 1 || lv == 2) && dbgKeyOk nv sel key &&
      Config.ecdsaVerify key (Config.sha384 (secBytes t 0x400 16 ++ leBytes 1 lv)) ((secBytes t 0x440 48).drop 96))) :
    dbgAnswer lv sel nv t = if ok then
        fset dbgStat 30 2 lv { fset dbgStat 29 1 0 t with sec := { t.sec with dbgMax := max t.sec.dbgMax lv } }
      else raise 0xF2 1 (irqSet 4 2 (incSat dbgStat 26 2 1 (hit dbgStat 28 (fset dbgStat 29 1 0 t)))) := by
  unfold dbgAnswer
  rw [if_neg hleft]
  dsimp only
  rw [← hkey, ← hok]
  rfl

/-! ### EXTEST (R623) -/

/-- Outside Quench every pair is driven as given. -/
theorem extestLanes_free (lanes : List (LaneId × Fin 3)) {d : Dev} (hout : inQuench d = false) :
    forAll lanes (fun x u => if inQuench u && x.2 != 2 then u else emit (.dl x.1 (nowVs u) (drvCode x.2)) u) d =
      forAll lanes (fun x u => emit (.dl x.1 (nowVs u) (drvCode x.2)) u) d := by
  induction lanes generalizing d with
  | nil => rfl
  | cons x xs ih =>
    rw [forAll_cons, forAll_cons, if_neg (by simp [hout])]
    exact ih hout

/-- In Quench only the pairs put in park are driven. -/
theorem extestLanes_quench (lanes : List (LaneId × Fin 3)) {d : Dev} (hin : inQuench d = true) :
    forAll lanes (fun x u => if inQuench u && x.2 != 2 then u else emit (.dl x.1 (nowVs u) (drvCode x.2)) u) d =
      forAll (lanes.filter (·.2 == 2)) (fun x u => emit (.dl x.1 (nowVs u) (drvCode x.2)) u) d := by
  induction lanes generalizing d with
  | nil => rfl
  | cons x xs ih =>
    by_cases hpark : x.2 = 2
    · rw [forAll_cons, if_neg (by simp [hpark]), List.filter_cons_of_pos (by simp [hpark]), forAll_cons]
      exact ih hin
    · rw [forAll_cons, if_pos (by simp [hin, hpark]), List.filter_cons_of_neg (by simp [hpark])]
      exact ih hin

/-- EXTEST outside Quench drives QUENCH# and the pairs as given. -/
theorem doExtest_free {quench : Option Bool} {lanes : List (LaneId × Fin 3)} {d t : Dev} (ht : t = { d with jtag := 3 })
    (hout : inQuench d = false) :
    doExtest quench lanes d = forAll lanes (fun x u => emit (.dl x.1 (nowVs u) (drvCode x.2)) u)
      (quench.elim t fun b => emit (.pin .quenchN b) t) := by
  subst ht
  cases quench with
  | none => exact extestLanes_free lanes hout
  | some b =>
    have hpin : (b && inQuench { d with jtag := 3 }) = false := by rw [show inQuench { d with jtag := 3 } = false from hout, Bool.and_false]
    simp only [doExtest, hpin, Bool.false_eq_true, if_false, Option.elim_some]
    exact extestLanes_free lanes hout

/-- EXTEST in Quench neither raises QUENCH# nor drives a pair out of park. -/
theorem doExtest_quench {quench : Option Bool} {lanes : List (LaneId × Fin 3)} {d t : Dev} (ht : t = { d with jtag := 3 })
    (hin : inQuench d = true) :
    doExtest quench lanes d = forAll (lanes.filter (·.2 == 2)) (fun x u => emit (.dl x.1 (nowVs u) (drvCode x.2)) u)
      (quench.elim t fun b => if b then t else emit (.pin .quenchN b) t) := by
  subst ht
  cases quench with
  | none => exact extestLanes_quench lanes hin
  | some b =>
    have hpin : (b && inQuench { d with jtag := 3 }) = b := by rw [show inQuench { d with jtag := 3 } = true from hin, Bool.and_true]
    simp only [doExtest, hpin, Option.elim_some]
    refine extestLanes_quench lanes ?_
    cases b <;> exact hin

/-- Settles O35: each command is the effect of its rule, under the conditions with which the rule applies. -/
theorem securityAndJtagCommandsAct : Obligations.SecurityAndJtagCommandsAct := by
  unfold Obligations.SecurityAndJtagCommandsAct
  intro dt s d haon hd
  refine ⟨?program, ?revoke, ?advance, ?assayGo, ?assayDone, ?dbgNew, ?dbgSubmit, ?dbgLock, ?bypass, ?idcode, ?sample, ?extestFree,
    ?extestQuench⟩
  case program =>
    rintro p v w t hacc rfl ht hfree hok
    exact acts_of_actNv rfl haon hd ((onWrite_accepts hacc).trans (writeFuse_starts (by decide) (by decide) rfl ht hfree hok))
  case revoke =>
    rintro p v w t hacc rfl ht hfree hok
    exact acts_of_actNv rfl haon hd ((onWrite_accepts hacc).trans (writeFuse_starts (by decide) (by decide) rfl ht hfree hok))
  case advance =>
    rintro p v w t hacc rfl ht hfree hok
    exact acts_of_actNv rfl haon hd ((onWrite_accepts hacc).trans (writeFuse_starts (by decide) (by decide) rfl ht hfree hok))
  case assayGo =>
    exact fun p t hacc ht hfree hstage => acts_of_act rfl haon hd ((onWrite_accepts hacc).trans (writeAssay_go ht hfree hstage))
  case assayDone => exact fun nonce t hassay ht => acts_of_actNv rfl haon hd (doAssayDone_report hassay ht)
  case dbgNew =>
    rintro p t hacc rfl
    exact acts_of_act rfl haon hd (onWrite_accepts hacc)
  case dbgSubmit =>
    rintro p v w lv t key ok hacc rfl ht rfl hleft hkey hok
    exact acts_of_actNv rfl haon hd ((onWrite_accepts hacc).trans ((writeDbg_submit rfl ht).trans (dbgAnswer_eq hleft hkey hok)))
  case dbgLock => exact fun p hacc => acts_of_act rfl haon hd (onWrite_accepts hacc)
  case bypass => exact fun tdi => acts_of_act rfl haon hd rfl
  case idcode => exact acts_of_act rfl haon hd rfl
  case sample => exact fun n => acts_of_act rfl haon hd rfl
  case extestFree => exact fun quench lanes t ht hout => acts_of_act rfl haon hd (doExtest_free ht hout)
  case extestQuench => exact fun quench lanes t ht hin => acts_of_act rfl haon hd (doExtest_quench ht hin)

end Sys2Proof.Machine
end
